-- ==== Sys2Proof/Word.lean ====
section
/-! DEFINITION. The word types: bytes, the 32-bit element and syllable, the 64-bit scalar, and the plainest helpers
on them. -/

namespace Sys2Proof

/-- One byte (R3). -/
abbrev Byte := BitVec 8
/-- A 16-bit code: a BF16, FP16, Q14 or LN16 element (R109). -/
abbrev W16 := BitVec 16
/-- A syllable (R127), a vector element (R96) or a flag (R308). -/
abbrev W32 := BitVec 32
/-- A scalar value (R92) or a CSR. -/
abbrev W64 := BitVec 64

end Sys2Proof
end

