-- ==== Sys2Proof/Config.lean ====
section
/-! DEFINITION. What the manual leaves to the part or to the world: free values with no body, so that nothing can be
proved of what they are, and the fixed figures of this part that more than one file uses. -/

namespace Sys2Proof.Config

/-- The free choice number n, which every order, arrival time and engine choice the rules leave open is taken from,
with `State.nonce` counting them (log 3). -/
opaque choice : Nat → Nat

/-- The corrected sample, i16 in 1/8 K, of a sensor at a TIME: stack, die (0 logic, 1 + p physical layer p), sensor
(R372; log 3). -/
opaque sensorReading : Nat → Nat → Nat → Nat → BitVec 16

/-- The supply of a stack at a TIME, in mV from its nominal value (R365, R374; log 3). -/
opaque supplyReading : Nat → Nat → Int

/-- The ECDSA signature of an attestation response's measurements, by the number of the response (R390; log 3). -/
opaque ecdsaSignature : List Nat → Nat → Nat
/-- The LMS signature of an attestation response's measurements, by the number of the signature (R390; log 3). -/
opaque lmsSignature : List Nat → Nat → Nat
/-- The measurements of the boot ROM, the firmware image and the factory table, by number 0 to 2 (R390; log 3). -/
opaque measured : Nat → Nat

/-- Whether the boot of the part found the firmware's signatures good (R387 step 1; log 3). -/
opaque firmwareOk : Bool

/-- What the boot test of a stack found, by stack: failed physical layers, logic die good, HBM trained, fabric up
(R387-R389; log 3). -/
opaque bootTest : Nat → BitVec 5 × Bool × Bool × Bool
/-- The k-rows and n-columns of a plane that failed at the factory or fail the boot test: stack, physical layer, plane
(R388; log 3). -/
opaque planeFails : Nat → Nat → Nat → Nat × Nat

/-- The package's own pod address, and the packages of its pod that fabric bring-up aligned with it (R386; log 3). -/
opaque podAddress : Nat
/-- The pod addresses whose routes are written and whose TIME is aligned (R386; log 3). -/
opaque podAligned : List Nat

/-- TIME of the package with the lowest pod address when this one's bring-up aligns with it (R386; log 3). -/
opaque alignedTime : Nat

/-- Pillars of the package (R15). -/
abbrev pillars : Nat := 128
/-- Stacks of the package (R10). -/
abbrev stks : Nat := 4

end Sys2Proof.Config
end

