-- ==== Sys2Proof/Syntax.lean ====
section
/-! DEFINITION. The syntax: one constructor of `Instr` for each row of the opcode table. A syllable's constructor
holds its guard and the fields the row gives it (R129, R132-R143), as the bits they are; an X syllable's two halves
are two instructions under one guard (R137). A row without an encoding is one of the part's indivisible events
(95_what_each_step_holds.md); which agent or object it is of stands in the state (`State.who`), as the syllables'
sequencer does (`State.cur`). -/

namespace Sys2Proof

/-- The header's predicate: PS selects c0-c15, PN the sense (R129). -/
structure Guard where
  ps : BitVec 4
  pn : BitVec 1
deriving DecidableEq, Repr

/-- The guard of a syllable that always executes: PS 0, PN 0 (R129). -/
def Guard.always : Guard := ⟨0, 0⟩

/-- The eight slots of a long word, numbered as R127 numbers them. -/
inductive Slot where
  | s0 | s1 | m | x | v | f | c | y
deriving DecidableEq, Repr

/-- The slot's number (R127). -/
def Slot.num : Slot → Nat
  | .s0 => 0 | .s1 => 1 | .m => 2 | .x => 3 | .v => 4 | .f => 5 | .c => 6 | .y => 7

/-- The eight slots in slot order (R127). -/
def Slot.all : List Slot := [.s0, .s1, .m, .x, .v, .f, .c, .y]

/-- Every instruction: the 215 syllables and the 87 events of the opcode table, in the table's order. -/
inductive Instr where
  /-- `NOP` (R130). A syllable with opcode 0 in any slot does nothing except take part in its long word's issue. -/
  | nop (g : Guard)
  /-- `ADD` (R176). Adds two 64-bit scalars modulo 2^64. -/
  | add (g : Guard) (d : BitVec 5) (a : BitVec 5) (b : BitVec 5)
  /-- `SUB` (R176). Subtracts two 64-bit scalars modulo 2^64. -/
  | sub (g : Guard) (d : BitVec 5) (a : BitVec 5) (b : BitVec 5)
  /-- `ADDI` (R176). Adds a sign-extended 10-bit immediate to a scalar. -/
  | addi (g : Guard) (d : BitVec 5) (a : BitVec 5) (i : BitVec 10)
  /-- `MUL` (R176). Multiplies two scalars and keeps the low 64 bits. -/
  | mul (g : Guard) (d : BitVec 5) (a : BitVec 5) (b : BitVec 5)
  /-- `MULH` (R176). Returns the high 64 bits of the signed 128-bit product. -/
  | mulh (g : Guard) (d : BitVec 5) (a : BitVec 5) (b : BitVec 5)
  /-- `MULHN` (R176). Returns the high 64 bits of the unsigned 128-bit product. -/
  | mulhn (g : Guard) (d : BitVec 5) (a : BitVec 5) (b : BitVec 5)
  /-- `DIV` (R177). Signed division truncating toward zero, which never traps. -/
  | div (g : Guard) (d : BitVec 5) (a : BitVec 5) (b : BitVec 5)
  /-- `DIVN` (R177). Unsigned division, giving all ones on a zero divisor. -/
  | divn (g : Guard) (d : BitVec 5) (a : BitVec 5) (b : BitVec 5)
  /-- `REM` (R177). Signed remainder, which takes the sign of the dividend. -/
  | rem (g : Guard) (d : BitVec 5) (a : BitVec 5) (b : BitVec 5)
  /-- `REMN` (R177). Unsigned remainder. -/
  | remn (g : Guard) (d : BitVec 5) (a : BitVec 5) (b : BitVec 5)
  /-- `AND` (R176). Bitwise AND of two scalars. -/
  | andOp (g : Guard) (d : BitVec 5) (a : BitVec 5) (b : BitVec 5)
  /-- `OR` (R176). Bitwise OR of two scalars. -/
  | orOp (g : Guard) (d : BitVec 5) (a : BitVec 5) (b : BitVec 5)
  /-- `XOR` (R176). Bitwise XOR of two scalars. -/
  | xorOp (g : Guard) (d : BitVec 5) (a : BitVec 5) (b : BitVec 5)
  /-- `ANDI` (R176). AND with a sign-extended immediate. -/
  | andi (g : Guard) (d : BitVec 5) (a : BitVec 5) (i : BitVec 10)
  /-- `ORI` (R176). OR with a sign-extended immediate. -/
  | ori (g : Guard) (d : BitVec 5) (a : BitVec 5) (i : BitVec 10)
  /-- `XORI` (R176). XOR with a sign-extended immediate. -/
  | xori (g : Guard) (d : BitVec 5) (a : BitVec 5) (i : BitVec 10)
  /-- `SHL` (R176). Shifts left by B[5:0]. -/
  | shl (g : Guard) (d : BitVec 5) (a : BitVec 5) (b : BitVec 5)
  /-- `SHR` (R176). Logical shift right by B[5:0]. -/
  | shr (g : Guard) (d : BitVec 5) (a : BitVec 5) (b : BitVec 5)
  /-- `SAR` (R176). Arithmetic shift right by B[5:0]. -/
  | sar (g : Guard) (d : BitVec 5) (a : BitVec 5) (b : BitVec 5)
  /-- `SHLI` (R176). Shifts left by an immediate count. -/
  | shli (g : Guard) (d : BitVec 5) (a : BitVec 5) (i : BitVec 6)
  /-- `SHRI` (R176). Logical shift right by an immediate count. -/
  | shri (g : Guard) (d : BitVec 5) (a : BitVec 5) (i : BitVec 6)
  /-- `SARI` (R176). Arithmetic shift right by an immediate count. -/
  | sari (g : Guard) (d : BitVec 5) (a : BitVec 5) (i : BitVec 6)
  /-- `ROTL` (R176). Rotates a scalar left by B[5:0]. -/
  | rotl (g : Guard) (d : BitVec 5) (a : BitVec 5) (b : BitVec 5)
  /-- `MIN` (R176). Signed minimum of two scalars. -/
  | minOp (g : Guard) (d : BitVec 5) (a : BitVec 5) (b : BitVec 5)
  /-- `MAX` (R176). Signed maximum of two scalars. -/
  | maxOp (g : Guard) (d : BitVec 5) (a : BitVec 5) (b : BitVec 5)
  /-- `MINN` (R176). Unsigned minimum of two scalars. -/
  | minn (g : Guard) (d : BitVec 5) (a : BitVec 5) (b : BitVec 5)
  /-- `MAXN` (R176). Unsigned maximum of two scalars. -/
  | maxn (g : Guard) (d : BitVec 5) (a : BitVec 5) (b : BitVec 5)
  /-- `CMPEQ` (R180). Sets a scalar predicate to A = B. -/
  | cmpeq (g : Guard) (k : BitVec 4) (a : BitVec 5) (b : BitVec 5)
  /-- `CMPNE` (R180). Sets a scalar predicate to A != B. -/
  | cmpne (g : Guard) (k : BitVec 4) (a : BitVec 5) (b : BitVec 5)
  /-- `CMPLT` (R180). Sets a scalar predicate to signed A < B. -/
  | cmplt (g : Guard) (k : BitVec 4) (a : BitVec 5) (b : BitVec 5)
  /-- `CMPLE` (R180). Sets a scalar predicate to signed A <= B. -/
  | cmple (g : Guard) (k : BitVec 4) (a : BitVec 5) (b : BitVec 5)
  /-- `CMPLTN` (R180). Sets a scalar predicate to unsigned A < B. -/
  | cmpltn (g : Guard) (k : BitVec 4) (a : BitVec 5) (b : BitVec 5)
  /-- `CMPLEN` (R180). Sets a scalar predicate to unsigned A <= B. -/
  | cmplen (g : Guard) (k : BitVec 4) (a : BitVec 5) (b : BitVec 5)
  /-- `CMPEQI` (R180). Sets a scalar predicate to A equal to a sign-extended immediate. -/
  | cmpeqi (g : Guard) (k : BitVec 4) (a : BitVec 5) (i : BitVec 10)
  /-- `CMPLTI` (R180). Sets a scalar predicate to signed A less than a sign-extended immediate. -/
  | cmplti (g : Guard) (k : BitVec 4) (a : BitVec 5) (i : BitVec 10)
  /-- `SEL` (R179). Selects A or B by a scalar predicate. -/
  | sel (g : Guard) (d : BitVec 5) (a : BitVec 5) (b : BitVec 5) (k : BitVec 4)
  /-- `BFX` (R178). Extracts a bit field, zero-extended. -/
  | bfx (g : Guard) (d : BitVec 5) (a : BitVec 5) (b : BitVec 5)
  /-- `BFXS` (R178). Extracts a bit field, sign-extended. -/
  | bfxs (g : Guard) (d : BitVec 5) (a : BitVec 5) (b : BitVec 5)
  /-- `BFI` (R178). Inserts a bit field of B into A under a control operand. -/
  | bfi (g : Guard) (d : BitVec 5) (a : BitVec 5) (b : BitVec 5) (m : BitVec 5)
  /-- `CLZ` (R176). Counts the leading zero bits of a scalar. -/
  | clz (g : Guard) (d : BitVec 5) (a : BitVec 5)
  /-- `CTZ` (R176). Counts the trailing zero bits of a scalar. -/
  | ctz (g : Guard) (d : BitVec 5) (a : BitVec 5)
  /-- `POPC` (R176). Counts the one bits of a scalar. -/
  | popc (g : Guard) (d : BitVec 5) (a : BitVec 5)
  /-- `BSWAP` (R176). Reverses the byte order of a scalar. -/
  | bswap (g : Guard) (d : BitVec 5) (a : BitVec 5)
  /-- `LI` (R179). Loads a sign-extended 15-bit immediate. -/
  | li (g : Guard) (d : BitVec 5) (i : BitVec 15)
  /-- `LIH` (R179). Shifts A left by 10 and ORs in a 10-bit immediate. -/
  | lih (g : Guard) (d : BitVec 5) (a : BitVec 5) (i : BitVec 10)
  /-- `MOV` (R176). Copies a scalar. -/
  | mov (g : Guard) (d : BitVec 5) (a : BitVec 5)
  /-- `ADDX` (R176). Adds B shifted left by 0 to 7 bits to A. -/
  | addx (g : Guard) (d : BitVec 5) (a : BitVec 5) (b : BitVec 5) (s : BitVec 3)
  /-- `CAND` (R181). ANDs two scalar predicates. -/
  | cand (g : Guard) (k : BitVec 4) (x : BitVec 4) (y : BitVec 4)
  /-- `COR` (R181). ORs two scalar predicates. -/
  | cor (g : Guard) (k : BitVec 4) (x : BitVec 4) (y : BitVec 4)
  /-- `CXOR` (R181). XORs two scalar predicates. -/
  | cxor (g : Guard) (k : BitVec 4) (x : BitVec 4) (y : BitVec 4)
  /-- `CNOT` (R181). Inverts a scalar predicate. -/
  | cnot (g : Guard) (k : BitVec 4) (x : BitVec 4)
  /-- `TIME` (R182). Reads the package TIME counter in the issue ic. -/
  | time (g : Guard) (d : BitVec 5)
  /-- `CYC` (R182). Reads the pillar's issue-cycle count. -/
  | cyc (g : Guard) (d : BitVec 5)
  /-- `CSRR` (R183). Reads a CSR. -/
  | csrr (g : Guard) (d : BitVec 5) (s : BitVec 10)
  /-- `CSRW` (R183). Writes a CSR and returns its old value; the write takes effect 2 ic later. -/
  | csrw (g : Guard) (d : BitVec 5) (a : BitVec 5) (s : BitVec 10)
  /-- `CSRS` (R183). Sets CSR bits and returns the old value. -/
  | csrs (g : Guard) (d : BitVec 5) (a : BitVec 5) (s : BitVec 10)
  /-- `CSRC` (R183). Clears CSR bits and returns the old value. -/
  | csrc (g : Guard) (d : BitVec 5) (a : BitVec 5) (s : BitVec 10)
  /-- `FADR` (R179). Forms a frame address from a frame number and an offset. -/
  | fadr (g : Guard) (d : BitVec 5) (a : BitVec 5) (f : BitVec 6)
  /-- `BR` (R185). Relative branch with one delay long word. -/
  | br (g : Guard) (i : BitVec 20)
  /-- `BRI` (R185). Indirect branch with one delay long word; RET is this instruction with a source operand. -/
  | bri (g : Guard) (a : BitVec 5)
  /-- `CALL` (R185). Relative call that pushes the return address. -/
  | call (g : Guard) (i : BitVec 20)
  /-- `CALLI` (R185). Indirect call that writes the return address to D. -/
  | calli (g : Guard) (d : BitVec 5) (a : BitVec 5)
  /-- `LOOP` (R187). Enters a hardware loop whose count comes from a register. -/
  | loop (g : Guard) (a : BitVec 5) (r : BitVec 1) (e : BitVec 9)
  /-- `LOOPI` (R187). Enters a hardware loop whose count is an immediate. -/
  | loopi (g : Guard) (k : BitVec 10) (r : BitVec 1) (e : BitVec 9)
  /-- `LBREAK` (R189). Pops the innermost loop entry and performs end_check on the entries that remain. -/
  | lbreak (g : Guard)
  /-- `LIDX` (R190). Reads the index of the loop entry at a given level. -/
  | lidx (g : Guard) (d : BitVec 5) (l : BitVec 3)
  /-- `TRAP` (R191). Traps with cause SYSCALL and EINFO bit 15 set. -/
  | trap (g : Guard) (i : BitVec 15)
  /-- `SYSCALL` (R191). Traps with cause SYSCALL. -/
  | syscall (g : Guard) (i : BitVec 15)
  /-- `ERET` (R192). Returns from a trap and replays the snapshot latch bank. -/
  | eret (g : Guard)
  /-- `BKPT` (R191). Traps with cause BKPT. -/
  | bkpt (g : Guard)
  /-- `DONE` (R194). Ends the iteration: stops fetching and waits for pending work, or abandons the iteration when
  issued in supervisor mode. -/
  | done (g : Guard)
  /-- `PMARK` (R195). Marks an iteration boundary. -/
  | pmark (g : Guard)
  /-- `CROPEN` (R196). Opens a containment region and snapshots the scalar state. -/
  | cropen (g : Guard) (a : BitVec 5) (o : BitVec 2)
  /-- `CRCLOSE` (R197). Closes the innermost eligible region. -/
  | crclose (g : Guard)
  /-- `CHKERR` (R198). Delivers a recorded async fault, or unwinds on poison. -/
  | chkerr (g : Guard)
  /-- `WAITEV` (R199). Is held until an event or a deadline, then clears the event latch. -/
  | waitev (g : Guard) (a : BitVec 5)
  /-- `FENCEI` (R200). Discards the pillar's instruction cache and the long words fetched ahead. -/
  | fencei (g : Guard)
  /-- `HALT` (R193). Stops the sequencer until package reset; supervisor only. -/
  | halt (g : Guard)
  /-- `LD` (R260). Loads 1 to 16 bytes from a frame. -/
  | ld (g : Guard) (d : BitVec 5) (a : BitVec 5) (w : BitVec 3) (s : BitVec 1) (t : BitVec 1) (i : BitVec 5)
  /-- `ST` (R260). Stores 1 to 16 bytes to a frame. -/
  | st (g : Guard) (d : BitVec 5) (a : BitVec 5) (w : BitVec 3) (t : BitVec 1) (i : BitVec 5)
  /-- `LDAQ` (R260). Load with pil-scope acquire, identical in effect to LD. -/
  | ldaq (g : Guard) (d : BitVec 5) (a : BitVec 5) (w : BitVec 3) (s : BitVec 1) (t : BitVec 1) (i : BitVec 5)
  /-- `STRL` (R260). Store with pil-scope release, identical in effect to ST. -/
  | strl (g : Guard) (d : BitVec 5) (a : BitVec 5) (w : BitVec 3) (t : BitVec 1) (i : BitVec 5)
  /-- `LDV` (R261). Loads a whole vector register from a frame. -/
  | ldv (g : Guard) (v : BitVec 5) (f : BitVec 6) (a : BitVec 5) (w : BitVec 2)
  /-- `STV` (R261). Stores a whole vector register to a frame. -/
  | stv (g : Guard) (v : BitVec 5) (f : BitVec 6) (a : BitVec 5) (w : BitVec 2)
  /-- `LDVT` (R261). Loads a vector register transposed from a 64x16 image. -/
  | ldvt (g : Guard) (v : BitVec 5) (f : BitVec 6) (a : BitVec 5) (w : BitVec 2)
  /-- `LDVR` (R261). Loads one row of a vector register. -/
  | ldvr (g : Guard) (v : BitVec 5) (f : BitVec 6) (a : BitVec 5) (w : BitVec 2)
  /-- `STVR` (R261). Stores one row of a vector register. -/
  | stvr (g : Guard) (v : BitVec 5) (f : BitVec 6) (a : BitVec 5) (w : BitVec 2)
  /-- `LDVB` (R261). Broadcasts one frame element to every element of a register. -/
  | ldvb (g : Guard) (v : BitVec 5) (f : BitVec 6) (a : BitVec 5) (w : BitVec 2)
  /-- `LDVX` (R262). Indexed gather of words from a frame into a vector register. -/
  | ldvx (g : Guard) (v : BitVec 5) (f : BitVec 6) (x : BitVec 5)
  /-- `STVX` (R262). Indexed scatter of a vector register into a frame. -/
  | stvx (g : Guard) (v : BitVec 5) (f : BitVec 6) (x : BitVec 5)
  /-- `ATOM` (R263). Atomic read-modify-write of a frame doubleword. -/
  | atom (g : Guard) (d : BitVec 5) (a : BitVec 5) (b : BitVec 5) (o : BitVec 4)
  /-- `CAS` (R263). Atomic compare-and-swap of a frame doubleword. -/
  | cas (g : Guard) (d : BitVec 5) (a : BitVec 5) (b : BitVec 5)
  /-- `FENCE` (R246). Orders the selected kinds of access at a scope. -/
  | fence (g : Guard) (k : BitVec 7) (sc : BitVec 3)
  /-- `LDP` (R261). Loads a vector predicate from a frame. -/
  | ldp (g : Guard) (v : BitVec 5) (f : BitVec 6) (a : BitVec 5)
  /-- `STP` (R261). Stores a vector predicate to a frame. -/
  | stp (g : Guard) (v : BitVec 5) (f : BitVec 6) (a : BitVec 5)
  /-- `FALLOC` (R266). Allocates an EMPTY frame as FILLING and starts zeroing it. -/
  | falloc (g : Guard) (f : BitVec 6) (a : BitVec 5) (b : BitVec 5) (t : BitVec 1)
  /-- `FFREE` (R267). Frees a READY frame to EMPTY. -/
  | ffree (g : Guard) (f : BitVec 6)
  /-- `FRENEW` (R268). Explicitly renews a frame and sets its expiry. -/
  | frenew (g : Guard) (f : BitVec 6) (a : BitVec 5)
  /-- `FSTAT` (R270). Pushes a frame's status, expiry or lifetime. -/
  | fstat (g : Guard) (f : BitVec 6) (t : BitVec 2)
  /-- `FSETX` (R269). Re-arms a READY frame for a new fill or changes its lifetime. -/
  | fsetx (g : Guard) (f : BitVec 6) (a : BitVec 5) (b : BitVec 5) (t : BitVec 1)
  /-- `XSVE` (R217). Writes a scalar into the vector element at position W. -/
  | xsve (g : Guard) (tgt : BitVec 5) (src : BitVec 5) (wi : BitVec 1)
  /-- `XSVR` (R217). Writes a scalar across row WROW of a vector register. -/
  | xsvr (g : Guard) (tgt : BitVec 5) (src : BitVec 5) (wi : BitVec 1)
  /-- `XSVA` (R217). Writes a scalar into an accumulator element. -/
  | xsva (g : Guard) (tgt : BitVec 5) (src : BitVec 5) (wi : BitVec 1)
  /-- `XSPR` (R217). Writes 64 scalar bits into row WROW of a vector predicate. -/
  | xspr (g : Guard) (tgt : BitVec 5) (src : BitVec 5) (wi : BitVec 1)
  /-- `XSN` (R217). Writes one norm of a norm file. -/
  | xsn (g : Guard) (tgt : BitVec 5) (src : BitVec 5) (wi : BitVec 1)
  /-- `XVSE` (R217). Pushes the vector element at position R. -/
  | xvse (g : Guard) (vsrc : BitVec 5) (ri : BitVec 1)
  /-- `XPSA` (R217). Pushes 1 if any bit of a predicate is set. -/
  | xpsa (g : Guard) (vsrc : BitVec 5) (ri : BitVec 1)
  /-- `XPSC` (R217). Pushes the count of set bits of a predicate. -/
  | xpsc (g : Guard) (vsrc : BitVec 5) (ri : BitVec 1)
  /-- `XPSR` (R217). Pushes row RROW of a predicate. -/
  | xpsr (g : Guard) (vsrc : BitVec 5) (ri : BitVec 1)
  /-- `XNS` (R217). Pushes one norm, sign-extended. -/
  | xns (g : Guard) (vsrc : BitVec 5) (ri : BitVec 1)
  /-- `VADD` (R206). FP32 elementwise add. -/
  | vadd (g : Guard) (d : BitVec 5) (a : BitVec 5) (b : BitVec 5) (h : BitVec 2) (m : BitVec 3)
  /-- `VSUB` (R206). FP32 elementwise subtract. -/
  | vsub (g : Guard) (d : BitVec 5) (a : BitVec 5) (b : BitVec 5) (h : BitVec 2) (m : BitVec 3)
  /-- `VMUL` (R206). FP32 elementwise multiply. -/
  | vmul (g : Guard) (d : BitVec 5) (a : BitVec 5) (b : BitVec 5) (h : BitVec 2) (m : BitVec 3)
  /-- `VFMA` (R206). FP32 fused multiply-add with a single rounding. -/
  | vfma (g : Guard) (d : BitVec 5) (a : BitVec 5) (b : BitVec 5) (h : BitVec 2) (m : BitVec 3)
  /-- `VFMS` (R206). FP32 fused multiply-subtract with a single rounding. -/
  | vfms (g : Guard) (d : BitVec 5) (a : BitVec 5) (b : BitVec 5) (h : BitVec 2) (m : BitVec 3)
  /-- `VMIN` (R206). FP32 elementwise minimum. -/
  | vmin (g : Guard) (d : BitVec 5) (a : BitVec 5) (b : BitVec 5) (h : BitVec 2) (m : BitVec 3)
  /-- `VMAX` (R206). FP32 elementwise maximum. -/
  | vmax (g : Guard) (d : BitVec 5) (a : BitVec 5) (b : BitVec 5) (h : BitVec 2) (m : BitVec 3)
  /-- `VABS` (R206). FP32 absolute value. -/
  | vabs (g : Guard) (d : BitVec 5) (a : BitVec 5) (h : BitVec 2) (m : BitVec 3)
  /-- `VNEG` (R206). FP32 negation. -/
  | vneg (g : Guard) (d : BitVec 5) (a : BitVec 5) (h : BitVec 2) (m : BitVec 3)
  /-- `VCMP` (R209). FP32 compare into a vector predicate. -/
  | vcmp (g : Guard) (d : BitVec 3) (c : BitVec 3) (a : BitVec 5) (b : BitVec 5) (m : BitVec 3)
  /-- `VSEL` (R211). Selects elements of A or B by a predicate. -/
  | vsel (g : Guard) (d : BitVec 5) (a : BitVec 5) (b : BitVec 5) (h : BitVec 2) (m : BitVec 3)
  /-- `VIADD` (R207). 32-bit integer add. -/
  | viadd (g : Guard) (d : BitVec 5) (a : BitVec 5) (b : BitVec 5) (h : BitVec 2) (m : BitVec 3)
  /-- `VISUB` (R207). 32-bit integer subtract. -/
  | visub (g : Guard) (d : BitVec 5) (a : BitVec 5) (b : BitVec 5) (h : BitVec 2) (m : BitVec 3)
  /-- `VIMUL` (R207). 32-bit integer multiply, low bits. -/
  | vimul (g : Guard) (d : BitVec 5) (a : BitVec 5) (b : BitVec 5) (h : BitVec 2) (m : BitVec 3)
  /-- `VADDW` (R208). Adds a widened narrow sub-element into a 32-bit element. -/
  | vaddw (g : Guard) (d : BitVec 5) (a : BitVec 5) (b : BitVec 5) (h : BitVec 2) (m : BitVec 3)
  /-- `VIADDS` (R207). Saturating signed 32-bit add. -/
  | viadds (g : Guard) (d : BitVec 5) (a : BitVec 5) (b : BitVec 5) (h : BitVec 2) (m : BitVec 3)
  /-- `VAND` (R207). Bitwise AND of elements. -/
  | vand (g : Guard) (d : BitVec 5) (a : BitVec 5) (b : BitVec 5) (h : BitVec 2) (m : BitVec 3)
  /-- `VOR` (R207). Bitwise OR of elements. -/
  | vor (g : Guard) (d : BitVec 5) (a : BitVec 5) (b : BitVec 5) (h : BitVec 2) (m : BitVec 3)
  /-- `VXOR` (R207). Bitwise XOR of elements. -/
  | vxor (g : Guard) (d : BitVec 5) (a : BitVec 5) (b : BitVec 5) (h : BitVec 2) (m : BitVec 3)
  /-- `VSHL` (R207). Elementwise shift left. -/
  | vshl (g : Guard) (d : BitVec 5) (a : BitVec 5) (b : BitVec 5) (h : BitVec 2) (m : BitVec 3)
  /-- `VSHR` (R207). Elementwise logical shift right. -/
  | vshr (g : Guard) (d : BitVec 5) (a : BitVec 5) (b : BitVec 5) (h : BitVec 2) (m : BitVec 3)
  /-- `VSAR` (R207). Elementwise arithmetic shift right. -/
  | vsar (g : Guard) (d : BitVec 5) (a : BitVec 5) (b : BitVec 5) (h : BitVec 2) (m : BitVec 3)
  /-- `VIMIN` (R207). Signed 32-bit minimum. -/
  | vimin (g : Guard) (d : BitVec 5) (a : BitVec 5) (b : BitVec 5) (h : BitVec 2) (m : BitVec 3)
  /-- `VIMAX` (R207). Signed 32-bit maximum. -/
  | vimax (g : Guard) (d : BitVec 5) (a : BitVec 5) (b : BitVec 5) (h : BitVec 2) (m : BitVec 3)
  /-- `VICMP` (R209). Signed integer compare into a vector predicate. -/
  | vicmp (g : Guard) (d : BitVec 3) (c : BitVec 3) (a : BitVec 5) (b : BitVec 5) (m : BitVec 3)
  /-- `VCVT` (R212). Converts every element between formats under an overflow policy. -/
  | vcvt (g : Guard) (d : BitVec 5) (a : BitVec 5) (f : BitVec 4) (t : BitVec 4) (o : BitVec 2)
  /-- `VPACK` (R213). Packs a value into one sub-element of D. -/
  | vpack (g : Guard) (d : BitVec 5) (a : BitVec 5) (b : BitVec 5) (h : BitVec 2) (m : BitVec 3)
  /-- `VUNPK` (R213). Unpacks one sub-element into whole elements. -/
  | vunpk (g : Guard) (d : BitVec 5) (a : BitVec 5) (b : BitVec 5) (h : BitVec 2) (m : BitVec 3)
  /-- `VMOV` (R211). Copies a vector register. -/
  | vmov (g : Guard) (d : BitVec 5) (a : BitVec 5) (h : BitVec 2) (m : BitVec 3)
  /-- `VLI` (R211). Loads a sign-extended integer immediate into every element. -/
  | vli (g : Guard) (d : BitVec 5) (i : BitVec 13)
  /-- `VLI.F` (R211). Loads a short FP32 immediate into every element. -/
  | vliF (g : Guard) (d : BitVec 5) (i : BitVec 13)
  /-- `VACC` (R214). Writes or adds a vector into an accumulator tile or its side-area. -/
  | vacc (g : Guard) (v : BitVec 5) (a : BitVec 3) (c : BitVec 1) (s : BitVec 1) (m : BitVec 3)
  /-- `VDRAIN` (R215). Reads an accumulator tile or its side-area into a vector, optionally clearing it. -/
  | vdrain (g : Guard) (v : BitVec 5) (a : BitVec 3) (c : BitVec 1) (s : BitVec 1) (m : BitVec 3)
  /-- `VPERM` (R211). Permutes the elements of A by indices held in B. -/
  | vperm (g : Guard) (d : BitVec 5) (a : BitVec 5) (b : BitVec 5) (h : BitVec 2) (m : BitVec 3)
  /-- `VIOTA` (R211). Writes each element's linear position into that element. -/
  | viota (g : Guard) (d : BitVec 5) (m : BitVec 3)
  /-- `VPAND` (R210). ANDs two vector predicates. -/
  | vpand (g : Guard) (d : BitVec 3) (a : BitVec 3) (b : BitVec 3)
  /-- `VPOR` (R210). ORs two vector predicates. -/
  | vpor (g : Guard) (d : BitVec 3) (a : BitVec 3) (b : BitVec 3)
  /-- `VPXOR` (R210). XORs two vector predicates. -/
  | vpxor (g : Guard) (d : BitVec 3) (a : BitVec 3) (b : BitVec 3)
  /-- `VPNOT` (R210). Inverts a vector predicate. -/
  | vpnot (g : Guard) (d : BitVec 3) (a : BitVec 3)
  /-- `DFROMV` (R232). Forms direction rows and norms from FP32 vector rows by renormalisation. -/
  | dfromv (g : Guard) (d : BitVec 3) (x : BitVec 5)
  /-- `DTOV` (R233). Reads direction components out as exact FP32 values. -/
  | dtov (g : Guard) (a : BitVec 3) (x : BitVec 5)
  /-- `DTOV.N` (R233). Reads directions out scaled by their norms. -/
  | dtovN (g : Guard) (a : BitVec 3) (x : BitVec 5)
  /-- `DADD` (R232). Adds the vectors that two direction rows represent and renormalises the sum. -/
  | dadd (g : Guard) (d : BitVec 3) (a : BitVec 3) (b : BitVec 3)
  /-- `DSCALE` (R234). Adds log values to the norms, leaving the components unchanged. -/
  | dscale (g : Guard) (d : BitVec 3) (x : BitVec 5)
  /-- `DDOT` (R233). Row-wise cosine of two direction registers. -/
  | ddot (g : Guard) (a : BitVec 3) (b : BitVec 3) (x : BitVec 5)
  /-- `DDOT.B` (R233). Cosines of 16 rows of one direction register against one broadcast row. -/
  | ddotB (g : Guard) (a : BitVec 3) (b : BitVec 3) (x : BitVec 5) (k : BitVec 4)
  /-- `DMOV` (R234). Copies a direction register and its norms bit for bit. -/
  | dmov (g : Guard) (d : BitVec 3) (a : BitVec 3)
  /-- `DNEG` (R234). Negates the components of the nonzero direction rows. -/
  | dneg (g : Guard) (d : BitVec 3) (a : BitVec 3)
  /-- `DWSUM` (R232). Renormalises a weighted sum of two direction rows. -/
  | dwsum (g : Guard) (d : BitVec 3) (a : BitVec 3) (b : BitVec 3) (x : BitVec 5)
  /-- `FEXP2` (R221). Bit-exact 2^x. -/
  | fexp2 (g : Guard) (d : BitVec 5) (a : BitVec 5) (h : BitVec 2) (m : BitVec 3)
  /-- `FLOG2` (R222). Bit-exact log2 x. -/
  | flog2 (g : Guard) (d : BitVec 5) (a : BitVec 5) (h : BitVec 2) (m : BitVec 3)
  /-- `FRCP` (R225). Correctly rounded reciprocal. -/
  | frcp (g : Guard) (d : BitVec 5) (a : BitVec 5) (h : BitVec 2) (m : BitVec 3)
  /-- `FRSQ` (R225). Correctly rounded reciprocal square root. -/
  | frsq (g : Guard) (d : BitVec 5) (a : BitVec 5) (h : BitVec 2) (m : BitVec 3)
  /-- `FSQRT` (R225). Correctly rounded square root. -/
  | fsqrt (g : Guard) (d : BitVec 5) (a : BitVec 5) (h : BitVec 2) (m : BitVec 3)
  /-- `FTANH` (R221). Bit-exact tanh. -/
  | ftanh (g : Guard) (d : BitVec 5) (a : BitVec 5) (h : BitVec 2) (m : BitVec 3)
  /-- `FSIGM` (R221). Bit-exact logistic sigmoid. -/
  | fsigm (g : Guard) (d : BitVec 5) (a : BitVec 5) (h : BitVec 2) (m : BitVec 3)
  /-- `FERF` (R224). Bit-exact erf. -/
  | ferf (g : Guard) (d : BitVec 5) (a : BitVec 5) (h : BitVec 2) (m : BitVec 3)
  /-- `FSIN` (R223). Bit-exact sine. -/
  | fsin (g : Guard) (d : BitVec 5) (a : BitVec 5) (h : BitVec 2) (m : BitVec 3)
  /-- `FCOS` (R223). Bit-exact cosine. -/
  | fcos (g : Guard) (d : BitVec 5) (a : BitVec 5) (h : BitVec 2) (m : BitVec 3)
  /-- `VROTR` (R227). Rotates along the rows. -/
  | vrotr (g : Guard) (d : BitVec 5) (a : BitVec 5) (k : BitVec 6) (m : BitVec 3)
  /-- `VROTC` (R227). Rotates along the columns. -/
  | vrotc (g : Guard) (d : BitVec 5) (a : BitVec 5) (k : BitVec 6) (m : BitVec 3)
  /-- `VBCR` (R227). Broadcasts one column across each row. -/
  | vbcr (g : Guard) (d : BitVec 5) (a : BitVec 5) (k : BitVec 6) (m : BitVec 3)
  /-- `VBCC` (R227). Broadcasts one row across each column. -/
  | vbcc (g : Guard) (d : BitVec 5) (a : BitVec 5) (k : BitVec 6) (m : BitVec 3)
  /-- `VREDR` (R227). Reduces each row. -/
  | vredr (g : Guard) (d : BitVec 5) (a : BitVec 5) (o : BitVec 2) (m : BitVec 3)
  /-- `VREDC` (R227). Reduces each column. -/
  | vredc (g : Guard) (d : BitVec 5) (a : BitVec 5) (o : BitVec 2) (m : BitVec 3)
  /-- `VSCANR` (R227). Inclusive or exclusive scan along the rows. -/
  | vscanr (g : Guard) (d : BitVec 5) (a : BitVec 5) (x : BitVec 1) (o : BitVec 2) (m : BitVec 3)
  /-- `VSCANC` (R227). Inclusive or exclusive scan along the columns. -/
  | vscanc (g : Guard) (d : BitVec 5) (a : BitVec 5) (x : BitVec 1) (o : BitVec 2) (m : BitVec 3)
  /-- `VTRN` (R227). Transposes four 16x16 blocks. -/
  | vtrn (g : Guard) (d : BitVec 5) (a : BitVec 5) (m : BitVec 3)
  /-- `VSHFR` (R227). XOR-shuffles along the rows. -/
  | vshfr (g : Guard) (d : BitVec 5) (a : BitVec 5) (k : BitVec 6) (m : BitVec 3)
  /-- `VSHFC` (R227). XOR-shuffles along the columns. -/
  | vshfc (g : Guard) (d : BitVec 5) (a : BitVec 5) (k : BitVec 6) (m : BitVec 3)
  /-- `CSET` (R291). Writes a geometry register and takes 1 ic of cube work. -/
  | cset (g : Guard) (gr : BitVec 3) (a : BitVec 5) (b : BitVec 5)
  /-- `CFMT` (R291). Writes a format-table entry, or leaves it unset if the value is invalid. -/
  | cfmt (g : Guard) (gr : BitVec 4) (a : BitVec 5)
  /-- `CBLD` (R303). Loads a B slot from the weight store in the named layers. -/
  | cbld (g : Guard) (s : BitVec 5) (l : BitVec 4) (a : BitVec 5) (b : BitVec 5)
  /-- `CBLDF` (R303). Loads a B slot from a frame in the named layers. -/
  | cbldf (g : Guard) (s : BitVec 5) (l : BitVec 4) (a : BitVec 5) (b : BitVec 5)
  /-- `CMMA` (R304). Cube matrix operation with A taken from a frame or from the held row buffer. -/
  | cmma (g : Guard) (c : BitVec 3) (a : BitVec 5) (b : BitVec 5) (l : BitVec 4) (x : BitVec 1) (h : BitVec 1) (e : BitVec 1)
  /-- `CMMAT` (R304). Cube operation whose format entry is chosen by a loop index. -/
  | cmmat (g : Guard) (c : BitVec 3) (a : BitVec 5) (b : BitVec 5) (l : BitVec 4) (x : BitVec 1) (h : BitVec 1) (e : BitVec 1)
  /-- `CZERO` (R305). Zeroes an accumulator tile, and with XC its side-area, in cube order. -/
  | czero (g : Guard) (c : BitVec 3) (x : BitVec 1)
  /-- `CCHAIN` (R301). Cube operation that takes its A blocks from the east chain queue. -/
  | cchain (g : Guard) (c : BitVec 3) (b : BitVec 5) (l : BitVec 4) (x : BitVec 1) (e : BitVec 1)
  /-- `CWAIT` (R305). Is held while its accumulator is busy and has no other effect. -/
  | cwait (g : Guard) (c : BitVec 3)
  /-- `CPROG` (R305). Pushes an accumulator's progress, busy and park state. -/
  | cprog (g : Guard) (c : BitVec 3)
  /-- `CABORT` (R305). Removes an accumulator's incomplete cube operation. -/
  | cabort (g : Guard) (c : BitVec 3)
  /-- `CBND` (R305). Attaches a bound register to an accumulator, or detaches it. -/
  | cbnd (g : Guard) (c : BitVec 3) (a : BitVec 5)
  /-- `CMMAH` (R304). Cube operation that streams A from a tensor handle. -/
  | cmmah (g : Guard) (c : BitVec 3) (a : BitVec 5) (b : BitVec 5) (l : BitVec 4) (x : BitVec 1) (e : BitVec 1)
  /-- `KWAIT` (R312). Is held until a flag reaches a target. -/
  | kwait (g : Guard) (k : BitVec 5) (a : BitVec 5) (i : BitVec 5)
  /-- `KPOST` (R312). Adds to a local flag. -/
  | kpost (g : Guard) (k : BitVec 5) (a : BitVec 5) (i : BitVec 5)
  /-- `KPOSTR` (R313). Sends a release post to a flag of a pillar of the package. -/
  | kpostr (g : Guard) (k : BitVec 5) (a : BitVec 5) (b : BitVec 5) (s : BitVec 3)
  /-- `KSET` (R312). Sets a local flag. -/
  | kset (g : Guard) (k : BitVec 5) (a : BitVec 5) (i : BitVec 5)
  /-- `KRD` (R312). Pushes a flag's value. -/
  | krd (g : Guard) (k : BitVec 5)
  /-- `COPYIN` (R275). Engine command that copies a tile of a tensor into a FILLING frame. -/
  | copyin (g : Guard) (f : BitVec 6) (a : BitVec 5) (b : BitVec 5) (u : BitVec 1) (gr : BitVec 1)
  /-- `COPYOUT` (R275). Engine command that copies a tile of a frame into a tensor. -/
  | copyout (g : Guard) (f : BitVec 6) (a : BitVec 5) (b : BitVec 5) (u : BitVec 1) (gr : BitVec 1)
  /-- `GATHER` (R275). Engine command that gathers indexed rows of a tensor into a frame. -/
  | gather (g : Guard) (f : BitVec 6) (a : BitVec 5) (b : BitVec 5) (u : BitVec 1) (gr : BitVec 1)
  /-- `SCATTER` (R275). Engine command that scatters frame rows to indexed tensor rows. -/
  | scatter (g : Guard) (f : BitVec 6) (a : BitVec 5) (b : BitVec 5) (u : BitVec 1) (gr : BitVec 1)
  /-- `ATOMG` (R276). Engine command that performs one device atomic on a tensor element. -/
  | atomg (g : Guard) (f : BitVec 6) (a : BitVec 5) (b : BitVec 5) (u : BitVec 1) (gr : BitVec 1)
  /-- `MSEND` (R317). Takes a credit and sends a 64-bit entry to a pillar's message queue. -/
  | msend (g : Guard) (a : BitVec 5) (b : BitVec 5) (s : BitVec 3)
  /-- `DEFER` (R325). Appends the enabled elements of 1 to 4 vector registers to a tray as items. -/
  | defer (g : Guard) (v : BitVec 5) (c : BitVec 3) (m : BitVec 3) (t : BitVec 2)
  /-- `DRAIN` (R325). Queues to take a batch of items from a tray, or flushes it when a predicate is named. -/
  | drain (g : Guard) (v : BitVec 5) (c : BitVec 3) (m : BitVec 3) (t : BitVec 2)
  /-- `JRAISE` (R321). Raises a job control block's EXPECT, or marks JOBLATE. -/
  | jraise (g : Guard) (a : BitVec 5) (b : BitVec 5)
  /-- `JPOST` (R321). Posts completions to a job control block. -/
  | jpost (g : Guard) (a : BitVec 5) (b : BitVec 5)
  /-- `DSYNC` (R319). Ends the member's phase at a domain level and waits for the group. -/
  | dsync (g : Guard) (l : BitVec 3)
  /-- `WSWIN` (R285). Pushes the start TIME of the current or next weight-store refresh window. -/
  | wswin (g : Guard)
  /-- `FWAIT` (R315). Is held until a frame is READY with the given phase. -/
  | fwait (g : Guard) (f : BitVec 6) (h : BitVec 1)
  /-- `ECANCEL` (R326). Cancels every incomplete engine command of the sequencer. -/
  | ecancel (g : Guard)
  /-- `ECANCEL.K` (R326). Cancels the incomplete engine commands that post a given flag. -/
  | ecancelK (g : Guard) (k : BitVec 5)
  /-- `ECANCEL.F` (R326). Cancels the incomplete engine commands that name a given frame. -/
  | ecancelF (g : Guard) (a : BitVec 5)
  /-- `RESULT_LANDING` (R158). A fixed-latency result, or a replayed latched result, is written or pushed in its
  landing ic. -/
  | resultLanding
  /-- `ICACHE_FILL` (R152). An instruction-cache line arrives from memory, and the waiting sequencer becomes ready. -/
  | icacheFill
  /-- `NOPKT` (R56). A packet that completes at once with no effect. -/
  | nopkt
  /-- `LAUNCH` (R34). Reads and checks a loop-nest record and hands the launch to the walker. -/
  | launch
  /-- `WLOAD` (R59). Packet that writes the weight store of the named layers once no iteration is placed. -/
  | wload
  /-- `WLOAD_COMPLETE` (R250). A WLOAD completes when every named layer holds its data, and launches may start
  again. -/
  | wloadComplete
  /-- `TDEF` (R41). Copies a tensor handle into one entry of the stack's handle table. -/
  | tdef
  /-- `JWAIT` (R57). Packet that polls a job control block until a condition holds. -/
  | jwait
  /-- `JWAIT_SATISFIED` (R57). A JWAIT observes its condition and completes. -/
  | jwaitSatisfied
  /-- `JSIGNAL_POST` (R57). JSIGNAL with OPS 0 adds N to a job control block's COUNT. -/
  | jsignalPost
  /-- `JSIGNAL_RAISE` (R57). JSIGNAL with OPS 1 adds N to a job control block's EXPECT. -/
  | jsignalRaise
  /-- `COPY` (R57). Packet that copies bytes on the stack's bulk channel. -/
  | copy
  /-- `COPY_COMPLETE` (R56). A COPY packet completes when its last byte is written. -/
  | copyComplete
  /-- `MARKER` (R57). Packet that performs one 8-byte store. -/
  | marker
  /-- `PACKET_CHOICE` (R60). The packet processor ages the waiting queues and starts the next packet of the chosen
  queue. -/
  | packetChoice
  /-- `NOTIFY_WIDX_WRITE` (R52). A write to a queue's WIDX publishes slots, is ignored, or halts the queue. -/
  | notifyWidxWrite
  /-- `QUEUE_ENABLE` (R53). Writing EN 1 reads the queue descriptor and starts the queue or halts it. -/
  | queueEnable
  /-- `QUEUE_DISABLE` (R53). Writing EN 0 discards the unstarted packets and disables the queue. -/
  | queueDisable
  /-- `RESUME` (R64). Resumes a halted queue at its faulting packet. -/
  | resumeQueue
  /-- `SKIP` (R64). RESUME with SKIP counts the faulting packet as completed without effect. -/
  | skipPacket
  /-- `ABORT` (R64). Discards every packet of the queue that has not started. -/
  | abortQueue
  /-- `ABORT_DRAINED` (R64). Once the started packets complete, the indices reach WIDX and the queue's STATE leaves
  aborting. -/
  | abortDrained
  /-- `PLACE_ITERATION` (R72). The walker places the next iteration on the lowest-numbered free sequencer. -/
  | placeIteration
  /-- `STACK_CLEAR` (R75). When the old job has drained, the stack is cleared for the new JOBID. -/
  | stackClear
  /-- `CHUNK_REQUEST` (R70). A participant asks the leader for a chunk of iterations. -/
  | chunkRequest
  /-- `CHUNK_GRANT` (R83). The leader logs a chunk with two holders and grants it after their acknowledgements. -/
  | chunkGrant
  /-- `GRANT_LOG_ENTRY` (R83). A log holder records a grant and acknowledges it. -/
  | grantLogEntry
  /-- `HEARTBEAT` (R82). Every 10 us a participant sends its epoch and retired count to the others. -/
  | heartbeat
  /-- `HEARTBEAT_RECEIVE` (R84). The first log holder copies the count and posts the retirements to the job control
  block. -/
  | heartbeatReceive
  /-- `PARTICIPANT_FAILED` (R85). A participant silent for 30 us is declared failed: lost iterations are posted and
  leadership moves. -/
  | participantFailed
  /-- `LOG_TRANSFER` (R85). A survivor sends its grant log to the new leader. -/
  | logTransfer
  /-- `GANG_REPORT` (R80). A participant reports and holds free sequencers for a gang launch. -/
  | gangReport
  /-- `GANG_GRANT` (R80). The leader grants a whole gang at once and names the sequencers. -/
  | gangGrant
  /-- `ITERATION_RETIRE` (R350). A DONE with nothing pending retires the iteration and posts it to the job control
  block. -/
  | iterationRetire
  /-- `ENGINE_SECTOR_TRANSACTION` (R238). An engine command performs one sector transaction; faults and fill landing
  happen here. -/
  | engineSectorTransaction
  /-- `ENGINE_COMPLETE` (R278). An engine command completes: its frame states change and its remote flag is posted. -/
  | engineComplete
  /-- `FALLOC_ZERO_DONE` (R266). A frame allocated with EXPB 0 becomes READY when its zeroing ends. -/
  | fallocZeroDone
  /-- `CUBE_OP_START` (R297). The cube engine starts the next queued item once the previous item's work ends. -/
  | cubeOpStart
  /-- `CUBE_WAVE_START` (R297). A wave reads its A blocks and slots, sends chained blocks, and may park on a fault. -/
  | cubeWaveStart
  /-- `CUBE_WAVE_LAND` (R296). A wave's update lands in the accumulator, PROG rises and ballast is counted. -/
  | cubeWaveLand
  /-- `CUBE_OP_COMPLETE` (R297). A cube operation completes: the bound check runs and the busy bit clears. -/
  | cubeOpComplete
  /-- `CHAIN_BLOCK_ARRIVE` (R301). An A block arrives in the chain queue of the east pillar and releases a waiting
  wave. -/
  | chainBlockArrive
  /-- `KPOSTR_ARRIVE` (R313). A remote post arrives at its target flag. -/
  | kpostrArrive
  /-- `MSEND_DELIVER` (R317). A sent entry is appended to the target's message queue as a release. -/
  | msendDeliver
  /-- `CREDIT_RETURN` (R317). A popped entry's credit returns to its sender's pool. -/
  | creditReturn
  /-- `DSYNC_COMPLETE` (R320). Every member has issued its DSYNC: the phase inverts and issue resumes. -/
  | dsyncComplete
  /-- `JCB_STEP` (R321). A JPOST or JRAISE performs its atomic step at the block's memory-side point. -/
  | jcbStep
  /-- `TRAY_DELIVERY` (R325). A DRAIN takes items from its tray, lands its registers and posts the delivery flag. -/
  | trayDelivery
  /-- `WDOG` (R334). A long word held for WDL us raises WDOG. -/
  | wdog
  /-- `GANG_TIMEOUT` (R361). A latched GANG condition is delivered 10 us after the failure. -/
  | gangTimeout
  /-- `UE` (R356). An uncorrectable error in unmarkable state raises UE and fails gang members. -/
  | ue
  /-- `PREEMPT_REQUEST` (R339). A write of REQ stops launches and placement of the job and requests pre-emption. -/
  | preemptRequest
  /-- `PREEMPT_STOP` (R107). A sequencer reaches an iteration boundary and stops for pre-emption. -/
  | preemptStop
  /-- `CONTEXT_SAVE` (R341). Once every pillar has stopped, the images are written, STOPPED is set and PREEMPT is
  entered. -/
  | contextSave
  /-- `PREEMPT_KILL` (R340). The PDL deadline passes and the job is killed on its stacks. -/
  | preemptKill
  /-- `RESTORE` (R345). Loads the context images and enters PREEMPT with RESUME. -/
  | restore
  /-- `TLB_INVALIDATE` (R348). Writing IGO drops the matching TLB entries. -/
  | tlbInvalidate
  /-- `FADE_TICK` (R255). Every 1 us COUNT rises by INC. -/
  | fadeTick
  /-- `FRAME_EXPIRE` (R256). A frame's fade count reaches EXPIRY and its XP is set. -/
  | frameExpire
  /-- `BACKGROUND_RENEW` (R257). Within its window budget the renewer starts renewing the frame nearest expiry. -/
  | backgroundRenew
  /-- `RENEWAL_OVERDUE` (R257). A background rewrite unfinished after 200 ticks sets the frame's XP. -/
  | renewalOverdue
  /-- `SENSOR_SAMPLE` (R372). Thermal samples land and the fade increments and governor stops are recomputed. -/
  | sensorSample
  /-- `THERMAL_SHUTDOWN` (R378). A sample at 125 C or above shuts down its stack and kills its job. -/
  | thermalShutdown
  /-- `TOKEN_HOP` (R370). Each microsecond the power token passes to the next stack and grains are exchanged. -/
  | tokenHop
  /-- `PERMIT_REFILL` (R379). Every 64 ns the issue-permit counters are refilled by the amounts for the current
  stop. -/
  | permitRefill
  /-- `DROOP_ALARM` (R381). A supply droop stretches three slots and then halves issue for 64 ic. -/
  | droopAlarm
  /-- `TEST_ALARM` (R381). TIME reaches TA while ARM is 1 and a droop alarm is raised. -/
  | testAlarm
  /-- `DROOP_HALVING_END` (R381). The 64 halved ic end and ARM clears. -/
  | droopHalvingEnd
  /-- `VOLTAGE_STEP` (R374). The firmware adjusts a supply domain's set point. -/
  | voltageStep
  /-- `WS_REFRESH_WINDOW` (R284). A weight-store refresh window opens and holds weight-store reads for 1,600 ns. -/
  | wsRefreshWindow
  /-- `HBM_SELF_REFRESH_ENTER` (R286). An HBM stack at its critical temperature enters self-refresh and starts
  holding accesses. -/
  | hbmSelfRefreshEnter
  /-- `HBM_SELF_REFRESH_EXIT` (R286). Self-refresh ends and the held accesses are performed in order. -/
  | hbmSelfRefreshExit
  /-- `THERMAL_HOLD` (R286). A command held for 5 ms gives a THERMAL-HOLD event to its sequencer. -/
  | thermalHold
  /-- `ERRINJ_APPLY` (R364). An armed injection inverts an accumulator bit or poisons a frame sector. -/
  | errinjApply
  /-- `GOVTH_WRITE` (R371). A write to the governor thresholds is accepted or refused as a whole. -/
  | govthWrite
  /-- `PKGBUD_WRITE` (R371). A write to the package budget is accepted, and the grains are reset at the next
  microsecond. -/
  | pkgbudWrite
  /-- `HK_VERDICT` (R393). The host answers a housekeeping request with GRANT or REFUSE. -/
  | hkVerdict
  /-- `FNMODE_APPLY` (R391). A change of FNMODE takes effect at the next microsecond boundary. -/
  | fnmodeApply
  /-- `SCRUB` (R394). Within its budget the scrubber reads and rewrites sectors, correcting single-bit errors. -/
  | scrub
  /-- `LIFETIME_COUNT` (R365). Each second the lifetime counters are updated. -/
  | lifetimeCount
  /-- `COUNTER_PERSIST` (R365). Each hour the firmware saves the lifetime counters to non-volatile store. -/
  | counterPersist
  /-- `HOST_MEM_ACCESS` (R249). A host read or write through CXL.mem or CXL.io is performed at the memory-side
  point. -/
  | hostMemAccess
  /-- `ATTEST_REQUEST` (R390). An SPDM request over DOE is answered with dual-signed measurements. -/
  | attestRequest
  /-- `MGMT_REGISTER_WRITE` (R383). A write to a BAR0 register with no behaviour of its own. -/
  | mgmtRegisterWrite
  /-- `PACKAGE_RESET` (R387). Reset runs the boot sequence: verification, calibration, sparing, training and fabric
  bring-up. -/
  | packageReset
  /-- `WS_REFRESH_WINDOW_END` (R284). 1,600 ns after a weight-store refresh window opens, the window closes and held
  weight-store reads, including a stalled CBLD, proceed. -/
  | wsRefreshWindowEnd
  /-- `HKR_WRITE` (R393). A host write that raises HKR frees housekeeping ring entries, and requests waiting on a
  full ring are then posted in order. -/
  | hkrWrite
deriving DecidableEq, Repr

end Sys2Proof
end

