-- ==== Sys2Proof/Machine/State.lean ====
section
/-! DEFINITION. The state of the whole package as plain data: every register, table, queue, memory and operation in
progress that the manual gives the machine, and the model's own bookkeeping (agenda, nonce, env, cur). -/

namespace Sys2Proof.Machine

/-- Why the machine stops. -/
inductive Fault where
  /-- A host access to a physical address the package's map does not hold (R384), raised by HOST_MEM_ACCESS. Safe:
  the rules give no effect for it. -/
  | noSuchAddress (pa : Nat)
deriving DecidableEq, Repr

/-- Why the model has no next state for an instruction. -/
inductive Refusal where
  /-- The instruction has no meaning in the model yet; raised by `exec`'s own arms only. Safe. -/
  | notModelled (mnemonic : String)
deriving DecidableEq, Repr

/-- A vector register or accumulator tile: 1,024 elements, row by row (R96). -/
abbrev VReg := List W32
/-- A vector predicate: one 64-bit row of enables for each of 16 rows (R94). -/
abbrev PReg := List W64

/-- Every element of a vector register equal to w. -/
def vfill (w : W32) : VReg := List.replicate 1024 w
/-- A predicate with every bit set, as p0 reads (R94). -/
def pOnes : PReg := List.replicate 16 (BitVec.allOnes 64)
/-- A predicate with every bit clear. -/
def pZero : PReg := List.replicate 16 0

/-- An entry of the loop-index stack (R89), with the ROT bit of R187. -/
structure LoopEntry where
  count : W32
  index : W32
  step : BitVec 16
  bstart : W64
  bend : W64
  rot : Bool
deriving DecidableEq, Repr

/-- A cause about to be taken: its code (R328), EINFO, the record it delivers when it is an asynchronous fault
(R331, R332), the unit whose poison was consumed (R355), and whether it unwinds the innermost region whatever its
policy (R196: a CROPEN too many). -/
structure Raise where
  cause : Nat
  einfo : W64
  record : Option Nat
  poison : Option Nat
  force : Bool
deriving DecidableEq, Repr

/-- What a result writes when it lands (R159, R162, R343). -/
inductive Payload where
  /-- A named scalar s1-s14. -/
  | named (r : Nat) (v : W64)
  /-- A push onto the result queue (R91). -/
  | push (v : W64)
  /-- A scalar predicate, physical number. -/
  | pred (c : Nat) (b : Bool)
  /-- A vector register, physical number, on the elements of the mask. -/
  | vec (r : Nat) (v : VReg) (mask : PReg)
  /-- A vector predicate on the bits of the mask. -/
  | vpred (r : Nat) (v : PReg) (mask : PReg)
  /-- Accumulator elements on the mask. -/
  | acc (r : Nat) (v : VReg) (mask : PReg)
  /-- Side-area values at the listed positions. -/
  | side (r : Nat) (v : List (Nat × W32))
  /-- A direction register's rows in the mask, 64 components a row (R98). -/
  | dir (r : Nat) (v : List W16) (rows : BitVec 16)
  /-- A norm file's entries in the mask. -/
  | norm (r : Nat) (v : List W16) (rows : BitVec 16)
  /-- `CHKINT` bits set together with a result (R353). -/
  | chk (bits : W64)
deriving DecidableEq, Repr

/-- An uncorrectable error in a sequencer's state: its R356 word, and, for unit 5, whether the register is a vector
predicate. -/
structure Failed where
  word : W64
  pred : Bool
deriving DecidableEq, Repr

/-- A result in flight: the ic it lands in (in a latch bank: what remains to it), its slot, the issue order of its
long word and what it writes. -/
structure Landing where
  land : Nat
  slot : Nat
  order : Nat
  what : Payload
deriving DecidableEq, Repr

/-- A snapshot latch bank (R335, R404). -/
structure Bank where
  entries : List Landing
  vHold : Option VReg
  fHold : Option VReg
deriving DecidableEq, Repr

/-- An empty latch bank. -/
def Bank.empty : Bank := ⟨[], none, none⟩

/-- How a CSR instruction changes its CSR when it takes effect (R183, R184); a loop-back's rotation comes last. -/
inductive CsrChange where
  | write | set | clear | rotate
deriving DecidableEq, Repr

/-- A CSR change not yet in effect: the ic it takes effect in, its slot, its number, and the change with its value
(R105). -/
structure CsrWrite where
  at_ : Nat
  slot : Nat
  num : Nat
  change : CsrChange
  value : W64
deriving DecidableEq, Repr

/-- A containment region (R196): handler, policy, the mode it was opened in, the issue order of its CROPEN, and the
snapshot. -/
structure Region where
  handler : W64
  pol : BitVec 2
  sup : Bool
  order : Nat
  named : List W64
  preds : List Bool
  rbase : BitVec 4
  loops : List LoopEntry
deriving DecidableEq, Repr

/-- An accumulator tile (R97, R305): elements, side-area, busy, progress, PARK, waves of the last operation, attached
bound register. -/
structure Acc where
  elems : VReg
  side : List W32
  busy : Bool
  prog : Nat
  park : Bool
  nw : Nat
  bound : Option Nat
deriving DecidableEq, Repr

/-- A cleared accumulator tile. -/
def Acc.zero : Acc := ⟨vfill 0, List.replicate 80 0, false, 0, false, 0, none⟩

/-- A tensor handle (R35, R36). -/
structure Handle where
  base : Nat
  fmt : Nat
  tiled : Bool
  nd : Nat
  pad : W32
  dims : List Nat
  strides : List Int
deriving DecidableEq, Repr

/-- The engine commands (R271). -/
inductive EngineKind where
  | copyin | copyout | gather | scatter | atomg
deriving DecidableEq, Repr

/-- A write that a combining buffer holds, not yet performed (R241): its transaction's number, its elements as virtual
address, physical address and bytes, and whether a source was poisoned. -/
structure HeldTx where
  k : Nat
  parts : List (Nat × Nat × List Byte)
  bad : Bool
deriving DecidableEq, Repr

/-- An engine command in progress: its kind, F, FL, LU, the command word, its handle snapshot (R42), whether it was
issued in context mode (R344), the index words of a GATHER or SCATTER as its issue found them, each with the mark of
its sector (R237, R277, R354), the numbers of the transactions already performed (R280), the frame offsets of the
elements performed of a transaction on a host page (R238), the elements on their way between frame and memory by
frame offset, each with its bytes and the mark of their source (R237, R239, R354), the writes its combining buffer
holds (R241), whether it still holds the write role of the frame it fills and the read roles of F and of IXF (R277),
whether its issue-time checks have passed and its frames are taken (R279), whether its bytes brought LAND to EXPB
(R278), and the TIME since which an access is held by self-refresh and whether THERMAL-HOLD was given (R286). -/
structure EngineOp where
  kind : EngineKind
  frame : Nat
  fl : Bool
  lu : Bool
  word : W64
  handle : Handle
  ctx : Bool
  index : Option (List (Nat × Bool))
  done : List Nat
  part : List Nat
  stage : List (Nat × List Byte × Bool)
  held : List HeldTx
  roleW : Bool
  roleF : Bool
  roleX : Bool
  ready : Bool
  reached : Bool
  heldSince : Option Nat
  told : Bool
deriving DecidableEq, Repr

/-- What an asynchronous record's operation is (R160). -/
inductive Op where
  /-- An engine command (R271). -/
  | engine (e : EngineOp)
  /-- A cube operation or other C-slot item; its own state stands in the pillar's cube queue. -/
  | cube
  /-- An MSEND on its way: target pillar, scope, entry (R317). -/
  | msend (target scope : Nat) (entry : W64)
  /-- A DSYNC at a level, with the count it completes, whether it counts as issued for the others (R78, R320) and
  whether it is complete. -/
  | dsync (level count : Nat)
  /-- A JPOST (false) or JRAISE (true) step not yet performed (R321). -/
  | jcb (isRaise : Bool)
  /-- A DEFER that its tray could not take: the tray and the items (R325). -/
  | defer (tray : Nat) (items : List (List W32))
  /-- A DRAIN: tray, physical registers, flush predicate, the items once taken (R325). -/
  | drain (tray : Nat) (regs : List Nat) (p : Nat) (taken : Option (List (List W32)))
deriving DecidableEq, Repr

/-- An asynchronous record (R332), with the issue order of its long word in its own sequencer. -/
structure Rec where
  idx : Nat
  lw : W64
  slot : Nat
  opa : W64
  opb : W64
  syl : W32
  rbase : BitVec 4
  cause : Nat
  faulted : Bool
  parked : Bool
  cancelled : Bool
  finfo : W64
  progress : Nat
  seqno : Nat
  order : Nat
  op : Op
deriving DecidableEq, Repr

/-- A fence in force (R246), or the acquire of an engine command (R245; acq: of an ATOMG or not): kinds, scope, the
issue order of its long word. -/
structure FenceRec where
  kinds : BitVec 7
  scope : Nat
  order : Nat
  acq : Option Bool
deriving DecidableEq, Repr

/-- A KPOST (set = false) or KSET delayed by a fence (R312). -/
structure FlagChange where
  k : Nat
  set : Bool
  amount : W32
  order : Nat
deriving DecidableEq, Repr

/-- What a sequencer is doing (R71, R107, R193, R194). -/
inductive Run where
  /-- No iteration: fetches nothing. -/
  | idle
  /-- Fetching and issuing. -/
  | running
  /-- At a DONE that waits; the address of the DONE long word. -/
  | atDone (addr : W64)
  /-- Stopped by HALT until package reset. -/
  | halted
  /-- Stopped for a pre-emption, with no entry made yet (R339). -/
  | stopped
deriving DecidableEq, Repr

/-- The iteration a sequencer runs (R71): the launch's number, t, whether it was written as lost, whether its gang
membership has failed, and the job control blocks it has posted to (R321). -/
structure Iter where
  launch : Nat
  t : Nat
  lost : Bool
  failed : Bool
  posted : List Nat
deriving DecidableEq, Repr

/-- A fetch that faulted: its line address, cause and EINFO (R153). -/
structure FetchFault where
  line : Nat
  cause : Nat
  einfo : W64
deriving DecidableEq, Repr

/-- One sequencer (R87, R103). -/
structure Seq where
  pc : W64
  /-- The next long word is a delay long word; then the stream goes on at this address (R163). -/
  delay : Option W64
  run : Run
  iter : Option Iter
  loops : List LoopEntry
  queue : List W64
  named : List W64
  preds : List Bool
  vregs : List VReg
  vpreds : List PReg
  accs : List Acc
  dirs : List (List W16)
  norms : List (List W16)
  geos : List W64
  fts : List W32
  vHold : Option VReg
  fHold : Option VReg
  userBank : Bank
  supBank : Bank
  inflight : List Landing
  /-- What the results that landed in this ic wrote over, the latest first: an unwind in it discards them (R358). -/
  undo : List Payload
  csrws : List CsrWrite
  /-- Issue count of this sequencer's long words, which orders results and operations (R91, R162). -/
  order : Nat
  /-- `DOMM.AX1`, M1-M4 and the four completed-DSYNC counts (R76, R78). -/
  ax1 : Bool
  members : List Nat
  syncs : List Nat
  rbase : BitVec 4
  wpos : BitVec 10
  rpos : BitVec 10
  lpitch : BitVec 16
  chkint : W64
  bnds : List W64
  mode : Bool
  pmode : Bool
  bd : Bool
  tvec : W64
  epc : W64
  ebt : W64
  ecause : W64
  einfo : W64
  sscr0 : W64
  sscr1 : W64
  regions : List Region
  latch : Bool
  recs : List Rec
  fences : List FenceRec
  flagq : List FlagChange
  /-- CABORTs issued, by the ic they act in, and their tiles (R305). -/
  aborts : List (Nat × Nat)
  /-- The level of a DSYNC that holds every later long word (R319). -/
  syncing : Option Nat
  /-- GANG conditions latched and not delivered: the TIME of the failure, and whether 10 µs have passed (R361). -/
  gang : List (Nat × Bool)
  /-- The `CHKINT` bits set in this ic, with their PSITE (R353). -/
  chkNow : W64
  /-- Poison consumed by an asynchronous operation in a region with POIS, to unwind at the next long word (R355). -/
  poisonDue : Bool
  /-- The uncorrectable errors in this sequencer's state, each waiting for the long word that reads it, the earliest
  first (R356). -/
  ueDue : List Failed
  /-- The WHY of the FSTATE that R74 gives the first long word of an iteration placed without its f0. -/
  firstFault : Option Nat
  /-- TIME since which the next long word has been held without a break, or DONE has waited (R334). -/
  heldSince : Option Nat
  /-- The watchdog limit has passed for the long word now held (R334). -/
  wdog : Bool
  fetchFault : Option FetchFault
  /-- For each trap entry not yet returned from, latest first: the record it delivered, if any (R332, R333). -/
  delivered : List (Option Nat)
  /-- The issue order at the last entry with PREEMPT: operations up to it are the image's (R341, R344). -/
  ctxOrder : Nat
  /-- First ic a handler's long word may issue in (R335). -/
  notBefore : Nat
  /-- The sequencer's launch whose first iteration set DOMM and ft (R32, R73). -/
  lastLaunch : Option Nat
  /-- AX1, the DSYNC counts and the axes of the launches the sequencer ran before, for their next iterations here
  (R73, R78). -/
  domains : List (Nat × Bool × List Nat × List Bool)
  /-- AX1 as the level-1 DSYNCs of the launch had it, the latest first (R77, R78). -/
  axes : List Bool
deriving DecidableEq, Repr

/-- A sequencer at package reset: R87's values; `LPITCH.STEP` 1 (R90). -/
def Seq.reset : Seq where
  pc := 0
  delay := none
  run := .idle
  iter := none
  loops := []
  queue := List.replicate 16 0
  named := List.replicate 16 0
  preds := List.replicate 16 false
  vregs := List.replicate 32 (vfill 0)
  vpreds := List.replicate 8 pZero
  accs := List.replicate 8 Acc.zero
  dirs := List.replicate 8 (List.replicate 1024 0)
  norms := List.replicate 8 (List.replicate 16 0x8000)
  geos := List.replicate 8 0
  fts := List.replicate 16 0
  vHold := none
  fHold := none
  userBank := Bank.empty
  supBank := Bank.empty
  inflight := []
  undo := []
  csrws := []
  order := 0
  ax1 := false
  members := List.replicate 4 0
  syncs := List.replicate 4 0
  rbase := 0
  wpos := 0
  rpos := 0
  lpitch := 1
  chkint := 0
  bnds := List.replicate 8 0
  mode := false
  pmode := false
  bd := false
  tvec := 0
  epc := 0
  ebt := 0
  ecause := 0
  einfo := 0
  sscr0 := 0
  sscr1 := 0
  regions := []
  latch := false
  recs := []
  fences := []
  flagq := []
  aborts := []
  syncing := none
  gang := []
  chkNow := 0
  poisonDue := false
  ueDue := []
  firstFault := none
  heldSince := none
  wdog := false
  fetchFault := none
  delivered := []
  ctxOrder := 0
  notBefore := 0
  lastLaunch := none
  domains := []
  axes := []

/-- A frame's state (R252). -/
inductive FState where
  | empty | filling | ready | draining
deriving DecidableEq, Repr

/-- The code of a frame's state (R252). -/
def FState.code : FState → Nat
  | .empty => 0 | .filling => 1 | .ready => 2 | .draining => 3

/-- A frame: its table entry (R252), the ic its zeroing ends in when it then becomes READY (R266), its contents as
the bytes that are not 0, and its poisoned sectors (R354). -/
structure Frame where
  state : FState
  ph : Bool
  auto : Bool
  size : Nat
  expb : Nat
  land : Nat
  life : Nat
  expiry : BitVec 48
  drn : Nat
  xp : Bool
  zeroEnd : Option Nat
  data : List Host.Cell
  poison : List Nat
deriving DecidableEq, Repr

/-- An EMPTY frame: every field 0 (R252). -/
def Frame.cleared : Frame := ⟨.empty, false, false, 0, 0, 0, 0, 0, 0, false, none, [], []⟩

/-- The width tag of a B slot (R287). -/
inductive Tag where
  | bits16 | bits8 | trn
deriving DecidableEq, Repr

/-- A B slot: its tag, its image in the layout of R289 as the bytes that are not 0, and its poisoned rows (R354). -/
structure BSlot where
  tag : Tag
  data : List Host.Cell
  badRows : List Nat
deriving DecidableEq, Repr

/-- A cleared B slot (R287). -/
def BSlot.zero : BSlot := ⟨.bits16, [], []⟩

/-- Where a cube operation takes its A blocks from (R304). -/
inductive ASource where
  | frame (f off stride : Nat)
  | rowBuffer
  | chain
  | handle (h : Handle) (t0 t1 pl : Nat)
  /-- A handle operand that breaks R42: the first wave faults XLATE. -/
  | noHandle
deriving DecidableEq, Repr

/-- An exact finite sum m × 2^e, or a NaN or an infinity met on the way (R294, R299). -/
structure Exact where
  nan : Bool
  pinf : Bool
  ninf : Bool
  m : Int
  e : Int
deriving DecidableEq, Repr

/-- A wave on its way to the accumulator: its number, the ic its update lands in, the layer sums S of the rows it
writes (R296, R297), its part of the column and row checksums (R299), and the blocks it took from the chain queue
(R301). -/
structure Wave where
  w : Nat
  land : Nat
  sums : List W32
  cols : List Exact
  rows : List Exact
  chain : List (List Byte × Nat)
deriving DecidableEq, Repr

/-- A cube operation (R295-R306): the record it belongs to, operands as read at issue, and how far it has come. -/
structure CubeOp where
  record : Nat
  acc : Nat
  geo : W64
  fmt : W32
  bound : Option (Nat × W64)
  mask : BitVec 4
  src : ASource
  sb : Nat
  xc : Bool
  /-- Blocks go east (R301), and the waves whose blocks have gone. -/
  east : Bool
  sent : Nat
  /-- The next wave to start and the ic it may start in. -/
  next : Nat
  waveAt : Nat
  waves : List Wave
  /-- The checksums of the waves that have landed (R299). -/
  cols : List Exact
  rows : List Exact
  /-- A slot tag or TRN code did not fit (R117, R289). -/
  fmtErr : Bool
  /-- Parked by a fault (R306): the read role of the frame is kept. -/
  park : Bool
  role : Bool
  /-- TIME since which the wave has waited for a chain block or for room in the east (R301, R334). -/
  waitSince : Option Nat
deriving DecidableEq, Repr

/-- An item of the cube engine's queue (R296, R297). -/
inductive CubeKind where
  /-- CSET and CFMT occupy the engine and change nothing (R291). -/
  | idle
  /-- CBLD or CBLDF: slot, mask, SW, and for CBLD the weight-store offset, for CBLDF the image and its poisoned
  sectors read at issue. -/
  | load (slot : Nat) (mask : BitVec 4) (sw : Nat) (offset : Option Nat) (image : List Byte) (bad : List Nat)
  | zero (acc : Nat) (xc : Bool)
  | bind (acc : Nat) (word : W64)
  | op (o : CubeOp)
deriving DecidableEq, Repr

/-- A queued cube item: its sequencer, its record, the ic it issued in, whether its work has started and the ic of
work left. -/
structure CubeItem where
  q : Nat
  record : Nat
  issued : Nat
  started : Bool
  left : Nat
  kind : CubeKind
deriving DecidableEq, Repr

/-- A line of the instruction cache: the line's address (virtual, divided by 128) and its bytes' 32 syllables. -/
structure ICLine where
  line : Nat
  words : List W32
deriving DecidableEq, Repr

/-- One pillar (R88). -/
structure Pillar where
  seqs : List Seq
  /-- Issue cycles so far: the pillar's ic number and `CYC` (R20). -/
  ic : Nat
  frames : List Frame
  flags : List W32
  /-- The posts of the next ic and of the one under way: ic, flag and amount (R309). -/
  newPosts : List (Nat × Nat × W32)
  /-- Message queue: entry and sender's stack, oldest first (R316). -/
  mq : List (W64 × Nat)
  pools : List Nat
  bslots : List (List BSlot)
  /-- The row buffer's blocks as the bytes that are not 0, and for each the groups of 8 bytes in which an error was
  found, as bits (R362). -/
  rowBuf : List (List Host.Cell)
  rowBad : List Nat
  /-- The chain queue, oldest first: each block's bytes and such bits (R301, R362). -/
  chainQ : List (List Byte × Nat)
  cube : List CubeItem
  /-- The ic in which the last finished item's work ended (R297). -/
  cubeFree : Nat
  icache : List ICLine
  last : Nat
  /-- The pillar's issue count (R332 SEQNO). -/
  issues : Nat
  permits : List Nat
  fadeCount : BitVec 48
  fadeInc : BitVec 16
  /-- A background rewrite under way: frame, 4 KiB units left, the fade count at its start (R257). -/
  rewrite : Option (Nat × Nat × BitVec 48)
  renewBudget : Nat
  /-- Trays: items of one to four values, oldest first (R323). -/
  trays : List (List (List W32))
  /-- Drains waiting in each tray: sequencer and record, in issue order (R325). -/
  drains : List (List (Nat × Nat))
  errinj : W64
  /-- The launch whose argument block f0 carries (R74), and TIME since which the walker waits on f0. -/
  f0Launch : Option Nat
  f0Wait : Option Nat
deriving DecidableEq, Repr

/-- A pillar at package reset. -/
def Pillar.reset : Pillar where
  seqs := [Seq.reset, Seq.reset]
  ic := 0
  frames := List.replicate 64 Frame.cleared
  flags := List.replicate 32 0
  newPosts := []
  mq := []
  pools := List.replicate 4 16
  bslots := List.replicate 4 (List.replicate 32 BSlot.zero)
  rowBuf := List.replicate 32 []
  rowBad := List.replicate 32 0
  chainQ := []
  cube := []
  cubeFree := 0
  icache := []
  last := 1
  issues := 0
  permits := List.replicate 4 128
  fadeCount := 0
  fadeInc := 4096
  rewrite := none
  renewBudget := 64
  trays := List.replicate 4 []
  drains := List.replicate 4 []
  errinj := 0
  f0Launch := none
  f0Wait := none

/-- A queue's STATE (R51). -/
inductive QState where
  | disabled | running | halted | aborting
deriving DecidableEq, Repr

/-- The code of a queue's STATE (R51). -/
def QState.code : QState → Nat
  | .disabled => 0 | .running => 1 | .halted => 2 | .aborting => 3

/-- A packet taken from its slot: index, its 64 bytes, the record or handle it names once it has been read (R50),
whether it has started, RDIDX may pass it and it has completed, and how far its bulk data has come (R58, R61). -/
structure Packet where
  idx : Nat
  bytes : List Byte
  object : Option (List Byte)
  started : Bool
  passed : Bool
  done : Bool
  progress : Nat
deriving DecidableEq, Repr

/-- A user queue (R47-R64). -/
structure Queue where
  en : Bool
  state : QState
  errc : Nat
  widx : Nat
  rdidx : Nat
  doneidx : Nat
  /-- The descriptor as read: RING, QCFG, IDXWB, ERRWB. -/
  ring : Nat
  qcfg : W64
  idxwb : Nat
  errwb : Nat
  /-- Index of the next packet to start, the granules of its slot read so far, by number (R65), whether a read of it
  failed, and the packets read and not yet counted in DONEIDX. -/
  next : Nat
  slot : List (Nat × List Byte)
  slotBad : Bool
  packets : List Packet
  aged : Bool
  ready : Bool
  waitStart : Nat
  /-- The index-block writes that failed (R64): true for RDIDX. -/
  failedWb : List (Bool × Nat)
  /-- An ABORT's WIDX and whether STATE then becomes 0 (R53, R64). -/
  abortTo : Option Bool
  /-- The packet that the last halt concerns, none for ERRC 9 to 11 (R63, R64). -/
  fault : Option Nat
  /-- The descriptor last read has failed R53. -/
  badDesc : Bool
deriving DecidableEq, Repr

/-- A queue at package reset: disabled (R47). -/
def Queue.reset : Queue :=
  ⟨false, .disabled, 0, 0, 0, 0, 0, 0, 0, 0, 0, [], false, [], false, false, 0, [], none, none, false⟩

/-- A TLB entry: job, first virtual page address, page size, leaf (R348). -/
structure TlbEntry where
  job : Nat
  va : Nat
  size : Nat
  leaf : W64
deriving DecidableEq, Repr

/-- The lifetime counters of a stack (R365). -/
structure Life where
  temps : List Nat
  supply : List Nat
  droops : Nat
  corrected : List Nat
  errors : List Nat
  stops : List Nat
deriving DecidableEq, Repr

/-- Counters that have counted nothing. -/
def Life.zero : Life :=
  ⟨List.replicate 288 0, List.replicate 32 0, 0, List.replicate 16 0, List.replicate 16 0, List.replicate 8 0⟩

/-- What a DOE mailbox holds as its answer (R390): the measurements with their ECDSA and LMS signatures, or an SPDM
error. -/
inductive Doe where
  | response (measured : List Nat) (ecdsa lms : Nat)
  | spdmError
deriving DecidableEq, Repr

/-- One stack: packet processor, translation, management block, governor, clock. -/
structure Stack where
  layers : W64
  /-- Physical layers that have failed while the part ran (R13). -/
  lfail : BitVec 5
  qtbase : W64
  queues : List Queue
  lastQ : List Nat
  /-- TIME of the last packet start (R60). -/
  lastStart : Option Nat
  job : Option Nat
  handles : List (Nat × Handle)
  /-- WLOADs chosen and not complete: queue and packet, in the order chosen (R59). -/
  wloads : List (Nat × Nat)
  /-- LAUNCHes and TDEFs held for a change of JOBID: queue and packet, in the order chosen (R75). -/
  waiting : List (Nat × Nat)
  tlb : List TlbEntry
  predl : W64
  req : Bool
  stopped : Bool
  killed : Bool
  restored : Bool
  /-- Management register bits written: CTXBASE, TROOT, the invalidation word and IVA (R338). -/
  ctxbase : W64
  troot : W64
  inval : W64
  iva : W64
  /-- TIME of the REQ write and the job it pre-empts (R339). -/
  reqAt : Option (Nat × Nat)
  /-- Jobs pre-empted here and not restored since: none of their launches starts or is placed (R339, R345). -/
  parked : List Nat
  bootst : W64
  budget : W64
  shut : Bool
  ballast : W64
  stop : Nat
  tstop : Nat
  pstop : Nat
  tgov : BitVec 16
  /-- TIME of the last change of STOP; none before the first (R375). -/
  tchg : Option Nat
  govth : W64
  held : Nat
  token : Nat
  sens : List (BitVec 16)
  stime : Nat
  drpth : W64
  alarm : W64
  /-- Clock: number of the next slot in its duty frame, stop adopted, stretched slots to come, a stretched slot's
  second half, the next halved ic, whether a test alarm waits for its halving's end (R367, R376, R381). -/
  duty : Nat
  adopted : Nat
  stretch : Nat
  half : Bool
  halve : Option Nat
  testing : Bool
  volts : List Int
  voltAt : List Nat
  /-- The TIME of each domain's latest 1 mV step, and whether it went up (R374). -/
  voltLast : List (Nat × Bool)
  refresh : Bool
  scrubLeft : Nat
  hdmaLeft : Nat
  life : Life
  /-- What has happened since the counters were last updated (R365): droops, corrected errors, marks and UE. -/
  fresh : Life
  /-- The counters in the non-volatile store (R365). -/
  nvlife : Life
  /-- The stack's ic of the walker's last placement (R72). -/
  lastPlace : Option Nat
  /-- A clearing has been made since the last image was written (R345). -/
  cleared : Bool
  msix : List Nat
  /-- The function's configuration space, the bytes that are not 0, and the answer in its DOE mailbox (R382, log
  76). -/
  cfg : List Host.Cell
  doe : Option Doe
deriving DecidableEq, Repr

/-- A stack at package reset, before boot: the reset values of R14, R336, R338, R371, R380, R389, R394. -/
def Stack.reset : Stack where
  layers := 0x688F
  lfail := 0
  qtbase := 0
  queues := List.replicate 1024 Queue.reset
  lastQ := List.replicate 4 0
  lastStart := none
  job := none
  handles := []
  wloads := []
  waiting := []
  tlb := []
  predl := 0x00000F4240000032
  req := false
  stopped := false
  killed := false
  restored := false
  ctxbase := 0
  troot := 0
  inval := 0
  iva := 0
  reqAt := none
  parked := []
  bootst := 0
  budget := 0x1040
  shut := false
  ballast := 0
  stop := 0
  tstop := 0
  pstop := 0
  tgov := 0
  tchg := none
  govth := 0x00777573716F6D6B
  held := 1140
  token := 0
  sens := List.replicate 96 0x8000
  stime := 0
  drpth := 35
  alarm := 0
  duty := 0
  adopted := 0
  stretch := 0
  half := false
  halve := none
  testing := false
  volts := List.replicate 5 0
  voltAt := List.replicate 5 0
  voltLast := List.replicate 5 (0, false)
  refresh := false
  scrubLeft := 16384
  hdmaLeft := 256000
  life := Life.zero
  fresh := Life.zero
  nvlife := Life.zero
  lastPlace := none
  cleared := false
  msix := []
  cfg := []
  doe := none

/-- A participant of a launch (R68): its package and stack, the chunks it was granted, the unplaced rest of them, its
grant log as (requester, first t, size), the TIME it last heard each participant, the highest epoch it has seen,
whether it was declared failed and when, its cumulative count of retirements, the count last posted and copied for it
(R84), and the sequencers it has reported and holds for a gang, as pillar and number (R80). -/
structure Part where
  pkg : Nat
  stack : Nat
  granted : List (Nat × Nat)
  unplaced : List (Nat × Nat)
  log : List (Nat × Nat × Nat)
  heard : List Nat
  epoch : Nat
  failed : Option Nat
  retired : Nat
  posted : Nat
  copied : Nat
  held : List (Nat × Nat)
  /-- Its job was killed, and it sends no heartbeat any more; the iterations of it then written as lost (R340). -/
  mute : Bool
  killed : Nat
deriving DecidableEq, Repr

/-- A launch in the walker (R33, R69): its number, the stack, queue and packet it came from, its JOBID, the record's
fields (the job control block by its physical address), the snapshots of its argument block and format image, T, and
its distributed state. -/
structure Launch where
  id : Nat
  stack : Nat
  queue : Nat
  packet : Nat
  job : Nat
  hdr : W64
  entry : W64
  jcb : Nat
  domain : W64
  levels : List (Nat × Int × Nat × Int × Nat)
  args : List Byte
  /-- The sectors of the argument block that were poisoned as it was read (R354). -/
  argMarks : List Nat
  fts : List W32
  total : Nat
  nextT : Nat
  leader : Nat
  epoch : Nat
  /-- An election under way (R85), the participant that gathers the logs (none while the host is asked, R392), and
  whose logs it has. -/
  electing : Bool
  candidate : Option Nat
  gathered : List Nat
  /-- Requests for chunks, each with the tick it reached the leader in, in the order they are answered, and grants on
  their way: requester, first t, size, log holders still to acknowledge (R70, R83). -/
  requests : List (Nat × Nat)
  grants : List (Nat × Nat × Nat × List Nat)
  abandoned : Bool
  /-- What the fabric has told of the members in other packages: package, and the least number of level-4 DSYNCs that
  one of its members not finished counts as issued (R78, R320). -/
  fabric : List (Nat × Nat)
  parts : List Part
  /-- Iterations written as lost so far. -/
  lostN : Nat
  ended : Bool
deriving DecidableEq, Repr

/-- An iteration held only in a context image (R339, R344): its job, the pillar and sequencer it was saved from, the
iteration, and what the dispatchers and the part keep of it beside the image: the sequencer as it was saved and its
cube items (log 32). -/
structure Away where
  job : Nat
  p : Nat
  q : Nat
  iter : Option Iter
  seq : Seq
  items : List CubeItem
deriving DecidableEq, Repr

/-- A flag post on its way (R313): sender pillar, sequencer and issue order (none for an engine's or tray's own),
target pillar, flag, amount and scope. -/
structure Post where
  fromP : Nat
  fromQ : Nat
  order : Nat
  toP : Nat
  k : Nat
  amount : W32
  scope : Nat
deriving DecidableEq, Repr

/-- A housekeeping request (R393): TYPE word, its three other doublewords, and what its answer acts on: the
sequencer and record that wait (a fetch is record 256), the launch that elects; and the FINFO that a refused
translation records. -/
structure HkReq where
  word0 : W64
  word1 : W64
  tag : Nat
  time : Nat
  owner : Nat × Nat
  info : W64
  /-- Written to the ring. -/
  posted : Bool
  answered : Option Bool
deriving DecidableEq, Repr

/-- A step that self-refresh holds at a memory-side point, made without an operation of a sequencer (R286): a
rejection, or losses, reported in a job control block, or a value of an index block. -/
inductive Report where
  | reject (rejc : Nat)
  | lost (n : Nat)
  /-- Iterations killed: completions of before the kill, the CAUSE, the losses (R340). -/
  | kill (done cause n : Nat)
  | bytes (bs : List Byte)
deriving DecidableEq, Repr

/-- What stands held in the queue of a memory-side point (R286): transaction k of the command of a sequencer's record,
with the ranges of bytes it accesses, or a step made without an operation of a sequencer, at a physical address. -/
inductive Standing where
  | access (p q rec_ k : Nat) (ranges : List (Nat × Nat))
  | report (pa : Nat) (r : Report)
deriving DecidableEq, Repr

/-- What an event of the part is of: stack, pillar, sequencer (or queue), launch, participant, record, and further
numbers, a direction and bytes, as the event's meaning says. -/
structure Who where
  st : Nat := 0
  p : Nat := 0
  q : Nat := 0
  l : Nat := 0
  part : Nat := 0
  rec_ : Nat := 0
  k : Nat := 0
  n : Nat := 0
  v : Nat := 0
  up : Bool := false
  bytes : List Byte := []
deriving DecidableEq, Repr

/-- An action still to be made in this half-ns slot. -/
inductive Act where
  /-- A pillar's ic begins: CSR writes due in it take effect; the flag says the issue port may grant (R154, R381). -/
  | icStart (p : Nat) (grant : Bool)
  /-- What else is due in the pillar's ic, one event after another, before the port may grant. -/
  | icRun (p : Nat) (grant : Bool)
  /-- The pillar's issue port grants a long word, if one is ready (R154). -/
  | issue (p : Nat)
  /-- A pillar's renewal port, after the issues of the slot (R257, R367). -/
  | renewal (p : Nat)
  /-- One event of the part. -/
  | event (i : Instr) (w : Who)
  /-- The clocks of the four stacks: which pillars' ic begin in this slot (R367). -/
  | clock
  /-- The free choice of what else happens in this slot. -/
  | async
deriving DecidableEq, Repr

/-- Whose syllable is being executed: pillar, sequencer, slot, the long word's address and the syllable as fetched,
the message popped by the long word (R93), the cause a syllable of it has raised, and the pillar's frames as the C
and Y slots of the long word find them: the table with its M slot's change, the contents from before it (R128); none
between long words. -/
structure Cur where
  p : Nat
  q : Nat
  slot : Nat
  addr : W64
  syl : W32
  mq : Option W64
  trap : Option Raise
  found : List Frame
deriving DecidableEq, Repr

/-- The package. -/
structure State where
  /-- Half ns since package reset: TIME is half of it (R19, R367). -/
  tick : Nat
  /-- Device, weight-store, pod and host memory by physical address: the bytes that are not 0 (log 1). -/
  mem : List Host.Cell
  /-- Poisoned memory sectors (R354): physical address divided by 32, rising. -/
  poison : List Nat
  stks : List Stack
  pillars : List Pillar
  launches : List Launch
  nextLaunch : Nat
  away : List Away
  posts : List Post
  /-- Credits on their way: the queue's pillar, the sender's stack, the tick by which they return (R317). -/
  credits : List (Nat × Nat × Nat)
  selfRefresh : List Bool
  /-- What stands held at memory-side points, in the order in which it came there (R286). -/
  standing : List Standing
  pkgbud : Nat
  pkgbudDue : Bool
  tokenAt : Nat
  tokenF : Nat
  fnmode : BitVec 5
  fnmodeNext : BitVec 5
  hkbase : W64
  hkw : Nat
  hkr : Nat
  hkreqs : List HkReq
  pkg : Nat
  /-- Packages whose routes are written and whose TIME is aligned (R386). -/
  aligned : List Nat
  signatures : Nat
  /-- The model's own fields. -/
  nonce : Nat
  env : List (Nat × Instr × Who)
  agenda : List Act
  cur : Cur
  /-- What the event being made is of. -/
  who : Who
deriving DecidableEq, Repr

/-- What an address no write has touched reads as (log 1). -/
def memDefault : Byte := 0

/-- Right after package reset: every field at the value the manual gives (INVENTORY.md), the boot still to run. -/
def State.reset : State where
  tick := 0
  mem := []
  poison := []
  stks := List.replicate 4 Stack.reset
  pillars := List.replicate 128 Pillar.reset
  launches := []
  nextLaunch := 0
  away := []
  posts := []
  credits := []
  selfRefresh := List.replicate 8 false
  standing := []
  pkgbud := 5200
  pkgbudDue := false
  tokenAt := 0
  tokenF := 0
  fnmode := 0
  fnmodeNext := 0
  hkbase := 0
  hkw := 0
  hkr := 0
  hkreqs := []
  pkg := 0
  aligned := []
  signatures := 0
  nonce := 0
  env := []
  agenda := [.event .packageReset {}]
  cur := ⟨0, 0, 0, 0, 0, none, none, []⟩
  who := {}

end Sys2Proof.Machine
end

