-- ==== Sys2Proof/Machine/Bits.lean ====
section
/-! DEFINITION. Bit fields, byte orders, list updates and the sparse byte store, written once. -/

namespace Sys2Proof.Machine

/-- The element at place n changed by f; a list without place n as it is. -/
def upd {α : Type} : List α → Nat → (α → α) → List α
  | [], _, _ => []
  | x :: xs, 0, f => f x :: xs
  | x :: xs, n + 1, f => x :: upd xs n f

/-- Bits [lo+n-1:lo] of a word, as a number. -/
def bits {w : Nat} (x : BitVec w) (lo n : Nat) : Nat := (x.extractLsb' lo n).toNat

/-- Bit k of a word. -/
def bit {w : Nat} (x : BitVec w) (k : Nat) : Bool := x.getLsbD k

/-- A word with bits [lo+n-1:lo] replaced by the low n bits of v. -/
def setBits {w : Nat} (x : BitVec w) (lo n : Nat) (v : Nat) : BitVec w :=
  (x &&& ~~~(BitVec.ofNat w ((2 ^ n - 1) <<< lo))) ||| BitVec.ofNat w ((v % 2 ^ n) <<< lo)

/-- A Boolean as a bit in place k of a doubleword. -/
def asBit (b : Bool) (k : Nat) : W64 := if b then BitVec.ofNat 64 (2 ^ k) else 0

/-- A number as bits [n+lo-1:lo] of a doubleword, cut to n bits. -/
def field (v lo n : Nat) : W64 := BitVec.ofNat 64 ((v % 2 ^ n) <<< lo)

/-- The little-endian number of a list of bytes (R3). -/
def leNat : List Byte → Nat
  | [] => 0
  | b :: bs => b.toNat + 256 * leNat bs

/-- The n low bytes of a number, lowest first (R3). -/
def leBytes : Nat → Nat → List Byte
  | 0, _ => []
  | n + 1, v => BitVec.ofNat 8 v :: leBytes n (v / 256)

/-- Reads one byte of a sparse store: an unlisted address reads as `memDefault`. -/
def Mem.read : List Host.Cell → Nat → Byte
  | [], _ => memDefault
  | (b, v) :: m, a => if a = b then v else Mem.read m a

/-- Writes one byte, keeping the addresses rising and listing no byte equal to `memDefault`. -/
def Mem.write : List Host.Cell → Nat → Byte → List Host.Cell
  | [], a, v => if v = memDefault then [] else [(a, v)]
  | (b, w) :: m, a, v =>
    if a < b then (if v = memDefault then (b, w) :: m else (a, v) :: (b, w) :: m)
    else if a = b then (if v = memDefault then m else (a, v) :: m)
    else (b, w) :: Mem.write m a v

/-- Reads n bytes from address a upward. -/
def Mem.readN (m : List Host.Cell) (a : Nat) : Nat → List Byte
  | 0 => []
  | n + 1 => Mem.read m a :: Mem.readN m (a + 1) n

/-- Writes bytes from address a upward. -/
def Mem.writeN : List Host.Cell → Nat → List Byte → List Host.Cell
  | m, _, [] => m
  | m, a, b :: bs => Mem.writeN (Mem.write m a b) (a + 1) bs

/-- The addresses rise strictly and every one lies above the bound. -/
def Mem.above : Nat → List Host.Cell → Bool
  | _, [] => true
  | lo, (a, v) :: m => decide (lo ≤ a) && decide (v ≠ memDefault) && Mem.above (a + 1) m

/-- The canonical form: strictly rising addresses, no byte equal to what an unlisted address reads as. -/
def Mem.wf (m : List Host.Cell) : Bool := Mem.above 0 m

/-- The little-endian number of n bytes of a store. -/
def Mem.nat (m : List Host.Cell) (a n : Nat) : Nat := leNat (Mem.readN m a n)

/-- The 32-byte sectors (R238, R354) that n bytes from address a touch. -/
def sectorsOf (a n : Nat) : List Nat :=
  if n = 0 then [] else (List.range ((a + n - 1) / 32 - a / 32 + 1)).map (a / 32 + ·)

/-- The poison marks left after a write of n bytes at a: a wholly covered sector loses its mark (R354). -/
def unmark (marks : List Nat) (a n : Nat) : List Nat :=
  marks.filter fun k => !(a ≤ 32 * k && 32 * k + 32 ≤ a + n)

/-- The poison marks with a sector marked. -/
def mark (marks : List Nat) (k : Nat) : List Nat := if marks.contains k then marks else k :: marks

/-- Whether element e = 64·row + column of a 16 × 64 register is enabled in a predicate (R94). -/
def PReg.on (p : PReg) (e : Nat) : Bool := bit (p.getD (e / 64) 0) (e % 64)

/-- A 16-row predicate from a test of each element. -/
def PReg.of (f : Nat → Bool) : PReg :=
  (List.range 16).map fun r =>
    (List.range 64).foldl (fun (w : W64) c => if f (64 * r + c) then w ||| BitVec.ofNat 64 (2 ^ c) else w) 0

/-- The elements of the new value where the mask is set, of the old value elsewhere. -/
def mergeMask (mask : PReg) (old new : VReg) : VReg :=
  (List.range 1024).map fun e => if mask.on e then new.getD e 0 else old.getD e 0

/-- A 1,024-element register from a function of the element's place. -/
def VReg.of (f : Nat → W32) : VReg := (List.range 1024).map f

/-- The value of list l at place i, 0 beyond its end. -/
def at0 {w : Nat} (l : List (BitVec w)) (i : Nat) : BitVec w := l.getD i 0

/-- A 64-bit value as a signed number. -/
def sgn (x : W64) : Int := x.toInt

/-- The doubleword of an integer modulo 2^64. -/
def ofInt64 (x : Int) : W64 := BitVec.ofInt 64 x

/-- The word of an integer modulo 2^32. -/
def ofInt32 (x : Int) : W32 := BitVec.ofInt 32 x

end Sys2Proof.Machine
end

