-- ==== Sys2Proof/Machine/Access.lean ====
section
/-! DEFINITION. Reading and changing the parts of the package by place: stacks, pillars, sequencers, frames, and
the current long word's own. -/

namespace Sys2Proof.Machine

/-- TIME in ns (R19, R367). -/
def State.time (s : State) : Nat := s.tick / 2
/-- The pillar with a package index (R15). -/
def State.pillar (s : State) (p : Nat) : Pillar := s.pillars.getD p Pillar.reset
/-- Sequencer q of a pillar. -/
def State.seq (s : State) (p q : Nat) : Seq := (s.pillar p).seqs.getD q Seq.reset
/-- Stack st. -/
def State.stack (s : State) (st : Nat) : Stack := s.stks.getD st Stack.reset
/-- The stack of a pillar (R15). -/
def stackOf (p : Nat) : Nat := p / 32
/-- The pillars of a stack. -/
def pillarsOf (st : Nat) : List Nat := (List.range 32).map (32 * st + ·)

/-- Every stack's number. -/
def allStacks : List Nat := List.range 4
/-- Every pillar's package index. -/
def allPillars : List Nat := List.range 128
/-- Every sequencer, as pillar and number. -/
def allSeqs : List (Nat × Nat) := allPillars.flatMap fun p => [(p, 0), (p, 1)]

/-- The package with one pillar changed. -/
def State.onPillar (s : State) (p : Nat) (f : Pillar → Pillar) : State := { s with pillars := upd s.pillars p f }
/-- The package with one sequencer changed. -/
def State.onSeq (s : State) (p q : Nat) (f : Seq → Seq) : State :=
  s.onPillar p fun P => { P with seqs := upd P.seqs q f }
/-- The package with one stack changed. -/
def State.onStack (s : State) (st : Nat) (f : Stack → Stack) : State := { s with stks := upd s.stks st f }

/-- The pillar, sequencer and stack of the long word being issued. -/
def State.mine (s : State) : Pillar := s.pillar s.cur.p
/-- The sequencer of the long word being issued. -/
def State.me (s : State) : Seq := s.seq s.cur.p s.cur.q
/-- The stack of the long word being issued. -/
def State.myStack (s : State) : Stack := s.stack (stackOf s.cur.p)
/-- The package with the current pillar changed. -/
def State.onMine (s : State) (f : Pillar → Pillar) : State := s.onPillar s.cur.p f
/-- The package with the current sequencer changed. -/
def State.onMe (s : State) (f : Seq → Seq) : State := s.onSeq s.cur.p s.cur.q f

/-- A frame of a pillar. -/
def State.frame (s : State) (p f : Nat) : Frame := (s.pillar p).frames.getD f Frame.cleared
/-- A flag of a pillar. -/
def State.flag (s : State) (p k : Nat) : W32 := at0 (s.pillar p).flags k

/-- Sets the event latch of one sequencer (R199). -/
def State.wakeSeq (s : State) (p q : Nat) : State := s.onSeq p q fun x => { x with latch := true }
/-- Sets the event latches of both sequencers of a pillar (R199). -/
def State.wake (s : State) (p : Nat) : State := (s.wakeSeq p 0).wakeSeq p 1

/-- One frame changed; a change of state or phase is an event of the pillar (R199). -/
def State.onFrame (s : State) (p f : Nat) (g : Frame → Frame) : State :=
  let a := s.frame p f
  let b := g a
  let s' := s.onPillar p fun P => { P with frames := upd P.frames f fun _ => b }
  if a.state = b.state ∧ a.ph = b.ph then s' else s'.wake p

/-- A frame as a check of the current long word's C or Y slot finds it (R128); as it stands between long words. -/
def State.foundFrame (s : State) (p f : Nat) : Frame :=
  if p = s.cur.p then (s.cur.found[f]?).getD (s.frame p f) else s.frame p f

/-- One flag set to a value; every change is an event of the pillar (R308). -/
def State.setFlag (s : State) (p k : Nat) (v : W32) : State :=
  (s.onPillar p fun P => { P with flags := upd P.flags k fun _ => v }).wake p

/-- An amount added to a flag, modulo 2^32 (R308). -/
def State.addFlag (s : State) (p k : Nat) (v : W32) : State := s.setFlag p k (s.flag p k + v)

/-- A post reaches a flag: one that comes after the issue of an ic counts for the next ic, in which a KSET leaves it
standing (R309). -/
def State.postFlag (s : State) (p k : Nat) (v : W32) : State :=
  (s.addFlag p k v).onPillar p fun P =>
    { P with newPosts := P.newPosts.filter (fun n => P.ic ≤ n.1) ++ [(P.ic + 1, k, v)] }

/-- What the posts of the ic under way have added to a flag (R309). -/
def Pillar.postedNow (P : Pillar) (k : Nat) : W32 :=
  (P.newPosts.filter fun n => n.1 = P.ic && n.2.1 = k).foldl (fun v n => v + n.2.2) 0

/-- The next free choice (log 3), and the state with the counter advanced. -/
def State.choose (s : State) : Nat × State := (Config.choice s.nonce, { s with nonce := s.nonce + 1 })

/-- The physical address's bytes: the package's own memory in the pod range is its HBM (R384). -/
def State.canonPa (s : State) (pa : Nat) : Nat :=
  if 0x8000000000000 + 0x8000000000 * s.pkg ≤ pa ∧ pa < 0x8000000000000 + 0x8000000000 * s.pkg + 0x6000000000 then
    pa - (0x8000000000000 + 0x8000000000 * s.pkg)
  else pa

/-- Reads a byte of memory; a poisoned sector reads as zeros (R354). -/
def State.readByte (s : State) (pa : Nat) : Byte :=
  let a := s.canonPa pa
  if s.poison.contains (a / 32) then 0 else Mem.read s.mem a

/-- Reads n bytes of memory from a physical address. -/
def State.readMem (s : State) (pa : Nat) : Nat → List Byte
  | 0 => []
  | n + 1 => s.readByte pa :: s.readMem (pa + 1) n

/-- Writes bytes at a physical address; a wholly written sector loses its poison mark (R354). -/
def State.writeMem (s : State) (pa : Nat) (bs : List Byte) : State :=
  let a := s.canonPa pa
  { s with mem := Mem.writeN s.mem a bs, poison := unmark s.poison a bs.length }

/-- Marks a memory sector as poisoned (R354). -/
def State.poisonMem (s : State) (pa : Nat) : State := { s with poison := mark s.poison (s.canonPa pa / 32) }

/-- The doubleword at a physical address. -/
def State.read64 (s : State) (pa : Nat) : Nat := leNat (s.readMem pa 8)

/-- Reads n bytes of a frame; a poisoned sector reads as zeros (R354). -/
def Frame.readN (F : Frame) (off : Nat) : Nat → List Byte
  | 0 => []
  | n + 1 => (if F.poison.contains (off / 32) then 0 else Mem.read F.data off) :: F.readN (off + 1) n

/-- The little-endian number of n bytes of a frame. -/
def Frame.nat (F : Frame) (off n : Nat) : Nat := leNat (F.readN off n)

/-- Writes bytes into a frame; wholly written sectors lose their marks (R354). -/
def Frame.writeN (F : Frame) (off : Nat) (bs : List Byte) : Frame :=
  { F with data := Mem.writeN F.data off bs, poison := unmark F.poison off bs.length }

/-- Whether n bytes of a frame touch a poisoned sector. -/
def Frame.isPoisoned (F : Frame) (off n : Nat) : Bool := (sectorsOf off n).any F.poison.contains

/-- A frame's size in bytes (R252). -/
def Frame.bytes (F : Frame) : Nat := 4096 * F.size

end Sys2Proof.Machine
end

