-- ==== Sys2Proof/Machine/Operands.lean ====
section
/-! DEFINITION. Operand forms: the names and their rotation (R95), scalar sources and destinations (R131), vector and
predicate operands, the hold latches (R203), and how a result is put in flight and lands (R91, R158, R162). -/

namespace Sys2Proof.Machine

/-- The physical number of a vector name: v16-v31 rotate (R95). -/
def physV (rb : BitVec 4) (v : Nat) : Nat := if v < 16 then v else 16 + (v - 16 + rb.toNat) % 16
/-- The physical number of a scalar predicate name: c8-c15 rotate (R95). -/
def physC (rb : BitVec 4) (c : Nat) : Nat := if c < 8 then c else 8 + (c - 8 + rb.toNat) % 8

/-- A scalar source code: q0-q15, s0 as 0, s1-s14, and 31 the popped message (R92, R93, R131). -/
def State.src (s : State) (code : BitVec 5) : W64 :=
  if code.toNat < 16 then at0 s.me.queue code.toNat
  else if code.toNat = 16 then 0
  else if code.toNat = 31 then s.cur.mq.getD 0
  else at0 s.me.named (code.toNat - 16)

/-- A vector register as read at issue (R96). -/
def State.vreg (s : State) (v : BitVec 5) : VReg := s.me.vregs.getD (physV s.me.rbase v.toNat) (vfill 0)
/-- A vector predicate as read at issue; p0 reads all ones (R94). -/
def State.vpred (s : State) (p : BitVec 3) : PReg := if p = 0 then pOnes else s.me.vpreds.getD p.toNat pZero
/-- An accumulator tile of the current sequencer. -/
def State.acc (s : State) (a : BitVec 3) : Acc := s.me.accs.getD a.toNat Acc.zero
/-- A direction register's 1,024 components (R98). -/
def State.dir (s : State) (d : BitVec 3) : List W16 := s.me.dirs.getD d.toNat (List.replicate 1024 0)
/-- A norm file's 16 norms (R98). -/
def State.norms (s : State) (d : BitVec 3) : List W16 := s.me.norms.getD d.toNat (List.replicate 16 0x8000)

/-- Operand A of a V-slot syllable under its H field (R203). -/
def State.holdV (s : State) (h : BitVec 2) (a : BitVec 5) : VReg :=
  if h = 2 then s.me.vHold.getD (vfill 0) else s.vreg a
/-- Operand A of an F-slot syllable under its H field (R203). -/
def State.holdF (s : State) (h : BitVec 2) (a : BitVec 5) : VReg :=
  if h = 2 then s.me.fHold.getD (vfill 0) else s.vreg a
/-- What H leaves in a latch (R203). -/
def latchAfter (h : BitVec 2) (old : Option VReg) (a : VReg) : Option VReg :=
  if h = 1 then some a else if h = 3 then none else old
/-- The V hold latch after a syllable (R203). -/
def State.keepV (s : State) (h : BitVec 2) (a : BitVec 5) : State :=
  s.onMe fun q => { q with vHold := latchAfter h q.vHold (s.vreg a) }
/-- The F hold latch after a syllable (R203). -/
def State.keepF (s : State) (h : BitVec 2) (a : BitVec 5) : State :=
  s.onMe fun q => { q with fHold := latchAfter h q.fHold (s.vreg a) }

/-- A result put in flight by the current syllable, to land after a latency (R158). -/
def State.result (s : State) (lat : Nat) (what : Payload) : State :=
  s.onMe fun q => { q with inflight := q.inflight ++ [⟨s.mine.ic + lat, s.cur.slot, q.order, what⟩] }

/-- A scalar result to a destination code: 0 pushes, 16 (s0) is discarded, 17-30 name s1-s14 (R92, R131). -/
def State.toDest (s : State) (lat : Nat) (d : BitVec 5) (v : W64) : State :=
  if d = 0 then s.result lat (.push v)
  else if d.toNat = 16 then s
  else s.result lat (.named (d.toNat - 16) v)

/-- A scalar predicate result; the name maps at issue (R95). -/
def State.toPred (s : State) (lat : Nat) (k : BitVec 4) (b : Bool) : State :=
  s.result lat (.pred (physC s.me.rbase k.toNat) b)

/-- A vector result on the elements of a mask; the name maps at issue (R95, R202). -/
def State.toVec (s : State) (lat : Nat) (d : BitVec 5) (v : VReg) (mask : PReg) : State :=
  s.result lat (.vec (physV s.me.rbase d.toNat) v mask)

/-- The tile's elements written under a mask. -/
def Acc.landElems (a : Acc) (v : VReg) (mask : PReg) : Acc := { a with elems := mergeMask mask a.elems v }
/-- The side positions written. -/
def Acc.landSide (a : Acc) (vs : List (Nat × W32)) : Acc :=
  { a with side := vs.foldl (fun l kv => upd l kv.1 fun _ => kv.2) a.side }

/-- The rows of a direction register selected by a row mask, from new values. -/
def mergeRows (rows : BitVec 16) (old new : List W16) (width : Nat) : List W16 :=
  (List.range (16 * width)).map fun i => if bit rows (i / width) then at0 new i else at0 old i

/-- The bits of the new predicate where the mask is set, of the old one elsewhere (R209, R217). -/
def mergePred (mask old new : PReg) : PReg :=
  (List.range 16).map (fun i => (at0 old i &&& ~~~at0 mask i) ||| (at0 new i &&& at0 mask i))

/-- `CHKINT` with bits set; the poison bit takes PSITE only when it was 0 (R353). -/
def chkSet (old bitsSet : W64) : W64 :=
  if bit bitsSet 0 && !bit old 0 then (old &&& ~~~0xF00) ||| bitsSet else old ||| (bitsSet &&& 0xFF)

/-- `CHKINT` bits set, noted for this ic (R353). -/
def Seq.setChk (q : Seq) (b : W64) : Seq := { q with chkint := chkSet q.chkint b, chkNow := chkSet q.chkNow b }

/-- What one result does to its sequencer when it lands (R91, R162). -/
def Payload.land (x : Payload) (q : Seq) : Seq :=
  match x with
  | .named r v => { q with named := upd q.named r fun _ => v }
  | .push v => { q with queue := v :: q.queue.take 15 }
  | .pred c b => { q with preds := upd q.preds c fun _ => b }
  | .vec r v m => { q with vregs := upd q.vregs r fun o => mergeMask m o v }
  | .vpred r v m => { q with vpreds := upd q.vpreds r fun o => mergePred m o v }
  | .acc r v m => { q with accs := upd q.accs r fun a => a.landElems v m }
  | .side r vs => { q with accs := upd q.accs r fun a => a.landSide vs }
  | .dir r v rows => { q with dirs := upd q.dirs r fun o => mergeRows rows o v 64 }
  | .norm r v rows => { q with norms := upd q.norms r fun o => mergeRows rows o v 1 }
  | .chk b => q.setChk b

/-- What a destination of a result holds now: the result that would write it back (R358); the queue, the named file
and the scalar predicates have their snapshots. -/
def Payload.saved (x : Payload) (q : Seq) : Option Payload :=
  match x with
  | .vec r _ m => some (.vec r (q.vregs.getD r (vfill 0)) m)
  | .vpred r _ m => some (.vpred r (q.vpreds.getD r pZero) m)
  | .acc r _ m => some (.acc r (q.accs.getD r Acc.zero).elems m)
  | .side r vs => some (.side r (vs.map fun kv => (kv.1, at0 (q.accs.getD r Acc.zero).side kv.1)))
  | .dir r _ rows => some (.dir r (q.dirs.getD r []) rows)
  | .norm r _ rows => some (.norm r (q.norms.getD r []) rows)
  | .named .. | .push _ | .pred .. | .chk _ => none

/-- The landing order: by landing ic, then slot, then the long words' issue order (R91, R162). -/
def Landing.before (a b : Landing) : Bool :=
  a.land < b.land || (a.land = b.land && (a.slot < b.slot || (a.slot = b.slot && a.order ≤ b.order)))

/-- Insertion into a list in landing order, after its equals. -/
def insertLanding (x : Landing) : List Landing → List Landing
  | [] => [x]
  | y :: ys => if y.before x then y :: insertLanding x ys else x :: y :: ys

/-- Results in landing order. -/
def sortLandings (xs : List Landing) : List Landing := xs.foldl (fun acc x => insertLanding x acc) []

/-- Every result due by an ic lands, in order (R91, R158, R162). -/
def Seq.landUpTo (q : Seq) (t : Nat) : Seq :=
  (sortLandings (q.inflight.filter fun x => x.land ≤ t)).foldl (fun q x => x.what.land q)
    { q with inflight := q.inflight.filter fun x => t < x.land }

/-- Whether a result that has not landed, or waits in a latch bank, writes a tile (R157). -/
def Seq.accInFlight (q : Seq) (a : Nat) : Bool :=
  (q.inflight ++ q.userBank.entries ++ q.supBank.entries).any fun l => match l.what with
    | .acc r _ _ | .side r _ => r = a
    | _ => false

end Sys2Proof.Machine
end

