-- ==== Sys2Proof/Machine/Flags.lean ====
section
/-! DEFINITION. Predicates and sticky bits: the scalar predicates that guard slots (R94, R156), the compares of R180,
R209, flag distance (R310), and the bits of `CHKINT` (R353). -/

namespace Sys2Proof.Machine

/-- A scalar predicate by name; c0 reads true (R94). -/
def State.cpred (s : State) (c : BitVec 4) : Bool :=
  if c = 0 then true else s.me.preds.getD (physC s.me.rbase c.toNat) false

/-- Whether a syllable's guard enables it (R129, R156). -/
def State.guardOn (s : State) (g : Guard) : Bool := xor (s.cpred g.ps) (g.pn = 1)

/-- A flag has reached a target (R310). -/
def flagReached (k t : W32) : Bool := 0 ≤ (k - t).toInt

/-- `CHKINT.POIS` set by a consumption in a unit, PSITE with the first (R353, R355). -/
def Seq.setPois (q : Seq) (unit : Nat) : Seq := q.setChk (1 ||| field unit 8 4)
/-- `CHKINT.FMT` set (R353). -/
def Seq.setFmt (q : Seq) : Seq := q.setChk 2
/-- `CHKINT.DIR` set (R353). -/
def Seq.setDir (q : Seq) : Seq := q.setChk 4
/-- `CHKINT.BNDF` set (R353). -/
def Seq.setBndf (q : Seq) : Seq := q.setChk 8
/-- `CHKINT.BNDC` set (R353). -/
def Seq.setBndc (q : Seq) : Seq := q.setChk 16

/-- The compare of VICMP by its CC code on signed words (R209). -/
def intCompare (cc : Nat) (a b : W32) : Bool :=
  match cc with
  | 0 => a = b
  | 1 => a ≠ b
  | 2 => a.slt b
  | 3 => a.sle b
  | 4 => b.slt a
  | _ => b.sle a

end Sys2Proof.Machine
end

