-- ==== Sys2Proof/Machine/Csr.lean ====
section
/-! DEFINITION. The CSRs: their layouts as read, what a write changes, and the pending writes that take effect two ic
later (R76, R90, R95, R100-R105, R183, R184, R254, R330, R331, R336, R353, R359, R364, R369, R377, R380, R391). -/

namespace Sys2Proof.Machine

/-- The number of set bits among the low n bits. -/
def popN {w : Nat} (x : BitVec w) (n : Nat) : Nat := ((List.range n).filter fun i => bit x i).length

/-- A launch by its number. -/
def State.launch? (s : State) (id : Nat) : Option Launch := s.launches.find? fun l => l.id = id

/-- Sequencers selected on each selected pillar (R28). -/
def domSeqs (dom : W64) : Nat := popN (dom.extractLsb' 36 2) 2

/-- The members of a sequencer's group at levels 1 to 4 (R77): the level-1 group is its pillar row, or with AX1 its
pillar column. -/
def domMembers (dom : W64) (p : Nat) (ax1 : Bool) : List Nat :=
  let i := p % 32
  let inGroup := fun j => bit dom j && (if ax1 then j % 8 = i % 8 else j / 8 = i / 8)
  let m1 := ((List.range 32).filter inGroup).length * domSeqs dom
  let m2 := popN dom 32 * domSeqs dom
  let m3 := m2 * popN (dom.extractLsb' 32 4) 4
  let m4 := if bit dom 38 then m3 * (bits dom 49 10 + 1) else m3
  [m1, m2, m3, m4]

/-- The launch of a sequencer's iteration. -/
def State.launchOf (s : State) (p q : Nat) : Option Launch := (s.seq p q).iter.bind fun i => s.launch? i.launch

/-- `ID` (R16). -/
def State.idCsr (s : State) (p q : Nat) : W64 :=
  field q 0 1 ||| field (p % 8) 1 3 ||| field (p % 32 / 8) 4 2 ||| field (p / 32) 6 2 ||| field s.pkg 8 10

/-- `DOMM` (R76). -/
def Seq.domm (q : Seq) : W64 :=
  asBit q.ax1 0 ||| field (q.members.getD 0 0) 8 5 ||| field (q.members.getD 1 0) 13 7 |||
    field (q.members.getD 2 0) 20 9 ||| field (q.members.getD 3 0) 29 19 |||
    asBit (q.syncs.getD 0 0 % 2 = 1) 48 ||| asBit (q.syncs.getD 1 0 % 2 = 1) 49 |||
    asBit (q.syncs.getD 2 0 % 2 = 1) 50 ||| asBit (q.syncs.getD 3 0 % 2 = 1) 51

/-- `XPOS` (R100): a position is its row above its column. -/
def Seq.xpos (q : Seq) : W64 := field q.wpos.toNat 0 10 ||| field q.rpos.toNat 16 10

/-- `STATUS` (R102). -/
def State.statusCsr (s : State) (p q : Nat) : W64 :=
  let x := s.seq p q
  asBit x.mode 0 ||| asBit x.pmode 1 ||| asBit x.bd 2 ||| asBit (s.stack (stackOf p)).req 3 |||
    field x.regions.length 4 3

/-- The watchdog limit in ns (R336). -/
def Stack.wdl (k : Stack) : Nat := 1000 * max 1 (bits k.predl 24 24)
/-- The pre-emption deadline in ns (R336). -/
def Stack.pdl (k : Stack) : Nat := 1000 * max 1 (bits k.predl 0 24)

/-- `GOVSTOP` (R377). -/
def Stack.govstop (k : Stack) : W64 :=
  field k.stop 0 3 ||| field k.tstop 3 3 ||| field k.pstop 6 3 ||| field k.tgov.toNat 16 16 |||
    field (match k.tchg with
      | some t => t / 1000
      | none => 0) 32 32

/-- A CSR as a read in this ic sees it (R103). -/
def State.csrRead (s : State) (p q num : Nat) : W64 :=
  let x := s.seq p q
  let k := s.stack (stackOf p)
  let P := s.pillar p
  match num with
  | 0x000 => s.idCsr p q
  | 0x001 => k.layers
  | 0x002 => x.domm
  | 0x003 => field x.rbase.toNat 0 4
  | 0x004 => x.xpos
  | 0x005 => field x.lpitch.toNat 0 16
  | 0x006 => x.chkint
  | 0x007 => k.ballast
  | 0x008 => k.govstop
  | 0x009 => field P.fadeCount.toNat 0 48 ||| field P.fadeInc.toNat 48 16
  | 0x100 => s.statusCsr p q
  | 0x101 => x.tvec
  | 0x102 => x.epc
  | 0x103 => x.ecause
  | 0x104 => x.einfo
  | 0x105 => x.ebt
  | 0x106 => x.sscr0
  | 0x107 => x.sscr1
  | 0x108 => P.errinj
  | 0x110 => field (max 1 (bits k.predl 0 24)) 0 24 ||| field (max 1 (bits k.predl 24 24)) 24 24
  | 0x111 => k.drpth
  | 0x112 => field s.fnmodeNext.toNat 0 5
  | 0x113 => k.qtbase
  | n => if 0x010 ≤ n ∧ n ≤ 0x017 then at0 x.bnds (n - 0x010) else 0

/-- Bits [51:5], the address fields of R330. -/
def addrBits (v : W64) : W64 := v &&& 0x000FFFFFFFFFFFE0

/-- `CHKINT` after its W1C bits are cleared; PSITE goes with POIS (R183, R353). -/
def chkClear (old a : W64) : W64 :=
  let x := old &&& ~~~(a &&& 0x1F)
  if bit a 0 then x &&& ~~~0xF00 else x

/-- `DOMM` written: AX1, and M1 recomputed from it; ignored while the level-1 phase is 1 (R77). -/
def State.writeDomm (s : State) (p q : Nat) (v : W64) : State :=
  if (s.seq p q).syncs.getD 0 0 % 2 = 1 then s else
  let m1 := (s.launchOf p q).map fun l => (domMembers l.domain p (bit v 0)).getD 0 0
  s.onSeq p q fun x => { x with
    ax1 := bit v 0
    members := upd x.members 0 fun old => m1.getD old }

/-- A CSR written with a value: RO fields and read-only CSRs keep what they hold (R105). A whole write that its page
refuses changes nothing (R364, R380). -/
def State.csrPut (s : State) (p q num : Nat) (v : W64) : State :=
  let onQ := s.onSeq p q
  let onK := s.onStack (stackOf p)
  match num with
  | 0x002 => s.writeDomm p q v
  | 0x003 => onQ fun x => { x with rbase := v.extractLsb' 0 4 }
  | 0x004 => onQ fun x => { x with wpos := v.extractLsb' 0 10, rpos := v.extractLsb' 16 10 }
  | 0x005 => onQ fun x => { x with lpitch := v.extractLsb' 0 16 }
  | 0x006 => onQ fun x => { x with chkint := chkClear x.chkint v }
  | 0x100 => onQ fun x => { x with pmode := bit v 1, bd := bit v 2 }
  | 0x101 => onQ fun x => { x with tvec := addrBits v }
  | 0x102 => onQ fun x => { x with epc := addrBits v }
  | 0x103 => onQ fun x => { x with ecause := v &&& 0x1FF }
  | 0x104 => onQ fun x => { x with einfo := v }
  | 0x105 => onQ fun x => { x with ebt := addrBits v }
  | 0x106 => onQ fun x => { x with sscr0 := v }
  | 0x107 => onQ fun x => { x with sscr1 := v }
  | 0x108 =>
    if bits v 19 2 = 3 then s else s.onPillar p fun P => { P with errinj := v &&& 0x0003FFFFFFFFFFFF }
  | 0x110 => onK fun k => { k with predl := v &&& 0x0000FFFFFFFFFFFF }
  | 0x111 =>
    if 10 ≤ bits v 0 8 ∧ bits v 0 8 ≤ 100 then onK fun k => { k with drpth := setBits k.drpth 0 8 (bits v 0 8) } else s
  | 0x112 => { s with fnmodeNext := v.extractLsb' 0 5 }
  | 0x113 => onK fun k => { k with qtbase := v &&& ~~~0x3F }
  | n =>
    if 0x010 ≤ n ∧ n ≤ 0x017 then
      onQ fun x => { x with bnds := upd x.bnds (n - 0x010) fun _ => v &&& 0x7FFFFFFFFFFFFFFF }
    else s

/-- A pending change takes effect: CSRS and CSRC act on the value then in force, a W1C field is cleared by CSRW and
CSRS and left by CSRC, a rotation takes one from BASE (R95, R183, R184). -/
def State.csrApply (s : State) (p q : Nat) (w : CsrWrite) : State :=
  match w.change with
  | .write => s.csrPut p q w.num w.value
  | .set => s.csrPut p q w.num (if w.num = 0x006 then w.value else s.csrRead p q w.num ||| w.value)
  | .clear => if w.num = 0x006 then s else s.csrPut p q w.num (s.csrRead p q w.num &&& ~~~w.value)
  | .rotate => s.onSeq p q fun x => { x with rbase := x.rbase - 1 }

/-- The order of pending changes: by the ic they take effect in, then slot, a rotation last (R184). -/
def CsrWrite.before (a b : CsrWrite) : Bool := a.at_ < b.at_ || (a.at_ = b.at_ && a.slot ≤ b.slot)

/-- Insertion into a list in that order, after its equals. -/
def insertCsr (x : CsrWrite) : List CsrWrite → List CsrWrite
  | [] => [x]
  | y :: ys => if y.before x then y :: insertCsr x ys else x :: y :: ys

/-- Every change of one sequencer due by an ic takes effect, in order (R105). -/
def State.csrUpTo (s : State) (p q t : Nat) : State :=
  let due := ((s.seq p q).csrws.filter fun w => w.at_ ≤ t).foldl (fun acc w => insertCsr w acc) []
  due.foldl (fun s w => s.csrApply p q w)
    (s.onSeq p q fun x => { x with csrws := x.csrws.filter fun w => t < w.at_ })

/-- Every pending change of one sequencer takes effect, as trap entry has it (R335). -/
def State.csrFlush (s : State) (p q : Nat) : State :=
  let due := (s.seq p q).csrws.foldl (fun acc w => insertCsr w acc) []
  due.foldl (fun s w => s.csrApply p q w) (s.onSeq p q fun x => { x with csrws := [] })

/-- A change noted by the current syllable: it takes effect two ic after issue (R105). -/
def State.csrNote (s : State) (num : Nat) (c : CsrChange) (v : W64) : State :=
  s.onMe fun x => { x with csrws := x.csrws ++ [⟨s.mine.ic + 2, s.cur.slot, num, c, v⟩] }

end Sys2Proof.Machine
end

