-- ==== Sys2Proof/Machine/Ops.lean ====
section
/-! DEFINITION. The shared operations: frame states (R253), asynchronous records (R332) and what cancelling one does
(R327, R357), trap entry (R335) and return (R337), unwinding (R197), and the guard and mq rules every syllable obeys
(R93, R156). -/

namespace Sys2Proof.Machine

/-- What a step answers. -/
abbrev Outcome := Host.Outcome State Fault Refusal

/-- The cause codes of R328. -/
abbrev cIllegal : Nat := 1
abbrev cIllseq : Nat := 2
abbrev cPriv : Nat := 3
abbrev cAddr : Nat := 4
abbrev cXlate : Nat := 5
abbrev cPerm : Nat := 6
abbrev cStale : Nat := 7
abbrev cFstate : Nat := 8
abbrev cFmtovf : Nat := 9
abbrev cBound : Nat := 10
abbrev cPoison : Nat := 11
abbrev cUe : Nat := 12
abbrev cGang : Nat := 13
abbrev cLayer : Nat := 14
abbrev cWdog : Nat := 15
abbrev cBkpt : Nat := 16
abbrev cSyscall : Nat := 17
abbrev cPreempt : Nat := 19

/-! ### Frames -/

/-- Fill completion (R253, R256): READY, the phase inverted, the expiry granted. -/
def Frame.complete (F : Frame) (count : BitVec 48) : Frame :=
  { F with
    state := .ready
    ph := !F.ph
    expiry := count + BitVec.ofNat 48 (F.life * 4096)
    xp := false
    zeroEnd := none }

/-- A read role taken (R277): DRAINING, DRN one higher. -/
def Frame.takeRole (F : Frame) : Frame := { F with state := .draining, drn := F.drn + 1 }

/-- A read role given up (R253): READY when none is left, the phase unchanged. -/
def Frame.dropRole (F : Frame) : Frame :=
  { F with drn := F.drn - 1, state := if F.drn ≤ 1 ∧ F.state = .draining then .ready else F.state }

/-- EINFO or FINFO of an FSTATE fault (R258). -/
def fstateInfo (f : Nat) (st : FState) (why : Nat) : W64 := field f 0 6 ||| field st.code 6 2 ||| field why 8 4

/-- The owner of a request whose operation or frame is no more: its answer acts on nothing (R392, log 96). -/
abbrev noOwner : Nat × Nat := (512, 512)

/-- The pillar a request is of (R393). -/
def HkReq.pillar (r : HkReq) : Nat := 32 * bits r.word0 8 2 + bits r.word0 10 5

/-- Requests of one type of a pillar whose owners are no more: an answer already given is forgotten, one still to come
acts on nothing (R392, log 96). -/
def State.disown (s : State) (typ p : Nat) (sel : Nat × Nat → Bool) : State :=
  let mine := fun (r : HkReq) => bits r.word0 0 8 = typ && r.pillar = p && sel r.owner
  { s with hkreqs := (s.hkreqs.filter fun r => !(mine r && r.answered.isSome)).map fun r =>
      if mine r then { r with owner := noOwner } else r }

/-- A frame's renewal is no longer asked of the host, and an answer on it acts on nothing (R392, log 96). -/
def State.noRenewal (s : State) (p f : Nat) : State := s.disown 3 p fun o => o = (p, f)

/-- A frame made EMPTY; renewal work under way for it is dropped with the host's answer on it, and f0 carries no block
any more (R74, R253, R267, R392). -/
def State.clearFrame (s : State) (p f : Nat) : State :=
  ((s.onFrame p f fun _ => Frame.cleared).onPillar p fun P =>
    { P with rewrite := P.rewrite.filter fun w => w.1 ≠ f, f0Launch := if f = 0 then none else P.f0Launch }).noRenewal p f

/-! ### Asynchronous records -/

/-- The lowest record index no record of the sequencer holds (R332). -/
def Seq.freeRec (x : Seq) : Nat := ((List.range 256).find? fun i => x.recs.all fun r => r.idx ≠ i).getD 256

/-- A record formed by the current syllable (R160, R332). -/
def State.formRec (s : State) (opa opb : W64) (op : Op) : State :=
  s.onMe fun x => { x with recs := x.recs ++ [
    { idx := x.freeRec, lw := addrBits s.cur.addr, slot := s.cur.slot, opa := opa, opb := opb, syl := s.cur.syl,
      rbase := x.rbase, cause := 0, faulted := false, parked := false, cancelled := false, finfo := 0, progress := 0,
      seqno := s.mine.issues % 4294967296, order := x.order, op := op }] }

/-- A record of a sequencer by its index. -/
def State.rec? (s : State) (p q i : Nat) : Option Rec := (s.seq p q).recs.find? fun r => r.idx = i

/-- One record changed. -/
def State.onRec (s : State) (p q i : Nat) (f : Rec → Rec) : State :=
  s.onSeq p q fun x => { x with recs := x.recs.map fun r => if r.idx = i then f r else r }

/-- A record gone, with the mark of a delivery of its fault: its index may be taken by another (R332, R333). -/
def Seq.dropRec (x : Seq) (i : Nat) : Seq :=
  { x with
    recs := x.recs.filter fun r => r.idx ≠ i
    delivered := x.delivered.map fun d => if d = some i then none else d }

/-- A record gone, with the host's answers for it (R332, R392). -/
def State.dropRec (s : State) (p q i : Nat) : State :=
  (s.onSeq p q fun x => x.dropRec i).disown 1 p fun o => o = (q, i)

/-- A record ends; its operation's end is an event of the sequencer (R199, R332). -/
def State.endRec (s : State) (p q i : Nat) : State := (s.dropRec p q i).wakeSeq p q

/-- A fault recorded against an operation, to be delivered later (R332); it is an event of the sequencer (R199). -/
def State.faultRec (s : State) (p q i cause : Nat) (finfo : W64) : State :=
  (s.onRec p q i fun r => { r with cause := cause, faulted := true, finfo := finfo }).wakeSeq p q

/-- The 64 bytes of a record (R332). -/
def Rec.toBytes (r : Rec) : List Byte :=
  leBytes 8 (addrBits r.lw ||| field r.slot 0 3).toNat ++ leBytes 8 r.opa.toNat ++ leBytes 8 r.opb.toNat ++
    leBytes 8 (r.syl.toNat + r.rbase.toNat * 4294967296) ++
    leBytes 8 (field r.cause 0 8 ||| asBit r.faulted 8 ||| asBit r.parked 9 ||| asBit r.cancelled 10).toNat ++
    leBytes 8 r.finfo.toNat ++ leBytes 8 r.progress ++ leBytes 8 r.seqno

/-- The address of a sequencer's section of its pillar's save area (R341, R343). -/
def State.sectionAt (s : State) (p q : Nat) : Nat :=
  (s.stack (stackOf p)).ctxbase.toNat + 0x300000 * (p % 32) + 0x200000 + 0x80000 * q

/-- The address a record is written to (R332). -/
def State.recAt (s : State) (p q i : Nat) : Nat := s.sectionAt p q + 0x70000 + 64 * i

/-- The records whose fault is recorded and not yet delivered. -/
def Seq.faults (x : Seq) : List Rec := x.recs.filter fun r => r.faulted && !x.delivered.contains (some r.idx)

/-- The recorded fault delivered first: the lowest SEQNO (R332). -/
def Seq.dueFault (x : Seq) : Option Rec :=
  x.faults.foldl (fun best r => match best with
    | none => some r
    | some b => if r.seqno < b.seqno then some r else some b) none

/-- Context mode (R344). -/
def Seq.contextMode (x : Seq) : Bool := x.mode && bits x.ecause 0 8 = 19

/-- Whether an operation is only the context image's, for a sequencer in context mode (R344). -/
def Seq.imageOnly (x : Seq) (order : Nat) : Bool := x.contextMode && decide (order ≤ x.ctxOrder)

/-- Whether a DSYNC of a sequencer holds its long words (R155 row 8): one not yet complete, but for one that only its
image holds (R320, R344). -/
def Seq.syncHolds (x : Seq) : Bool := x.recs.any fun r => (match r.op with
  | .dsync _ _ => true
  | _ => false) && !x.imageOnly r.order

/-- The recorded fault a DONE delivers: in context mode only one of an operation issued in it (R194, R344). -/
def Seq.doneFault (x : Seq) : Option Rec :=
  { x with recs := x.recs.filter fun r => !x.imageOnly r.order }.dueFault

/-- The recorded fault that a DONE delivers as it issues: not one of an operation of its own long word, whose slots
take effect first (R128, R194). -/
def Seq.priorFault (x : Seq) : Option Rec := { x with recs := x.recs.filter fun r => decide (r.order < x.order) }.doneFault

/-- The raise that delivers a recorded fault. -/
def Rec.asRaise (r : Rec) : Raise := ⟨r.cause, 0, some r.idx, none, false⟩

/-! ### Cancelling operations -/

/-- The index frame of a GATHER or SCATTER, the result frame of an ATOMG (R274). -/
def EngineOp.ixf (e : EngineOp) : Nat := bits e.word 14 6
/-- The result frame of an ATOMG (R274). -/
def EngineOp.rf (e : EngineOp) : Nat := bits e.word 49 6
/-- The frame a command writes (R277). -/
def EngineOp.written (e : EngineOp) : Option Nat :=
  match e.kind with
  | .copyin | .gather => some e.frame
  | .atomg => if bit e.word 41 then none else some e.rf
  | _ => none
/-- Whether a command names a frame in any role (R326). -/
def EngineOp.names (e : EngineOp) (f : Nat) : Bool :=
  e.frame = f || (match e.kind with
    | .gather | .scatter => e.ixf = f
    | .atomg => !bit e.word 41 && e.rf = f
    | _ => false)

/-- What cancelling an engine command does to its frames (R327). -/
def State.cancelEngine (s : State) (p : Nat) (e : EngineOp) : State :=
  let s := match e.written with
    | some f => if e.roleW && (s.frame p f).state = .filling then s.clearFrame p f else s
    | none => s
  let s := if e.roleF then s.onFrame p e.frame Frame.dropRole else s
  if e.roleX then s.onFrame p e.ixf Frame.dropRole else s

/-- The accumulator a cube item names. -/
def CubeKind.acc? : CubeKind → Option Nat
  | .zero a _ | .bind a _ => some a
  | .op o => some o.acc
  | _ => none

/-- The accumulator a cube item keeps busy (R157). -/
def CubeKind.writes? : CubeKind → Option Nat
  | .zero a _ => some a
  | .op o => some o.acc
  | _ => none

/-- Whether a write of a sequencer's tile has not ended: a result not landed, a cube item not complete (R157). -/
def State.accWritten (s : State) (p q a : Nat) : Bool :=
  (s.seq p q).accInFlight a || (s.pillar p).cube.any fun c => c.q = q && c.kind.writes? = some a

/-- The busy bits of a sequencer's tiles whose writes have all ended go (R157). -/
def State.settle (s : State) (p q : Nat) : State :=
  s.onSeq p q fun x => { x with accs := x.accs.mapIdx fun a t => { t with busy := t.busy && s.accWritten p q a } }

/-- A cube item removed before it completes: waves landed stay, its frame's read role and its tile's busy bit go, and
the engine is free from this ic (R305). -/
def State.removeCube (s : State) (p q i : Nat) : State :=
  match (s.pillar p).cube.find? fun c => c.q = q && c.record = i with
  | none => s
  | some c =>
    let s := match c.kind with
      | .op o =>
        match o.src with
        | .frame f _ _ => if o.role then s.onFrame p f Frame.dropRole else s
        | _ => s
      | _ => s
    let s := match c.kind with
      | .op o => s.onSeq p q fun x => { x with accs := upd x.accs o.acc fun a => { a with park := false } }
      | _ => s
    (s.onPillar p fun P => { P with
      cube := P.cube.filter fun d => !(d.q = q && d.record = i)
      cubeFree := if c.started then max P.cubeFree P.ic else P.cubeFree }).settle p q

/-- A DRAIN that has taken its items, which an unwind leaves (R357). -/
def Rec.taken (r : Rec) : Bool :=
  match r.op with
  | .drain _ _ _ (some _) => true
  | _ => false

/-- Whether a record's DRAIN may take from its tray now, with the items it takes (R325). -/
def Rec.wouldTake (r : Rec) (items : List (List W32)) : Option (List (List W32)) :=
  match r.op with
  | .drain _ _ 0 none => if 1024 ≤ items.length then some (items.take 1024) else none
  | .drain _ _ _ none => some (items.take 1024)
  | _ => none

/-- A DRAIN's items noted in its record. -/
def Rec.take (r : Rec) (items : List (List W32)) : Rec :=
  { r with op := match r.op with
    | .drain t regs p _ => .drain t regs p (some items)
    | o => o }

/-- The tray's drains in issue order, each taking its items while the one before has (R325). -/
def serveList (items : List (List W32)) : List (Nat × Rec) → List (List W32) × List (Nat × Rec)
  | [] => (items, [])
  | (q, r) :: rs =>
    if r.taken then
      let x := serveList items rs
      (x.1, (q, r) :: x.2)
    else
      match r.wouldTake items with
      | none => (items, (q, r) :: rs)
      | some xs =>
        let y := serveList (items.drop xs.length) rs
        (y.1, (q, r.take xs) :: y.2)

/-- The drains of a tray take what they may (R325). -/
def State.serveTray (s : State) (p t : Nat) : State :=
  let rs := ((s.pillar p).drains.getD t []).filterMap fun qi => (s.rec? p qi.1 qi.2).map fun r => (qi.1, r)
  let x := serveList ((s.pillar p).trays.getD t []) rs
  x.2.foldl (fun s qr => s.onRec p qr.1 qr.2.idx fun _ => qr.2)
    (s.onPillar p fun P => { P with trays := upd P.trays t fun _ => x.1 })

/-- One operation cancelled by an unwind or an abandonment, and its record gone (R352, R357). -/
def State.cancelRec (s : State) (p q : Nat) (r : Rec) : State :=
  let s := match r.op with
    | .engine e => s.cancelEngine p e
    | .cube => s.removeCube p q r.idx
    | .msend target _ _ => s.onPillar target fun P => { P with pools := upd P.pools (stackOf p) (· + 1) }
    | .dsync lv _ => s.onSeq p q fun x =>
        { x with syncing := none, axes := if lv = 1 then x.axes.tail else x.axes }
    | .drain t _ _ _ => s.onPillar p fun P => { P with drains := upd P.drains t fun l => l.filter (· ≠ (q, r.idx)) }
    | .jcb _ | .defer _ _ => s
  let s := s.dropRec p q r.idx
  match r.op with
  | .drain t _ _ _ => s.serveTray p t
  | _ => s

/-- Every operation of a sequencer issued after an issue order cancelled (R357). -/
def State.cancelAfter (s : State) (p q order : Nat) : State :=
  ((s.seq p q).recs.filter fun r => decide (order < r.order) && !r.taken).foldl (fun s r => s.cancelRec p q r) s

/-- Every operation of a sequencer cancelled (R352). -/
def State.cancelAll (s : State) (p q : Nat) : State :=
  (s.seq p q).recs.foldl (fun s r => s.cancelRec p q r) s

/-! ### Traps, unwinds -/

/-- The stop of a sequencer at ic t (R335): results due land, later ones and the hold latches go to the bank of the
mode it was in (R404). -/
def Seq.capture (x : Seq) (t : Nat) : Seq :=
  let y := x.landUpTo t
  let b : Bank := ⟨y.inflight.map fun l => { l with land := l.land - t }, y.vHold, y.fHold⟩
  { y with
    inflight := []
    vHold := none
    fHold := none
    userBank := if y.mode then y.userBank else b
    supBank := if y.mode then b else y.supBank }

/-- The pending CSR changes of a trap's entry; a `CHKINT` bit set in the same ic outlasts the write that clears it
(R335, R353). -/
def State.flushAtTrap (s : State) (p q : Nat) : State :=
  (s.csrFlush p q).onSeq p q fun x => { x with chkint := chkSet x.chkint x.chkNow }

/-- Trap entry (R335): `ECAUSE`, `EINFO`, `EPC`, and for a delay long word BD and `EBT`; the mode; the fetch at `TVEC`
no earlier than t + 4. A trap outside a delay long word leaves BD 0 (log 12). -/
def State.enterTrap (s : State) (p q t cause : Nat) (record : Option Nat) (einfo epc : W64) (delay : Option W64) :
    State :=
  (((s.flushAtTrap p q).onSeq p q fun x => x.capture t).settle p q).onSeq p q fun x => { x with
    ecause := field cause 0 8 ||| asBit record.isSome 8
    einfo := einfo
    epc := addrBits epc
    bd := delay.isSome
    ebt := match delay with
      | some b => addrBits b
      | none => x.ebt
    pmode := x.mode
    mode := true
    pc := x.tvec
    delay := none
    run := .running
    notBefore := t + 4
    heldSince := none
    wdog := false
    fetchFault := none
    delivered := record :: x.delivered }

/-- The region a cause unwinds, among those opened in the current mode (R196, R197). -/
def Seq.regionFor (x : Seq) (r : Raise) : Option Region :=
  let el := x.regions.filter fun g => g.sup == x.mode
  if r.force || r.cause = cUe || r.cause = cGang then el.head?
  else if r.cause = cPoison then el.find? fun g => bit g.pol 0
  else if 4 ≤ r.cause && r.cause ≤ 10 then el.find? fun g => bit g.pol 1
  else none

/-- Whether a result is a DRAIN's delivery, which an unwind leaves (R325, R357): a vector result of the Y slot. -/
def Landing.delivers (l : Landing) : Bool :=
  l.slot = 7 && match l.what with
    | .vec .. | .vpred .. => true
    | _ => false

/-- What the results due by an ic write over, the latest first, but for DRAINs' deliveries (R358). -/
def Seq.overwritten (x : Seq) (t : Nat) : List Payload :=
  ((sortLandings (x.inflight.filter fun l => l.land ≤ t)).foldl (fun (a : Seq × List Payload) l =>
    (l.what.land a.1, (if l.delivers then [] else (l.what.saved a.1).toList) ++ a.2)) (x, [])).2

/-- The results of a sequencer discarded by an unwind: those in flight, and those that landed in this ic (R197,
R358). -/
def Seq.discardResults (x : Seq) : Seq :=
  { x.undo.foldl (fun y w => w.land y) x with inflight := x.inflight.filter Landing.delivers, undo := [] }

/-- An unwind of a region (R197, R357, R358): its snapshot, q0 the cause, the operations issued after its CROPEN
cancelled, the results in flight discarded, the hold latches empty, and the fetch at its handler in the current
mode. With an outer region the regions of that mode inside it close too, so that CRD falls by all of them (log 106).
A recorded fault of an operation issued before that CROPEN stays recorded, its delivery having unwound the region or
not: R197 does not say (log 95). -/
def State.unwind (s : State) (p q : Nat) (g : Region) (cause : Nat) : State :=
  (((s.cancelAfter p q g.order).onSeq p q Seq.discardResults).settle p q).onSeq p q fun x => { x with
    named := g.named
    preds := g.preds
    rbase := g.rbase
    loops := g.loops
    csrws := x.csrws.filter fun w => w.num ≠ 0x003
    queue := BitVec.ofNat 64 cause :: List.replicate 15 0
    ueDue := x.ueDue.filter fun e => bits e.word 0 4 ≠ 7
    regions := x.regions.filter fun h => !(h.sup == g.sup && g.order ≤ h.order)
    vHold := none
    fHold := none
    poisonDue := false
    pc := g.handler
    delay := none
    run := .running
    heldSince := none
    wdog := false
    fetchFault := none }

/-- A cause taken at the current long word: it unwinds its region or traps, and a delivered record is written to the
save area first (R332, R335). -/
def State.take (s : State) (r : Raise) : State :=
  let p := s.cur.p
  let q := s.cur.q
  let s := match r.poison with
    | some u => s.onSeq p q fun x => x.setPois u
    | none => s
  match s.me.regionFor r with
  | some g => s.unwind p q g r.cause
  | none =>
    match r.record with
    | none => s.enterTrap p q s.mine.ic r.cause none r.einfo s.cur.addr s.me.delay
    | some i =>
      let s := match s.rec? p q i with
        | some rc => s.writeMem (s.recAt p q i) rc.toBytes
        | none => s
      s.enterTrap p q s.mine.ic r.cause (some i) (BitVec.ofNat 64 (s.recAt p q i)) s.cur.addr s.me.delay

/-- A syllable raises a cause: it is taken, and the long word notes it, so that no slot of it has effect (R328). -/
def State.raise (s : State) (r : Raise) : State :=
  let t := s.take r
  { t with cur := { t.cur with trap := some r } }

/-- A plain cause with its EINFO. -/
def cause (c : Nat) (einfo : W64) : Raise := ⟨c, einfo, none, none, false⟩

/-- EINFO of an ILLEGAL or PRIV met by one syllable (R150, R331). -/
def State.sylInfo (s : State) (reason : Nat) : W64 :=
  field s.cur.slot 0 3 ||| field reason 4 4 ||| field s.cur.syl.toNat 32 32

/-- Return from a trap (R192, R337): the mode, the long word at `EPC`, as a delay long word when BD is 1, and the
replay of the bank of the mode returned to from ic e + 1. -/
def Seq.eret (x : Seq) (e : Nat) : Seq :=
  let b := if x.pmode then x.supBank else x.userBank
  { x with
    mode := x.pmode
    bd := false
    pc := x.epc
    delay := if x.bd then some x.ebt else none
    inflight := x.inflight ++ b.entries.map fun l => { l with land := e + 1 + l.land }
    vHold := b.vHold
    fHold := b.fHold
    userBank := if x.pmode then x.userBank else Bank.empty
    supBank := if x.pmode then Bank.empty else x.supBank
    run := .running
    delivered := x.delivered.tail }

/-- A DEFER's items appended to its tray when they fit (R325): whether they did. -/
def Pillar.deferTo (P : Pillar) (tray : Nat) (items : List (List W32)) : Option Pillar :=
  if 4096 < (P.trays.getD tray []).length + items.length then none
  else some { P with trays := upd P.trays tray (· ++ items) }

/-- FINFO of a DEFER that its tray cannot take: FSTATE with WHY 3 (R325). -/
def deferInfo : W64 := field 3 8 4

/-- A parked cube operation restarts at wave PROG in the next ic (R306); one already complete leaves its record. -/
def State.resumeCube (s : State) (p q i : Nat) : State :=
  if (s.pillar p).cube.all fun c => c.q ≠ q || c.record ≠ i then s.endRec p q i else
  let t := (s.pillar p).ic + 1
  s.onPillar p fun P => { P with
    cube := P.cube.map fun c => match c.kind with
      | .op o => if c.q = q && c.record = i && o.park then
          { c with kind := .op { o with park := false, waveAt := t } } else c
      | _ => c
    seqs := upd P.seqs q fun x => { x with
      accs := P.cube.foldl (fun l c => match c.kind with
        | .op o => if c.q = q && c.record = i then upd l o.acc fun a => { a with park := false } else l
        | _ => l) x.accs } }

/-- The operation whose fault was delivered resumes, unless it is gone (R333); a DEFER offers its items again. -/
def State.resumeRec (s : State) (p q i : Nat) : State :=
  match s.rec? p q i with
  | none => s
  | some r =>
    let s := s.onRec p q i fun r => { r with faulted := false, parked := false, cause := 0, finfo := 0 }
    match r.op with
    | .cube => s.resumeCube p q i
    | .defer t items =>
      match (s.pillar p).deferTo t items with
      | some P => ((s.onPillar p fun _ => P).endRec p q i).serveTray p t
      | none => s.faultRec p q i cFstate deferInfo
    | _ => s

/-! ### Poison -/

/-- The EINFO of POISON and UE (R356). -/
def poisonInfo (unit layer loc : Nat) : W64 := field unit 0 4 ||| field layer 4 2 ||| field loc 8 44

/-- What consuming poison at issue raises (R355): POISON when an eligible region unwinds on it, or in supervisor mode
with no region open; otherwise the read goes on with zeros. -/
def Seq.poisonAtIssue (x : Seq) (unit : Nat) (einfo : W64) : Option Raise :=
  let el := x.regions.filter fun g => g.sup == x.mode
  if el.any (fun g => bit g.pol 0) || (x.mode && el.isEmpty) then some ⟨cPoison, einfo, none, some unit, false⟩
  else none

/-- Poison consumed by an asynchronous operation (R355): POIS, and with a region that unwinds on it the next long
word's unwind. -/
def Seq.poisonAsync (x : Seq) (unit : Nat) : Seq :=
  { x.setPois unit with
    poisonDue := x.poisonDue || (x.regions.filter fun g => g.sup == x.mode).any fun g => bit g.pol 0 }

/-! ### Syllables -/

/-- The message at the head of the queue popped for the current long word, once (R93); its credit goes back within
100 ns (R317). -/
def State.popMq (s : State) : State :=
  match s.cur.mq, s.mine.mq with
  | none, (v, st) :: rest =>
    let s := s.onMine fun P => { P with mq := rest }
    { s with
      credits := s.credits ++ [(s.cur.p, st, s.tick + 200)]
      cur := { s.cur with mq := some v } }
  | _, _ => s

/-- A syllable under its guard: off, it does nothing (R156); a source naming mq waits for a message (R155) and pops
it (R93); then its effect follows. -/
def State.guarded (s : State) (g : Guard) (srcs : List (BitVec 5)) (k : State → State) : Outcome :=
  if s.guardOn g then
    if srcs.contains 31 then
      if s.cur.mq.isNone && s.mine.mq.isEmpty then .next s else .next (k s.popMq)
    else .next (k s)
  else .next s

end Sys2Proof.Machine
end

