-- ==== Sys2Proof/Machine/Cross.lean ====
section
/-! DEFINITION. The X slot's crossings (R100, R137, R138, R216-R218): each half reads its source and the `XPOS`
positions at issue and lands after 3 ic. -/

namespace Sys2Proof.Machine

/-- The predicate of one element. -/
def elementMask (e : Nat) : PReg :=
  (List.range 16).map fun r => if r = e / 64 then BitVec.ofNat 64 (2 ^ (e % 64)) else 0
/-- The predicate of one row. -/
def oneRow (k : Nat) : PReg := (List.range 16).map fun r => if r = k then BitVec.allOnes 64 else 0

/-- The W position's element (R100). -/
def State.wElem (s : State) : Nat := s.me.wpos.toNat
/-- The R position's element (R100). -/
def State.rElem (s : State) : Nat := s.me.rpos.toNat

/-- The post-increment of W: one column on, from 15:63 to 0:0 (R100). -/
def State.stepW (s : State) (wi : BitVec 1) : State :=
  if wi = 1 then s.onMe fun q => { q with wpos := q.wpos + 1 } else s
/-- The post-increment of R (R100). -/
def State.stepR (s : State) (ri : BitVec 1) : State :=
  if ri = 1 then s.onMe fun q => { q with rpos := q.rpos + 1 } else s

/-- The low word of a scalar source. -/
def State.src32 (s : State) (a : BitVec 5) : W32 := (s.src a).extractLsb' 0 32

/-- XSVE (R217). -/
def execXsve (g : Guard) (tgt src : BitVec 5) (wi : BitVec 1) (s : State) : Outcome :=
  s.guarded g [src] fun s => (s.toVec 3 tgt (vfill (s.src32 src)) (elementMask s.wElem)).stepW wi

/-- XSVR (R217). -/
def execXsvr (g : Guard) (tgt src : BitVec 5) (wi : BitVec 1) (s : State) : Outcome :=
  s.guarded g [src] fun s => (s.toVec 3 tgt (vfill (s.src32 src)) (oneRow (s.wElem / 64))).stepW wi

/-- XSVA; the tile is busy until the landing (R157, R217). -/
def execXsva (g : Guard) (tgt src : BitVec 5) (wi : BitVec 1) (s : State) : Outcome :=
  s.guarded g [src] fun s =>
    ((s.onMe fun q => { q with accs := upd q.accs (tgt.toNat % 8) fun a => { a with busy := true } }).result 3
      (.acc (tgt.toNat % 8) (vfill (s.src32 src)) (elementMask s.wElem))).stepW wi

/-- XSPR (R217). -/
def execXspr (g : Guard) (tgt src : BitVec 5) (wi : BitVec 1) (s : State) : Outcome :=
  s.guarded g [src] fun s =>
    (s.result 3 (.vpred (tgt.toNat % 8) (List.replicate 16 (s.src src)) (oneRow (s.wElem / 64)))).stepW wi

/-- XSN: the norm alone (R217). -/
def execXsn (g : Guard) (tgt src : BitVec 5) (wi : BitVec 1) (s : State) : Outcome :=
  s.guarded g [src] fun s =>
    (s.result 3 (.norm (tgt.toNat % 8) (List.replicate 16 ((s.src src).extractLsb' 0 16))
      (BitVec.ofNat 16 (2 ^ (s.wElem / 64))))).stepW wi

/-- XVSE (R217). -/
def execXvse (g : Guard) (vsrc : BitVec 5) (ri : BitVec 1) (s : State) : Outcome :=
  s.guarded g [] fun s => (s.result 3 (.push ((at0 (s.vreg vsrc) s.rElem).zeroExtend 64))).stepR ri

/-- The number of 1 bits of a predicate. -/
def PReg.count (p : PReg) : Nat := p.foldl (fun n row => n + popN row 64) 0

/-- XPSA (R217). -/
def execXpsa (g : Guard) (vsrc : BitVec 5) (ri : BitVec 1) (s : State) : Outcome :=
  s.guarded g [] fun s =>
    (s.result 3 (.push (if (s.vpred (vsrc.extractLsb' 0 3)).any (· ≠ 0) then 1 else 0))).stepR ri

/-- XPSC (R217). -/
def execXpsc (g : Guard) (vsrc : BitVec 5) (ri : BitVec 1) (s : State) : Outcome :=
  s.guarded g [] fun s =>
    (s.result 3 (.push (BitVec.ofNat 64 (s.vpred (vsrc.extractLsb' 0 3)).count))).stepR ri

/-- XPSR (R217). -/
def execXpsr (g : Guard) (vsrc : BitVec 5) (ri : BitVec 1) (s : State) : Outcome :=
  s.guarded g [] fun s =>
    (s.result 3 (.push (at0 (s.vpred (vsrc.extractLsb' 0 3)) (s.rElem / 64)))).stepR ri

/-- XNS (R217). -/
def execXns (g : Guard) (vsrc : BitVec 5) (ri : BitVec 1) (s : State) : Outcome :=
  s.guarded g [] fun s =>
    (s.result 3 (.push ((at0 (s.norms (vsrc.extractLsb' 0 3)) (s.rElem / 64)).signExtend 64))).stepR ri

end Sys2Proof.Machine
end

