-- ==== Sys2Proof/WellFormed.lean ====
section
/-! DEFINITION. When an instruction's fields are ones the manual allows: the operand classes of R131-R143 and the
limits its instruction pages add. `Instr.wf` says it for every constructor; an ill-formed one traps ILLEGAL (R149). -/

namespace Sys2Proof

/-- A scalar destination: code 0 pushes, 16 is s0, 17-30 are s1-s14 (R131). -/
def isDest (d : BitVec 5) : Bool := d.toNat = 0 || (16 ≤ d.toNat && d.toNat ≤ 30)

/-- The CSR numbers R103 assigns. -/
def csrAssigned (n : BitVec 10) : Bool :=
  n.toNat ≤ 0x009 || (0x010 ≤ n.toNat && n.toNat ≤ 0x017) || (0x100 ≤ n.toNat && n.toNat ≤ 0x108) ||
    (0x110 ≤ n.toNat && n.toNat ≤ 0x113)

/-- A post-increment names s1-s14 (R136). -/
def postIncOk (t : BitVec 1) (a : BitVec 5) : Bool := t = 0 || (17 ≤ a.toNat && a.toNat ≤ 30)

/-- At width q the D field is code 0 or an even register s2-s12 (R136). -/
def quadOk (w : BitVec 3) (d : BitVec 5) : Bool :=
  w ≠ 4 || d = 0 || (18 ≤ d.toNat && d.toNat ≤ 28 && d.toNat % 2 = 0)

/-- H = 10 needs A = 0 (R140, R203). -/
def holdOk (h : BitVec 2) (a : BitVec 5) : Bool := h ≠ 2 || a = 0

/-- VADDW's view code (R208). -/
def widenOk (b : BitVec 5) : Bool :=
  match (b.extractLsb' 0 2).toNat with
  | 0 => b = 0
  | 1 => (b.extractLsb' 3 2).toNat ≤ 1
  | 2 => true
  | _ => false

/-- VPACK's and VUNPK's selector (R213). -/
def packOk (b : BitVec 5) : Bool :=
  match (b.extractLsb' 0 2).toNat with
  | 1 => (b.extractLsb' 2 3).toNat ≤ 1
  | 2 => (b.extractLsb' 2 3).toNat ≤ 3
  | 3 => (b.extractLsb' 2 3).toNat ≤ 4
  | _ => false

/-- POL 01 and 10 are refused with an integer, Q14 or LN16 target (R122). -/
def policyOk (t : BitVec 4) (o : BitVec 2) : Bool :=
  o = 0 || o = 3 || t.toNat ≤ 2 || t.toNat = 7

/-- DEFER and DRAIN name one to four registers, the last at most v31 (R143, R324). -/
def trayRegsOk (v : BitVec 5) (c : BitVec 3) : Bool :=
  1 ≤ c.toNat && c.toNat ≤ 4 && v.toNat + c.toNat - 1 ≤ 31

/-- Well-formedness of an instruction: every field holds a value its format and its own page allow. -/
def Instr.wf : Instr → Bool
  | .add _ d _ _ | .sub _ d _ _ | .addi _ d _ _ | .mul _ d _ _ | .mulh _ d _ _ | .mulhn _ d _ _ | .div _ d _ _
  | .divn _ d _ _ | .rem _ d _ _ | .remn _ d _ _ | .andOp _ d _ _ | .orOp _ d _ _ | .xorOp _ d _ _
  | .andi _ d _ _ | .ori _ d _ _ | .xori _ d _ _ | .shl _ d _ _ | .shr _ d _ _ | .sar _ d _ _ | .shli _ d _ _
  | .shri _ d _ _ | .sari _ d _ _ | .rotl _ d _ _ | .minOp _ d _ _ | .maxOp _ d _ _ | .minn _ d _ _
  | .maxn _ d _ _ | .sel _ d _ _ _ | .bfx _ d _ _ | .bfxs _ d _ _ | .bfi _ d _ _ _ | .clz _ d _ | .ctz _ d _
  | .popc _ d _ | .bswap _ d _ | .li _ d _ | .lih _ d _ _ | .mov _ d _ | .addx _ d _ _ _ | .time _ d | .cyc _ d
  | .fadr _ d _ _ | .calli _ d _ | .cas _ d _ _ => isDest d
  | .cmpeq _ k _ _ | .cmpne _ k _ _ | .cmplt _ k _ _ | .cmple _ k _ _ | .cmpltn _ k _ _ | .cmplen _ k _ _
  | .cmpeqi _ k _ _ | .cmplti _ k _ _ | .cand _ k _ _ | .cor _ k _ _ | .cxor _ k _ _ | .cnot _ k _ => k ≠ 0
  | .csrr _ d n | .csrw _ d _ n | .csrs _ d _ n | .csrc _ d _ n => isDest d && csrAssigned n
  | .loop _ _ _ e => e ≠ 0
  | .loopi _ k _ e => k ≠ 0 && e ≠ 0
  | .lidx _ d l => isDest d && l.toNat ≤ 5
  | .ld _ d a w s t _ | .ldaq _ d a w s t _ =>
    isDest d && w.toNat ≤ 4 && postIncOk t a && quadOk w d && !(s = 1 && (w = 3 || w = 4))
  | .st _ d a w t _ | .strl _ d a w t _ => d ≠ 31 && w.toNat ≤ 4 && postIncOk t a && quadOk w d
  | .ldv _ _ _ _ w | .stv _ _ _ _ w | .ldvt _ _ _ _ w | .ldvr _ _ _ _ w | .stvr _ _ _ _ w | .ldvb _ _ _ _ w => w ≠ 3
  | .ldp _ v _ _ => v ≠ 0 && v.toNat < 8
  | .stp _ v _ _ => v.toNat < 8
  | .atom _ d _ _ o => isDest d && o.toNat ≤ 8
  | .fence _ k sc => k ≠ 0 && sc ≠ 7
  | .fstat _ _ t => t ≠ 3
  | .xsva _ tgt _ _ | .xsn _ tgt _ _ => tgt.toNat < 8
  | .xspr _ tgt _ _ => 0 < tgt.toNat && tgt.toNat < 8
  | .xpsa _ v _ | .xpsc _ v _ | .xpsr _ v _ | .xns _ v _ => v.toNat < 8
  | .vadd _ _ a _ h _ | .vsub _ _ a _ h _ | .vmul _ _ a _ h _ | .vfma _ _ a _ h _ | .vfms _ _ a _ h _
  | .vmin _ _ a _ h _ | .vmax _ _ a _ h _ | .vabs _ _ a h _ | .vneg _ _ a h _ | .vsel _ _ a _ h _
  | .viadd _ _ a _ h _ | .visub _ _ a _ h _ | .vimul _ _ a _ h _ | .viadds _ _ a _ h _ | .vand _ _ a _ h _
  | .vor _ _ a _ h _ | .vxor _ _ a _ h _ | .vshl _ _ a _ h _ | .vshr _ _ a _ h _ | .vsar _ _ a _ h _
  | .vimin _ _ a _ h _ | .vimax _ _ a _ h _ | .vmov _ _ a h _ | .vperm _ _ a _ h _
  | .fexp2 _ _ a h _ | .flog2 _ _ a h _ | .frcp _ _ a h _ | .frsq _ _ a h _ | .fsqrt _ _ a h _ | .ftanh _ _ a h _
  | .fsigm _ _ a h _ | .ferf _ _ a h _ | .fsin _ _ a h _ | .fcos _ _ a h _ => holdOk h a
  | .vaddw _ _ a b h _ => holdOk h a && widenOk b
  | .vpack _ _ a b h _ | .vunpk _ _ a b h _ => holdOk h a && packOk b
  | .vcmp _ d _ _ _ _ => d ≠ 0
  | .vicmp _ d c _ _ _ => d ≠ 0 && c.toNat ≤ 5
  | .vpand _ d _ _ | .vpor _ d _ _ | .vpxor _ d _ _ | .vpnot _ d _ => d ≠ 0
  | .vcvt _ _ _ f t o => f.toNat ≤ 12 && t.toNat ≤ 12 && f ≠ 8 && t ≠ 8 && policyOk t o
  | .vrotc _ _ _ k _ | .vbcc _ _ _ k _ | .vshfc _ _ _ k _ => k.toNat < 16
  | .cbld _ _ l _ _ | .cbldf _ _ l _ _ => l ≠ 0
  | .cmma _ _ a _ l _ h _ | .cmmat _ _ a _ l _ h _ => l ≠ 0 && (h = 0 || a = 0)
  | .cmmah _ _ _ _ l _ _ | .cchain _ _ _ l _ _ => l ≠ 0
  | .kpostr _ _ _ _ s | .msend _ _ _ s => s ≠ 7
  | .defer _ v c _ _ | .drain _ v c _ _ => trayRegsOk v c
  | .dsync _ l => 1 ≤ l.toNat && l.toNat ≤ 4
  | _ => true

end Sys2Proof
end

