-- ==== Sys2Proof/Decode.lean ====
section
/-! DEFINITION. The decoder and the encoder of syllables, long words and the table's words (R127-R151). A syllable
that is no instruction is refused with the lowest reason code of R149 that it meets. -/

namespace Sys2Proof

/-- PS and PN of a syllable's header (R129). -/
def guardOf (w : W32) : Guard := ⟨w.extractLsb' 28 4, w.extractLsb' 27 1⟩

/-- What an opcode says of its syllable: the bits that must be 0 (reason 2), the bits that, when set, put a field
outside its limits (reason 6), and the instruction the fields make. -/
structure Entry where
  zero : W32
  limit : W32
  instr : Instr
deriving DecidableEq, Repr

/-- The S0 and S1 map (R144, R175). -/
def scalarEntry (w : W32) : Option Entry :=
  match (w.extractLsb' 20 7).toNat with
  | 0x01 => some ⟨0x1F, 0, .add (guardOf w) (w.extractLsb' 15 5) (w.extractLsb' 10 5) (w.extractLsb' 5 5)⟩
  | 0x02 => some ⟨0x1F, 0, .sub (guardOf w) (w.extractLsb' 15 5) (w.extractLsb' 10 5) (w.extractLsb' 5 5)⟩
  | 0x03 => some ⟨0x0, 0, .addi (guardOf w) (w.extractLsb' 15 5) (w.extractLsb' 10 5) (w.extractLsb' 0 10)⟩
  | 0x04 => some ⟨0x1F, 0, .mul (guardOf w) (w.extractLsb' 15 5) (w.extractLsb' 10 5) (w.extractLsb' 5 5)⟩
  | 0x05 => some ⟨0x1F, 0, .mulh (guardOf w) (w.extractLsb' 15 5) (w.extractLsb' 10 5) (w.extractLsb' 5 5)⟩
  | 0x06 => some ⟨0x1F, 0, .mulhn (guardOf w) (w.extractLsb' 15 5) (w.extractLsb' 10 5) (w.extractLsb' 5 5)⟩
  | 0x07 => some ⟨0x1F, 0, .div (guardOf w) (w.extractLsb' 15 5) (w.extractLsb' 10 5) (w.extractLsb' 5 5)⟩
  | 0x08 => some ⟨0x1F, 0, .divn (guardOf w) (w.extractLsb' 15 5) (w.extractLsb' 10 5) (w.extractLsb' 5 5)⟩
  | 0x09 => some ⟨0x1F, 0, .rem (guardOf w) (w.extractLsb' 15 5) (w.extractLsb' 10 5) (w.extractLsb' 5 5)⟩
  | 0x0A => some ⟨0x1F, 0, .remn (guardOf w) (w.extractLsb' 15 5) (w.extractLsb' 10 5) (w.extractLsb' 5 5)⟩
  | 0x0B => some ⟨0x1F, 0, .andOp (guardOf w) (w.extractLsb' 15 5) (w.extractLsb' 10 5) (w.extractLsb' 5 5)⟩
  | 0x0C => some ⟨0x1F, 0, .orOp (guardOf w) (w.extractLsb' 15 5) (w.extractLsb' 10 5) (w.extractLsb' 5 5)⟩
  | 0x0D => some ⟨0x1F, 0, .xorOp (guardOf w) (w.extractLsb' 15 5) (w.extractLsb' 10 5) (w.extractLsb' 5 5)⟩
  | 0x0E => some ⟨0x0, 0, .andi (guardOf w) (w.extractLsb' 15 5) (w.extractLsb' 10 5) (w.extractLsb' 0 10)⟩
  | 0x0F => some ⟨0x0, 0, .ori (guardOf w) (w.extractLsb' 15 5) (w.extractLsb' 10 5) (w.extractLsb' 0 10)⟩
  | 0x10 => some ⟨0x0, 0, .xori (guardOf w) (w.extractLsb' 15 5) (w.extractLsb' 10 5) (w.extractLsb' 0 10)⟩
  | 0x11 => some ⟨0x1F, 0, .shl (guardOf w) (w.extractLsb' 15 5) (w.extractLsb' 10 5) (w.extractLsb' 5 5)⟩
  | 0x12 => some ⟨0x1F, 0, .shr (guardOf w) (w.extractLsb' 15 5) (w.extractLsb' 10 5) (w.extractLsb' 5 5)⟩
  | 0x13 => some ⟨0x1F, 0, .sar (guardOf w) (w.extractLsb' 15 5) (w.extractLsb' 10 5) (w.extractLsb' 5 5)⟩
  | 0x14 => some ⟨0x3C0, 0, .shli (guardOf w) (w.extractLsb' 15 5) (w.extractLsb' 10 5) (w.extractLsb' 0 6)⟩
  | 0x15 => some ⟨0x3C0, 0, .shri (guardOf w) (w.extractLsb' 15 5) (w.extractLsb' 10 5) (w.extractLsb' 0 6)⟩
  | 0x16 => some ⟨0x3C0, 0, .sari (guardOf w) (w.extractLsb' 15 5) (w.extractLsb' 10 5) (w.extractLsb' 0 6)⟩
  | 0x17 => some ⟨0x1F, 0, .rotl (guardOf w) (w.extractLsb' 15 5) (w.extractLsb' 10 5) (w.extractLsb' 5 5)⟩
  | 0x18 => some ⟨0x1F, 0, .minOp (guardOf w) (w.extractLsb' 15 5) (w.extractLsb' 10 5) (w.extractLsb' 5 5)⟩
  | 0x19 => some ⟨0x1F, 0, .maxOp (guardOf w) (w.extractLsb' 15 5) (w.extractLsb' 10 5) (w.extractLsb' 5 5)⟩
  | 0x1A => some ⟨0x1F, 0, .minn (guardOf w) (w.extractLsb' 15 5) (w.extractLsb' 10 5) (w.extractLsb' 5 5)⟩
  | 0x1B => some ⟨0x1F, 0, .maxn (guardOf w) (w.extractLsb' 15 5) (w.extractLsb' 10 5) (w.extractLsb' 5 5)⟩
  | 0x1C => some ⟨0x801F, 0, .cmpeq (guardOf w) (w.extractLsb' 16 4) (w.extractLsb' 10 5) (w.extractLsb' 5 5)⟩
  | 0x1D => some ⟨0x801F, 0, .cmpne (guardOf w) (w.extractLsb' 16 4) (w.extractLsb' 10 5) (w.extractLsb' 5 5)⟩
  | 0x1E => some ⟨0x801F, 0, .cmplt (guardOf w) (w.extractLsb' 16 4) (w.extractLsb' 10 5) (w.extractLsb' 5 5)⟩
  | 0x1F => some ⟨0x801F, 0, .cmple (guardOf w) (w.extractLsb' 16 4) (w.extractLsb' 10 5) (w.extractLsb' 5 5)⟩
  | 0x20 => some ⟨0x801F, 0, .cmpltn (guardOf w) (w.extractLsb' 16 4) (w.extractLsb' 10 5) (w.extractLsb' 5 5)⟩
  | 0x21 => some ⟨0x801F, 0, .cmplen (guardOf w) (w.extractLsb' 16 4) (w.extractLsb' 10 5) (w.extractLsb' 5 5)⟩
  | 0x22 => some ⟨0x8000, 0, .cmpeqi (guardOf w) (w.extractLsb' 16 4) (w.extractLsb' 10 5) (w.extractLsb' 0 10)⟩
  | 0x23 => some ⟨0x8000, 0, .cmplti (guardOf w) (w.extractLsb' 16 4) (w.extractLsb' 10 5) (w.extractLsb' 0 10)⟩
  | 0x24 => some ⟨0x10, 0, .sel (guardOf w) (w.extractLsb' 15 5) (w.extractLsb' 10 5) (w.extractLsb' 5 5) (w.extractLsb' 0 4)⟩
  | 0x25 => some ⟨0x1F, 0, .bfx (guardOf w) (w.extractLsb' 15 5) (w.extractLsb' 10 5) (w.extractLsb' 5 5)⟩
  | 0x26 => some ⟨0x1F, 0, .bfxs (guardOf w) (w.extractLsb' 15 5) (w.extractLsb' 10 5) (w.extractLsb' 5 5)⟩
  | 0x27 => some ⟨0x0, 0, .bfi (guardOf w) (w.extractLsb' 15 5) (w.extractLsb' 10 5) (w.extractLsb' 5 5) (w.extractLsb' 0 5)⟩
  | 0x28 => some ⟨0x3FF, 0, .clz (guardOf w) (w.extractLsb' 15 5) (w.extractLsb' 10 5)⟩
  | 0x29 => some ⟨0x3FF, 0, .ctz (guardOf w) (w.extractLsb' 15 5) (w.extractLsb' 10 5)⟩
  | 0x2A => some ⟨0x3FF, 0, .popc (guardOf w) (w.extractLsb' 15 5) (w.extractLsb' 10 5)⟩
  | 0x2B => some ⟨0x3FF, 0, .bswap (guardOf w) (w.extractLsb' 15 5) (w.extractLsb' 10 5)⟩
  | 0x2C => some ⟨0x0, 0, .li (guardOf w) (w.extractLsb' 15 5) (w.extractLsb' 0 15)⟩
  | 0x2D => some ⟨0x0, 0, .lih (guardOf w) (w.extractLsb' 15 5) (w.extractLsb' 10 5) (w.extractLsb' 0 10)⟩
  | 0x2E => some ⟨0x3FF, 0, .mov (guardOf w) (w.extractLsb' 15 5) (w.extractLsb' 10 5)⟩
  | 0x2F => some ⟨0x18, 0, .addx (guardOf w) (w.extractLsb' 15 5) (w.extractLsb' 10 5) (w.extractLsb' 5 5) (w.extractLsb' 0 3)⟩
  | 0x30 => some ⟨0xFF, 0, .cand (guardOf w) (w.extractLsb' 16 4) (w.extractLsb' 12 4) (w.extractLsb' 8 4)⟩
  | 0x31 => some ⟨0xFF, 0, .cor (guardOf w) (w.extractLsb' 16 4) (w.extractLsb' 12 4) (w.extractLsb' 8 4)⟩
  | 0x32 => some ⟨0xFF, 0, .cxor (guardOf w) (w.extractLsb' 16 4) (w.extractLsb' 12 4) (w.extractLsb' 8 4)⟩
  | 0x33 => some ⟨0xFFF, 0, .cnot (guardOf w) (w.extractLsb' 16 4) (w.extractLsb' 12 4)⟩
  | 0x34 => some ⟨0x7FFF, 0, .time (guardOf w) (w.extractLsb' 15 5)⟩
  | 0x35 => some ⟨0x7FFF, 0, .cyc (guardOf w) (w.extractLsb' 15 5)⟩
  | 0x36 => some ⟨0x7C00, 0, .csrr (guardOf w) (w.extractLsb' 15 5) (w.extractLsb' 0 10)⟩
  | 0x37 => some ⟨0x0, 0, .csrw (guardOf w) (w.extractLsb' 15 5) (w.extractLsb' 10 5) (w.extractLsb' 0 10)⟩
  | 0x38 => some ⟨0x0, 0, .csrs (guardOf w) (w.extractLsb' 15 5) (w.extractLsb' 10 5) (w.extractLsb' 0 10)⟩
  | 0x39 => some ⟨0x0, 0, .csrc (guardOf w) (w.extractLsb' 15 5) (w.extractLsb' 10 5) (w.extractLsb' 0 10)⟩
  | 0x3A => some ⟨0x3C0, 0, .fadr (guardOf w) (w.extractLsb' 15 5) (w.extractLsb' 10 5) (w.extractLsb' 0 6)⟩
  | 0x40 => some ⟨0x0, 0, .br (guardOf w) (w.extractLsb' 0 20)⟩
  | 0x41 => some ⟨0xF83FF, 0, .bri (guardOf w) (w.extractLsb' 10 5)⟩
  | 0x42 => some ⟨0x0, 0, .call (guardOf w) (w.extractLsb' 0 20)⟩
  | 0x43 => some ⟨0x3FF, 0, .calli (guardOf w) (w.extractLsb' 15 5) (w.extractLsb' 10 5)⟩
  | 0x44 => some ⟨0x7C00, 0, .loop (guardOf w) (w.extractLsb' 15 5) (w.extractLsb' 9 1) (w.extractLsb' 0 9)⟩
  | 0x45 => some ⟨0x0, 0, .loopi (guardOf w) (w.extractLsb' 10 10) (w.extractLsb' 9 1) (w.extractLsb' 0 9)⟩
  | 0x46 => some ⟨0xFFFFF, 0, .lbreak (guardOf w)⟩
  | 0x47 => some ⟨0x7FF8, 0, .lidx (guardOf w) (w.extractLsb' 15 5) (w.extractLsb' 0 3)⟩
  | 0x49 => some ⟨0xF8000, 0, .trap (guardOf w) (w.extractLsb' 0 15)⟩
  | 0x4A => some ⟨0xF8000, 0, .syscall (guardOf w) (w.extractLsb' 0 15)⟩
  | 0x4B => some ⟨0xFFFFF, 0, .eret (guardOf w)⟩
  | 0x4C => some ⟨0xFFFFF, 0, .bkpt (guardOf w)⟩
  | 0x4D => some ⟨0xFFFFF, 0, .done (guardOf w)⟩
  | 0x4E => some ⟨0xFFFFF, 0, .pmark (guardOf w)⟩
  | 0x4F => some ⟨0xF83FC, 0, .cropen (guardOf w) (w.extractLsb' 10 5) (w.extractLsb' 0 2)⟩
  | 0x50 => some ⟨0xFFFFF, 0, .crclose (guardOf w)⟩
  | 0x51 => some ⟨0xFFFFF, 0, .chkerr (guardOf w)⟩
  | 0x52 => some ⟨0xF83FF, 0, .waitev (guardOf w) (w.extractLsb' 10 5)⟩
  | 0x53 => some ⟨0xFFFFF, 0, .fencei (guardOf w)⟩
  | 0x54 => some ⟨0xFFFFF, 0, .halt (guardOf w)⟩
  | _ => none

/-- The M map (R145, R136). -/
def memoryEntry (w : W32) : Option Entry :=
  match (w.extractLsb' 20 7).toNat with
  | 0x01 => some ⟨0x0, 0, .ld (guardOf w) (w.extractLsb' 15 5) (w.extractLsb' 10 5) (w.extractLsb' 7 3) (w.extractLsb' 6 1) (w.extractLsb' 5 1) (w.extractLsb' 0 5)⟩
  | 0x02 => some ⟨0x40, 0, .st (guardOf w) (w.extractLsb' 15 5) (w.extractLsb' 10 5) (w.extractLsb' 7 3) (w.extractLsb' 5 1) (w.extractLsb' 0 5)⟩
  | 0x03 => some ⟨0x0, 0, .ldaq (guardOf w) (w.extractLsb' 15 5) (w.extractLsb' 10 5) (w.extractLsb' 7 3) (w.extractLsb' 6 1) (w.extractLsb' 5 1) (w.extractLsb' 0 5)⟩
  | 0x04 => some ⟨0x40, 0, .strl (guardOf w) (w.extractLsb' 15 5) (w.extractLsb' 10 5) (w.extractLsb' 7 3) (w.extractLsb' 5 1) (w.extractLsb' 0 5)⟩
  | 0x05 => some ⟨0x3, 0, .ldv (guardOf w) (w.extractLsb' 15 5) (w.extractLsb' 9 6) (w.extractLsb' 4 5) (w.extractLsb' 2 2)⟩
  | 0x06 => some ⟨0x3, 0, .stv (guardOf w) (w.extractLsb' 15 5) (w.extractLsb' 9 6) (w.extractLsb' 4 5) (w.extractLsb' 2 2)⟩
  | 0x07 => some ⟨0x3, 0, .ldvt (guardOf w) (w.extractLsb' 15 5) (w.extractLsb' 9 6) (w.extractLsb' 4 5) (w.extractLsb' 2 2)⟩
  | 0x08 => some ⟨0x3, 0, .ldvr (guardOf w) (w.extractLsb' 15 5) (w.extractLsb' 9 6) (w.extractLsb' 4 5) (w.extractLsb' 2 2)⟩
  | 0x09 => some ⟨0x3, 0, .stvr (guardOf w) (w.extractLsb' 15 5) (w.extractLsb' 9 6) (w.extractLsb' 4 5) (w.extractLsb' 2 2)⟩
  | 0x0A => some ⟨0x3, 0, .ldvb (guardOf w) (w.extractLsb' 15 5) (w.extractLsb' 9 6) (w.extractLsb' 4 5) (w.extractLsb' 2 2)⟩
  | 0x0B => some ⟨0xF, 0, .ldvx (guardOf w) (w.extractLsb' 15 5) (w.extractLsb' 9 6) (w.extractLsb' 4 5)⟩
  | 0x0C => some ⟨0xF, 0, .stvx (guardOf w) (w.extractLsb' 15 5) (w.extractLsb' 9 6) (w.extractLsb' 4 5)⟩
  | 0x0D => some ⟨0x1, 0, .atom (guardOf w) (w.extractLsb' 15 5) (w.extractLsb' 10 5) (w.extractLsb' 5 5) (w.extractLsb' 1 4)⟩
  | 0x0E => some ⟨0x1F, 0, .cas (guardOf w) (w.extractLsb' 15 5) (w.extractLsb' 10 5) (w.extractLsb' 5 5)⟩
  | 0x0F => some ⟨0x3FF, 0, .fence (guardOf w) (w.extractLsb' 13 7) (w.extractLsb' 10 3)⟩
  | 0x10 => some ⟨0x3, 0xC, .ldp (guardOf w) (w.extractLsb' 15 5) (w.extractLsb' 9 6) (w.extractLsb' 4 5)⟩
  | 0x11 => some ⟨0x3, 0xC, .stp (guardOf w) (w.extractLsb' 15 5) (w.extractLsb' 9 6) (w.extractLsb' 4 5)⟩
  | 0x12 => some ⟨0xE, 0, .falloc (guardOf w) (w.extractLsb' 14 6) (w.extractLsb' 9 5) (w.extractLsb' 4 5) (w.extractLsb' 0 1)⟩
  | 0x13 => some ⟨0x3FFF, 0, .ffree (guardOf w) (w.extractLsb' 14 6)⟩
  | 0x14 => some ⟨0x1FF, 0, .frenew (guardOf w) (w.extractLsb' 14 6) (w.extractLsb' 9 5)⟩
  | 0x15 => some ⟨0x3FFC, 0, .fstat (guardOf w) (w.extractLsb' 14 6) (w.extractLsb' 0 2)⟩
  | 0x16 => some ⟨0xE, 0, .fsetx (guardOf w) (w.extractLsb' 14 6) (w.extractLsb' 9 5) (w.extractLsb' 4 5) (w.extractLsb' 0 1)⟩
  | _ => none

/-- The V map (R146, R139). -/
def vectorEntry (w : W32) : Option Entry :=
  match (w.extractLsb' 20 7).toNat with
  | 0x01 => some ⟨0x0, 0, .vadd (guardOf w) (w.extractLsb' 15 5) (w.extractLsb' 10 5) (w.extractLsb' 5 5) (w.extractLsb' 3 2) (w.extractLsb' 0 3)⟩
  | 0x02 => some ⟨0x0, 0, .vsub (guardOf w) (w.extractLsb' 15 5) (w.extractLsb' 10 5) (w.extractLsb' 5 5) (w.extractLsb' 3 2) (w.extractLsb' 0 3)⟩
  | 0x03 => some ⟨0x0, 0, .vmul (guardOf w) (w.extractLsb' 15 5) (w.extractLsb' 10 5) (w.extractLsb' 5 5) (w.extractLsb' 3 2) (w.extractLsb' 0 3)⟩
  | 0x04 => some ⟨0x0, 0, .vfma (guardOf w) (w.extractLsb' 15 5) (w.extractLsb' 10 5) (w.extractLsb' 5 5) (w.extractLsb' 3 2) (w.extractLsb' 0 3)⟩
  | 0x05 => some ⟨0x0, 0, .vfms (guardOf w) (w.extractLsb' 15 5) (w.extractLsb' 10 5) (w.extractLsb' 5 5) (w.extractLsb' 3 2) (w.extractLsb' 0 3)⟩
  | 0x06 => some ⟨0x0, 0, .vmin (guardOf w) (w.extractLsb' 15 5) (w.extractLsb' 10 5) (w.extractLsb' 5 5) (w.extractLsb' 3 2) (w.extractLsb' 0 3)⟩
  | 0x07 => some ⟨0x0, 0, .vmax (guardOf w) (w.extractLsb' 15 5) (w.extractLsb' 10 5) (w.extractLsb' 5 5) (w.extractLsb' 3 2) (w.extractLsb' 0 3)⟩
  | 0x08 => some ⟨0x3E0, 0, .vabs (guardOf w) (w.extractLsb' 15 5) (w.extractLsb' 10 5) (w.extractLsb' 3 2) (w.extractLsb' 0 3)⟩
  | 0x09 => some ⟨0x3E0, 0, .vneg (guardOf w) (w.extractLsb' 15 5) (w.extractLsb' 10 5) (w.extractLsb' 3 2) (w.extractLsb' 0 3)⟩
  | 0x0A => some ⟨0x8, 0, .vcmp (guardOf w) (w.extractLsb' 17 3) (w.extractLsb' 14 3) (w.extractLsb' 9 5) (w.extractLsb' 4 5) (w.extractLsb' 0 3)⟩
  | 0x0B => some ⟨0x0, 0, .vsel (guardOf w) (w.extractLsb' 15 5) (w.extractLsb' 10 5) (w.extractLsb' 5 5) (w.extractLsb' 3 2) (w.extractLsb' 0 3)⟩
  | 0x10 => some ⟨0x0, 0, .viadd (guardOf w) (w.extractLsb' 15 5) (w.extractLsb' 10 5) (w.extractLsb' 5 5) (w.extractLsb' 3 2) (w.extractLsb' 0 3)⟩
  | 0x11 => some ⟨0x0, 0, .visub (guardOf w) (w.extractLsb' 15 5) (w.extractLsb' 10 5) (w.extractLsb' 5 5) (w.extractLsb' 3 2) (w.extractLsb' 0 3)⟩
  | 0x12 => some ⟨0x0, 0, .vimul (guardOf w) (w.extractLsb' 15 5) (w.extractLsb' 10 5) (w.extractLsb' 5 5) (w.extractLsb' 3 2) (w.extractLsb' 0 3)⟩
  | 0x13 => some ⟨0x0, 0, .vaddw (guardOf w) (w.extractLsb' 15 5) (w.extractLsb' 10 5) (w.extractLsb' 5 5) (w.extractLsb' 3 2) (w.extractLsb' 0 3)⟩
  | 0x14 => some ⟨0x0, 0, .viadds (guardOf w) (w.extractLsb' 15 5) (w.extractLsb' 10 5) (w.extractLsb' 5 5) (w.extractLsb' 3 2) (w.extractLsb' 0 3)⟩
  | 0x15 => some ⟨0x0, 0, .vand (guardOf w) (w.extractLsb' 15 5) (w.extractLsb' 10 5) (w.extractLsb' 5 5) (w.extractLsb' 3 2) (w.extractLsb' 0 3)⟩
  | 0x16 => some ⟨0x0, 0, .vor (guardOf w) (w.extractLsb' 15 5) (w.extractLsb' 10 5) (w.extractLsb' 5 5) (w.extractLsb' 3 2) (w.extractLsb' 0 3)⟩
  | 0x17 => some ⟨0x0, 0, .vxor (guardOf w) (w.extractLsb' 15 5) (w.extractLsb' 10 5) (w.extractLsb' 5 5) (w.extractLsb' 3 2) (w.extractLsb' 0 3)⟩
  | 0x18 => some ⟨0x0, 0, .vshl (guardOf w) (w.extractLsb' 15 5) (w.extractLsb' 10 5) (w.extractLsb' 5 5) (w.extractLsb' 3 2) (w.extractLsb' 0 3)⟩
  | 0x19 => some ⟨0x0, 0, .vshr (guardOf w) (w.extractLsb' 15 5) (w.extractLsb' 10 5) (w.extractLsb' 5 5) (w.extractLsb' 3 2) (w.extractLsb' 0 3)⟩
  | 0x1A => some ⟨0x0, 0, .vsar (guardOf w) (w.extractLsb' 15 5) (w.extractLsb' 10 5) (w.extractLsb' 5 5) (w.extractLsb' 3 2) (w.extractLsb' 0 3)⟩
  | 0x1B => some ⟨0x0, 0, .vimin (guardOf w) (w.extractLsb' 15 5) (w.extractLsb' 10 5) (w.extractLsb' 5 5) (w.extractLsb' 3 2) (w.extractLsb' 0 3)⟩
  | 0x1C => some ⟨0x0, 0, .vimax (guardOf w) (w.extractLsb' 15 5) (w.extractLsb' 10 5) (w.extractLsb' 5 5) (w.extractLsb' 3 2) (w.extractLsb' 0 3)⟩
  | 0x1D => some ⟨0x8, 0, .vicmp (guardOf w) (w.extractLsb' 17 3) (w.extractLsb' 14 3) (w.extractLsb' 9 5) (w.extractLsb' 4 5) (w.extractLsb' 0 3)⟩
  | 0x20 => some ⟨0x0, 0, .vcvt (guardOf w) (w.extractLsb' 15 5) (w.extractLsb' 10 5) (w.extractLsb' 6 4) (w.extractLsb' 2 4) (w.extractLsb' 0 2)⟩
  | 0x21 => some ⟨0x0, 0, .vpack (guardOf w) (w.extractLsb' 15 5) (w.extractLsb' 10 5) (w.extractLsb' 5 5) (w.extractLsb' 3 2) (w.extractLsb' 0 3)⟩
  | 0x22 => some ⟨0x0, 0, .vunpk (guardOf w) (w.extractLsb' 15 5) (w.extractLsb' 10 5) (w.extractLsb' 5 5) (w.extractLsb' 3 2) (w.extractLsb' 0 3)⟩
  | 0x28 => some ⟨0x3E0, 0, .vmov (guardOf w) (w.extractLsb' 15 5) (w.extractLsb' 10 5) (w.extractLsb' 3 2) (w.extractLsb' 0 3)⟩
  | 0x29 => some (if w.extractLsb' 13 2 = 1#2 then ⟨0, 0, .vliF (guardOf w) (w.extractLsb' 15 5) (w.extractLsb' 0 13)⟩
      else ⟨0, 0x6000, .vli (guardOf w) (w.extractLsb' 15 5) (w.extractLsb' 0 13)⟩)
  | 0x2A => some ⟨0x3F8, 0, .vacc (guardOf w) (w.extractLsb' 15 5) (w.extractLsb' 12 3) (w.extractLsb' 11 1) (w.extractLsb' 10 1) (w.extractLsb' 0 3)⟩
  | 0x2B => some ⟨0x3F8, 0, .vdrain (guardOf w) (w.extractLsb' 15 5) (w.extractLsb' 12 3) (w.extractLsb' 11 1) (w.extractLsb' 10 1) (w.extractLsb' 0 3)⟩
  | 0x2C => some ⟨0x0, 0, .vperm (guardOf w) (w.extractLsb' 15 5) (w.extractLsb' 10 5) (w.extractLsb' 5 5) (w.extractLsb' 3 2) (w.extractLsb' 0 3)⟩
  | 0x2D => some ⟨0x7FF8, 0, .viota (guardOf w) (w.extractLsb' 15 5) (w.extractLsb' 0 3)⟩
  | 0x30 => some ⟨0x7FF, 0, .vpand (guardOf w) (w.extractLsb' 17 3) (w.extractLsb' 14 3) (w.extractLsb' 11 3)⟩
  | 0x31 => some ⟨0x7FF, 0, .vpor (guardOf w) (w.extractLsb' 17 3) (w.extractLsb' 14 3) (w.extractLsb' 11 3)⟩
  | 0x32 => some ⟨0x7FF, 0, .vpxor (guardOf w) (w.extractLsb' 17 3) (w.extractLsb' 14 3) (w.extractLsb' 11 3)⟩
  | 0x33 => some ⟨0x3FFF, 0, .vpnot (guardOf w) (w.extractLsb' 17 3) (w.extractLsb' 14 3)⟩
  | 0x38 => some ⟨0x1F83F, 0, .dfromv (guardOf w) (w.extractLsb' 17 3) (w.extractLsb' 6 5)⟩
  | 0x39 => some (if w.extractLsb' 0 1 = 1#1 then ⟨0xE383E, 0, .dtovN (guardOf w) (w.extractLsb' 14 3) (w.extractLsb' 6 5)⟩
      else ⟨0xE383F, 0, .dtov (guardOf w) (w.extractLsb' 14 3) (w.extractLsb' 6 5)⟩)
  | 0x3A => some ⟨0x7FF, 0, .dadd (guardOf w) (w.extractLsb' 17 3) (w.extractLsb' 14 3) (w.extractLsb' 11 3)⟩
  | 0x3B => some ⟨0x1F83F, 0, .dscale (guardOf w) (w.extractLsb' 17 3) (w.extractLsb' 6 5)⟩
  | 0x3C => some (if w.extractLsb' 4 1 = 1#1 then ⟨0xE0020, 0, .ddotB (guardOf w) (w.extractLsb' 14 3) (w.extractLsb' 11 3) (w.extractLsb' 6 5) (w.extractLsb' 0 4)⟩
      else ⟨0xE003F, 0, .ddot (guardOf w) (w.extractLsb' 14 3) (w.extractLsb' 11 3) (w.extractLsb' 6 5)⟩)
  | 0x3D => some ⟨0x3FFF, 0, .dmov (guardOf w) (w.extractLsb' 17 3) (w.extractLsb' 14 3)⟩
  | 0x3E => some ⟨0x3FFF, 0, .dneg (guardOf w) (w.extractLsb' 17 3) (w.extractLsb' 14 3)⟩
  | 0x3F => some ⟨0x3F, 0, .dwsum (guardOf w) (w.extractLsb' 17 3) (w.extractLsb' 14 3) (w.extractLsb' 11 3) (w.extractLsb' 6 5)⟩
  | _ => none

/-- The F map (R147, R139, R226). -/
def specialEntry (w : W32) : Option Entry :=
  match (w.extractLsb' 20 7).toNat with
  | 0x01 => some ⟨0x3E0, 0, .fexp2 (guardOf w) (w.extractLsb' 15 5) (w.extractLsb' 10 5) (w.extractLsb' 3 2) (w.extractLsb' 0 3)⟩
  | 0x02 => some ⟨0x3E0, 0, .flog2 (guardOf w) (w.extractLsb' 15 5) (w.extractLsb' 10 5) (w.extractLsb' 3 2) (w.extractLsb' 0 3)⟩
  | 0x03 => some ⟨0x3E0, 0, .frcp (guardOf w) (w.extractLsb' 15 5) (w.extractLsb' 10 5) (w.extractLsb' 3 2) (w.extractLsb' 0 3)⟩
  | 0x04 => some ⟨0x3E0, 0, .frsq (guardOf w) (w.extractLsb' 15 5) (w.extractLsb' 10 5) (w.extractLsb' 3 2) (w.extractLsb' 0 3)⟩
  | 0x05 => some ⟨0x3E0, 0, .fsqrt (guardOf w) (w.extractLsb' 15 5) (w.extractLsb' 10 5) (w.extractLsb' 3 2) (w.extractLsb' 0 3)⟩
  | 0x06 => some ⟨0x3E0, 0, .ftanh (guardOf w) (w.extractLsb' 15 5) (w.extractLsb' 10 5) (w.extractLsb' 3 2) (w.extractLsb' 0 3)⟩
  | 0x07 => some ⟨0x3E0, 0, .fsigm (guardOf w) (w.extractLsb' 15 5) (w.extractLsb' 10 5) (w.extractLsb' 3 2) (w.extractLsb' 0 3)⟩
  | 0x08 => some ⟨0x3E0, 0, .ferf (guardOf w) (w.extractLsb' 15 5) (w.extractLsb' 10 5) (w.extractLsb' 3 2) (w.extractLsb' 0 3)⟩
  | 0x09 => some ⟨0x3E0, 0, .fsin (guardOf w) (w.extractLsb' 15 5) (w.extractLsb' 10 5) (w.extractLsb' 3 2) (w.extractLsb' 0 3)⟩
  | 0x0A => some ⟨0x3E0, 0, .fcos (guardOf w) (w.extractLsb' 15 5) (w.extractLsb' 10 5) (w.extractLsb' 3 2) (w.extractLsb' 0 3)⟩
  | 0x10 => some ⟨0x8, 0, .vrotr (guardOf w) (w.extractLsb' 15 5) (w.extractLsb' 10 5) (w.extractLsb' 4 6) (w.extractLsb' 0 3)⟩
  | 0x11 => some ⟨0x8, 0, .vrotc (guardOf w) (w.extractLsb' 15 5) (w.extractLsb' 10 5) (w.extractLsb' 4 6) (w.extractLsb' 0 3)⟩
  | 0x12 => some ⟨0x8, 0, .vbcr (guardOf w) (w.extractLsb' 15 5) (w.extractLsb' 10 5) (w.extractLsb' 4 6) (w.extractLsb' 0 3)⟩
  | 0x13 => some ⟨0x8, 0, .vbcc (guardOf w) (w.extractLsb' 15 5) (w.extractLsb' 10 5) (w.extractLsb' 4 6) (w.extractLsb' 0 3)⟩
  | 0x14 => some ⟨0x8, 0x3C0, .vredr (guardOf w) (w.extractLsb' 15 5) (w.extractLsb' 10 5) (w.extractLsb' 4 2) (w.extractLsb' 0 3)⟩
  | 0x15 => some ⟨0x8, 0x3C0, .vredc (guardOf w) (w.extractLsb' 15 5) (w.extractLsb' 10 5) (w.extractLsb' 4 2) (w.extractLsb' 0 3)⟩
  | 0x16 => some ⟨0x8, 0x380, .vscanr (guardOf w) (w.extractLsb' 15 5) (w.extractLsb' 10 5) (w.extractLsb' 6 1) (w.extractLsb' 4 2) (w.extractLsb' 0 3)⟩
  | 0x17 => some ⟨0x8, 0x380, .vscanc (guardOf w) (w.extractLsb' 15 5) (w.extractLsb' 10 5) (w.extractLsb' 6 1) (w.extractLsb' 4 2) (w.extractLsb' 0 3)⟩
  | 0x18 => some ⟨0x8, 0x3F0, .vtrn (guardOf w) (w.extractLsb' 15 5) (w.extractLsb' 10 5) (w.extractLsb' 0 3)⟩
  | 0x19 => some ⟨0x8, 0, .vshfr (guardOf w) (w.extractLsb' 15 5) (w.extractLsb' 10 5) (w.extractLsb' 4 6) (w.extractLsb' 0 3)⟩
  | 0x1A => some ⟨0x8, 0, .vshfc (guardOf w) (w.extractLsb' 15 5) (w.extractLsb' 10 5) (w.extractLsb' 4 6) (w.extractLsb' 0 3)⟩
  | _ => none

/-- The C map (R147, R141, R302). -/
def cubeEntry (w : W32) : Option Entry :=
  match (w.extractLsb' 20 7).toNat with
  | 0x01 => some ⟨0x8003F, 0, .cset (guardOf w) (w.extractLsb' 16 3) (w.extractLsb' 11 5) (w.extractLsb' 6 5)⟩
  | 0x02 => some ⟨0x7FF, 0, .cfmt (guardOf w) (w.extractLsb' 16 4) (w.extractLsb' 11 5)⟩
  | 0x03 => some ⟨0x1, 0, .cbld (guardOf w) (w.extractLsb' 15 5) (w.extractLsb' 11 4) (w.extractLsb' 6 5) (w.extractLsb' 1 5)⟩
  | 0x04 => some ⟨0x1, 0, .cbldf (guardOf w) (w.extractLsb' 15 5) (w.extractLsb' 11 4) (w.extractLsb' 6 5) (w.extractLsb' 1 5)⟩
  | 0x05 => some ⟨0x0, 0, .cmma (guardOf w) (w.extractLsb' 17 3) (w.extractLsb' 12 5) (w.extractLsb' 7 5) (w.extractLsb' 3 4) (w.extractLsb' 2 1) (w.extractLsb' 1 1) (w.extractLsb' 0 1)⟩
  | 0x06 => some ⟨0x0, 0, .cmmat (guardOf w) (w.extractLsb' 17 3) (w.extractLsb' 12 5) (w.extractLsb' 7 5) (w.extractLsb' 3 4) (w.extractLsb' 2 1) (w.extractLsb' 1 1) (w.extractLsb' 0 1)⟩
  | 0x07 => some ⟨0x1FFFB, 0, .czero (guardOf w) (w.extractLsb' 17 3) (w.extractLsb' 2 1)⟩
  | 0x08 => some ⟨0x1F002, 0, .cchain (guardOf w) (w.extractLsb' 17 3) (w.extractLsb' 7 5) (w.extractLsb' 3 4) (w.extractLsb' 2 1) (w.extractLsb' 0 1)⟩
  | 0x09 => some ⟨0x1FFFF, 0, .cwait (guardOf w) (w.extractLsb' 17 3)⟩
  | 0x0A => some ⟨0x1FFFF, 0, .cprog (guardOf w) (w.extractLsb' 17 3)⟩
  | 0x0B => some ⟨0x1FFFF, 0, .cabort (guardOf w) (w.extractLsb' 17 3)⟩
  | 0x0C => some ⟨0xFFF, 0, .cbnd (guardOf w) (w.extractLsb' 17 3) (w.extractLsb' 12 5)⟩
  | 0x0D => some ⟨0x2, 0, .cmmah (guardOf w) (w.extractLsb' 17 3) (w.extractLsb' 12 5) (w.extractLsb' 7 5) (w.extractLsb' 3 4) (w.extractLsb' 2 1) (w.extractLsb' 0 1)⟩
  | _ => none

/-- The Y map (R147, R143). -/
def syncEntry (w : W32) : Option Entry :=
  match (w.extractLsb' 20 7).toNat with
  | 0x01 => some ⟨0x3E0, 0, .kwait (guardOf w) (w.extractLsb' 15 5) (w.extractLsb' 10 5) (w.extractLsb' 0 5)⟩
  | 0x02 => some ⟨0x3E0, 0, .kpost (guardOf w) (w.extractLsb' 15 5) (w.extractLsb' 10 5) (w.extractLsb' 0 5)⟩
  | 0x03 => some ⟨0x18, 0, .kpostr (guardOf w) (w.extractLsb' 15 5) (w.extractLsb' 10 5) (w.extractLsb' 5 5) (w.extractLsb' 0 3)⟩
  | 0x04 => some ⟨0x3E0, 0, .kset (guardOf w) (w.extractLsb' 15 5) (w.extractLsb' 10 5) (w.extractLsb' 0 5)⟩
  | 0x05 => some ⟨0x7FFF, 0, .krd (guardOf w) (w.extractLsb' 15 5)⟩
  | 0x06 => some ⟨0x6, 0, .copyin (guardOf w) (w.extractLsb' 14 6) (w.extractLsb' 9 5) (w.extractLsb' 4 5) (w.extractLsb' 3 1) (w.extractLsb' 0 1)⟩
  | 0x07 => some ⟨0x6, 0, .copyout (guardOf w) (w.extractLsb' 14 6) (w.extractLsb' 9 5) (w.extractLsb' 4 5) (w.extractLsb' 3 1) (w.extractLsb' 0 1)⟩
  | 0x08 => some ⟨0x6, 0, .gather (guardOf w) (w.extractLsb' 14 6) (w.extractLsb' 9 5) (w.extractLsb' 4 5) (w.extractLsb' 3 1) (w.extractLsb' 0 1)⟩
  | 0x09 => some ⟨0x6, 0, .scatter (guardOf w) (w.extractLsb' 14 6) (w.extractLsb' 9 5) (w.extractLsb' 4 5) (w.extractLsb' 3 1) (w.extractLsb' 0 1)⟩
  | 0x0A => some ⟨0x6, 0, .atomg (guardOf w) (w.extractLsb' 14 6) (w.extractLsb' 9 5) (w.extractLsb' 4 5) (w.extractLsb' 3 1) (w.extractLsb' 0 1)⟩
  | 0x0B => some ⟨0xF8018, 0, .msend (guardOf w) (w.extractLsb' 10 5) (w.extractLsb' 5 5) (w.extractLsb' 0 3)⟩
  | 0x0C => some ⟨0x7F, 0, .defer (guardOf w) (w.extractLsb' 15 5) (w.extractLsb' 12 3) (w.extractLsb' 9 3) (w.extractLsb' 7 2)⟩
  | 0x0D => some ⟨0x7F, 0, .drain (guardOf w) (w.extractLsb' 15 5) (w.extractLsb' 12 3) (w.extractLsb' 9 3) (w.extractLsb' 7 2)⟩
  | 0x0E => some ⟨0x3FF, 0, .jraise (guardOf w) (w.extractLsb' 15 5) (w.extractLsb' 10 5)⟩
  | 0x0F => some ⟨0x3FF, 0, .jpost (guardOf w) (w.extractLsb' 15 5) (w.extractLsb' 10 5)⟩
  | 0x10 => some ⟨0x1FFFF, 0, .dsync (guardOf w) (w.extractLsb' 17 3)⟩
  | 0x11 => some ⟨0xFFFFF, 0, .wswin (guardOf w)⟩
  | 0x12 => some ⟨0x1FFF, 0, .fwait (guardOf w) (w.extractLsb' 14 6) (w.extractLsb' 13 1)⟩
  | 0x13 => some (if w.extractLsb' 0 5 = 1#5 then ⟨0x7FE0, 0, .ecancelK (guardOf w) (w.extractLsb' 15 5)⟩
      else if w.extractLsb' 0 5 = 2#5 then ⟨0xF83E0, 0, .ecancelF (guardOf w) (w.extractLsb' 10 5)⟩
      else if w.extractLsb' 0 5 = 0#5 then ⟨0xFFFE0, 0, .ecancel (guardOf w)⟩
      else ⟨0x3E0, 0x1F, .ecancel (guardOf w)⟩)
  | _ => none

/-- The entry of a syllable in its slot's map; opcode 0 is a NOP in every slot but X, which has no opcode (R130). -/
def entryOf (slot : Slot) (w : W32) : Option Entry :=
  if (w.extractLsb' 20 7) = 0#7 then some ⟨0xFFFFF, 0, .nop (guardOf w)⟩ else
  match slot with
  | .s0 | .s1 => scalarEntry w
  | .m => memoryEntry w
  | .v => vectorEntry w
  | .f => specialEntry w
  | .c => cubeEntry w
  | .y => syncEntry w
  | .x => none

/-- Reason 2 or 6 for a hold field that the syllable's operand A does not allow (R203). -/
def holdReasons (h : BitVec 2) (a : BitVec 5) : List Nat := if holdOk h a then [] else [2]

/-- Reason 4 for a destination code that is no destination (R131). -/
def destReasons (d : BitVec 5) : List Nat := if isDest d then [] else [4]

/-- Reason `n` unless the condition holds. -/
def unlessReason (n : Nat) (ok : Bool) : List Nat := if ok then [] else [n]

/-- The reasons 2 and 4 to 7 of R149 that an instruction's fields meet. -/
def fieldReasons : Instr → List Nat
  | .add _ d _ _ | .sub _ d _ _ | .addi _ d _ _ | .mul _ d _ _ | .mulh _ d _ _ | .mulhn _ d _ _ | .div _ d _ _
  | .divn _ d _ _ | .rem _ d _ _ | .remn _ d _ _ | .andOp _ d _ _ | .orOp _ d _ _ | .xorOp _ d _ _
  | .andi _ d _ _ | .ori _ d _ _ | .xori _ d _ _ | .shl _ d _ _ | .shr _ d _ _ | .sar _ d _ _ | .shli _ d _ _
  | .shri _ d _ _ | .sari _ d _ _ | .rotl _ d _ _ | .minOp _ d _ _ | .maxOp _ d _ _ | .minn _ d _ _
  | .maxn _ d _ _ | .sel _ d _ _ _ | .bfx _ d _ _ | .bfxs _ d _ _ | .bfi _ d _ _ _ | .clz _ d _ | .ctz _ d _
  | .popc _ d _ | .bswap _ d _ | .li _ d _ | .lih _ d _ _ | .mov _ d _ | .addx _ d _ _ _ | .time _ d | .cyc _ d
  | .fadr _ d _ _ | .calli _ d _ | .cas _ d _ _ => destReasons d
  | .cmpeq _ k _ _ | .cmpne _ k _ _ | .cmplt _ k _ _ | .cmple _ k _ _ | .cmpltn _ k _ _ | .cmplen _ k _ _
  | .cmpeqi _ k _ _ | .cmplti _ k _ _ | .cand _ k _ _ | .cor _ k _ _ | .cxor _ k _ _ | .cnot _ k _ =>
    unlessReason 4 (k ≠ 0)
  | .csrr _ d n | .csrw _ d _ n | .csrs _ d _ n | .csrc _ d _ n => destReasons d ++ unlessReason 7 (csrAssigned n)
  | .loop _ _ _ e => unlessReason 6 (e ≠ 0)
  | .loopi _ k _ e => unlessReason 6 (k ≠ 0 && e ≠ 0)
  | .lidx _ d l => destReasons d ++ unlessReason 6 (l.toNat ≤ 5)
  | .ld _ d a w s t _ | .ldaq _ d a w s t _ =>
    unlessReason 2 (!(s = 1 && (w = 3 || w = 4))) ++ destReasons d ++
      unlessReason 6 (w.toNat ≤ 4 && postIncOk t a && quadOk w d)
  | .st _ d a w t _ | .strl _ d a w t _ =>
    unlessReason 4 (d ≠ 31) ++ unlessReason 6 (w.toNat ≤ 4 && postIncOk t a && quadOk w d)
  | .ldv _ _ _ _ w | .stv _ _ _ _ w | .ldvt _ _ _ _ w | .ldvr _ _ _ _ w | .stvr _ _ _ _ w | .ldvb _ _ _ _ w =>
    unlessReason 6 (w ≠ 3)
  | .ldp _ v _ _ => unlessReason 4 (v ≠ 0) ++ unlessReason 6 (v.toNat < 8)
  | .stp _ v _ _ => unlessReason 6 (v.toNat < 8)
  | .atom _ d _ _ o => destReasons d ++ unlessReason 6 (o.toNat ≤ 8)
  | .fence _ k sc => unlessReason 6 (k ≠ 0 && sc ≠ 7)
  | .fstat _ _ t => unlessReason 6 (t ≠ 3)
  | .xsva _ tgt _ _ | .xsn _ tgt _ _ => unlessReason 6 (tgt.toNat < 8)
  | .xspr _ tgt _ _ => unlessReason 4 (tgt ≠ 0) ++ unlessReason 6 (0 < tgt.toNat && tgt.toNat < 8)
  | .xpsa _ v _ | .xpsc _ v _ | .xpsr _ v _ | .xns _ v _ => unlessReason 6 (v.toNat < 8)
  | .vadd _ _ a _ h _ | .vsub _ _ a _ h _ | .vmul _ _ a _ h _ | .vfma _ _ a _ h _ | .vfms _ _ a _ h _
  | .vmin _ _ a _ h _ | .vmax _ _ a _ h _ | .vabs _ _ a h _ | .vneg _ _ a h _ | .vsel _ _ a _ h _
  | .viadd _ _ a _ h _ | .visub _ _ a _ h _ | .vimul _ _ a _ h _ | .viadds _ _ a _ h _ | .vand _ _ a _ h _
  | .vor _ _ a _ h _ | .vxor _ _ a _ h _ | .vshl _ _ a _ h _ | .vshr _ _ a _ h _ | .vsar _ _ a _ h _
  | .vimin _ _ a _ h _ | .vimax _ _ a _ h _ | .vmov _ _ a h _ | .vperm _ _ a _ h _
  | .fexp2 _ _ a h _ | .flog2 _ _ a h _ | .frcp _ _ a h _ | .frsq _ _ a h _ | .fsqrt _ _ a h _ | .ftanh _ _ a h _
  | .fsigm _ _ a h _ | .ferf _ _ a h _ | .fsin _ _ a h _ | .fcos _ _ a h _ => holdReasons h a
  | .vaddw _ _ a b h _ => holdReasons h a ++ unlessReason 6 (widenOk b)
  | .vpack _ _ a b h _ | .vunpk _ _ a b h _ => holdReasons h a ++ unlessReason 6 (packOk b)
  | .vcmp _ d _ _ _ _ => unlessReason 4 (d ≠ 0)
  | .vicmp _ d c _ _ _ => unlessReason 4 (d ≠ 0) ++ unlessReason 6 (c.toNat ≤ 5)
  | .vpand _ d _ _ | .vpor _ d _ _ | .vpxor _ d _ _ | .vpnot _ d _ => unlessReason 4 (d ≠ 0)
  | .vcvt _ _ _ f t o =>
    unlessReason 6 (f.toNat ≤ 12 && t.toNat ≤ 12) ++ unlessReason 7 (f ≠ 8 && t ≠ 8 && policyOk t o)
  | .vrotc _ _ _ k _ | .vbcc _ _ _ k _ | .vshfc _ _ _ k _ => unlessReason 6 (k.toNat < 16)
  | .cbld _ _ l _ _ | .cbldf _ _ l _ _ => unlessReason 5 (l ≠ 0)
  | .cmma _ _ a _ l _ h _ | .cmmat _ _ a _ l _ h _ => unlessReason 2 (h = 0 || a = 0) ++ unlessReason 5 (l ≠ 0)
  | .cmmah _ _ _ _ l _ _ | .cchain _ _ _ l _ _ => unlessReason 5 (l ≠ 0)
  | .kpostr _ _ _ _ s | .msend _ _ _ s => unlessReason 6 (s ≠ 7)
  | .defer _ v c _ _ | .drain _ v c _ _ => unlessReason 6 (trayRegsOk v c)
  | .dsync _ l => unlessReason 6 (1 ≤ l.toNat && l.toNat ≤ 4)
  | _ => []

/-- The X syllable's two halves (R137, R138); TV or TS 0 makes no half, and both 0 a NOP. -/
def crossHalves (w : W32) : List Instr :=
  let g := guardOf w
  let tgt := w.extractLsb' 19 5
  let src := w.extractLsb' 14 5
  let wi := w.extractLsb' 13 1
  let vsrc := w.extractLsb' 5 5
  let ri := w.extractLsb' 0 1
  let tv : List Instr := match (w.extractLsb' 24 3).toNat with
    | 1 => [.xsve g tgt src wi] | 2 => [.xsvr g tgt src wi] | 3 => [.xsva g tgt src wi]
    | 4 => [.xspr g tgt src wi] | 5 => [.xsn g tgt src wi] | _ => []
  let ts : List Instr := match (w.extractLsb' 10 3).toNat with
    | 1 => [.xvse g vsrc ri] | 2 => [.xpsa g vsrc ri] | 3 => [.xpsc g vsrc ri]
    | 4 => [.xpsr g vsrc ri] | 5 => [.xns g vsrc ri] | _ => []
  if w.extractLsb' 24 3 = 0#3 ∧ w.extractLsb' 10 3 = 0#3 then [.nop g] else tv ++ ts

/-- The reasons an X syllable meets: 1 for TV or TS 6 or 7, 2 for set reserved bits, and its halves' own (R149). -/
def crossReasons (w : W32) : List Nat :=
  unlessReason 1 ((w.extractLsb' 24 3).toNat ≤ 5 && (w.extractLsb' 10 3).toNat ≤ 5) ++
  unlessReason 2 (w.extractLsb' 1 4 = 0#4 && (w.extractLsb' 24 3 ≠ 0#3 || w.extractLsb' 13 11 = 0#11) &&
    (w.extractLsb' 10 3 ≠ 0#3 || (w.extractLsb' 5 5 = 0#5 && w.extractLsb' 0 1 = 0#1))) ++
  (crossHalves w).flatMap fieldReasons

/-- Whether the opcode lies in S0's own range, or names the reserved 0x48 within it (R144). -/
def s0Only (w : W32) : Bool := 0x40 ≤ (w.extractLsb' 20 7).toNat && (w.extractLsb' 20 7).toNat ≤ 0x54

/-- Every decode-time reason of R149 that a syllable meets in a slot. -/
def syllableReasons (slot : Slot) (w : W32) : List Nat :=
  match slot with
  | .x => crossReasons w
  | _ =>
    match entryOf slot w with
    | none => 1 :: (if slot = .s1 ∧ s0Only w then [3] else [])
    | some e =>
      unlessReason 2 (w &&& e.zero = 0) ++ (if slot = .s1 ∧ s0Only w then [3] else []) ++
        unlessReason 6 (w &&& e.limit = 0) ++ fieldReasons e.instr

/-- The instructions of a syllable in a slot, or the lowest reason it meets (R149, R150). -/
def decodeSyllable (slot : Slot) (w : W32) : Except Nat (List Instr) :=
  match syllableReasons slot w with
  | [] => .ok (match slot with
      | .x => crossHalves w
      | _ => match entryOf slot w with
        | some e => [e.instr]
        | none => [])
  | r :: rs => .error (rs.foldl min r)

/-- A long word as fetched: its eight syllables in slot order (R127). -/
abbrev LongWord := List W32

/-- A long word's syllables that fail at decode: slot number, reason, syllable, in slot order. -/
def longWordFailures (ws : LongWord) : List (Nat × Nat × W32) :=
  (Slot.all.zip ws).filterMap fun (sl, w) =>
    match decodeSyllable sl w with
    | .ok _ => none
    | .error r => some (sl.num, r, w)

/-- A long word's instructions with their slot numbers, in slot order. A failing syllable gives none; the long word
then traps as a whole (R149). -/
def longWordInstrs (ws : LongWord) : List (Nat × Instr) :=
  (Slot.all.zip ws).flatMap fun (sl, w) =>
    match decodeSyllable sl w with
    | .ok is => is.map fun i => (sl.num, i)
    | .error _ => []

/-- The 32-bit syllable number k of a 256-bit little-endian long word (R127). -/
def syllableAt (lw : BitVec 256) (k : Nat) : W32 := lw.extractLsb' (32 * k) 32

/-- The eight syllables of a 256-bit long word. -/
def splitLongWord (lw : BitVec 256) : LongWord := (List.range 8).map (syllableAt lw)

/-- The slot the model gives a lone table word: S0, the first syllable of the long word, where S0 decodes it to an
instruction, else the lowest-numbered slot that does (DESIGN CHOICE, log 5: the table numbers a syllable's own bits
and names no slot, R127). -/
def tableSlot (w : W32) : Slot :=
  (Slot.all.find? fun sl => match decodeSyllable sl w with
    | .ok _ => true
    | .error _ => false).getD .s0

/-- The long word that holds one table word in its slot and zero bits elsewhere. -/
def tableLongWord (w : W32) : LongWord := Slot.all.map fun sl => if sl = tableSlot w then w else 0

/-- The instruction the decoder reads from a table word (log 5). -/
def decodeTableWord (nbits w : Nat) : Option Instr :=
  if nbits = 32 then
    match decodeSyllable (tableSlot (BitVec.ofNat 32 w)) (BitVec.ofNat 32 w) with
    | .ok (i :: _) => some i
    | _ => none
  else none

/-- A syllable from its header and its 20 format bits (R129). -/
def syllable (g : Guard) (op : BitVec 7) (body : BitVec 20) : W32 := (g.ps ++ g.pn ++ op ++ body : BitVec 32)

/-- The syllable of an instruction (R129-R147, R302); an event has none. An X half is encoded with the other half
empty (R137). -/
def encode : Instr → Option W32
  | .nop g => some (syllable g 0#7 0#20)
  | .add g d a b => some (syllable g 0x01#7 (d ++ a ++ b ++ 0x0#5))
  | .sub g d a b => some (syllable g 0x02#7 (d ++ a ++ b ++ 0x0#5))
  | .addi g d a i => some (syllable g 0x03#7 (d ++ a ++ i))
  | .mul g d a b => some (syllable g 0x04#7 (d ++ a ++ b ++ 0x0#5))
  | .mulh g d a b => some (syllable g 0x05#7 (d ++ a ++ b ++ 0x0#5))
  | .mulhn g d a b => some (syllable g 0x06#7 (d ++ a ++ b ++ 0x0#5))
  | .div g d a b => some (syllable g 0x07#7 (d ++ a ++ b ++ 0x0#5))
  | .divn g d a b => some (syllable g 0x08#7 (d ++ a ++ b ++ 0x0#5))
  | .rem g d a b => some (syllable g 0x09#7 (d ++ a ++ b ++ 0x0#5))
  | .remn g d a b => some (syllable g 0x0A#7 (d ++ a ++ b ++ 0x0#5))
  | .andOp g d a b => some (syllable g 0x0B#7 (d ++ a ++ b ++ 0x0#5))
  | .orOp g d a b => some (syllable g 0x0C#7 (d ++ a ++ b ++ 0x0#5))
  | .xorOp g d a b => some (syllable g 0x0D#7 (d ++ a ++ b ++ 0x0#5))
  | .andi g d a i => some (syllable g 0x0E#7 (d ++ a ++ i))
  | .ori g d a i => some (syllable g 0x0F#7 (d ++ a ++ i))
  | .xori g d a i => some (syllable g 0x10#7 (d ++ a ++ i))
  | .shl g d a b => some (syllable g 0x11#7 (d ++ a ++ b ++ 0x0#5))
  | .shr g d a b => some (syllable g 0x12#7 (d ++ a ++ b ++ 0x0#5))
  | .sar g d a b => some (syllable g 0x13#7 (d ++ a ++ b ++ 0x0#5))
  | .shli g d a i => some (syllable g 0x14#7 (d ++ a ++ 0x0#4 ++ i))
  | .shri g d a i => some (syllable g 0x15#7 (d ++ a ++ 0x0#4 ++ i))
  | .sari g d a i => some (syllable g 0x16#7 (d ++ a ++ 0x0#4 ++ i))
  | .rotl g d a b => some (syllable g 0x17#7 (d ++ a ++ b ++ 0x0#5))
  | .minOp g d a b => some (syllable g 0x18#7 (d ++ a ++ b ++ 0x0#5))
  | .maxOp g d a b => some (syllable g 0x19#7 (d ++ a ++ b ++ 0x0#5))
  | .minn g d a b => some (syllable g 0x1A#7 (d ++ a ++ b ++ 0x0#5))
  | .maxn g d a b => some (syllable g 0x1B#7 (d ++ a ++ b ++ 0x0#5))
  | .cmpeq g k a b => some (syllable g 0x1C#7 (k ++ 0x0#1 ++ a ++ b ++ 0x0#5))
  | .cmpne g k a b => some (syllable g 0x1D#7 (k ++ 0x0#1 ++ a ++ b ++ 0x0#5))
  | .cmplt g k a b => some (syllable g 0x1E#7 (k ++ 0x0#1 ++ a ++ b ++ 0x0#5))
  | .cmple g k a b => some (syllable g 0x1F#7 (k ++ 0x0#1 ++ a ++ b ++ 0x0#5))
  | .cmpltn g k a b => some (syllable g 0x20#7 (k ++ 0x0#1 ++ a ++ b ++ 0x0#5))
  | .cmplen g k a b => some (syllable g 0x21#7 (k ++ 0x0#1 ++ a ++ b ++ 0x0#5))
  | .cmpeqi g k a i => some (syllable g 0x22#7 (k ++ 0x0#1 ++ a ++ i))
  | .cmplti g k a i => some (syllable g 0x23#7 (k ++ 0x0#1 ++ a ++ i))
  | .sel g d a b k => some (syllable g 0x24#7 (d ++ a ++ b ++ 0x0#1 ++ k))
  | .bfx g d a b => some (syllable g 0x25#7 (d ++ a ++ b ++ 0x0#5))
  | .bfxs g d a b => some (syllable g 0x26#7 (d ++ a ++ b ++ 0x0#5))
  | .bfi g d a b m => some (syllable g 0x27#7 (d ++ a ++ b ++ m))
  | .clz g d a => some (syllable g 0x28#7 (d ++ a ++ 0x0#10))
  | .ctz g d a => some (syllable g 0x29#7 (d ++ a ++ 0x0#10))
  | .popc g d a => some (syllable g 0x2A#7 (d ++ a ++ 0x0#10))
  | .bswap g d a => some (syllable g 0x2B#7 (d ++ a ++ 0x0#10))
  | .li g d i => some (syllable g 0x2C#7 (d ++ i))
  | .lih g d a i => some (syllable g 0x2D#7 (d ++ a ++ i))
  | .mov g d a => some (syllable g 0x2E#7 (d ++ a ++ 0x0#10))
  | .addx g d a b s => some (syllable g 0x2F#7 (d ++ a ++ b ++ 0x0#2 ++ s))
  | .cand g k x y => some (syllable g 0x30#7 (k ++ x ++ y ++ 0x0#8))
  | .cor g k x y => some (syllable g 0x31#7 (k ++ x ++ y ++ 0x0#8))
  | .cxor g k x y => some (syllable g 0x32#7 (k ++ x ++ y ++ 0x0#8))
  | .cnot g k x => some (syllable g 0x33#7 (k ++ x ++ 0x0#12))
  | .time g d => some (syllable g 0x34#7 (d ++ 0x0#15))
  | .cyc g d => some (syllable g 0x35#7 (d ++ 0x0#15))
  | .csrr g d s => some (syllable g 0x36#7 (d ++ 0x0#5 ++ s))
  | .csrw g d a s => some (syllable g 0x37#7 (d ++ a ++ s))
  | .csrs g d a s => some (syllable g 0x38#7 (d ++ a ++ s))
  | .csrc g d a s => some (syllable g 0x39#7 (d ++ a ++ s))
  | .fadr g d a f => some (syllable g 0x3A#7 (d ++ a ++ 0x0#4 ++ f))
  | .br g i => some (syllable g 0x40#7 (i))
  | .bri g a => some (syllable g 0x41#7 (0x0#5 ++ a ++ 0x0#10))
  | .call g i => some (syllable g 0x42#7 (i))
  | .calli g d a => some (syllable g 0x43#7 (d ++ a ++ 0x0#10))
  | .loop g a r e => some (syllable g 0x44#7 (a ++ 0x0#5 ++ r ++ e))
  | .loopi g k r e => some (syllable g 0x45#7 (k ++ r ++ e))
  | .lbreak g => some (syllable g 0x46#7 (0x0#20))
  | .lidx g d l => some (syllable g 0x47#7 (d ++ 0x0#12 ++ l))
  | .trap g i => some (syllable g 0x49#7 (0x0#5 ++ i))
  | .syscall g i => some (syllable g 0x4A#7 (0x0#5 ++ i))
  | .eret g => some (syllable g 0x4B#7 (0x0#20))
  | .bkpt g => some (syllable g 0x4C#7 (0x0#20))
  | .done g => some (syllable g 0x4D#7 (0x0#20))
  | .pmark g => some (syllable g 0x4E#7 (0x0#20))
  | .cropen g a o => some (syllable g 0x4F#7 (0x0#5 ++ a ++ 0x0#8 ++ o))
  | .crclose g => some (syllable g 0x50#7 (0x0#20))
  | .chkerr g => some (syllable g 0x51#7 (0x0#20))
  | .waitev g a => some (syllable g 0x52#7 (0x0#5 ++ a ++ 0x0#10))
  | .fencei g => some (syllable g 0x53#7 (0x0#20))
  | .halt g => some (syllable g 0x54#7 (0x0#20))
  | .ld g d a w s t i => some (syllable g 0x01#7 (d ++ a ++ w ++ s ++ t ++ i))
  | .st g d a w t i => some (syllable g 0x02#7 (d ++ a ++ w ++ 0x0#1 ++ t ++ i))
  | .ldaq g d a w s t i => some (syllable g 0x03#7 (d ++ a ++ w ++ s ++ t ++ i))
  | .strl g d a w t i => some (syllable g 0x04#7 (d ++ a ++ w ++ 0x0#1 ++ t ++ i))
  | .ldv g v f a w => some (syllable g 0x05#7 (v ++ f ++ a ++ w ++ 0x0#2))
  | .stv g v f a w => some (syllable g 0x06#7 (v ++ f ++ a ++ w ++ 0x0#2))
  | .ldvt g v f a w => some (syllable g 0x07#7 (v ++ f ++ a ++ w ++ 0x0#2))
  | .ldvr g v f a w => some (syllable g 0x08#7 (v ++ f ++ a ++ w ++ 0x0#2))
  | .stvr g v f a w => some (syllable g 0x09#7 (v ++ f ++ a ++ w ++ 0x0#2))
  | .ldvb g v f a w => some (syllable g 0x0A#7 (v ++ f ++ a ++ w ++ 0x0#2))
  | .ldvx g v f x => some (syllable g 0x0B#7 (v ++ f ++ x ++ 0x0#4))
  | .stvx g v f x => some (syllable g 0x0C#7 (v ++ f ++ x ++ 0x0#4))
  | .atom g d a b o => some (syllable g 0x0D#7 (d ++ a ++ b ++ o ++ 0x0#1))
  | .cas g d a b => some (syllable g 0x0E#7 (d ++ a ++ b ++ 0x0#5))
  | .fence g k sc => some (syllable g 0x0F#7 (k ++ sc ++ 0x0#10))
  | .ldp g v f a => some (syllable g 0x10#7 (v ++ f ++ a ++ 0x0#4))
  | .stp g v f a => some (syllable g 0x11#7 (v ++ f ++ a ++ 0x0#4))
  | .falloc g f a b t => some (syllable g 0x12#7 (f ++ a ++ b ++ 0x0#3 ++ t))
  | .ffree g f => some (syllable g 0x13#7 (f ++ 0x0#14))
  | .frenew g f a => some (syllable g 0x14#7 (f ++ a ++ 0x0#9))
  | .fstat g f t => some (syllable g 0x15#7 (f ++ 0x0#12 ++ t))
  | .fsetx g f a b t => some (syllable g 0x16#7 (f ++ a ++ b ++ 0x0#3 ++ t))
  | .xsve g tgt src wi => some (g.ps ++ g.pn ++ 1#3 ++ tgt ++ src ++ wi ++ 0#13)
  | .xsvr g tgt src wi => some (g.ps ++ g.pn ++ 2#3 ++ tgt ++ src ++ wi ++ 0#13)
  | .xsva g tgt src wi => some (g.ps ++ g.pn ++ 3#3 ++ tgt ++ src ++ wi ++ 0#13)
  | .xspr g tgt src wi => some (g.ps ++ g.pn ++ 4#3 ++ tgt ++ src ++ wi ++ 0#13)
  | .xsn g tgt src wi => some (g.ps ++ g.pn ++ 5#3 ++ tgt ++ src ++ wi ++ 0#13)
  | .xvse g vsrc ri => some (g.ps ++ g.pn ++ 0#14 ++ 1#3 ++ vsrc ++ 0#4 ++ ri)
  | .xpsa g vsrc ri => some (g.ps ++ g.pn ++ 0#14 ++ 2#3 ++ vsrc ++ 0#4 ++ ri)
  | .xpsc g vsrc ri => some (g.ps ++ g.pn ++ 0#14 ++ 3#3 ++ vsrc ++ 0#4 ++ ri)
  | .xpsr g vsrc ri => some (g.ps ++ g.pn ++ 0#14 ++ 4#3 ++ vsrc ++ 0#4 ++ ri)
  | .xns g vsrc ri => some (g.ps ++ g.pn ++ 0#14 ++ 5#3 ++ vsrc ++ 0#4 ++ ri)
  | .vadd g d a b h m => some (syllable g 0x01#7 (d ++ a ++ b ++ h ++ m))
  | .vsub g d a b h m => some (syllable g 0x02#7 (d ++ a ++ b ++ h ++ m))
  | .vmul g d a b h m => some (syllable g 0x03#7 (d ++ a ++ b ++ h ++ m))
  | .vfma g d a b h m => some (syllable g 0x04#7 (d ++ a ++ b ++ h ++ m))
  | .vfms g d a b h m => some (syllable g 0x05#7 (d ++ a ++ b ++ h ++ m))
  | .vmin g d a b h m => some (syllable g 0x06#7 (d ++ a ++ b ++ h ++ m))
  | .vmax g d a b h m => some (syllable g 0x07#7 (d ++ a ++ b ++ h ++ m))
  | .vabs g d a h m => some (syllable g 0x08#7 (d ++ a ++ 0x0#5 ++ h ++ m))
  | .vneg g d a h m => some (syllable g 0x09#7 (d ++ a ++ 0x0#5 ++ h ++ m))
  | .vcmp g d c a b m => some (syllable g 0x0A#7 (d ++ c ++ a ++ b ++ 0x0#1 ++ m))
  | .vsel g d a b h m => some (syllable g 0x0B#7 (d ++ a ++ b ++ h ++ m))
  | .viadd g d a b h m => some (syllable g 0x10#7 (d ++ a ++ b ++ h ++ m))
  | .visub g d a b h m => some (syllable g 0x11#7 (d ++ a ++ b ++ h ++ m))
  | .vimul g d a b h m => some (syllable g 0x12#7 (d ++ a ++ b ++ h ++ m))
  | .vaddw g d a b h m => some (syllable g 0x13#7 (d ++ a ++ b ++ h ++ m))
  | .viadds g d a b h m => some (syllable g 0x14#7 (d ++ a ++ b ++ h ++ m))
  | .vand g d a b h m => some (syllable g 0x15#7 (d ++ a ++ b ++ h ++ m))
  | .vor g d a b h m => some (syllable g 0x16#7 (d ++ a ++ b ++ h ++ m))
  | .vxor g d a b h m => some (syllable g 0x17#7 (d ++ a ++ b ++ h ++ m))
  | .vshl g d a b h m => some (syllable g 0x18#7 (d ++ a ++ b ++ h ++ m))
  | .vshr g d a b h m => some (syllable g 0x19#7 (d ++ a ++ b ++ h ++ m))
  | .vsar g d a b h m => some (syllable g 0x1A#7 (d ++ a ++ b ++ h ++ m))
  | .vimin g d a b h m => some (syllable g 0x1B#7 (d ++ a ++ b ++ h ++ m))
  | .vimax g d a b h m => some (syllable g 0x1C#7 (d ++ a ++ b ++ h ++ m))
  | .vicmp g d c a b m => some (syllable g 0x1D#7 (d ++ c ++ a ++ b ++ 0x0#1 ++ m))
  | .vcvt g d a f t o => some (syllable g 0x20#7 (d ++ a ++ f ++ t ++ o))
  | .vpack g d a b h m => some (syllable g 0x21#7 (d ++ a ++ b ++ h ++ m))
  | .vunpk g d a b h m => some (syllable g 0x22#7 (d ++ a ++ b ++ h ++ m))
  | .vmov g d a h m => some (syllable g 0x28#7 (d ++ a ++ 0x0#5 ++ h ++ m))
  | .vli g d i => some (syllable g 0x29#7 (d ++ 0x0#2 ++ i))
  | .vliF g d i => some (syllable g 0x29#7 (d ++ 0x1#2 ++ i))
  | .vacc g v a c s m => some (syllable g 0x2A#7 (v ++ a ++ c ++ s ++ 0x0#7 ++ m))
  | .vdrain g v a c s m => some (syllable g 0x2B#7 (v ++ a ++ c ++ s ++ 0x0#7 ++ m))
  | .vperm g d a b h m => some (syllable g 0x2C#7 (d ++ a ++ b ++ h ++ m))
  | .viota g d m => some (syllable g 0x2D#7 (d ++ 0x0#12 ++ m))
  | .vpand g d a b => some (syllable g 0x30#7 (d ++ a ++ b ++ 0x0#11))
  | .vpor g d a b => some (syllable g 0x31#7 (d ++ a ++ b ++ 0x0#11))
  | .vpxor g d a b => some (syllable g 0x32#7 (d ++ a ++ b ++ 0x0#11))
  | .vpnot g d a => some (syllable g 0x33#7 (d ++ a ++ 0x0#14))
  | .dfromv g d x => some (syllable g 0x38#7 (d ++ 0x0#6 ++ x ++ 0x0#6))
  | .dtov g a x => some (syllable g 0x39#7 (0x0#3 ++ a ++ 0x0#3 ++ x ++ 0x0#6))
  | .dtovN g a x => some (syllable g 0x39#7 (0x0#3 ++ a ++ 0x0#3 ++ x ++ 0x1#6))
  | .dadd g d a b => some (syllable g 0x3A#7 (d ++ a ++ b ++ 0x0#11))
  | .dscale g d x => some (syllable g 0x3B#7 (d ++ 0x0#6 ++ x ++ 0x0#6))
  | .ddot g a b x => some (syllable g 0x3C#7 (0x0#3 ++ a ++ b ++ x ++ 0x0#6))
  | .ddotB g a b x k => some (syllable g 0x3C#7 (0x0#3 ++ a ++ b ++ x ++ 0x1#2 ++ k))
  | .dmov g d a => some (syllable g 0x3D#7 (d ++ a ++ 0x0#14))
  | .dneg g d a => some (syllable g 0x3E#7 (d ++ a ++ 0x0#14))
  | .dwsum g d a b x => some (syllable g 0x3F#7 (d ++ a ++ b ++ x ++ 0x0#6))
  | .fexp2 g d a h m => some (syllable g 0x01#7 (d ++ a ++ 0x0#5 ++ h ++ m))
  | .flog2 g d a h m => some (syllable g 0x02#7 (d ++ a ++ 0x0#5 ++ h ++ m))
  | .frcp g d a h m => some (syllable g 0x03#7 (d ++ a ++ 0x0#5 ++ h ++ m))
  | .frsq g d a h m => some (syllable g 0x04#7 (d ++ a ++ 0x0#5 ++ h ++ m))
  | .fsqrt g d a h m => some (syllable g 0x05#7 (d ++ a ++ 0x0#5 ++ h ++ m))
  | .ftanh g d a h m => some (syllable g 0x06#7 (d ++ a ++ 0x0#5 ++ h ++ m))
  | .fsigm g d a h m => some (syllable g 0x07#7 (d ++ a ++ 0x0#5 ++ h ++ m))
  | .ferf g d a h m => some (syllable g 0x08#7 (d ++ a ++ 0x0#5 ++ h ++ m))
  | .fsin g d a h m => some (syllable g 0x09#7 (d ++ a ++ 0x0#5 ++ h ++ m))
  | .fcos g d a h m => some (syllable g 0x0A#7 (d ++ a ++ 0x0#5 ++ h ++ m))
  | .vrotr g d a k m => some (syllable g 0x10#7 (d ++ a ++ k ++ 0x0#1 ++ m))
  | .vrotc g d a k m => some (syllable g 0x11#7 (d ++ a ++ k ++ 0x0#1 ++ m))
  | .vbcr g d a k m => some (syllable g 0x12#7 (d ++ a ++ k ++ 0x0#1 ++ m))
  | .vbcc g d a k m => some (syllable g 0x13#7 (d ++ a ++ k ++ 0x0#1 ++ m))
  | .vredr g d a o m => some (syllable g 0x14#7 (d ++ a ++ 0x0#4 ++ o ++ 0x0#1 ++ m))
  | .vredc g d a o m => some (syllable g 0x15#7 (d ++ a ++ 0x0#4 ++ o ++ 0x0#1 ++ m))
  | .vscanr g d a x o m => some (syllable g 0x16#7 (d ++ a ++ 0x0#3 ++ x ++ o ++ 0x0#1 ++ m))
  | .vscanc g d a x o m => some (syllable g 0x17#7 (d ++ a ++ 0x0#3 ++ x ++ o ++ 0x0#1 ++ m))
  | .vtrn g d a m => some (syllable g 0x18#7 (d ++ a ++ 0x0#7 ++ m))
  | .vshfr g d a k m => some (syllable g 0x19#7 (d ++ a ++ k ++ 0x0#1 ++ m))
  | .vshfc g d a k m => some (syllable g 0x1A#7 (d ++ a ++ k ++ 0x0#1 ++ m))
  | .cset g gr a b => some (syllable g 0x01#7 (0x0#1 ++ gr ++ a ++ b ++ 0x0#6))
  | .cfmt g gr a => some (syllable g 0x02#7 (gr ++ a ++ 0x0#11))
  | .cbld g s l a b => some (syllable g 0x03#7 (s ++ l ++ a ++ b ++ 0x0#1))
  | .cbldf g s l a b => some (syllable g 0x04#7 (s ++ l ++ a ++ b ++ 0x0#1))
  | .cmma g c a b l x h e => some (syllable g 0x05#7 (c ++ a ++ b ++ l ++ x ++ h ++ e))
  | .cmmat g c a b l x h e => some (syllable g 0x06#7 (c ++ a ++ b ++ l ++ x ++ h ++ e))
  | .czero g c x => some (syllable g 0x07#7 (c ++ 0x0#14 ++ x ++ 0x0#2))
  | .cchain g c b l x e => some (syllable g 0x08#7 (c ++ 0x0#5 ++ b ++ l ++ x ++ 0x0#1 ++ e))
  | .cwait g c => some (syllable g 0x09#7 (c ++ 0x0#17))
  | .cprog g c => some (syllable g 0x0A#7 (c ++ 0x0#17))
  | .cabort g c => some (syllable g 0x0B#7 (c ++ 0x0#17))
  | .cbnd g c a => some (syllable g 0x0C#7 (c ++ a ++ 0x0#12))
  | .cmmah g c a b l x e => some (syllable g 0x0D#7 (c ++ a ++ b ++ l ++ x ++ 0x0#1 ++ e))
  | .kwait g k a i => some (syllable g 0x01#7 (k ++ a ++ 0x0#5 ++ i))
  | .kpost g k a i => some (syllable g 0x02#7 (k ++ a ++ 0x0#5 ++ i))
  | .kpostr g k a b s => some (syllable g 0x03#7 (k ++ a ++ b ++ 0x0#2 ++ s))
  | .kset g k a i => some (syllable g 0x04#7 (k ++ a ++ 0x0#5 ++ i))
  | .krd g k => some (syllable g 0x05#7 (k ++ 0x0#15))
  | .copyin g f a b u gr => some (syllable g 0x06#7 (f ++ a ++ b ++ u ++ 0x0#2 ++ gr))
  | .copyout g f a b u gr => some (syllable g 0x07#7 (f ++ a ++ b ++ u ++ 0x0#2 ++ gr))
  | .gather g f a b u gr => some (syllable g 0x08#7 (f ++ a ++ b ++ u ++ 0x0#2 ++ gr))
  | .scatter g f a b u gr => some (syllable g 0x09#7 (f ++ a ++ b ++ u ++ 0x0#2 ++ gr))
  | .atomg g f a b u gr => some (syllable g 0x0A#7 (f ++ a ++ b ++ u ++ 0x0#2 ++ gr))
  | .msend g a b s => some (syllable g 0x0B#7 (0x0#5 ++ a ++ b ++ 0x0#2 ++ s))
  | .defer g v c m t => some (syllable g 0x0C#7 (v ++ c ++ m ++ t ++ 0x0#7))
  | .drain g v c m t => some (syllable g 0x0D#7 (v ++ c ++ m ++ t ++ 0x0#7))
  | .jraise g a b => some (syllable g 0x0E#7 (a ++ b ++ 0x0#10))
  | .jpost g a b => some (syllable g 0x0F#7 (a ++ b ++ 0x0#10))
  | .dsync g l => some (syllable g 0x10#7 (l ++ 0x0#17))
  | .wswin g => some (syllable g 0x11#7 (0x0#20))
  | .fwait g f h => some (syllable g 0x12#7 (f ++ h ++ 0x0#13))
  | .ecancel g => some (syllable g 0x13#7 (0x0#20))
  | .ecancelK g k => some (syllable g 0x13#7 (k ++ 0x1#15))
  | .ecancelF g a => some (syllable g 0x13#7 (0x0#5 ++ a ++ 0x2#10))
  | .resultLanding | .icacheFill | .nopkt | .launch | .wload | .wloadComplete
  | .tdef | .jwait | .jwaitSatisfied | .jsignalPost | .jsignalRaise | .copy
  | .copyComplete | .marker | .packetChoice | .notifyWidxWrite | .queueEnable | .queueDisable
  | .resumeQueue | .skipPacket | .abortQueue | .abortDrained | .placeIteration | .stackClear
  | .chunkRequest | .chunkGrant | .grantLogEntry | .heartbeat | .heartbeatReceive | .participantFailed
  | .logTransfer | .gangReport | .gangGrant | .iterationRetire | .engineSectorTransaction | .engineComplete
  | .fallocZeroDone | .cubeOpStart | .cubeWaveStart | .cubeWaveLand | .cubeOpComplete | .chainBlockArrive
  | .kpostrArrive | .msendDeliver | .creditReturn | .dsyncComplete | .jcbStep | .trayDelivery
  | .wdog | .gangTimeout | .ue | .preemptRequest | .preemptStop | .contextSave
  | .preemptKill | .restore | .tlbInvalidate | .fadeTick | .frameExpire | .backgroundRenew
  | .renewalOverdue | .sensorSample | .thermalShutdown | .tokenHop | .permitRefill | .droopAlarm
  | .testAlarm | .droopHalvingEnd | .voltageStep | .wsRefreshWindow | .hbmSelfRefreshEnter | .hbmSelfRefreshExit
  | .thermalHold | .errinjApply | .govthWrite | .pkgbudWrite | .hkVerdict | .fnmodeApply
  | .scrub | .lifetimeCount | .counterPersist | .hostMemAccess | .attestRequest | .mgmtRegisterWrite
  | .packageReset | .wsRefreshWindowEnd | .hkrWrite => none

/-- The slots whose map holds an instruction: both scalar slots for the shared range, S0 alone for its own (R144). -/
def slotOf : Instr → Slot
  | .ld .. | .st .. | .ldaq .. | .strl .. | .ldv .. | .stv .. | .ldvt .. | .ldvr .. | .stvr .. | .ldvb .. | .ldvx ..
  | .stvx .. | .atom .. | .cas .. | .fence .. | .ldp .. | .stp .. | .falloc .. | .ffree .. | .frenew .. | .fstat ..
  | .fsetx .. => .m
  | .xsve .. | .xsvr .. | .xsva .. | .xspr .. | .xsn .. | .xvse .. | .xpsa .. | .xpsc .. | .xpsr .. | .xns .. => .x
  | .vadd .. | .vsub .. | .vmul .. | .vfma .. | .vfms .. | .vmin .. | .vmax .. | .vabs .. | .vneg .. | .vcmp ..
  | .vsel .. | .viadd .. | .visub .. | .vimul .. | .vaddw .. | .viadds .. | .vand .. | .vor .. | .vxor .. | .vshl ..
  | .vshr .. | .vsar .. | .vimin .. | .vimax .. | .vicmp .. | .vcvt .. | .vpack .. | .vunpk .. | .vmov .. | .vli ..
  | .vliF .. | .vacc .. | .vdrain .. | .vperm .. | .viota .. | .vpand .. | .vpor .. | .vpxor .. | .vpnot ..
  | .dfromv .. | .dtov .. | .dtovN .. | .dadd .. | .dscale .. | .ddot .. | .ddotB .. | .dmov .. | .dneg ..
  | .dwsum .. => .v
  | .fexp2 .. | .flog2 .. | .frcp .. | .frsq .. | .fsqrt .. | .ftanh .. | .fsigm .. | .ferf .. | .fsin .. | .fcos ..
  | .vrotr .. | .vrotc .. | .vbcr .. | .vbcc .. | .vredr .. | .vredc .. | .vscanr .. | .vscanc .. | .vtrn ..
  | .vshfr .. | .vshfc .. => .f
  | .cset .. | .cfmt .. | .cbld .. | .cbldf .. | .cmma .. | .cmmat .. | .czero .. | .cchain .. | .cwait ..
  | .cprog .. | .cabort .. | .cbnd .. | .cmmah .. => .c
  | .kwait .. | .kpost .. | .kpostr .. | .kset .. | .krd .. | .copyin .. | .copyout .. | .gather .. | .scatter ..
  | .atomg .. | .msend .. | .defer .. | .drain .. | .jraise .. | .jpost .. | .dsync .. | .wswin .. | .fwait ..
  | .ecancel .. | .ecancelK .. | .ecancelF .. => .y
  | _ => .s0

end Sys2Proof
end

