-- ==== Sys2Proof/Machine/Hold.lean ====
section
/-! DEFINITION. The pre-issue stall conditions of R155, by their row, the issue permits (R379), and the recorded fault
that a held long word delivers (R332). The conditions hold whatever the guards say (R156). -/

namespace Sys2Proof.Machine

/-- The scalar source codes a syllable reads (R131, R174). -/
def sources : Instr → List (BitVec 5)
  | .add _ _ a b | .sub _ _ a b | .mul _ _ a b | .mulh _ _ a b | .mulhn _ _ a b | .div _ _ a b | .divn _ _ a b
  | .rem _ _ a b | .remn _ _ a b | .andOp _ _ a b | .orOp _ _ a b | .xorOp _ _ a b | .shl _ _ a b | .shr _ _ a b
  | .sar _ _ a b | .rotl _ _ a b | .minOp _ _ a b | .maxOp _ _ a b | .minn _ _ a b | .maxn _ _ a b
  | .cmpeq _ _ a b | .cmpne _ _ a b | .cmplt _ _ a b | .cmple _ _ a b | .cmpltn _ _ a b | .cmplen _ _ a b
  | .sel _ _ a b _ | .bfx _ _ a b | .bfxs _ _ a b | .addx _ _ a b _ | .atom _ _ a b _ => [a, b]
  | .bfi _ _ a b m => [a, b, m]
  | .cas _ d a b => [d, a, b]
  | .addi _ _ a _ | .andi _ _ a _ | .ori _ _ a _ | .xori _ _ a _ | .shli _ _ a _ | .shri _ _ a _ | .sari _ _ a _
  | .cmpeqi _ _ a _ | .cmplti _ _ a _ | .clz _ _ a | .ctz _ _ a | .popc _ _ a | .bswap _ _ a | .lih _ _ a _
  | .mov _ _ a | .csrw _ _ a _ | .csrs _ _ a _ | .csrc _ _ a _ | .fadr _ _ a _ | .bri _ a | .calli _ _ a
  | .loop _ a _ _ | .cropen _ a _ | .waitev _ a | .ld _ _ a _ _ _ _ | .ldaq _ _ a _ _ _ _ | .ldv _ _ _ a _
  | .stv _ _ _ a _ | .ldvt _ _ _ a _ | .ldvr _ _ _ a _ | .stvr _ _ _ a _ | .ldvb _ _ _ a _ | .ldp _ _ _ a
  | .stp _ _ _ a | .frenew _ _ a | .cfmt _ _ a | .cbnd _ _ a | .kwait _ _ a _ | .kpost _ _ a _ | .kset _ _ a _
  | .ecancelF _ a => [a]
  | .st _ d a w _ _ | .strl _ d a w _ _ => if w = 4 then [d, d + 1, a] else [d, a]
  | .falloc _ _ a b _ | .fsetx _ _ a b _ | .cset _ _ a b | .cbld _ _ _ a b | .cbldf _ _ _ a b | .cmmah _ _ a b _ _ _
  | .kpostr _ _ a b _ | .copyin _ _ a b _ _ | .copyout _ _ a b _ _ | .gather _ _ a b _ _ | .scatter _ _ a b _ _
  | .atomg _ _ a b _ _ | .msend _ a b _ | .jraise _ a b | .jpost _ a b => [a, b]
  | .cmma _ _ a b _ _ h _ | .cmmat _ _ a b _ _ h _ => if h = 1 then [b] else [a, b]
  | .cchain _ _ b _ _ _ => [b]
  | .xsve _ _ src _ | .xsvr _ _ src _ | .xsva _ _ src _ | .xspr _ _ src _ | .xsn _ _ src _ => [src]
  | _ => []

/-- The vector registers a syllable reads, by name: its operands, but a held one (R203). -/
def vecReads : Instr → List (BitVec 5)
  | .vadd _ _ a b h _ | .vsub _ _ a b h _ | .vmul _ _ a b h _ | .vmin _ _ a b h _ | .vmax _ _ a b h _
  | .vsel _ _ a b h _ | .viadd _ _ a b h _ | .visub _ _ a b h _ | .vimul _ _ a b h _
  | .viadds _ _ a b h _ | .vand _ _ a b h _ | .vor _ _ a b h _ | .vxor _ _ a b h _ | .vshl _ _ a b h _
  | .vshr _ _ a b h _ | .vsar _ _ a b h _ | .vimin _ _ a b h _ | .vimax _ _ a b h _
  | .vperm _ _ a b h _ => if h = 2 then [b] else [a, b]
  | .vaddw _ d a _ h _ | .vpack _ d a _ h _ => if h = 2 then [d] else [d, a]
  | .vunpk _ _ a _ h _ => if h = 2 then [] else [a]
  | .vfma _ d a b h _ | .vfms _ d a b h _ => if h = 2 then [d, b] else [d, a, b]
  | .vabs _ _ a h _ | .vneg _ _ a h _ | .vmov _ _ a h _ | .fexp2 _ _ a h _ | .flog2 _ _ a h _ | .frcp _ _ a h _
  | .frsq _ _ a h _ | .fsqrt _ _ a h _ | .ftanh _ _ a h _ | .fsigm _ _ a h _ | .ferf _ _ a h _ | .fsin _ _ a h _
  | .fcos _ _ a h _ => if h = 2 then [] else [a]
  | .vcmp _ _ _ a b _ | .vicmp _ _ _ a b _ => [a, b]
  | .vcvt _ _ a _ _ _ | .vrotr _ _ a _ _ | .vrotc _ _ a _ _ | .vbcr _ _ a _ _ | .vbcc _ _ a _ _ | .vredr _ _ a _ _
  | .vredc _ _ a _ _ | .vscanr _ _ a _ _ _ | .vscanc _ _ a _ _ _ | .vtrn _ _ a _ | .vshfr _ _ a _ _
  | .vshfc _ _ a _ _ | .vacc _ a _ _ _ _ | .xvse _ a _ => [a]
  | .dfromv _ _ x | .dscale _ _ x | .dwsum _ _ _ _ x | .ldvx _ _ _ x => [x]
  | .stv _ v _ _ _ | .stvr _ v _ _ _ => [v]
  | .stvx _ v _ x => [v, x]
  | .defer _ v c _ _ => (List.range c.toNat).map fun i => v + BitVec.ofNat 5 i
  | _ => []

/-- The vector predicates a syllable reads, masks among them. -/
def predReads : Instr → List Nat
  | .vadd _ _ _ _ _ m | .vsub _ _ _ _ _ m | .vmul _ _ _ _ _ m | .vmin _ _ _ _ _ m | .vmax _ _ _ _ _ m
  | .vsel _ _ _ _ _ m | .viadd _ _ _ _ _ m | .visub _ _ _ _ _ m | .vimul _ _ _ _ _ m | .vaddw _ _ _ _ _ m
  | .viadds _ _ _ _ _ m | .vand _ _ _ _ _ m | .vor _ _ _ _ _ m | .vxor _ _ _ _ _ m | .vshl _ _ _ _ _ m
  | .vshr _ _ _ _ _ m | .vsar _ _ _ _ _ m | .vimin _ _ _ _ _ m | .vimax _ _ _ _ _ m | .vpack _ _ _ _ _ m
  | .vunpk _ _ _ _ _ m | .vperm _ _ _ _ _ m | .vfma _ _ _ _ _ m | .vfms _ _ _ _ _ m | .vcmp _ _ _ _ _ m
  | .vicmp _ _ _ _ _ m | .vabs _ _ _ _ m | .vneg _ _ _ _ m | .vmov _ _ _ _ m | .fexp2 _ _ _ _ m
  | .flog2 _ _ _ _ m | .frcp _ _ _ _ m | .frsq _ _ _ _ m | .fsqrt _ _ _ _ m | .ftanh _ _ _ _ m | .fsigm _ _ _ _ m
  | .ferf _ _ _ _ m | .fsin _ _ _ _ m | .fcos _ _ _ _ m | .vrotr _ _ _ _ m | .vrotc _ _ _ _ m | .vbcr _ _ _ _ m
  | .vbcc _ _ _ _ m | .vredr _ _ _ _ m | .vredc _ _ _ _ m | .vscanr _ _ _ _ _ m | .vscanc _ _ _ _ _ m
  | .vtrn _ _ _ m | .vshfr _ _ _ _ m | .vshfc _ _ _ _ m | .vacc _ _ _ _ _ m | .vdrain _ _ _ _ _ m | .viota _ _ m
  | .defer _ _ _ m _ => [m.toNat]
  | .vpand _ _ a b | .vpor _ _ a b | .vpxor _ _ a b => [a.toNat, b.toNat]
  | .vpnot _ _ a => [a.toNat]
  | .stp _ v _ _ | .xpsa _ v _ | .xpsc _ v _ | .xpsr _ v _ => [v.toNat % 8]
  | _ => []

/-- The accumulator a syllable reads. -/
def accReads : Instr → Option Nat
  | .vdrain _ _ a _ _ _ | .vacc _ _ a _ _ _ => some a.toNat
  | .cprog _ c => some c.toNat
  | _ => none

/-- Whether a syllable reads failed state: a vector register or a vector predicate by its physical number, an
accumulator, a scalar by the code of R131; control state and the instruction cache are read by every long word (R356,
log 13). -/
def State.readsFailed (s : State) (e : Failed) (i : Instr) : Bool :=
  let n := bits e.word 8 5
  match bits e.word 0 4 with
  | 5 => if e.pred then (predReads i).any fun p => 0 < p && p = n
    else (vecReads i).any fun v => physV s.me.rbase v.toNat = n
  | 6 => accReads i == some n
  | 7 => (sources i).any fun c => c.toNat = n
  | _ => true

/-- The access width in bytes of an LD or ST (R136, R260). -/
def widthOf (w : BitVec 3) : Nat := 2 ^ w.toNat

/-- The effective frame address of an LD or ST: the base itself when it post-increments (R260). -/
def State.eaOf (s : State) (a : BitVec 5) (w : BitVec 3) (t : BitVec 1) (i : BitVec 5) : W64 :=
  if t = 1 then s.src a else s.src a + ofInt64 (i.toInt * widthOf w)

/-- The frame number of a frame address (R251). -/
def frameNo (ea : W64) : Nat := bits ea 22 6

/-- The frame an M-slot access other than frame management names; none when the effective address lies outside all
frames, which raises ADDR instead of stalling (R155). -/
def State.accessFrame (s : State) : Instr → Option Nat
  | .ld _ _ a w _ t i | .ldaq _ _ a w _ t i | .st _ _ a w t i | .strl _ _ a w t i =>
    if bits (s.eaOf a w t i) 28 36 = 0 then some (frameNo (s.eaOf a w t i)) else none
  | .atom _ _ a _ _ | .cas _ _ a _ => if bits (s.src a) 28 36 = 0 then some (frameNo (s.src a)) else none
  | .ldv _ _ f _ _ | .stv _ _ f _ _ | .ldvt _ _ f _ _ | .ldvr _ _ f _ _ | .stvr _ _ f _ _ | .ldvb _ _ f _ _
  | .ldvx _ _ f _ | .stvx _ _ f _ | .ldp _ _ f _ | .stp _ _ f _ => some f.toNat
  | _ => none

/-- The accumulator a syllable waits for while it is busy (R155 row 3). -/
def waitsAcc : Instr → Option Nat
  | .vacc _ _ a _ _ _ | .vdrain _ _ a _ _ _ => some a.toNat
  | .xsva _ t _ _ => some (t.toNat % 8)
  | .cmma _ c _ _ _ _ _ _ | .cmmat _ c _ _ _ _ _ _ | .cmmah _ c _ _ _ _ _ | .cchain _ c _ _ _ _ | .czero _ c _
  | .cwait _ c | .cbnd _ c _ => some c.toNat
  | _ => none

/-- The frames a syllable would take read roles of, one entry a role (R277, R304); in context mode a COPYOUT takes
none (R344), nor does a CMMA or CMMAT whose operand lies outside all frames, which raises ADDR (R155, R251). -/
def State.rolesOf (s : State) : Instr → List Nat
  | .copyout _ f _ _ _ _ => if s.me.contextMode then [] else [f.toNat]
  | .scatter _ f _ b _ _ => [f.toNat, bits (s.src b) 14 6]
  | .gather _ _ _ b _ _ => [bits (s.src b) 14 6]
  | .atomg _ f _ _ _ _ => [f.toNat]
  | .cmma _ _ a _ _ _ h _ | .cmmat _ _ a _ _ _ h _ =>
    if h = 0 ∧ bits (s.src a) 28 36 = 0 then [frameNo (s.src a)] else []
  | _ => []

/-- Whether a syllable starts an asynchronous operation (R160). -/
def startsAsync : Instr → Bool
  | .cset .. | .cfmt .. | .cbld .. | .cbldf .. | .cmma .. | .cmmat .. | .cmmah .. | .cchain .. | .czero .. | .cbnd ..
  | .copyin .. | .copyout .. | .gather .. | .scatter .. | .atomg .. | .msend .. | .dsync .. | .jraise .. | .jpost ..
  | .defer .. | .drain .. => true
  | _ => false

/-- The permit classes (R379): 0 matrix, 1 vector, 2 special-function, 3 memory. -/
def permitOf (slot : Nat) (i : Instr) : Option Nat :=
  match i with
  | .nop _ => none
  | .cmma .. | .cmmat .. | .cmmah .. | .cchain .. | .cbld .. | .cbldf .. | .czero .. => some 0
  | .fence .. => none
  | .copyin .. | .copyout .. | .gather .. | .scatter .. | .atomg .. => some 3
  | _ => if slot = 4 then some 1 else if slot = 5 then some 2 else if slot = 2 then some 3 else none

/-- The classes a long word needs one permit of. -/
def permitsOf (is : List (Nat × Instr)) : List Nat :=
  (List.range 4).filter fun c => is.any fun si => permitOf si.1 si.2 = some c

/-- The KWAIT target (R312). -/
def State.kTarget (s : State) (a i : BitVec 5) : W32 := (s.src a).extractLsb' 0 32 + BitVec.ofNat 32 i.toNat

/-- The rows of R155, counted from 1, whose condition one syllable meets. -/
def State.rowsOf (s : State) (i : Instr) : List Nat :=
  let x := s.me
  let P := s.mine
  let r (n : Nat) (c : Bool) : List Nat := if c then [n] else []
  r 1 (match s.accessFrame i with
    | some f => (s.frame s.cur.p f).state ≠ .ready
    | none => false) ++
  r 3 (match waitsAcc i with
    | some a => (x.accs.getD a Acc.zero).busy
    | none => false) ++
  (match i with
    | .fwait _ f ph => r 2 ((s.frame s.cur.p f.toNat).state ≠ .ready || (s.frame s.cur.p f.toNat).ph ≠ (ph = 1))
    | .kwait _ k a i =>
      r 4 (!flagReached (s.flag s.cur.p k.toNat) (s.kTarget a i)) ++ r 5 (x.flagq.any fun c => c.k = k.toNat)
    | .krd _ k => r 5 (x.flagq.any fun c => c.k = k.toNat)
    | .msend _ a _ _ =>
      let t := s.src a
      r 7 (bits t 7 57 = 0 && (s.pillar (bits t 0 7)).pools.getD (stackOf s.cur.p) 0 = 0)
    | .waitev _ a => r 9 (!x.latch && s.time < (s.src a).toNat)
    | _ => []) ++
  r 6 ((sources i).contains 31 && P.mq.isEmpty)

/-- The frames whose DRN the read roles of a long word, all its slots together, would raise above 255 (R155 row 11).
-/
def State.drnFull (s : State) (is : List (Nat × Instr)) : List Nat :=
  let fs := is.flatMap fun si => s.rolesOf si.2
  fs.filter fun f => 255 < (s.frame s.cur.p f).drn + (fs.filter (· = f)).length

/-- The rows of R155 that hold a long word, lowest first; sources naming mq are read as the head of the queue. -/
def State.holdRows (s : State) (is : List (Nat × Instr)) : List Nat :=
  let s := { s with cur := { s.cur with mq := s.mine.mq.head?.map Prod.fst } }
  let rows := is.flatMap (fun si => s.rowsOf si.2) ++
    (if (s.drnFull is).isEmpty then [] else [11]) ++
    (if s.me.syncHolds then [8] else []) ++
    (if (permitsOf is).any fun c => s.mine.permits.getD c 0 = 0 then [10] else []) ++
    (if 256 < s.me.recs.length + (is.filter fun si => startsAsync si.2).length && is.any (fun si => startsAsync si.2)
      then [12] else [])
  (List.range 13).filter rows.contains

/-- The frames a recorded operation holds in some role (R332). -/
def State.recFrames (s : State) (p q : Nat) (r : Rec) : List Nat :=
  match r.op with
  | .engine e => (List.range 64).filter e.names
  | .cube =>
    match (s.pillar p).cube.find? fun c => c.q = q && c.record = r.idx with
    | some c => (match c.kind with
      | .op o => (match o.src with
        | .frame f _ _ => [f]
        | _ => [])
      | _ => [])
    | none => []
  | _ => []

/-- The accumulator of a recorded cube operation. -/
def State.recAcc (s : State) (p q : Nat) (r : Rec) : Option Nat :=
  ((s.pillar p).cube.find? fun c => c.q = q && c.record = r.idx).bind fun c => c.kind.acc?

/-- Whether an operation is one a DSYNC's completion waits for (R320). -/
def Op.dsyncWaits : Op → Bool
  | .engine _ | .msend _ _ _ | .jcb _ => true
  | _ => false

/-- Whether a long word is held because of a faulted operation of its own sequencer: through its frame, its
accumulator, or a DSYNC that waits for it (R332). -/
def State.heldByFault (s : State) (is : List (Nat × Instr)) : Bool :=
  let s := { s with cur := { s.cur with mq := s.mine.mq.head?.map Prod.fst } }
  let p := s.cur.p
  let q := s.cur.q
  let waitsFrame (f : Nat) : Bool := is.any fun si =>
    (s.accessFrame si.2 == some f && (s.frame p f).state ≠ .ready) ||
    ((match si.2 with
      | .fwait _ g _ => g.toNat = f
      | _ => false) && !(s.rowsOf si.2).isEmpty) ||
    (s.drnFull is).contains f
  let waitsTile (a : Nat) : Bool := is.any fun si => waitsAcc si.2 == some a && (s.me.accs.getD a Acc.zero).busy
  s.me.faults.any fun r =>
    (s.recFrames p q r).any waitsFrame ||
    (match r.op with
      | .cube => (s.recAcc p q r).any waitsTile
      | _ => false) ||
    (s.me.syncHolds && r.op.dsyncWaits)

end Sys2Proof.Machine
end

