-- ==== Sys2Proof/Machine/Frames.lean ====
section
/-! DEFINITION. The M slot: frame loads and stores, atomics, fences and frame management (R251, R253, R256,
R258-R270). -/

namespace Sys2Proof.Machine

/-- The frame address of a byte offset in a frame (R251). -/
def faddr (f off : Nat) : W64 := field off 0 22 ||| field f 22 6

/-- Poison met by an M-slot read of n bytes at an offset of a frame (R355): the long word raises POISON, naming the
first poisoned sector (R356), or POIS is set and the read goes on with zeros. -/
def State.readPoison (s : State) (f off n : Nat) (k : State → State) : State :=
  let sector := ((sectorsOf off n).find? (s.frame s.cur.p f).poison.contains).getD (off / 32)
  match s.me.poisonAtIssue 2 (poisonInfo 2 0 ((faddr f (32 * sector)).toNat / 256)) with
  | some r => s.raise r
  | none => k (s.onMe fun x => x.setPois 2)

/-- One M-slot access of n bytes at an offset (R251, R258): ADDR for a byte outside the frame or a misaligned offset,
for a read STALE when the frame is expired, poison; then its effect. -/
def State.frameAccess (s : State) (f off n align : Nat) (reads : Bool) (k : State → State) : State :=
  let F := s.frame s.cur.p f
  if F.bytes < off + n ∨ off % align ≠ 0 then s.raise (cause cAddr (faddr f off))
  else if reads && F.xp then s.raise (cause cStale (faddr f off))
  else if reads && F.isPoisoned off n then s.readPoison f off n k
  else k s

/-- The access of a scalar instruction at a frame address: bits [63:28] not 0 raise ADDR (R251). -/
def State.scalarAccess (s : State) (ea : W64) (n : Nat) (reads : Bool) (k : State → Nat → Nat → State) : State :=
  if bits ea 28 36 ≠ 0 then s.raise (cause cAddr ea)
  else s.frameAccess (frameNo ea) (bits ea 0 22) n n reads fun s => k s (frameNo ea) (bits ea 0 22)

/-- n bytes of one of the pillar's own frames, as a number. -/
def State.frameNat (s : State) (f off n : Nat) : Nat := (s.frame s.cur.p f).nat off n

/-- Bytes stored into one of the pillar's own frames. -/
def State.frameStore (s : State) (f off : Nat) (bs : List Byte) : State :=
  s.onFrame s.cur.p f fun F => F.writeN off bs

/-- The post-increment of the base, landing after 1 ic (R260). -/
def State.postInc (s : State) (a : BitVec 5) (w : BitVec 3) (t : BitVec 1) (i : BitVec 5) : State :=
  if t = 1 then s.result 1 (.named (a.toNat - 16) (s.src a + ofInt64 (i.toInt * widthOf w))) else s

/-- A number of w bytes extended to 64 bits, by its sign with X (R260). -/
def extendTo64 (v w : Nat) (x : Bool) : W64 :=
  if x && decide (2 ^ (8 * w - 1) ≤ v) && decide (w < 8) then BitVec.ofNat 64 (v + (18446744073709551616 - 2 ^ (8 * w)))
  else BitVec.ofNat 64 v

/-- A scalar load (R259, R260): its value lands after 4 ic; at width q both halves. -/
def State.load (s : State) (g : Guard) (d a : BitVec 5) (w : BitVec 3) (x t : BitVec 1) (i : BitVec 5) : Outcome :=
  s.guarded g [a] fun s =>
    s.scalarAccess (s.eaOf a w t i) (widthOf w) true fun s f off =>
      let s := s.postInc a w t i
      if w = 4 then
        let lo := BitVec.ofNat 64 (s.frameNat f off 8)
        let hi := BitVec.ofNat 64 (s.frameNat f (off + 8) 8)
        if d = 0 then (s.result 4 (.push lo)).result 4 (.push hi) else (s.toDest 4 d lo).toDest 4 (d + 1) hi
      else s.toDest 4 d (extendTo64 (s.frameNat f off (widthOf w)) (widthOf w) (x = 1))

/-- A scalar store (R259, R260): the data source's low bytes, at width q two doublewords. -/
def State.store (s : State) (g : Guard) (d a : BitVec 5) (w : BitVec 3) (t : BitVec 1) (i : BitVec 5) : Outcome :=
  s.guarded g [d, a] fun s =>
    s.scalarAccess (s.eaOf a w t i) (widthOf w) false fun s f off =>
      let data :=
        if w = 4 then
          if d = 0 then leBytes 8 (s.src 1).toNat ++ leBytes 8 (s.src 0).toNat
          else leBytes 8 (s.src d).toNat ++ leBytes 8 (s.src (d + 1)).toNat
        else leBytes (widthOf w) (s.src d).toNat
      (s.postInc a w t i).frameStore f off data

/-- LD (R259, R260). -/
def execLd (g : Guard) (d a : BitVec 5) (w : BitVec 3) (x t : BitVec 1) (i : BitVec 5) (s : State) : Outcome :=
  s.load g d a w x t i

/-- ST (R259, R260). -/
def execSt (g : Guard) (d a : BitVec 5) (w : BitVec 3) (t : BitVec 1) (i : BitVec 5) (s : State) : Outcome :=
  s.store g d a w t i

/-- LDAQ: exactly LD's effects; its acquire reaches only what issue order gives (R245, R260). -/
def execLdaq (g : Guard) (d a : BitVec 5) (w : BitVec 3) (x t : BitVec 1) (i : BitVec 5) (s : State) : Outcome :=
  s.load g d a w x t i

/-- STRL: exactly ST's effects (R245, R260). -/
def execStrl (g : Guard) (d a : BitVec 5) (w : BitVec 3) (t : BitVec 1) (i : BitVec 5) (s : State) : Outcome :=
  s.store g d a w t i

/-- The bytes of an element in a view (R261). -/
def viewBytes (w : BitVec 2) : Nat := if w = 0 then 4 else if w = 1 then 2 else 1

/-- A vector access (R261): a bit of A outside its fields raises ADDR with A itself; then the frame access. -/
def State.vectorAccess (s : State) (f : BitVec 6) (a : W64) (used n align : Nat) (reads : Bool)
    (k : State → Nat → State) : State :=
  if bits a used (64 - used) ≠ 0 then s.raise (cause cAddr a)
  else s.frameAccess f.toNat (bits a 0 22) n align reads fun s => k s (bits a 0 22)

/-- Image element i of a view at an offset of a frame, zero-extended (R261). -/
def State.image (s : State) (f off w i : Nat) : W32 := BitVec.ofNat 32 (s.frameNat f (off + w * i) w)

/-- The row operand of LDVR and STVR: A[25:22] (R261). -/
def rowOf (a : W64) : Nat := bits a 22 4

/-- LDV (R261). -/
def execLdv (g : Guard) (v : BitVec 5) (f : BitVec 6) (a : BitVec 5) (w : BitVec 2) (s : State) : Outcome :=
  s.guarded g [a] fun s => s.vectorAccess f (s.src a) 22 (1024 * viewBytes w) 64 true fun s o =>
    s.toVec 6 v (VReg.of fun e => s.image f.toNat o (viewBytes w) e) pOnes

/-- STV (R261). -/
def execStv (g : Guard) (v : BitVec 5) (f : BitVec 6) (a : BitVec 5) (w : BitVec 2) (s : State) : Outcome :=
  s.guarded g [a] fun s => s.vectorAccess f (s.src a) 22 (1024 * viewBytes w) 64 false fun s o =>
    s.frameStore f.toNat o ((s.vreg v).flatMap fun x => leBytes (viewBytes w) x.toNat)

/-- LDVT: element r:c from image element 16c + r (R261). -/
def execLdvt (g : Guard) (v : BitVec 5) (f : BitVec 6) (a : BitVec 5) (w : BitVec 2) (s : State) : Outcome :=
  s.guarded g [a] fun s => s.vectorAccess f (s.src a) 22 (1024 * viewBytes w) 64 true fun s o =>
    s.toVec 10 v (VReg.of fun e => s.image f.toNat o (viewBytes w) (16 * (e % 64) + e / 64)) pOnes

/-- LDVR: one row (R261). -/
def execLdvr (g : Guard) (v : BitVec 5) (f : BitVec 6) (a : BitVec 5) (w : BitVec 2) (s : State) : Outcome :=
  s.guarded g [a] fun s =>
    let k := rowOf (s.src a)
    s.vectorAccess f (s.src a) 26 (64 * viewBytes w) 64 true fun s o =>
      s.toVec 6 v (VReg.of fun e => s.image f.toNat o (viewBytes w) (e % 64)) (oneRow k)

/-- STVR: one row (R261). -/
def execStvr (g : Guard) (v : BitVec 5) (f : BitVec 6) (a : BitVec 5) (w : BitVec 2) (s : State) : Outcome :=
  s.guarded g [a] fun s =>
    let k := rowOf (s.src a)
    s.vectorAccess f (s.src a) 26 (64 * viewBytes w) 64 false fun s o =>
      s.frameStore f.toNat o (((s.vreg v).drop (64 * k)).take 64 |>.flatMap fun x => leBytes (viewBytes w) x.toNat)

/-- LDVB: one element to all (R261). -/
def execLdvb (g : Guard) (v : BitVec 5) (f : BitVec 6) (a : BitVec 5) (w : BitVec 2) (s : State) : Outcome :=
  s.guarded g [a] fun s => s.vectorAccess f (s.src a) 22 (viewBytes w) (viewBytes w) true fun s o =>
    s.toVec 6 v (vfill (s.image f.toNat o (viewBytes w) 0)) pOnes

/-- LDP: bit c mod 8 of image byte 8r + c div 8 (R261). -/
def execLdp (g : Guard) (v : BitVec 5) (f : BitVec 6) (a : BitVec 5) (s : State) : Outcome :=
  s.guarded g [a] fun s => s.vectorAccess f (s.src a) 22 128 8 true fun s o =>
    s.result 6 (.vpred v.toNat ((List.range 16).map fun r => BitVec.ofNat 64 (s.frameNat f.toNat (o + 8 * r) 8)) pOnes)

/-- STP; p0 stores ones (R261). -/
def execStp (g : Guard) (v : BitVec 5) (f : BitVec 6) (a : BitVec 5) (s : State) : Outcome :=
  s.guarded g [a] fun s => s.vectorAccess f (s.src a) 22 128 8 false fun s o =>
    s.frameStore f.toNat o ((s.vpred (v.extractLsb' 0 3)).flatMap fun x => leBytes 8 x.toNat)

/-- Whether an IX element is a legal word offset of a frame (R262). -/
def ixOk (F : Frame) (x : W32) : Bool := x.toNat % 4 = 0 && bits x 22 10 = 0 && x.toNat + 4 ≤ F.bytes

/-- The checks of LDVX and STVX, element by element in row-major order (R258, R262). -/
def State.indexed (s : State) (f : BitVec 6) (ix : VReg) (reads : Bool) (k : State → State) : State :=
  let F := s.frame s.cur.p f.toNat
  match ix.find? fun x => !ixOk F x with
  | some x => s.raise (cause cAddr (faddr f.toNat (bits x 0 22)))
  | none =>
    if reads && F.xp then s.raise (cause cStale (faddr f.toNat (ix.headD 0).toNat))
    else
      match if reads then ix.find? fun x => F.isPoisoned x.toNat 4 else none with
      | some x => s.readPoison f.toNat x.toNat 4 k
      | none => k s

/-- LDVX (R262). -/
def execLdvx (g : Guard) (v : BitVec 5) (f : BitVec 6) (x : BitVec 5) (s : State) : Outcome :=
  s.guarded g [] fun s =>
    let ix := s.vreg x
    s.indexed f ix true fun s => s.toVec 8 v (ix.map fun o => s.image f.toNat o.toNat 4 0) pOnes

/-- STVX: a later element in row-major order wins (R262). -/
def execStvx (g : Guard) (v : BitVec 5) (f : BitVec 6) (x : BitVec 5) (s : State) : Outcome :=
  s.guarded g [] fun s =>
    let ix := s.vreg x
    let vs := s.vreg v
    s.indexed f ix false fun s => s.onFrame s.cur.p f.toNat fun F =>
      (ix.zip vs).foldl (fun F ov => F.writeN ov.1.toNat (leBytes 4 ov.2.toNat)) F

/-- The operation of ATOM by its code (R136, R263). -/
def atomNew (op : Nat) (old b : W64) : W64 :=
  match op with
  | 0 => old + b
  | 1 => if b.slt old then b else old
  | 2 => if old.slt b then b else old
  | 3 => if b.ult old then b else old
  | 4 => if old.ult b then b else old
  | 5 => old &&& b
  | 6 => old ||| b
  | 7 => old ^^^ b
  | _ => b

/-- A frame atomic: the old doubleword read, the new one stored, the old one to D after 6 ic (R263). -/
def State.atomic (s : State) (d a : BitVec 5) (f : State → W64 → W64) : State :=
  s.scalarAccess (s.src a) 8 true fun s fr off =>
    let old := BitVec.ofNat 64 (s.frameNat fr off 8)
    (s.frameStore fr off (leBytes 8 (f s old).toNat)).toDest 6 d old

/-- ATOM (R263). -/
def execAtom (g : Guard) (d a b : BitVec 5) (o : BitVec 4) (s : State) : Outcome :=
  s.guarded g [a, b] fun s => s.atomic d a fun s old => atomNew o.toNat old (s.src b)

/-- CAS (R263). -/
def execCas (g : Guard) (d a b : BitVec 5) (s : State) : Outcome :=
  s.guarded g [d, a, b] fun s => s.atomic d a fun s old => if old = s.src d then s.src b else old

/-- FENCE: it is in force from its issue for the operations issued later (R246, R264); fences with no operation or
post issued before them order nothing any more and are forgotten. -/
def execFence (g : Guard) (k : BitVec 7) (sc : BitVec 3) (s : State) : Outcome :=
  s.guarded g [] fun s =>
    let pending := fun (o : Nat) => (s.me.recs.any fun r => r.order ≤ o) ||
      s.posts.any fun n => n.fromP = s.cur.p && n.fromQ = s.cur.q && n.order ≤ o
    s.onMe fun x => { x with fences := x.fences.filter (fun f => pending f.order) ++ [⟨k, sc.toNat, x.order, none⟩] }

/-! ### Frame management -/

/-- The EINFO of FSTATE for a frame of the pillar (R258). -/
def State.fstateRaise (s : State) (f : BitVec 6) (why : Nat) : State :=
  s.raise (cause cFstate (fstateInfo f.toNat (s.frame s.cur.p f.toNat).state why))

/-- The 4 KiB units of the pillar's non-EMPTY frames (R251). -/
def Pillar.unitsUsed (P : Pillar) : Nat := P.frames.foldl (fun n F => n + F.size) 0

/-- FALLOC's operand limits (R266). -/
def fallocOk (a b : W64) : Bool :=
  a.toNat % 4096 = 0 && 4096 ≤ a.toNat && a.toNat ≤ 4194304 && bits b 0 23 ≤ a.toNat &&
    1 ≤ bits b 32 11 && bits b 32 11 ≤ 1800 && bits b 23 9 = 0 && bits b 43 21 = 0

/-- FALLOC (R253, R266). -/
def execFalloc (g : Guard) (f : BitVec 6) (a b : BitVec 5) (t : BitVec 1) (s : State) : Outcome :=
  s.guarded g [a, b] fun s =>
    let x := s.src a
    let y := s.src b
    if (s.frame s.cur.p f.toNat).state ≠ .empty then s.fstateRaise f 1
    else if !fallocOk x y then s.fstateRaise f 2
    else if 4096 < s.mine.unitsUsed + x.toNat / 4096 then s.fstateRaise f 3
    else s.onFrame s.cur.p f.toNat fun _ => { Frame.cleared with
      state := .filling
      ph := true
      auto := t = 1
      size := x.toNat / 4096
      expb := bits y 0 23
      life := bits y 32 11
      zeroEnd := if bits y 0 23 = 0 then some (s.mine.ic + x.toNat / 4096) else none }

/-- FFREE (R253, R267). -/
def execFfree (g : Guard) (f : BitVec 6) (s : State) : Outcome :=
  s.guarded g [] fun s =>
    match (s.frame s.cur.p f.toNat).state with
    | .empty => s
    | .ready => s.clearFrame s.cur.p f.toNat
    | _ => s.fstateRaise f 4

/-- FRENEW (R253, R256, R268): an expired frame raises STALE, with offset 0 in `EINFO`, there being no access (log 102);
a renewed one has no renewal asked of the host any more (R392, log 96). -/
def execFrenew (g : Guard) (f : BitVec 6) (a : BitVec 5) (s : State) : Outcome :=
  s.guarded g [a] fun s =>
    let F := s.frame s.cur.p f.toNat
    let l := if s.src a = 0 then F.life else min (s.src a).toNat 1800
    if F.state = .empty ∨ F.state = .filling then s.fstateRaise f 5
    else if F.xp then s.raise (cause cStale (faddr f.toNat 0))
    else (s.onFrame s.cur.p f.toNat fun F =>
      { F with expiry := s.mine.fadeCount + BitVec.ofNat 48 (l * 4096) }).noRenewal s.cur.p f.toNat

/-- FSETX (R253, R269); a frame to be filled anew has no renewal asked of the host any more (R392). -/
def execFsetx (g : Guard) (f : BitVec 6) (a b : BitVec 5) (t : BitVec 1) (s : State) : Outcome :=
  s.guarded g [a, b] fun s =>
    let F := s.frame s.cur.p f.toNat
    let x := s.src a
    let y := s.src b
    if F.state ≠ .ready then s.fstateRaise f 6
    else if F.bytes < x.toNat ∨ 1800 < y.toNat then s.fstateRaise f 2
    else
      let t := s.onFrame s.cur.p f.toNat fun F =>
        let F := { F with auto := t = 1, life := if y = 0 then F.life else y.toNat }
        if x = 0 then F else { F with state := .filling, expb := x.toNat, land := 0 }
      if x = 0 then t else t.noRenewal s.cur.p f.toNat

/-- The word FSTAT pushes (R270). -/
def Frame.stat (F : Frame) (t : Nat) : W64 :=
  match t with
  | 1 => F.expiry.zeroExtend 64
  | 2 => BitVec.ofNat 64 F.life
  | _ => field F.state.code 0 2 ||| asBit F.ph 2 ||| asBit F.auto 3 ||| asBit F.xp 4 ||| field F.size 5 11 |||
      field F.expb 16 23 ||| field F.land 39 23

/-- FSTAT (R270). -/
def execFstat (g : Guard) (f : BitVec 6) (t : BitVec 2) (s : State) : Outcome :=
  s.guarded g [] fun s => s.result 4 (.push ((s.frame s.cur.p f.toNat).stat t.toNat))

end Sys2Proof.Machine
end

