-- ==== Sys2Proof/Machine/Num.lean ====
section
/-! DEFINITION. Numbers: exact values, the one rounding (R120), the element formats (R109-R119), arithmetic of R121
and R206, and the conversion function (R122-R124). -/

namespace Sys2Proof.Machine

/-- A nonnegative number times a power of two. -/
def pow2 (n : Nat) (e : Int) : Nat := n <<< e.toNat

/-- The quotient n/d rounded to the nearest integer, ties to even (R120). -/
def divRne (n d : Nat) : Nat :=
  let q := n / d
  let r := n % d
  if d < 2 * r || (2 * r = d && q % 2 = 1) then q + 1 else q

/-- The integer nearest m × 2^e, ties to even. -/
def rneInt (m e : Int) : Int :=
  if 0 ≤ e then m * 2 ^ e.toNat
  else
    let q : Int := divRne m.natAbs (2 ^ (-e).toNat)
    if m < 0 then -q else q

/-- The integer at or below m × 2^e. -/
def floorInt (m e : Int) : Int := if 0 ≤ e then m * 2 ^ e.toNat else Int.fdiv m (2 ^ (-e).toNat)

/-- The largest y with y^p at or below n, found bit by bit. -/
def iroot (p n : Nat) : Nat :=
  (List.range (Nat.log2 n / p + 1)).reverse.foldl
    (fun y k => if (y + 2 ^ k) ^ p ≤ n then y + 2 ^ k else y) 0

/-- The floor of log2 of n/d, for positive n and d. -/
def log2Ratio (n d : Nat) : Int :=
  let l : Int := (Nat.log2 n : Int) - Nat.log2 d
  if pow2 n (-l) < pow2 d l then l - 1 else l

/-- A binary floating-point format: its precision and exponent bias (R110). -/
structure Fp where
  prec : Nat
  bias : Nat
deriving DecidableEq, Repr

/-- FP32 (R110). -/
def fp32 : Fp := ⟨24, 127⟩
/-- BF16 (R110). -/
def bf16 : Fp := ⟨8, 127⟩
/-- FP16 (R110). -/
def fp16 : Fp := ⟨11, 15⟩

/-- The number of exponent codes (R111): twice the bias, and two. -/
def Fp.codes (f : Fp) : Nat := 2 * f.bias + 2
/-- The bit of the sign. -/
def Fp.signBit (f : Fp) : Nat := f.codes * 2 ^ (f.prec - 1)
/-- The code of +infinity. -/
def Fp.inf (f : Fp) : Nat := (f.codes - 1) * 2 ^ (f.prec - 1)
/-- The canonical NaN (R112). -/
def Fp.nan (f : Fp) : Nat := f.inf + 2 ^ (f.prec - 2)
/-- The largest finite code (R110). -/
def Fp.max (f : Fp) : Nat := f.inf - 1

/-- n/d × 2^e rounded to p bits, or to the spacing 2^low where that is wider, as an integer and its exponent (R120).
-/
def roundTo (p : Nat) (low : Option Int) (n d : Nat) (e : Int) : Nat × Int :=
  let t := log2Ratio n d + e - (p - 1 : Nat)
  let t := match low with
    | some l => max t l
    | none => t
  (divRne (pow2 n (e - t)) (pow2 d (t - e)), t)

/-- The magnitude code nearest n/d × 2^e in a format, with an unbounded exponent; none when it overflows (R120). -/
def Fp.encode (f : Fp) (n d : Nat) (e : Int) : Option Nat :=
  if n = 0 then some 0 else
  let low : Int := 1 - (f.bias : Int) - (f.prec - 1 : Nat)
  let (q, t) := roundTo f.prec (some low) n d e
  let code := if q < 2 ^ (f.prec - 1) then q else q + (t - low).toNat * 2 ^ (f.prec - 1)
  if f.inf ≤ code then none else some code

/-- A code with its sign. -/
def Fp.signed (f : Fp) (neg : Bool) (code : Nat) : Nat := if neg then f.signBit + code else code

/-- An exact value of an element: NaN, an infinity, or ± m × 2^e with the sign of a zero kept (R111). -/
inductive Val where
  | nan
  | inf (neg : Bool)
  | fin (neg : Bool) (m : Nat) (e : Int)
deriving DecidableEq, Repr

/-- The value of a floating-point code (R111). -/
def Fp.decode (f : Fp) (b : Nat) : Val :=
  let neg := decide (f.signBit ≤ b)
  let c := b % f.signBit
  let ex := c / 2 ^ (f.prec - 1)
  let fr := c % 2 ^ (f.prec - 1)
  let low : Int := 1 - (f.bias : Int) - (f.prec - 1 : Nat)
  if ex = f.codes - 1 then (if fr = 0 then .inf neg else .nan)
  else if ex = 0 then .fin neg fr low
  else .fin neg (2 ^ (f.prec - 1) + fr) (low + ex - 1)

/-- n/d × 2^e with a sign, rounded, overflowing to infinity: round_fp32, round_bf16, round_fp16 (R120). -/
def Fp.round (f : Fp) (neg : Bool) (n d : Nat) (e : Int) : Nat := f.signed neg ((f.encode n d e).getD f.inf)

/-- A value rounded to a format (R112, R120). -/
def Fp.ofVal (f : Fp) (v : Val) : Nat :=
  match v with
  | .nan => f.nan
  | .inf neg => f.signed neg f.inf
  | .fin neg m e => f.round neg m 1 e

/-- An FP32 element's value. -/
def val32 (x : W32) : Val := fp32.decode x.toNat
/-- A value as an FP32 element, rounded once. -/
def to32 (v : Val) : W32 := BitVec.ofNat 32 (fp32.ofVal v)
/-- The canonical FP32 NaN (R112). -/
def nan32 : W32 := 0x7FC00000
/-- Whether an FP32 element is a NaN. -/
def isNan32 (x : W32) : Bool := 0x7F800000 < x.toNat % 2147483648

/-- The signed integer of a finite value's magnitude. -/
def signedMag (neg : Bool) (m : Nat) : Int := if neg then -(m : Int) else m

/-- The exact sum of two dyadics. -/
def addDyadic (m1 e1 m2 e2 : Int) : Int × Int :=
  let e := min e1 e2
  (m1 * 2 ^ (e1 - e).toNat + m2 * 2 ^ (e2 - e).toNat, e)

/-- The exact sum, with the sign of an exact zero as R121 has it. -/
def Val.add : Val → Val → Val
  | .nan, _ | _, .nan => .nan
  | .inf a, .inf b => if a = b then .inf a else .nan
  | .inf a, _ => .inf a
  | _, .inf b => .inf b
  | .fin a m e, .fin b n f =>
    let s := addDyadic (signedMag a m) e (signedMag b n) f
    if s.1 = 0 then .fin (a && b) 0 0 else .fin (decide (s.1 < 0)) s.1.natAbs s.2

/-- The exact product (R121). -/
def Val.mul : Val → Val → Val
  | .nan, _ | _, .nan => .nan
  | .inf a, .inf b => .inf (xor a b)
  | .inf a, .fin b n _ => if n = 0 then .nan else .inf (xor a b)
  | .fin a m _, .inf b => if m = 0 then .nan else .inf (xor a b)
  | .fin a m e, .fin b n f => .fin (xor a b) (m * n) (e + f)

/-- The negation. -/
def Val.neg : Val → Val
  | .nan => .nan
  | .inf a => .inf (!a)
  | .fin a m e => .fin (!a) m e

/-- FP32 order as integers, −0 below +0; not for NaNs (R206). -/
def key32 (x : W32) : Int := if x.msb then -((x.toNat - 2147483648 : Nat) : Int) - 1 else x.toNat
/-- The FP32 value as an ordered integer, the zeros equal; not for NaNs (R209). -/
def num32 (x : W32) : Int := if x.msb then -((x.toNat - 2147483648 : Nat) : Int) else x.toNat

/-- The smaller FP32 element (R206, R228). -/
def fmin32 (a b : W32) : W32 := if isNan32 a || isNan32 b then nan32 else if key32 b < key32 a then b else a
/-- The larger FP32 element (R206, R228). -/
def fmax32 (a b : W32) : W32 := if isNan32 a || isNan32 b then nan32 else if key32 a < key32 b then b else a

/-! ### Exact sums (R228, R294) -/

/-- The empty sum. -/
def Exact.zero : Exact := ⟨false, false, false, 0, 0⟩

/-- A value added to an exact sum. -/
def Exact.add (x : Exact) : Val → Exact
  | .nan => { x with nan := true }
  | .inf neg => if neg then { x with ninf := true } else { x with pinf := true }
  | .fin neg m e =>
    if m = 0 then x
    else if x.m = 0 then { x with m := signedMag neg m, e := e }
    else
      let s := addDyadic x.m x.e (signedMag neg m) e
      { x with m := s.1, e := s.2 }

/-- Two exact sums added. -/
def Exact.merge (x y : Exact) : Exact :=
  let s := if x.m = 0 then (y.m, y.e) else if y.m = 0 then (x.m, x.e) else addDyadic x.m x.e y.m y.e
  ⟨x.nan || y.nan, x.pinf || y.pinf, x.ninf || y.ninf, s.1, s.2⟩

/-- The value of an exact sum; its exact zero is +0. -/
def Exact.val (x : Exact) : Val :=
  if x.nan || (x.pinf && x.ninf) then .nan
  else if x.pinf then .inf false
  else if x.ninf then .inf true
  else .fin (decide (x.m < 0)) x.m.natAbs x.e

/-- FSUM (R228): the exact sum rounded once; −0 only when every term is −0. -/
def fsum (xs : List W32) : W32 :=
  if xs ≠ [] ∧ xs.all fun x => x = 0x80000000 then 0x80000000
  else to32 (xs.foldl (fun a x => a.add (val32 x)) Exact.zero).val

/-! ### LG6 and TRN (R114, R117) -/

/-- 2^(f/4) in unsigned Q1.15 (R114). -/
def qtab (f : Nat) : Nat :=
  match f with
  | 0 => 0x8000
  | 1 => 0x9838
  | 2 => 0xB505
  | _ => 0xD745

/-- The magnitude of an LG6 code M in units of 2^-19, 0 for M = 0 (R114). -/
def lg6Units (m : Nat) : Nat := if m = 0 then 0 else qtab (m % 4) <<< (m / 4)

/-- The exact value of an LG6 code (R114). -/
def lg6Val (b : Nat) : Val :=
  let m := b % 32
  let neg := decide (b / 32 % 2 = 1)
  if m = 0 then (if neg then .nan else .fin false 0 0) else .fin neg (lg6Units m) (-19)

/-- TRN's five trits; a reserved code gives five zeros (R117). -/
def trnDecode (b : Nat) : List Int :=
  if 243 ≤ b then [0, 0, 0, 0, 0] else (List.range 5).map fun (i : Nat) => (((b / 3 ^ i % 3 : Nat) : Int) - 1)
/-- Whether a TRN byte is a reserved code. -/
def trnReserved (b : Nat) : Bool := 243 ≤ b
/-- The byte of five trits (R117). -/
def trnEncode (t : List Int) : Nat :=
  (List.range 5).foldl (fun n i => n + ((t.getD i 0) + 1).toNat * 3 ^ i) 0

/-! ### Formats and conversion (R109, R122, R123) -/

/-- The width in bits of an element of a format code; LG6 takes its low six bits of a byte (R109, R212). -/
def fmtBits (f : Nat) : Nat :=
  match f with
  | 0 | 3 | 10 => 32
  | 1 | 2 | 4 | 9 | 11 | 12 => 16
  | 7 => 6
  | _ => 8

/-- A signed number of w bits (R113). -/
def signedBits (w b : Nat) : Int := if 2 ^ (w - 1) ≤ b then (b : Int) - 2 ^ w else b

/-- A finite value of an integer times a power of two; an integer zero is +0. -/
def valInt (k e : Int) : Val := .fin (decide (k < 0)) k.natAbs e

/-- The exact value of an element's low bits in a format (R111, R113, R114, R118, R119). -/
def fmtVal (f : Nat) (x : Nat) : Val :=
  let b := x % 2 ^ fmtBits f
  match f with
  | 0 => fp32.decode b
  | 1 => bf16.decode b
  | 2 => fp16.decode b
  | 3 | 4 | 5 => valInt (signedBits (fmtBits f) b) 0
  | 7 => lg6Val b
  | 11 => valInt (signedBits 16 b) (-14)
  | 12 => if b = 0x8000 then .inf true else valInt (signedBits 16 b) (-8)
  | _ => valInt b 0

/-- The range of an integer, Q14 or LN16 target (R113, R118, R123). -/
def fmtRange (f : Nat) : Int × Int :=
  match f with
  | 3 => (-2147483648, 2147483647)
  | 4 | 11 => (-32768, 32767)
  | 5 => (-128, 127)
  | 6 => (0, 255)
  | 9 => (0, 65535)
  | 10 => (0, 4294967295)
  | _ => (-32767, 32767)

/-- The floating-point format of a code. -/
def fpOf (f : Nat) : Option Fp :=
  match f with
  | 0 => some fp32
  | 1 => some bf16
  | 2 => some fp16
  | _ => none

/-- An overflowing conversion under a policy; none is the fault FMTOVF (R122). -/
def overflow (neg : Bool) (to_ pol : Nat) : Option Nat :=
  if pol = 3 then none
  else
    match fpOf to_ with
    | some f => some (if pol = 0 then f.signed neg f.max else if pol = 1 then f.signed neg f.inf else f.nan)
    | none =>
      if to_ = 7 then some (if pol = 0 then (if neg then 63 else 31) else 32)
      else some (((if neg then (fmtRange to_).1 else (fmtRange to_).2) % 2 ^ fmtBits to_).toNat)

/-- The scale of a fixed-point or integer target, as a power of two (R123). -/
def fmtScale (f : Nat) : Int := if f = 11 then 14 else if f = 12 then 8 else 0

/-- The nearest LG6 magnitude code, ties to even M (R123). -/
def lg6Nearest (m : Nat) (e : Int) : Nat :=
  ((List.range 31).filter fun k =>
    let mid := lg6Units k + lg6Units (k + 1)
    let a := pow2 m (e + 20)
    let b := pow2 mid (-20 - e)
    decide (b < a) || (a == b && (k + 1) % 2 == 0)).length

/-- The conversion of one element; none is the fault FMTOVF (R123). -/
def convert (x : Val) (to_ pol : Nat) : Option Nat :=
  match fpOf to_ with
  | some f =>
    match x with
    | .nan => some f.nan
    | .inf neg => some (f.signed neg f.inf)
    | .fin neg m e =>
      match f.encode m 1 e with
      | some c => some (f.signed neg c)
      | none => overflow neg to_ pol
  | none =>
    match x with
    | .nan => if to_ = 7 then some 32 else if to_ = 12 then some 0x8000 else if pol = 3 then none else some 0
    | .inf neg => if to_ = 12 ∧ neg then some 0x8000 else overflow neg to_ pol
    | .fin neg m e =>
      if to_ = 7 then
        if pow2 (lg6Units 31) (-19 - e) < pow2 m (e + 19) then overflow neg to_ pol
        else
          let c := lg6Nearest m e
          some (if neg ∧ c ≠ 0 then 32 + c else c)
      else
        let k := rneInt (signedMag neg m) (e + fmtScale to_)
        if k < (fmtRange to_).1 ∨ (fmtRange to_).2 < k then overflow neg to_ pol
        else some (k % 2 ^ fmtBits to_).toNat

end Sys2Proof.Machine
end

