-- ==== Sys2Proof/Machine/Mgmt.lean ====
section
/-! DEFINITION. BAR0 of each stack (R51, R338, R365, R371, R383, R389, R393, R394): what its registers read, which
event a write of one is, and the housekeeping ring (R393). -/

namespace Sys2Proof.Machine

/-- A queue of a stack. -/
def State.queue (s : State) (st q : Nat) : Queue := (s.stack st).queues.getD q Queue.reset

/-- The package with one queue changed. -/
def State.onQueue (s : State) (st q : Nat) (f : Queue → Queue) : State :=
  s.onStack st fun k => { k with queues := upd k.queues q f }

/-- A notify line as read (R51). -/
def Queue.read (x : Queue) (off : Nat) : W64 :=
  match off with
  | 0x00 => BitVec.ofNat 64 x.widx
  | 0x08 => asBit x.en 0
  | 0x10 => field x.state.code 0 2 ||| field x.errc 8 8
  | 0x18 => BitVec.ofNat 64 x.rdidx
  | _ => 0

/-- A lifetime counter by its offset (R365). -/
def Life.read (l : Life) (off : Nat) : W64 :=
  let i := (off - 0x1000) / 8
  BitVec.ofNat 64 (
    if off < 0x1900 then l.temps.getD i 0
    else if off < 0x1A00 then l.supply.getD (i - 288) 0
    else if off = 0x1A00 then l.droops
    else if off < 0x1A88 then l.corrected.getD ((off - 0x1A08) / 8) 0
    else if off < 0x1B08 then l.errors.getD ((off - 0x1A88) / 8) 0
    else if off < 0x1B48 then l.stops.getD ((off - 0x1B08) / 8) 0
    else 0)

/-- A management-block register as read; an offset without one reads 0 (R383). -/
def State.mgmtRead (s : State) (st off : Nat) : W64 :=
  let k := s.stack st
  match off with
  | 0x00 => asBit k.req 0 ||| asBit k.stopped 1 ||| asBit k.killed 2 ||| asBit k.restored 4
  | 0x08 => k.ctxbase
  | 0x10 => k.troot
  | 0x18 => k.inval
  | 0x20 => k.iva
  | 0x100 => k.bootst
  | 0x120 => k.budget
  | 0x140 => if st = 0 then s.hkbase else 0
  | 0x148 => if st = 0 then BitVec.ofNat 64 s.hkw else 0
  | 0x150 => if st = 0 then BitVec.ofNat 64 s.hkr else 0
  | 0x200 => k.govth
  | 0x208 => BitVec.ofNat 64 s.pkgbud
  | 0x210 => field k.held 0 13 ||| field k.token 13 13
  | 0x218 => k.alarm
  | 0x220 => asBit k.shut 0
  | 0x4C0 => BitVec.ofNat 64 k.stime
  | o =>
    if 0x400 ≤ o ∧ o < 0x4C0 then
      let i := (o - 0x400) / 2
      BitVec.ofNat 64 (leNat ((List.range 4).flatMap fun j => leBytes 2 (at0 k.sens (i + j)).toNat))
    else if 0x1000 ≤ o then k.life.read o
    else 0

/-- Whether the boot failed to verify the firmware, so that BAR0 shows BOOTST only (R387). -/
def Stack.unbooted (k : Stack) : Bool := bits k.bootst 4 4 = 1

/-- The doubleword register of BAR0 at an aligned offset. -/
def State.regRead (s : State) (st off : Nat) : W64 :=
  if (s.stack st).unbooted then (if off = 0x10100 then (s.stack st).bootst else 0)
  else if off < 0x10000 then (s.queue st (off / 64)).read (off % 64) else s.mgmtRead st (off - 0x10000)

/-- What a write of a queue's control doubleword does (R51), one of EN 0 to a halted queue whatever EN holds (R64);
one with RESUME and ABORT both 1 resumes and then aborts (log 72). -/
def Queue.control (x : Queue) (st q : Nat) (v : W64) : List (Instr × Who) :=
  if bits v 1 3 = 0 then
    if bit v 0 && !x.en then [(.queueEnable, { st := st, q := q })]
    else if !bit v 0 && (x.en || x.state = .halted) then [(.queueDisable, { st := st, q := q })]
    else []
  else
    (if bit v 1 then [(if bit v 2 then Instr.skipPacket else .resumeQueue, ({ st := st, q := q } : Who))] else []) ++
      (if bit v 3 then [(.abortQueue, { st := st, q := q })] else [])

/-- The events that an aligned 8-byte write of a BAR0 register is; none where the offset has no writable register
(R383). -/
def State.regEvents (s : State) (st off : Nat) (v : W64) : List (Instr × Who) :=
  let plain := [(Instr.mgmtRegisterWrite, ({ st := st, k := off - 0x10000, v := v.toNat } : Who))]
  if (s.stack st).unbooted then []
  else if off < 0x10000 then
    match off % 64 with
    | 0 => [(.notifyWidxWrite, { st := st, q := off / 64, v := v.toNat })]
    | 8 => (s.queue st (off / 64)).control st (off / 64) v
    | _ => []
  else
    match off - 0x10000 with
    | 0x00 => (if bit v 2 then plain else []) ++ (if bit v 0 then [(.preemptRequest, { st := st })] else []) ++
        (if bit v 3 then [(.restore, { st := st })] else [])
    | 0x08 | 0x10 | 0x20 | 0x120 | 0x218 => plain
    | 0x18 => plain ++ (if bit v 17 then [(.tlbInvalidate, { st := st })] else [])
    | 0x140 => if st = 0 then plain else []
    | 0x150 => if st = 0 then [(.hkrWrite, { v := v.toNat })] else []
    | 0x158 => if st = 0 then [(.hkVerdict, { v := v.toNat })] else []
    | 0x200 => [(.govthWrite, { st := st, v := v.toNat })]
    | 0x208 => if st = 0 then [(.pkgbudWrite, { v := v.toNat })] else []
    | _ => []

/-- A write of a BAR0 register: its events are the next things to happen. -/
def State.regWrite (s : State) (st off : Nat) (v : W64) : State :=
  { s with agenda := (s.regEvents st off v).map (fun e => Act.event e.1 e.2) ++ s.agenda }

/-! ### The physical map (R384) -/

/-- What a physical address holds: an HBM stack, a weight-store layer, a BAR0 image, a pod package's HBM, host
memory. -/
inductive Space where
  | hbm (h : Nat)
  | weight (st l : Nat)
  | bar (st : Nat)
  | pod (p : Nat)
  | host
deriving DecidableEq, Repr

/-- The space of a physical address; none where the map holds nothing. -/
def spaceOf (pa : Nat) : Option Space :=
  if pa < 0x6000000000 then some (.hbm (pa / 0xC00000000))
  else if pa < 0x6800000000 then
    some (.weight ((pa - 0x6000000000) / 0x200000000) ((pa - 0x6000000000) % 0x200000000 / 0x80000000))
  else if 0x7000000000 ≤ pa ∧ pa < 0x7000080000 then some (.bar ((pa - 0x7000000000) / 0x20000))
  else if 0x8000000000000 ≤ pa ∧ pa < 0xA000000000000 ∧ (pa - 0x8000000000000) % 0x8000000000 < 0x6000000000 then
    some (.pod ((pa - 0x8000000000000) / 0x8000000000))
  else if 0xC000000000000 ≤ pa ∧ pa < 0x10000000000000 then some .host
  else none

/-- Whether two addresses lie in one range of the map: a stack's 96 GiB is one range. -/
def sameRange (a b : Option Space) : Bool :=
  match a, b with
  | some (.hbm x), some (.hbm y) => x / 2 = y / 2
  | some x, some y => x = y
  | _, _ => false

/-- Whether a supply domain may begin a change: at most one per ms (R374). -/
def Stack.voltBegins (k : Stack) (d t : Nat) : Bool :=
  decide (k.voltAt.getD d 0 + 1000000 ≤ t ∧ (k.voltLast.getD d (0, false)).1 + 1000 ≤ t)

/-- Whether a supply domain may go on with its change: another 1 mV the same way, 1 µs or more after the last, the
change being over once 2 µs bring none (R374, log 101). -/
def Stack.voltGoesOn (k : Stack) (d t : Nat) (up : Bool) : Bool :=
  let l := k.voltLast.getD d (0, false)
  decide (0 < l.1 ∧ l.1 + 1000 ≤ t ∧ t < l.1 + 2000) && l.2 == up

/-- Whether a physical address holds the package's own device memory. -/
def State.isDevice (s : State) (pa : Nat) : Bool :=
  match spaceOf pa with
  | some (.hbm _) => true
  | some (.pod p) => p = s.pkg
  | _ => false

/-- The HBM stack of the package that holds a physical address (R384). -/
def State.hbmOf (s : State) (pa : Nat) : Option Nat :=
  match spaceOf (s.canonPa pa) with
  | some (.hbm h) => some h
  | _ => none

/-! ### What stands held at the memory side (R286) -/

/-- Whether a physical address lies in an HBM stack in self-refresh. -/
def State.refreshing (s : State) (pa : Nat) : Bool := (s.hbmOf pa).any fun h => s.selfRefresh.getD h false

/-- Whether two ranges of bytes share one. -/
def rangesMeet (a n b m : Nat) : Bool := a < b + m && b < a + n

/-- The bytes of memory that a step of the part's own touches: a job control block, or what it writes. -/
def Report.size : Report → Nat
  | .bytes bs => bs.length
  | _ => 64

/-- Whether what stands held touches a byte of a range. -/
def Standing.meets : Standing → Nat → Nat → Bool
  | .access _ _ _ _ rs, pa, n => rs.any fun x => rangesMeet x.1 x.2 pa n
  | .report a r, pa, n => rangesMeet a r.size pa n

/-- Whether a range of bytes lies behind something that stands held there (R286). -/
def State.behind (s : State) (l : List Standing) (pa n : Nat) : Bool := l.any fun x => x.meets (s.canonPa pa) n

/-- Reads n bytes at a physical address: a BAR0 register, or memory. -/
def State.busRead (s : State) (pa n : Nat) : List Byte :=
  match spaceOf pa with
  | some (.bar st) =>
    let off := (pa - 0x7000000000) % 0x20000
    (List.range n).map fun i => (leBytes 8 (s.regRead st ((off + i) / 8 * 8)).toNat).getD ((off + i) % 8) 0
  | _ => s.readMem pa n

/-- Writes bytes at a physical address: memory, or a BAR0 register, which takes only aligned 8-byte writes (R383). -/
def State.busWrite (s : State) (pa : Nat) (bs : List Byte) : State :=
  match spaceOf pa with
  | some (.bar st) =>
    if bs.length = 8 ∧ pa % 8 = 0 then
      s.regWrite st ((pa - 0x7000000000) % 0x20000) (BitVec.ofNat 64 (leNat bs))
    else s
  | some (.weight _ _) => s
  | _ => s.writeMem pa bs

/-! ### The housekeeping ring (R393) -/

/-- The bytes of a ring entry (R393). -/
def HkReq.bytes (r : HkReq) : List Byte :=
  leBytes 8 r.word0.toNat ++ leBytes 8 r.word1.toNat ++ leBytes 8 (r.tag % 4294967296) ++ leBytes 8 r.time

/-- One waiting request posted, when the ring has room: the entry written with the TIME of posting, vector 1,025
raised (R393). -/
def State.hkPostOne (s : State) : State :=
  match s.hkreqs.find? fun r => !r.posted with
  | none => s
  | some r =>
    if 256 ≤ s.hkw - s.hkr then s else
    let r := { r with time := s.time }
    let s := s.writeMem (s.hkbase.toNat + 32 * (s.hkw % 256)) r.bytes
    let s := s.onStack 0 fun k => { k with msix := mark k.msix 1025 }
    { s with
      hkw := s.hkw + 1
      hkreqs := s.hkreqs.map fun x => if x.tag = r.tag then { x with posted := true, time := s.time } else x }

/-- Waiting requests posted in order while the ring has room; entries that need no answer are then forgotten. -/
def State.hkPump (s : State) : State :=
  let s := (List.range s.hkreqs.length).foldl (fun s _ => s.hkPostOne) s
  { s with hkreqs := s.hkreqs.filter fun r => !(r.posted && bits r.word0 0 8 = 4) }

/-- A request of an owner joins the ring (R392, R393), with what its refusal records; its tag is its number. -/
def State.hkRequest (s : State) (owner : Nat × Nat) (word0 word1 info : W64) : State :=
  let tag := s.hkw + (s.hkreqs.filter fun r => !r.posted).length
  State.hkPump { s with hkreqs := s.hkreqs ++ [(⟨word0, word1, tag, s.time, owner, info, false, none⟩ : HkReq)] }

/-- TYPE, STACK, PILLAR, FRAME, WR and JOBID of an entry (R393). -/
def hkWord (typ st pillar frame : Nat) (wr : Bool) (job : Nat) : W64 :=
  field typ 0 8 ||| field st 8 2 ||| field pillar 10 5 ||| field frame 15 6 ||| asBit wr 21 ||| field job 32 16

/-- A corrected error, poison mark or UE in a stack, at a pillar and frame where it has them: counted for the second
under way (R365), and posted under ELOG with the stack's JOBID (R392, R393). -/
def State.logError (s : State) (st pillar frame unit : Nat) (corrected : Bool) (word : W64) : State :=
  let more := fun (l : List Nat) => upd l unit (· + 1)
  let s := s.onStack st fun k =>
    { k with fresh := if corrected then { k.fresh with corrected := more k.fresh.corrected }
                      else { k.fresh with errors := more k.fresh.errors } }
  if bit s.fnmode 3 then
    s.hkRequest (0, 0) (hkWord 4 st pillar frame false ((s.stack st).job.getD 0)) word 0
  else s

/-- The R356 word of a sector of memory, by physical address. -/
def memWord (pa : Nat) : W64 :=
  match spaceOf pa with
  | some (.weight _ l) => poisonInfo 3 l ((pa - 0x6000000000) % 0x80000000 / 256)
  | _ => poisonInfo 1 0 (pa / 256)

/-- The R356 word of a sector of a frame. -/
def frameWord (f sector : Nat) : W64 := poisonInfo 2 0 (bits (field (32 * sector) 0 22 ||| field f 22 6) 8 20)

/-- A memory sector marked by a copy of poisoned data; a mark new to the package's own memory is reported by the stack
that owns it (R354, R365, R392; log 90). -/
def State.markMem (s : State) (pa : Nat) : State :=
  let a := s.canonPa pa
  if s.poison.contains (a / 32) then s
  else
    let log := fun st => (s.poisonMem pa).logError st 0 0 (bits (memWord a) 0 4) false (memWord a)
    match spaceOf a with
    | some (.hbm h) => log (h / 2)
    | some (.weight st _) => log st
    | _ => s.poisonMem pa

/-- The marks that copies have added to a frame's old ones are reported (R354, R365, R392; log 90). -/
def State.logMarks (s : State) (p f : Nat) (old : List Nat) : State :=
  ((s.frame p f).poison.filter fun k => !old.contains k).foldl (fun s k =>
    s.logError (stackOf p) (p % 32) f 2 false (frameWord f k)) s

end Sys2Proof.Machine
end

