-- ==== Sys2Proof/Machine/Xlate.lean ====
section
/-! DEFINITION. Translation (R281, R346-R349): the walk, the checks on its entries, the TLB, and the permission an
access needs. -/

namespace Sys2Proof.Machine

/-- The information of XLATE and PERM (R349). -/
def xlateInfo (va lvl why : Nat) (wr : Bool) : W64 := field va 0 52 ||| field lvl 52 2 ||| field why 54 3 ||| asBit wr 57

/-- A translation's answer: the physical address with the page's leaf, or the cause and its information. -/
inductive Xlate where
  | ok (pa : Nat) (leaf : W64)
  | bad (cause : Nat) (info : W64)
deriving DecidableEq, Repr

/-- The kind of access: a read, a write, an instruction fetch. -/
inductive Access where
  | read | write | fetch
deriving DecidableEq, Repr

/-- A leaf's W: writable (R347). -/
def leafW (leaf : W64) : Bool := bit leaf 2
/-- A leaf's X: code (R347). -/
def leafX (leaf : W64) : Bool := bit leaf 3
/-- A leaf's C: the memory-side cache may hold the page (R282, R347). -/
def leafC (leaf : W64) : Bool := bit leaf 4
/-- A leaf's H: host memory (R347). -/
def leafH (leaf : W64) : Bool := bit leaf 5
/-- A leaf's ordering kind: 0 SO, 1 RC, 2 UN (R347). -/
def leafOrd (leaf : W64) : Nat := bits leaf 6 2
/-- The physical address in an entry (R347). -/
def entryAddr (e : W64) : Nat := bits e 8 44 * 256

/-- The lowest VA bit a level indexes; two to it is the level's page size (R346). -/
def levelBit : Nat → Nat
  | 0 => 16 | 1 => 21 | 2 => 30 | _ => 35
/-- The number of VA bits a level indexes (R346). -/
def levelWidth : Nat → Nat
  | 0 => 5 | 1 => 9 | 2 => 5 | _ => 17
/-- The level of a page size. -/
def levelOf (size : Nat) : Nat := ((List.range 4).find? fun l => 2 ^ levelBit l = size).getD 3

/-- Whether a leaf at a level is well formed (R347, R384). -/
def leafOk (e : W64) (lvl : Nat) : Bool :=
  let size := 2 ^ levelBit lvl
  bits e 52 12 = 0 && leafOrd e ≠ 3 && entryAddr e % size = 0 &&
    sameRange (spaceOf (entryAddr e)) (spaceOf (entryAddr e + size - 1)) &&
    leafH e == (spaceOf (entryAddr e) == some Space.host)

/-- A walk from a level's table: the page's first virtual address, its size and leaf, or the level and WHY it stopped
with (R346, R347, R349). -/
def State.walk (s : State) (va : Nat) : Nat → Nat → Except (Nat × Nat) TlbEntry
  | lvl, table =>
    let e := BitVec.ofNat 64 (s.read64 (table + 8 * (va / 2 ^ levelBit lvl % 2 ^ levelWidth lvl)))
    if !bit e 0 then .error (lvl, 1)
    else if bit e 1 then
      if leafOk e lvl then .ok ⟨0, va / 2 ^ levelBit lvl * 2 ^ levelBit lvl, 2 ^ levelBit lvl, e⟩
      else .error (lvl, 2)
    else
      match lvl with
      | 0 => .error (0, 2)
      | n + 1 =>
        if bits e 52 12 ≠ 0 || entryAddr e % (8 * 2 ^ levelWidth n) ≠ 0 then .error (n + 1, 2)
        else State.walk s va n (entryAddr e)

/-- The whole walk under a JOBID, from the job-root table (R346). -/
def State.walkRoot (s : State) (st job va : Nat) : Except (Nat × Nat) TlbEntry :=
  let e := BitVec.ofNat 64 (s.read64 ((s.stack st).troot.toNat + 8 * job))
  if !bit e 0 || bits e 1 19 ≠ 0 || bits e 52 12 ≠ 0 then .error (3, 3)
  else (s.walk va 3 (bits e 20 32 * 1048576)).map fun t => { t with job := job }

/-- The addresses of the entries that such a walk reads. -/
def State.walkReads (s : State) (va : Nat) : Nat → Nat → List Nat
  | lvl, table =>
    let a := table + 8 * (va / 2 ^ levelBit lvl % 2 ^ levelWidth lvl)
    let e := BitVec.ofNat 64 (s.read64 a)
    a :: match lvl with
      | 0 => []
      | n + 1 =>
        if !bit e 0 || bit e 1 || bits e 52 12 ≠ 0 || entryAddr e % (8 * 2 ^ levelWidth n) ≠ 0 then []
        else State.walkReads s va n (entryAddr e)

/-- Whether a walk reads an entry that lies behind something held at the memory side (R286). -/
def State.walkHeld (s : State) (st job va : Nat) : Bool :=
  let root := (s.stack st).troot.toNat + 8 * job
  let e := BitVec.ofNat 64 (s.read64 root)
  !s.standing.isEmpty && (root :: (if bit e 0 then s.walkReads va 3 (bits e 20 32 * 1048576) else [])).any fun a =>
    s.behind s.standing a 8

/-- The permission check of an access on a page (R283, R347, R349). -/
def permitAccess (t : TlbEntry) (va : Nat) (a : Access) : Xlate :=
  let pa := entryAddr t.leaf + (va - t.va)
  let isWeight : Bool := match spaceOf pa with
    | some (.weight _ _) => true
    | _ => false
  if a = .write ∧ isWeight = true then .bad cPerm (xlateInfo va (levelOf t.size) 6 true)
  else if a = .write ∧ !leafW t.leaf then .bad cPerm (xlateInfo va (levelOf t.size) 4 true)
  else if a = .fetch ∧ !leafX t.leaf then .bad cPerm (xlateInfo va (levelOf t.size) 5 false)
  else .ok pa t.leaf

/-- The TLB entry of a stack that holds a virtual address of a job (R348). -/
def Stack.tlbHit (k : Stack) (job va : Nat) : Option TlbEntry :=
  k.tlb.find? fun t => t.job = job && t.va ≤ va && va < t.va + t.size

/-- Entries of a stack's TLB (R281). -/
abbrev tlbSize : Nat := 16384

/-- A TLB with an entry brought in; with every place taken the entry at place c leaves. -/
def Stack.tlbFilled (k : Stack) (t : TlbEntry) (c : Nat) : Stack :=
  { k with tlb := t :: (if k.tlb.length < tlbSize then k.tlb else k.tlb.eraseIdx (c % tlbSize)) }

/-- A translation enters a stack's TLB (R281, R348); from a full one the part evicts an entry of its choice (log
20). -/
def State.tlbFill (s : State) (st : Nat) (t : TlbEntry) : State :=
  if (s.stack st).tlb.length < tlbSize then s.onStack st fun k => k.tlbFilled t 0
  else
    let (c, s) := s.choose
    s.onStack st fun k => k.tlbFilled t c

/-- A translation (R281, R346-R349): a TLB entry answers while it stands, a successful walk leaves one. -/
def State.translate (s : State) (st job va : Nat) (a : Access) : State × Xlate :=
  let wr := a = .write
  if 4503599627370496 ≤ va then (s, .bad cXlate (xlateInfo va 3 7 wr))
  else
    match (s.stack st).tlbHit job va with
    | some t => (s, permitAccess t va a)
    | none =>
      match s.walkRoot st job va with
      | .error (lvl, why) => (s, .bad cXlate (xlateInfo va lvl why wr))
      | .ok t => (s.tlbFill st t, permitAccess t va a)

/-- Whether a failed translation waits for the host (R349, R391, R392). -/
def State.hostServes (s : State) (cause : Nat) (info : W64) : Bool :=
  bit s.fnmode 0 && cause = cXlate && (bits info 54 3 = 1 || bits info 54 3 = 3)

/-- The record number that stands for a sequencer's fetch among the owners of requests. -/
abbrev fetchOwner : Nat := 256

/-- Whether a translation for a record of a sequencer, or its fetch, waits for the host's answer for a virtual address
(R281, R349, R392); it delays no other operation. -/
def State.hostWaiting (s : State) (p q i va : Nat) : Bool :=
  s.hkreqs.any fun r => r.answered.isNone && bits r.word0 0 8 = 1 && bits r.word0 8 2 = stackOf p &&
    bits r.word0 10 5 = p % 32 && r.owner = (q, i) && r.word1.toNat = va

/-- The misses that a stack's translation unit tracks at once (R281). -/
abbrev missSlots : Nat := 4096

/-- Whether a translation is a miss that waits: for a free place, as many misses of its stack as the unit tracks
waiting for the host (R281), or for an entry behind something held at the memory side (R286); a walk by the part
itself is over in one step. -/
def State.missWaits (s : State) (st job va : Nat) : Bool :=
  ((s.stack st).tlbHit job va).isNone &&
    (decide (missSlots ≤
        (s.hkreqs.filter fun r => r.answered.isNone && bits r.word0 0 8 = 1 && bits r.word0 8 2 = st).length) ||
      s.walkHeld st job va)

/-- A failed translation offered to the host (R349, R392), for a record of a sequencer or its fetch: true while it
waits for the answer to its request; after GRANT it walks again, and asks again if that walk fails. -/
def State.hostAsk (s : State) (p q i cause : Nat) (info : W64) : State × Bool :=
  let va := bits info 0 52
  let job := ((s.seq p q).iter.bind fun i => (s.launch? i.launch).map fun l => l.job).getD
    ((s.stack (stackOf p)).job.getD 0)
  if !s.hostServes cause info then (s, false)
  else if s.hostWaiting p q i va then (s, true)
  else (s.hkRequest (q, i) (hkWord 1 (stackOf p) (p % 32) 0 (bit info 57) job) (BitVec.ofNat 64 va) info, true)

/-- n bytes at a virtual address within one page, as the packet processor, the dispatcher and the walker read them. -/
def State.readVirt (s : State) (st job va n : Nat) : State × Option (List Byte) :=
  match s.translate st job va .read with
  | (s, .ok pa _) => (s, some (s.busRead pa n))
  | (s, .bad _ _) => (s, none)

/-- Bytes written at a virtual address within one page; false when the page does not take them. -/
def State.writeVirt (s : State) (st job va : Nat) (bs : List Byte) : State × Bool :=
  match s.translate st job va .write with
  | (s, .ok pa _) => (s.busWrite pa bs, true)
  | (s, .bad _ _) => (s, false)

/-- The job of the iteration a sequencer runs, or the stack's own (R281). -/
def State.jobOf (s : State) (p q : Nat) : Nat :=
  match s.launchOf p q with
  | some l => l.job
  | none => (s.stack (stackOf p)).job.getD 0

end Sys2Proof.Machine
end

