-- ==== Sys2Proof/Machine/Tensor.lean ====
section
/-! DEFINITION. Tensor handles: widths, element addresses and the test for an element outside (R35-R42), and element
reads as engines and CMMAH make them (R241, R279, R349). -/

namespace Sys2Proof.Machine

/-- The element width in bytes of a format code (R37). -/
def fmtBytes (f : Nat) : Nat :=
  if [0, 3, 10].contains f then 4 else if [1, 2, 4, 9, 11, 12].contains f then 2 else 1

/-- A handle's element width in bytes (R37). -/
def Handle.width (h : Handle) : Nat := fmtBytes h.fmt

/-- The extent of a dimension; one at or above ND counts as 1 (R39). -/
def Handle.extent (h : Handle) (d : Nat) : Nat := if d < h.nd then h.dims.getD d 1 else 1

/-- The indices (i0, ..., i4) of element (i0, i1) of a plane; those at or above ND are 0, and the last dimension takes
the whole rest of the plane number (R38, R39, R273; log 23). -/
def Handle.indices (h : Handle) (i0 i1 pl : Nat) : List Nat :=
  let i2 := if h.nd ≤ 3 then pl else pl % h.extent 2
  let r3 := pl / h.extent 2
  let i3 := if h.nd ≤ 4 then r3 else r3 % h.extent 3
  let i4 := r3 / h.extent 3
  [i0, i1, i2, i3, i4].mapIdx fun d i => if d < h.nd then i else 0

/-- Whether an element lies outside the tensor (R39). -/
def Handle.outside (h : Handle) (ix : List Nat) : Bool := (List.range h.nd).any fun d => h.extent d ≤ ix.getD d 0

/-- The virtual address of an element (R38), modulo 2^64. -/
def Handle.address (h : Handle) (ix : List Nat) : Nat :=
  let i := fun d => ix.getD d 0
  let w := h.width
  let stride := fun (d : Nat) => h.strides.getD (d - 1) 0
  let upper := (List.range h.nd).foldl (fun (a : Int) d => if 2 ≤ d then a + i d * stride d else a) 0
  let lower : Int :=
    if h.tiled then
      (i 0 / 64 * 4096 * w : Nat) + (i 1 / 64 : Nat) * stride 1 + ((i 1 % 64 * 64 + i 0 % 64) * w : Nat)
    else (i 0 * w : Nat) + (if 2 ≤ h.nd then i 1 * stride 1 else 0)
  ((h.base + lower + upper) % 18446744073709551616).toNat

/-- The virtual address of element (i0, i1) of a plane; none outside the tensor (R38, R39). -/
def Handle.at (h : Handle) (i0 i1 pl : Nat) : Option Nat :=
  let ix := h.indices i0 i1 pl
  if h.outside ix then none else some (h.address ix)

/-- The pad element's bytes (R36). -/
def Handle.padBytes (h : Handle) : List Byte := leBytes h.width h.pad.toNat

/-- The handle an operand names; none when it breaks R42. -/
def State.handleOf (s : State) (st : Nat) (a : W64) : Option Handle :=
  if bits a 12 52 ≠ 0 then none else ((s.stack st).handles.find? fun h => h.1 = a.toNat).map Prod.snd

/-- The translation of a data access of a job, the TLB unchanged. -/
def State.peekXlate (s : State) (st job va : Nat) (wr : Bool) : Xlate :=
  (s.translate st job va (if wr then .write else .read)).2

/-- The byte a held write has for a virtual address (R241). -/
def HeldTx.byteAt (h : HeldTx) (va : Nat) : Option Byte :=
  h.parts.foldl (fun b x => if x.1 ≤ va ∧ va < x.1 + x.2.2.length then x.2.2[va - x.1]? else b) none

/-- The byte that the combining buffers of a sequencer's commands issued before an order hold for a virtual address
(R240, R241), the latest one, and whether its source was poisoned (R354). -/
def Seq.heldByte (x : Seq) (order va : Nat) : Option (Byte × Bool) :=
  x.recs.foldl (fun best r => match r.op with
    | .engine e => if r.order < order then e.held.foldl (fun b h => ((h.byteAt va).map (·, h.bad)).or b) best else best
    | _ => best) none

/-- Bytes of memory as an operation of a sequencer with an issue order reads them: what the combining buffers of its
earlier commands hold for the same virtual addresses, else memory (R241). -/
def State.readFor (s : State) (p q order va pa n : Nat) : List Byte :=
  (s.busRead pa n).mapIdx fun i b => (((s.seq p q).heldByte order (va + i)).map Prod.fst).getD b

/-- Whether the memory sector of a physical address is poisoned (R354). -/
def State.sectorBad (s : State) (pa : Nat) : Bool := s.poison.contains (s.canonPa pa / 32)

/-- Whether one of the bytes that such a read takes is poisoned, in the buffer or in memory (R241, R354). -/
def State.readBad (s : State) (p q order va pa n : Nat) : Bool :=
  (List.range n).any fun i => (((s.seq p q).heldByte order (va + i)).map Prod.snd).getD (s.sectorBad (pa + i))

end Sys2Proof.Machine
end

