-- ==== Sys2Proof/Machine/Order.lean ====
section
/-! DEFINITION. The order of performance (R239-R248): the accesses and effects that operations of one sequencer have
still to make, and what holds a later one back: one element twice (R240), page kinds (R242), acquires and releases
(R245), fences (R246). -/

namespace Sys2Proof.Machine

/-- A memory access still to be made: virtual address, bytes, whether it reads and writes. -/
structure MemAcc where
  va : Nat
  n : Nat
  rd : Bool
  wr : Bool
deriving DecidableEq, Repr

/-- The page of an access: physical address and leaf; none when it does not translate. -/
def State.pageOf (s : State) (p q : Nat) (a : MemAcc) : Option (Nat × W64) :=
  match s.peekXlate (stackOf p) (s.jobOf p q) a.va false with
  | .ok pa leaf => some (pa, leaf)
  | .bad _ _ => none

/-- The ordering kind of an access's page (R242); none when it does not translate. -/
def State.kindOf (s : State) (p q : Nat) (a : MemAcc) : Option Nat := (s.pageOf p q a).map fun x => leafOrd x.2

/-- Whether two accesses share a byte: of one virtual address, or, neither being of a UN page, of one physical cell
(R240, R241). -/
def State.sharesCell (s : State) (p q : Nat) (a b : MemAcc) : Bool :=
  rangesMeet a.va a.n b.va b.n ||
  match s.pageOf p q a, s.pageOf p q b with
  | some x, some y => leafOrd x.2 ≠ 2 && leafOrd y.2 ≠ 2 && rangesMeet (s.canonPa x.1) a.n (s.canonPa y.1) b.n
  | _, _ => false

/-- Whether a package is named by the running launch's DOMAIN (R28, R244); this one when there is none. -/
def State.domPackage (s : State) (p q pk : Nat) : Bool :=
  match s.launchOf p q with
  | some l => if bit l.domain 38 then (l.parts.any fun x => x.pkg = pk) else pk = s.pkg
  | none => pk = s.pkg

/-- Whether a scope of a pillar's sequencer reaches a physical address (R244). -/
def State.reaches (s : State) (p q scope pa : Nat) : Bool :=
  match spaceOf (s.canonPa pa) with
  | some (.hbm h) => 3 ≤ scope || (scope = 2 && h / 2 = stackOf p)
  | some (.weight _ _) => 3 ≤ scope
  | some (.pod k) => 5 ≤ scope || (scope = 4 && s.domPackage p q k)
  | some (.bar _) | some .host => scope = 6
  | none => scope = 6

/-- Whether a scope reaches an access; seq and pil reach no memory, and one that does not translate yet may lie
wherever the others reach (R244; log 36). -/
def State.accReached (s : State) (p q scope : Nat) (a : MemAcc) : Bool :=
  match s.pageOf p q a with
  | some (pa, _) => s.reaches p q scope pa
  | none => 2 ≤ scope

/-- Whether a scope of a sequencer of one pillar reaches an effect on another pillar (R246). -/
def reachesPillar (p target scope : Nat) : Bool :=
  if p = target then 1 ≤ scope else if stackOf p = stackOf target then 2 ≤ scope else 3 ≤ scope

/-- Whether a fence's kind mask and scope select a memory access (R246); one that does not translate yet may be of
every kind (log 36). -/
def State.fenceSelects (s : State) (p q : Nat) (f : FenceRec) (a : MemAcc) : Bool :=
  match s.pageOf p q a with
  | some (pa, leaf) => s.reaches p q f.scope pa && bit f.kinds (leafOrd leaf) && (!leafH leaf || bit f.kinds 6)
  | none => 2 ≤ f.scope && bits f.kinds 0 3 ≠ 0

/-- Whether a fence selects accesses to the pillar's frames (R244, R246). -/
def FenceRec.selectsFrames (f : FenceRec) : Bool := bit f.kinds 4 && 1 ≤ f.scope

/-! ### Engine commands as transactions (R237, R238, R275, R276)

A command accesses memory by sectors (R238) and its frames by aligned blocks of 32 bytes (R237), each an access of
its own in the order of performance (R239): an element read on one side is on its way (`EngineOp.stage`) until the
other side takes it. -/

/-- The command's scope code (R273). -/
def EngineOp.scope (e : EngineOp) : Nat := bits e.word 46 3
/-- ACQ. -/
def EngineOp.acq (e : EngineOp) : Bool := bit e.word 44
/-- REL. -/
def EngineOp.rel (e : EngineOp) : Bool := bit e.word 45
/-- FSEG. -/
def EngineOp.fseg (e : EngineOp) : Nat := bits e.word 61 3
/-- FK. -/
def EngineOp.fk (e : EngineOp) : Nat := bits e.word 56 5
/-- The tile's rows S1 and its bytes Z. -/
def EngineOp.tileBytes (e : EngineOp) : Nat := 2 ^ bits e.word 36 4 * 2 ^ bits e.word 40 4 * e.handle.width
/-- The pillar whose flag is posted (R273, R274). -/
def EngineOp.flagPillar (e : EngineOp) (p : Nat) : Nat := if e.kind = .atomg then p else bits e.word 49 7
/-- Whether the result frame of an ATOMG is written. -/
def EngineOp.hasRf (e : EngineOp) : Bool := e.kind = .atomg && !bit e.word 41
/-- The element of an ATOMG and the bytes its atomic takes (R276). -/
def EngineOp.atomVa (e : EngineOp) : Option Nat :=
  e.handle.at (bits e.word 0 14) (bits e.word 14 14) (bits e.word 28 8)
/-- The width in bytes of an ATOMG (R276). -/
def EngineOp.atomWidth (e : EngineOp) : Nat := if bit e.word 40 then 8 else e.handle.width

/-- The limits of a command word's fields (R273, R274, R276, R279). FP names one of the package's 128 pillars whatever
its value, and no rule calls those of a stack out of service absent (log 97). -/
def EngineOp.fieldsOk (e : EngineOp) : Bool :=
  let w := e.word
  e.scope ≠ 7 && (e.acq || e.rel || e.scope = 0) && (bits w 28 8 = 0 || 2 < e.handle.nd) &&
    (e.fl || e.fk = 0) &&
    match e.kind with
    | .atomg => bits w 36 4 ≤ 10 && bits w 42 2 = 0 && !bit w 55 && (!bit w 41 || e.rf = 0) &&
        (bits w 36 4 ≠ 10 || e.atomWidth = 4)
    | _ => bits w 36 4 ≤ 10 && bits w 40 4 ≤ 10 && e.tileBytes ≤ 4194304 && (e.fl || bits w 49 7 = 0)

/-- Whether a command may ever make an access: its handle and its word, which stay as issued, pass their checks. -/
def EngineOp.sound (e : EngineOp) : Bool := decide (0 < e.handle.nd) && e.fieldsOk

/-- Whether a command takes its rows' indices from IXF. -/
def EngineOp.indexed (e : EngineOp) : Bool := e.kind = .gather || e.kind = .scatter

/-- Whether a command has all that its transactions follow from: its checks passed, its index words read. -/
def EngineOp.begun (e : EngineOp) : Bool := e.ready && (!e.indexed || e.index.isSome)

/-- An element of a tile: its frame offset and its virtual address, none outside the tensor. -/
abbrev Elem := Nat × Option Nat

/-- The index words that IXF holds now (R275), each with the mark of its sector (R354). -/
def State.indexNow (s : State) (p : Nat) (e : EngineOp) : List (Nat × Bool) :=
  (List.range (2 ^ bits e.word 40 4)).map fun j =>
    let at_ := 256 * bits e.word 20 8 + 4 * j
    ((s.frame p e.ixf).nat at_ 4, (s.frame p e.ixf).isPoisoned at_ 4)

/-- Whether the index word of the row that a frame offset lies in came from a marked sector, so that what follows
from it is marked too (R354, log 98). -/
def EngineOp.badIndex (e : EngineOp) (off : Nat) : Bool :=
  ((e.index.getD []).getD ((off - e.fseg * e.tileBytes) / (2 ^ bits e.word 36 4 * e.handle.width)) (0, false)).2

/-- The elements of a COPYIN, COPYOUT, GATHER or SCATTER in their enumeration (R275). -/
def State.elements (s : State) (p : Nat) (e : EngineOp) : List Elem :=
  let w := e.handle.width
  let s0 := 2 ^ bits e.word 36 4
  let s1 := 2 ^ bits e.word 40 4
  let base := e.fseg * (s0 * s1 * w)
  let ix := if e.indexed then e.index.getD (s.indexNow p e) else []
  (List.range s1).flatMap fun j =>
    let i1 := if e.indexed then (ix.getD j (0, false)).1 else bits e.word 14 14 * s1 + j
    (List.range s0).map fun i => (base + (j * s0 + i) * w, e.handle.at (bits e.word 0 14 * s0 + i) i1 (bits e.word 28 8))

/-- The indices of a list that meet a test. -/
def placesOf {α : Type} (l : List α) (f : α → Bool) : List Nat :=
  (l.mapIdx fun i x => (i, f x)).filterMap fun x => if x.2 then some x.1 else none

/-- A list cut into runs of neighbours with one key. -/
def runsBy {α : Type} {β : Type} [BEq β] (key : α → β) : List α → List (List α)
  | [] => []
  | x :: xs =>
    match runsBy key xs with
    | (y :: ys) :: rest => if key x == key y then (x :: y :: ys) :: rest else [x] :: (y :: ys) :: rest
    | other => [x] :: other

/-- Elements of a tensor grouped into sector transactions: runs that touch one sector (R238). -/
def sectorRuns (l : List Elem) : List (List Elem) := runsBy (fun (x : Elem) => x.2.map (· / 32)) l

/-- Elements grouped by the aligned 32-byte block of the frame they lie in (R237). -/
def frameBlocks (l : List Elem) : List (List Elem) := runsBy (fun (x : Elem) => x.1 / 32) l

/-- A command's accesses to memory in enumeration order, elements outside the tensor having none (R39); an ATOMG has
one. -/
def State.sectors (s : State) (p : Nat) (e : EngineOp) : List (List Elem) :=
  match e.kind with
  | .atomg => [[(16 * e.fseg, e.atomVa)]]
  | _ => sectorRuns ((s.elements p e).filter fun x => x.2.isSome)

/-- A command's accesses to its frames in enumeration order; an ATOMG reads its operands and writes its result. -/
def State.blocks (s : State) (p : Nat) (e : EngineOp) : List (List Elem) :=
  match e.kind with
  | .atomg => [(16 * e.fseg, none)] :: if e.hasRf then [[(8 * e.fseg, none)]] else []
  | _ => frameBlocks (s.elements p e)

/-- A command's transactions, numbered from 0: its sectors, then the blocks of its frames. -/
def State.transactions (s : State) (p : Nat) (e : EngineOp) : List (List Elem) := s.sectors p e ++ s.blocks p e

/-- Whether a transaction is a block of a frame. -/
def State.isBlock (s : State) (p : Nat) (e : EngineOp) (k : Nat) : Bool := decide ((s.sectors p e).length ≤ k)

/-- Whether a transaction reads a frame. -/
def State.readsBlock (s : State) (p : Nat) (e : EngineOp) (k : Nat) : Bool :=
  s.isBlock p e k && match e.kind with
    | .copyin | .gather => false
    | .copyout | .scatter => true
    | .atomg => decide (k = 1)

/-- Whether the combining buffer holds a transaction's write (R241). -/
def EngineOp.holds (e : EngineOp) (k : Nat) : Bool := e.held.any fun h => h.k = k

/-- The memory accesses of a run of elements. -/
def EngineOp.accesses (e : EngineOp) (run : List Elem) : List MemAcc :=
  run.filterMap fun x => x.2.map fun va =>
    match e.kind with
    | .atomg => ⟨va, e.atomWidth, true, true⟩
    | .copyin | .gather => ⟨va, e.handle.width, true, false⟩
    | .copyout | .scatter => ⟨va, e.handle.width, false, true⟩

/-- The memory accesses of a transaction; a block of a frame makes none. -/
def State.accessesOf (s : State) (p : Nat) (e : EngineOp) (kt : Nat × List Elem) : List MemAcc :=
  if s.isBlock p e kt.1 then [] else e.accesses kt.2

/-- The transactions of a command not yet performed, with their numbers and what is left of them. -/
def State.undone (s : State) (p : Nat) (e : EngineOp) : List (Nat × List Elem) :=
  (((s.transactions p e).mapIdx fun k t => (k, t)).filter fun kt => !e.done.contains kt.1).map fun kt =>
    (kt.1, if s.isBlock p e kt.1 then kt.2 else kt.2.filter fun x => !e.part.contains x.1)

/-! ### CMMAH reads (R292, R304) -/

/-- The layers of a mask, the highest first (R295). -/
def layersOf (mask : BitVec 4) : List Nat := [3, 2, 1, 0].filter fun l => bit mask l

/-- The k-steps' distribution: layer, first k-step, number of them (R295). -/
def shares : Nat → Nat → List Nat → List (Nat × Nat × Nat)
  | _, _, [] => []
  | rem, first, l :: ls =>
    let c := (rem + ls.length) / (ls.length + 1)
    (l, first, c) :: shares (rem - c) (first + c) ls

/-- k-steps of an operation (R290). -/
def CubeOp.nk (o : CubeOp) : Nat := bits o.geo 0 6
/-- Rows an operation writes (R290). -/
def CubeOp.rows_ (o : CubeOp) : Nat := if bit o.geo 6 then 16 else 8
/-- AFMT (R31). -/
def CubeOp.afmt (o : CubeOp) : Nat := bits o.fmt 0 4
/-- BFMT (R31). -/
def CubeOp.bfmt (o : CubeOp) : Nat := bits o.fmt 4 4
/-- An operation's distribution (R295). -/
def CubeOp.dist (o : CubeOp) : List (Nat × Nat × Nat) := shares o.nk 0 (layersOf o.mask)
/-- The waves of an operation (R295). -/
def CubeOp.nw (o : CubeOp) : Nat := ((o.dist.head?).map fun x => x.2.2).getD 0
/-- The layers and k-steps of one wave, the highest layer first (R296). -/
def CubeOp.stepsAt (o : CubeOp) (w : Nat) : List (Nat × Nat) :=
  (o.dist.filter fun x => w < x.2.2).map fun x => (x.1, x.2.1 + w)

/-- Elements of a block's row: 64 columns, or 16 bytes for TRN (R288, R292). -/
def blockCols (afmt : Nat) : Nat := if afmt = 8 then 16 else 64

/-- The elements of block j of a CMMAH, row by row, the virtual address none outside the tensor (R292). -/
def blockElems (h : Handle) (afmt t0 t1 pl rows j : Nat) : List (Option Nat) :=
  (List.range rows).flatMap fun m => (List.range (blockCols afmt)).map fun k =>
    h.at (blockCols afmt * (t0 + j) + k) (16 * t1 + m) pl

/-- The reads of one wave of an operation. -/
def CubeOp.waveReads (o : CubeOp) (w : Nat) : List MemAcc :=
  match o.src with
  | .handle h t0 t1 pl => (o.stepsAt w).flatMap fun lj =>
      (blockElems h o.afmt t0 t1 pl o.rows_ lj.2).filterMap fun x => x.map fun va => ⟨va, h.width, true, false⟩
  | _ => []

/-! ### What is still to be performed -/

/-- The operation on the cube that a record stands for. -/
def State.cubeOpOf (s : State) (p q : Nat) (r : Rec) : Option CubeOp :=
  ((s.pillar p).cube.find? fun c => c.q = q && c.record = r.idx).bind fun c => match c.kind with
    | .op o => some o
    | _ => none

/-- The memory accesses a record's operation has not performed, writes held in a combining buffer left out or not
(R239, R241). A faulted command has them still to perform (R280). -/
def State.pendingBut (s : State) (p q : Nat) (r : Rec) (held : Bool) : List MemAcc :=
  match r.op with
  | .engine e => if e.sound then
      ((s.undone p e).filter fun kt => held || !e.holds kt.1).flatMap (s.accessesOf p e) else []
  | .jcb _ => [⟨r.opa.toNat, 64, true, true⟩]
  | .cube =>
    match s.cubeOpOf p q r with
    | some o => ((List.range o.nw).filter fun w => o.next ≤ w).flatMap fun w => o.waveReads w
    | none => []
  | _ => []

/-- The memory accesses a record's operation has not performed (R239). -/
def State.pending (s : State) (p q : Nat) (r : Rec) : List MemAcc := s.pendingBut p q r true

/-- Whether a record's operation has accesses to the pillar's frames still to make (R237, R244): all of them, or the
reads only. -/
def State.framePending (s : State) (p q : Nat) (r : Rec) (readsOnly : Bool) : Bool :=
  match r.op with
  | .engine e => e.sound && (s.undone p e).any fun kt => if readsOnly then s.readsBlock p e kt.1 else s.isBlock p e kt.1
  | .cube => (s.cubeOpOf p q r).any fun o => decide (o.next < o.nw) && (match o.src with
    | .frame _ _ _ => true
    | _ => false)
  | _ => false

/-- Whether a record is an engine command. -/
def Rec.isCommand (r : Rec) : Bool :=
  match r.op with
  | .engine _ => true
  | _ => false

/-- A record's pending non-memory effects: pillars whose flags or queues it changes, and blocks of a JCB step
(R246). -/
def Rec.effects (r : Rec) (p : Nat) : List Nat :=
  match r.op with
  | .engine e => p :: (if e.fl then [e.flagPillar p] else [])
  | .msend target _ _ => [target]
  | .drain _ _ _ _ => [p]
  | _ => []

/-- The records of a sequencer whose long words issued before an order. -/
def Seq.earlier (x : Seq) (order : Nat) : List Rec := x.recs.filter fun r => r.order < order

/-- Whether an earlier operation's access, not yet performed, must come before a memory access by the kinds of their
pages or because they share an element (R240, R242); the kind of a page that does not translate yet is not known (log
36). -/
def State.pairOrdered (s : State) (p q : Nat) (a b : MemAcc) : Bool :=
  s.sharesCell p q a b || ((s.kindOf p q a).all (· = 0) && (s.kindOf p q b).all (· = 0))

/-- Whether an access is ordered by acquires and releases: its scope reaches it, and it is not of a UN page (R242). -/
def State.inScope (s : State) (p q scope : Nat) (a : MemAcc) : Bool :=
  s.accReached p q scope a && s.kindOf p q a != some 2

/-- Whether a change of an own flag that a fence delays, issued before an order, is still to be applied (R312). -/
def Seq.flagPending (x : Seq) (order : Nat) : Bool := x.flagq.any fun c => c.order < order

/-- Whether a post of a sequencer issued before an order is still on its way to a pillar that a test selects (R313).
-/
def State.postPending (s : State) (p q order : Nat) (sel : Nat → Bool) : Bool :=
  s.posts.any fun n => n.fromP = p && n.fromQ = q && n.order < order && sel n.toP

/-- Whether what a fence selects of the operations before it is still to be performed (R246). -/
def State.fencePending (s : State) (p q : Nat) (f : FenceRec) : Bool :=
  ((s.seq p q).earlier f.order).any (fun r =>
    (s.pending p q r).any (fun a => s.fenceSelects p q f a) ||
      (f.selectsFrames && r.isCommand && s.framePending p q r false) ||
      (bit f.kinds 3 && ((r.effects p).any (fun t => reachesPillar p t f.scope) || (match r.op with
        | .jcb _ => (s.pending p q r).any fun a => s.accReached p q f.scope a
        | _ => false)))) ||
  (bit f.kinds 3 && (s.postPending p q f.order (fun t => reachesPillar p t f.scope) ||
    (1 ≤ f.scope && (s.seq p q).flagPending f.order)))

/-- Whether an acquire's reads are still to be performed: those of the command and, but for an ATOMG, of every
operation before it (R245), of memory, and of the pillar's frames from pil scope up (R244). -/
def State.acquirePending (s : State) (p q : Nat) (f : FenceRec) (atomic : Bool) : Bool :=
  (s.seq p q).recs.any fun r =>
    ((r.order = f.order && r.isCommand) || (!atomic && r.order < f.order)) && ((s.pending p q r).any (fun a =>
      a.rd && (if r.order = f.order then s.accReached p q f.scope a else s.inScope p q f.scope a)) ||
      (1 ≤ f.scope && s.framePending p q r true))

/-- Whether memory accesses and, with `frame`, accesses to the pillar's frames of an operation may be performed now
(R240, R242, R245, R246); FRM selects the frame accesses of commands, not those of cube operations (R246). A read of
what a combining buffer holds for its address does not wait for the held write (R241). -/
def State.mayAccess (s : State) (p q order : Nat) (bs : List MemAcc) (frame command : Bool) : Bool :=
  bs.all (fun b => !((s.seq p q).earlier order).any fun r =>
    (s.pendingBut p q r b.wr).any fun a => s.pairOrdered p q a b) &&
  !(s.seq p q).fences.any fun f =>
    match f.acq with
    | none => f.order < order && (bs.any (s.fenceSelects p q f) || (frame && command && f.selectsFrames)) &&
      s.fencePending p q f
    | some atomic => f.order < order && (bs.any (s.inScope p q f.scope) || (frame && 1 ≤ f.scope)) &&
        s.acquirePending p q f atomic

/-- Whether a read that an operation before an order has still to make is reached by a scope (R245). -/
def State.readsPending (s : State) (p q order scope : Nat) : Bool :=
  ((s.seq p q).earlier order).any fun r => (s.pending p q r).any (fun a => a.rd && s.inScope p q scope a) ||
    (1 ≤ scope && s.framePending p q r true)

/-- Whether a record's operation still has an access to make that a release at a scope waits for: one that the scope
reaches, those to the pillar's frames from pil scope up (R244, R245). -/
def State.releasePending (s : State) (p q scope : Nat) (r : Rec) : Bool :=
  (1 ≤ scope && s.framePending p q r false) || (s.pending p q r).any fun a => s.inScope p q scope a

/-- Whether the accesses to memory that a release at a scope waits for are performed (R244, R245). -/
def State.mayReleaseMem (s : State) (p q order scope : Nat) : Bool :=
  !((s.seq p q).earlier order).any fun r => (s.pending p q r).any fun a => s.inScope p q scope a

/-- Whether a release at a scope may happen: every access of the operations before it that the scope reaches is
performed (R244, R245). -/
def State.mayRelease (s : State) (p q order scope : Nat) : Bool :=
  !((s.seq p q).earlier order).any (s.releasePending p q scope)

/-- Whether every non-memory effect of the operations before an order that a scope reaches is performed (R313), a
delayed change of an own flag among them (R312). -/
def State.effectsDone (s : State) (p q order scope : Nat) : Bool :=
  !((s.seq p q).earlier order).any (fun r => (r.effects p).any fun t => reachesPillar p t scope) &&
  !s.postPending p q order (fun t => reachesPillar p t scope) && !(1 ≤ scope && (s.seq p q).flagPending order)

/-- Whether a non-memory effect on a pillar is held by no fence (R246). -/
def State.mayEffect (s : State) (p q order target : Nat) : Bool :=
  !(s.seq p q).fences.any fun f =>
    f.acq.isNone && decide (f.order < order) && bit f.kinds 3 && reachesPillar p target f.scope && s.fencePending p q f

end Sys2Proof.Machine
end

