-- ==== Sys2Proof/Machine/Jcb.lean ====
section
/-! DEFINITION. The job control block and its atomic step (R43-R46). -/

namespace Sys2Proof.Machine

/-- A job control block's fields (R43, R44). -/
structure Jcb where
  expect : Nat
  count : Nat
  err : W64
  lostn : Nat
  firstit : Nat
  tdone : Nat
  state : Nat
deriving DecidableEq, Repr

/-- The block at a physical address. -/
def State.readJcb (s : State) (pa : Nat) : Jcb :=
  { expect := s.read64 pa
    count := s.read64 (pa + 8)
    err := BitVec.ofNat 64 (s.read64 (pa + 16))
    lostn := s.read64 (pa + 24)
    firstit := s.read64 (pa + 32)
    tdone := s.read64 (pa + 40)
    state := leNat (s.readMem (pa + 48) 4) }

/-- The block's 52 bytes of fields. -/
def Jcb.bytes (j : Jcb) : List Byte :=
  leBytes 8 j.expect ++ leBytes 8 j.count ++ leBytes 8 j.err.toNat ++ leBytes 8 j.lostn ++ leBytes 8 j.firstit ++
    leBytes 8 j.tdone ++ leBytes 4 j.state

/-- Addition that saturates at 2^64 - 1 (R45). -/
def satAdd (a b : Nat) : Nat := min (a + b) 18446744073709551615

/-- COMPLETE (R43). -/
def Jcb.complete (j : Jcb) : Bool := j.state % 2 = 1

/-- Completions added at a TIME: the addition that first makes COUNT equal to or greater than EXPECT completes the
job; a COUNT left above EXPECT sets OVER (R45). -/
def Jcb.addCount (j : Jcb) (n time : Nat) : Jcb :=
  let c := satAdd j.count n
  let now := 0 < n && !j.complete && decide (j.expect ≤ c)
  { j with
    count := c
    state := if now then j.state + 1 else j.state
    tdone := if now then time else j.tdone
    err := if 0 < n ∧ j.expect < c then j.err ||| asBit true 5 else j.err }

/-- Lost iterations added: LOSTN, FAIL and LOST with COUNT (R45). -/
def Jcb.addLost (j : Jcb) (n time : Nat) : Jcb :=
  if n = 0 then j else
  let j := { j with lostn := satAdd j.lostn n, err := j.err ||| 3 }
  j.addCount n time

/-- An iteration error: FAIL, and with the first of its kind CAUSE and FIRSTIT (R44, R350, R352). -/
def Jcb.fail (j : Jcb) (cause t : Nat) : Jcb :=
  let e := j.err ||| 1
  if bits j.err 16 8 = 0 then { j with err := e ||| field cause 16 8, firstit := t } else { j with err := e }

/-- Poison reported by a retirement (R350). -/
def Jcb.pois (j : Jcb) (t : Nat) : Jcb := { j with err := j.err ||| asBit true 4 }.fail cPoison t

/-- A rejected launch: FAIL, REJ and the first reason (R34, R44). -/
def Jcb.reject (j : Jcb) (rejc : Nat) : Jcb :=
  let e := j.err ||| 9
  { j with err := if bits j.err 8 8 = 0 then e ||| field rejc 8 8 else e }

/-- EXPECT raised (R57, R321). -/
def Jcb.raise (j : Jcb) (n : Nat) : Jcb := { j with expect := satAdd j.expect n }

/-- Whether a step on a job control block, or on an index block, is held: its HBM stack is in self-refresh, or it is
behind what stands held there (R286). -/
def State.atomicsHeld (s : State) (pa : Nat) : Bool := s.refreshing pa || s.behind s.standing pa 64

/-- One atomic step at the block's memory-side point (R45). -/
def State.jcbStep (s : State) (pa : Nat) (f : Jcb → Jcb) : State := s.writeMem pa (f (s.readJcb pa)).bytes

/-- Iterations killed, written as lost in one step that sets a CAUSE, 19 for a pre-emption and 12 for a thermal
shutdown, when none was recorded (R340, R378). -/
def Jcb.kill (j : Jcb) (cause n time : Nat) : Jcb :=
  if n = 0 then j
  else
    let j := j.addLost n time
    if bits j.err 16 8 = 0 then { j with err := j.err ||| field cause 16 8 } else j

/-- A step of the part's own performed at its memory-side point. -/
def State.perform (s : State) (pa : Nat) : Report → State
  | .reject n => s.jcbStep pa fun j => j.reject n
  | .lost n => s.jcbStep pa fun j => j.addLost n s.time
  | .kill done cause n => s.jcbStep pa fun j => (j.addCount done s.time).kill cause n s.time
  | .bytes bs => s.busWrite pa bs

/-- Whether a step of the part's own waits: its HBM stack is in self-refresh, or it is behind what stands held there
(R286). -/
def State.reportWaits (s : State) (l : List Standing) (pa : Nat) (r : Report) : Bool :=
  s.refreshing pa || s.behind l pa r.size

/-- A step of the part's own: performed at once, or held at its memory-side point (R286). -/
def State.report (s : State) (pa : Nat) (r : Report) : State :=
  if s.reportWaits s.standing pa r then { s with standing := s.standing ++ [.report (s.canonPa pa) r] } else s.perform pa r

/-- The steps of the part's own that nothing holds any more are performed, in the order in which they came (R286). -/
def State.performReports (s : State) : State :=
  s.standing.foldl (fun s x => match x with
    | .report pa r =>
      if s.reportWaits (s.standing.takeWhile (· ≠ x)) pa r then s
      else ({ s with standing := s.standing.erase x } : State).perform pa r
    | .access _ _ _ _ _ => s) s

/-- Bytes of an index block written at a virtual address as a release (R50); false when the page does not take them.
-/
def State.postVirt (s : State) (st job va : Nat) (bs : List Byte) : State × Bool :=
  match s.translate st job va .write with
  | (s, .ok pa _) => (s.report pa (.bytes bs), true)
  | (s, .bad _ _) => (s, false)

end Sys2Proof.Machine
end

