-- ==== Sys2Proof/Machine/Queue.lean ====
section
/-! DEFINITION. The user queues' indices, completion, halting and error records (R49, R50, R58, R61-R64), and the
end of a launch (R56). -/

namespace Sys2Proof.Machine

/-- A queue's JOBID (R49). -/
def Queue.job (x : Queue) : Nat := bits x.qcfg 32 16
/-- A queue's number of slots (R49). -/
def Queue.slots (x : Queue) : Nat := 2 ^ bits x.qcfg 0 5

/-- Bytes written from a virtual address on, over a page's end if need be; nothing when either end's page does not
take them (R62). -/
def State.writeSpan (s : State) (st job va : Nat) (bs : List Byte) : State :=
  match s.translate st job va .write with
  | (s, .bad _ _) => s
  | (s, .ok _ _) =>
    match s.translate st job (va + bs.length - 1) .write with
    | (s, .bad _ _) => s
    | (s, .ok _ _) => (bs.mapIdx fun i b => (i, b)).foldl (fun s x => (s.writeVirt st job (va + x.1) [x.2]).1) s

/-- A queue halts: the error record, STATE 2 with its code, and with INTE the queue's vector (R61, R63). A record that
cannot be written is dropped (R62). A halt of a queue already halted takes the place of the one before (log 83). -/
def State.haltQueue (s : State) (st q errc idx : Nat) (hdr : W64) : State :=
  let x := s.queue st q
  let rec_ := leBytes 8 idx ++ leBytes 8 hdr.toNat ++ leBytes 8 errc ++ leBytes 8 s.time
  let s := s.writeSpan st x.job x.errwb rec_
  let s := s.onQueue st q fun x => { x with
    state := .halted
    errc := errc
    fault := if errc < 9 then some idx else none
    ready := false }
  if bit x.qcfg 7 then s.onStack st fun k => { k with msix := mark k.msix q } else s

/-- RDIDX (true) or DONEIDX written to the index block as a release, which self-refresh holds (R50, R286); a write
that fails halts the queue, and is kept to be repeated until a later value of that index is written (R50, R62, R64).
-/
def State.writeIdx (s : State) (st q : Nat) (rd : Bool) (v : Nat) : State :=
  let x := s.queue st q
  match s.postVirt st x.job (x.idxwb + if rd then 0 else 8) (leBytes 8 v) with
  | (s, true) => s.onQueue st q fun x => { x with failedWb := x.failedWb.filter fun w => w.1 ≠ rd }
  | (s, false) =>
    let s := s.onQueue st q fun x => { x with failedWb := x.failedWb.filter (fun w => w.1 ≠ rd) ++ [(rd, v)] }
    if x.state = .halted then s else s.haltQueue st q 11 v 0

/-- The index after the packets from an index on that a test selects without a gap; n bounds the packets looked at. -/
def countUp (ps : List Packet) (f : Packet → Bool) : Nat → Nat → Nat
  | 0, i => i
  | n + 1, i => if ps.any fun p => p.idx = i && f p then countUp ps f n (i + 1) else i

/-- RDIDX advances over the packets that stand first and that the part has finished reading (R50, R61). -/
def State.advanceRdidx (s : State) (st q : Nat) : State :=
  let x := s.queue st q
  let v := countUp x.packets Packet.passed x.packets.length x.rdidx
  if x.rdidx < v then (s.onQueue st q fun x => { x with rdidx := v }).writeIdx st q true v else s

/-- A packet completes; RDIDX passes it, and DONEIDX advances over the completed packets that stand first (R50,
R58). -/
def State.completePacket (s : State) (st q idx : Nat) : State :=
  let s := (s.onQueue st q fun x => { x with
    packets := x.packets.map fun p => if p.idx = idx then { p with done := true, passed := true } else p }).advanceRdidx st q
  let x := s.queue st q
  let d := countUp x.packets Packet.done x.packets.length x.doneidx
  if d = x.doneidx then s
  else (s.onQueue st q fun x =>
    { x with doneidx := d, packets := x.packets.filter fun p => d ≤ p.idx }).writeIdx st q false d

/-- One packet changed. -/
def State.onPacket (s : State) (st q idx : Nat) (f : Packet → Packet) : State :=
  s.onQueue st q fun x => { x with packets := x.packets.map fun p => if p.idx = idx then f p else p }

/-- One launch changed. -/
def State.onLaunch (s : State) (id : Nat) (f : Launch → Launch) : State :=
  { s with launches := s.launches.map fun l => if l.id = id then f l else l }

/-- Every sequencer that runs an iteration of a launch. -/
def State.membersOf (s : State) (id : Nat) : List (Nat × Nat) :=
  allSeqs.filter fun pq => (s.seq pq.1 pq.2).iter.any fun i => i.launch = id

/-- Iterations of a launch that have ended: retired, or written as lost (R56). -/
def Launch.endedN (l : Launch) : Nat :=
  l.parts.foldl (fun n x => n + if x.failed.isSome then x.posted else x.retired) l.lostN

/-- Whether every retirement of a launch with several participants has been posted (R84). -/
def Launch.allPosted (l : Launch) : Bool :=
  l.parts.length ≤ 1 || l.abandoned || l.parts.all fun x => x.failed.isSome || decide (x.retired ≤ x.posted)

/-- A launch that has ended completes its packet (R56); it is forgotten once no iteration of it runs and its
retirements are posted. -/
def State.checkLaunch (s : State) (id : Nat) : State :=
  match s.launch? id with
  | none => s
  | some l =>
    let gone := l.ended || decide (l.total ≤ l.endedN) || l.abandoned
    let s := if gone && !l.ended then
      (s.onLaunch id fun l => { l with ended := true }).completePacket l.stack l.queue l.packet else s
    if gone && l.allPosted && (s.membersOf id).isEmpty then
      { s with launches := s.launches.filter fun l => l.id ≠ id } else s

end Sys2Proof.Machine
end

