-- ==== Sys2Proof/Machine/Retire.lean ====
section
/-! DEFINITION. The end of an iteration: retirement, abandonment, loss (R350, R352, R340, R361), gang failures, and
what is left of a sequencer. -/

namespace Sys2Proof.Machine

/-- The participant of a launch that a stack of this package is. -/
def Launch.partOf (l : Launch) (pkg st : Nat) : Nat :=
  (l.parts.findIdx? fun x => x.pkg = pkg && x.stack = st).getD 0

/-- One participant changed. -/
def State.onPart (s : State) (id part : Nat) (f : Part → Part) : State :=
  s.onLaunch id fun l => { l with parts := upd l.parts part f }

/-- A launch is a gang (R26). -/
def Launch.gang (l : Launch) : Bool := bit l.hdr 7

/-- GANG conditions latched by a sequencer (R361). -/
def Seq.latchGang (x : Seq) (n t : Nat) : Seq := { x with gang := x.gang ++ List.replicate n (t, false) }

/-- Whether an iteration held only in an image is of a launch. -/
def Away.ofLaunch (a : Away) (id : Nat) : Bool := a.iter.any fun i => i.launch = id

/-- Members of a launch latch GANG conditions, n each, but for those that a test leaves out: those that run, and those
held only in a context image (R344, R361). -/
def State.latchGang (s : State) (id n : Nat) (but : Nat × Nat → Bool) (butAway : Away → Bool) : State :=
  let s := (s.membersOf id).foldl (fun s m => if but m then s else s.onSeq m.1 m.2 fun x => x.latchGang n s.time) s
  { s with away := s.away.map fun a =>
      if a.ofLaunch id && !butAway a then { a with seq := a.seq.latchGang n s.time } else a }

/-- A member of a gang fails: every other member latches one GANG condition (R361). -/
def State.failMember (s : State) (p q : Nat) : State :=
  match s.launchOf p q with
  | none => s
  | some l =>
    if l.gang && !(s.seq p q).iter.any (fun i => i.failed) then
      (s.onSeq p q fun x => { x with iter := x.iter.map fun i => { i with failed := true } }).latchGang l.id 1
        (fun m => m = (p, q)) fun _ => false
    else s

/-- A member of a gang that is held only in its context image fails (R344, R361). -/
def State.failAway (s : State) (id : Nat) (a : Away) : State :=
  let it := fun (b : Away) => b.job = a.job && b.p = a.p && b.q = a.q
  let s := s.latchGang id 1 (fun _ => false) it
  { s with away := s.away.map fun b =>
      if it b then { b with iter := b.iter.map fun i => { i with failed := true } } else b }

/-- The members of a launch on some stacks fail, those held only in their images among them (R361). -/
def State.failMembers (s : State) (l : Launch) (on : Nat → Bool) : State :=
  let s := ((s.membersOf l.id).filter fun m => on (stackOf m.1)).foldl (fun s m => s.failMember m.1 m.2) s
  if l.gang then
    (s.away.filter fun a => a.ofLaunch l.id && on (stackOf a.p) && !a.iter.any fun i => i.failed).foldl
      (fun s a => s.failAway l.id a) s
  else s

/-- The frame an R356 word names, 0 where its unit is no frame. -/
def wordFrame (word : W64) : Nat := if bits word 0 4 = 2 then bits word 22 6 else 0

/-- A pillar suffers an uncorrectable error, with its R356 word: it is counted, and gang members there fail (R361,
R365). -/
def State.sufferUe (s : State) (p : Nat) (word : W64) : State :=
  ((s.logError (stackOf p) (p % 32) (wordFrame word) (bits word 0 4) false word).failMember p 0).failMember p 1

/-- An iteration written as lost: one step that adds 1 to COUNT and LOSTN (R45, R361). -/
def State.loseIteration (s : State) (l : Launch) : State :=
  (s.report l.jcb (.lost 1)).onLaunch l.id fun l => { l with lostN := l.lostN + 1 }

/-- The posting of an iteration that ends by DONE (R350, R352, R361): nothing for one already written as lost; a
failed gang member's as lost; with several participants the count goes with the heartbeats and the step adds 0. -/
def State.postEnd (s : State) (p q : Nat) (err : Jcb → Jcb) (hasErr : Bool) : State :=
  match (s.seq p q).iter, s.launchOf p q with
  | some i, some l =>
    if i.lost || l.abandoned then s
    else if i.failed then s.loseIteration l
    else
      let s := s.onPart l.id (l.partOf s.pkg (stackOf p)) fun x => { x with retired := x.retired + 1 }
      if 2 ≤ l.parts.length then (if hasErr then s.jcbStep l.jcb err else s)
      else s.jcbStep l.jcb fun j => (err j).addCount 1 s.time
  | _, _ => s

/-- The sequencer becomes free (R71): no iteration, regions closed, loop stack empty, `CHKINT` 0; results of the
iteration that still wait in a latch bank never land, and keep no tile busy (R157, R404); what its fetch has asked of
the host acts on nothing (R392). -/
def State.freeSeq (s : State) (p q : Nat) : State :=
  ((s.onSeq p q fun x => { x with
    run := .idle
    iter := none
    loops := []
    regions := []
    chkint := 0
    delay := none
    gang := []
    heldSince := none
    wdog := false
    poisonDue := false
    fetchFault := none
    userBank := Bank.empty
    supBank := Bank.empty }).disown 1 p fun o => o = (q, fetchOwner)).settle p q

/-- What a context-mode DONE leaves of the iteration: it is held only in its image, its frames as they stand (R344);
what the part keeps of it beside the image is noted (log 32). -/
def State.dropOps (s : State) (p q : Nat) : State :=
  let x := s.seq p q
  let job := ((s.launchOf p q).map fun l => l.job).getD ((s.stack (stackOf p)).job.getD 0)
  let image := { x with recs := x.recs.filter fun r => r.order ≤ x.ctxOrder }
  let keep : Away := ⟨job, p, q, x.iter, image, (s.pillar p).cube.filter fun c =>
    c.q = q && image.recs.any fun r => r.idx = c.record⟩
  let s := if x.iter.isNone then s else
    { s with away := keep :: s.away.filter fun a => !(a.job = job && a.p = p && a.q = q) }
  ((s.onPillar p fun P => { P with
    cube := P.cube.filter fun c => c.q ≠ q
    drains := P.drains.map fun l => l.filter fun d => d.1 ≠ q }).onSeq p q fun x =>
      { x with recs := [], flagq := [], fences := [], aborts := [], syncing := none }).disown 1 p fun o => o.1 = q

/-- The end of an iteration whose DONE has nothing pending (R194, R344, R350, R352). -/
def State.retire (s : State) (p q : Nat) : State :=
  let x := s.seq p q
  let t := (x.iter.map fun i => i.t).getD 0
  let id := (x.iter.map fun i => i.launch).getD 0
  if x.contextMode then (s.dropOps p q).freeSeq p q
  else
    let s := if x.mode then
        s.postEnd p q (fun j => (if bit x.chkint 0 then { j with err := j.err ||| asBit true 4 } else j).fail
          (bits x.ecause 0 8) t) true
      else s.postEnd p q (fun j => if bit x.chkint 0 then j.pois t else j) (bit x.chkint 0)
    (s.freeSeq p q).checkLaunch id

/-- A supervisor DONE outside context mode abandons its iteration (R352, R361): its operations cancelled, its faults
dropped, its regions closed and its loop stack empty; as a gang member it fails. -/
def State.abandon (s : State) (p q : Nat) : State :=
  ((s.failMember p q).cancelAll p q).onSeq p q fun x => { x with regions := [], loops := [], poisonDue := false }

end Sys2Proof.Machine
end

