-- ==== Sys2Proof/Machine/Engine.lean ====
section
/-! DEFINITION. The engine commands (R271-R286): issue and its checks, sector transactions, completion, cancelling
(R326, R327), and WSWIN (R285). -/

namespace Sys2Proof.Machine

/-! ### Issue -/

/-- FINFO of FSTATE for a frame of a pillar (R258). -/
def State.frameInfo (s : State) (p f why : Nat) : W64 := fstateInfo f (s.foundFrame p f).state why

/-- The frame states a command needs at issue (R277), frames in the order F, IXF, RF; none in context mode (R344). -/
def State.roleFault (s : State) (p : Nat) (e : EngineOp) : Option (Nat × W64) :=
  let rd := fun (f : Nat) => if (s.foundFrame p f).state = .empty ∨ (s.foundFrame p f).state = .filling then
    some (cFstate, s.frameInfo p f 5) else none
  let wr := fun (f : Nat) => if (s.foundFrame p f).state ≠ .filling then some (cFstate, s.frameInfo p f 7) else none
  match e.kind with
  | .copyin => if e.ctx then none else wr e.frame
  | .copyout => if e.ctx then none else rd e.frame
  | .gather => if e.frame = e.ixf then some (cFstate, s.frameInfo p e.frame 9) else (wr e.frame).or (rd e.ixf)
  | .scatter => (rd e.frame).or (rd e.ixf)
  | .atomg =>
    if e.hasRf then
      if e.frame = e.rf then some (cFstate, s.frameInfo p e.frame 9) else (rd e.frame).or (wr e.rf)
    else rd e.frame

/-- The tile, index list or cell outside its frame (R279). -/
def State.placeFault (s : State) (p : Nat) (e : EngineOp) : Option (Nat × W64) :=
  let bad := fun (f off n : Nat) => if (s.frame p f).bytes < off + n then some (cAddr, faddr f off) else none
  match e.kind with
  | .copyin | .copyout => bad e.frame (e.fseg * e.tileBytes) e.tileBytes
  | .gather | .scatter =>
    (bad e.frame (e.fseg * e.tileBytes) e.tileBytes).or
      (bad e.ixf (256 * bits e.word 20 8) (4 * 2 ^ bits e.word 40 4))
  | .atomg => (bad e.frame (16 * e.fseg) 16).or (if e.hasRf then bad e.rf (8 * e.fseg) 8 else none)

/-- A command's issue-time checks in order (R279); a handle operand that breaks R42 left the snapshot without
dimensions, and its FINFO has no stated value (log 25). -/
def State.engineCheck (s : State) (p : Nat) (e : EngineOp) : State × Option (Nat × W64) :=
  if e.handle.nd = 0 then
    let (c, s) := s.choose
    (s, some (cXlate, BitVec.ofNat 64 c))
  else if !e.fieldsOk then (s, some (cFstate, s.frameInfo p e.frame 2))
  else (s, (s.roleFault p e).or (s.placeFault p e))

/-- A command's record changed. -/
def State.onEngine (s : State) (p q i : Nat) (f : EngineOp → EngineOp) : State :=
  s.onRec p q i fun r => match r.op with
    | .engine e => { r with op := .engine (f e) }
    | _ => r

/-- The roles a command takes once its checks pass (R277, R344). -/
def EngineOp.taken (e : EngineOp) : EngineOp :=
  { e with
    ready := true
    roleW := !e.ctx && e.written.isSome
    roleF := match e.kind with
      | .copyout => !e.ctx
      | .scatter | .atomg => true
      | _ => false
    roleX := match e.kind with
      | .gather | .scatter => true
      | _ => false }

/-- A command whose checks pass takes its frames (R253, R277), and the index words as it finds them, an M-slot store
of its own long word made (R237, log 80). -/
def State.startEngine (s : State) (p q i : Nat) (e : EngineOp) : State :=
  let t := e.taken
  let ix := if e.indexed then some (s.indexNow p e) else none
  let s := if t.roleF then s.onFrame p t.frame Frame.takeRole else s
  let s := if t.roleX then s.onFrame p t.ixf Frame.takeRole else s
  s.onEngine p q i fun e => { e.taken with index := ix }

/-- A command checked, and started or faulted. -/
def State.admitEngine (s : State) (p q i : Nat) (e : EngineOp) : State :=
  match s.engineCheck p e with
  | (s, none) => s.startEngine p q i e
  | (s, some f) => s.faultRec p q i f.1 f.2

/-- The snapshot left by a handle operand that breaks R42. -/
def Handle.absent : Handle := ⟨0, 0, false, 0, 0, [], []⟩

/-- An engine command at issue (R272): its record, its acquire (R245), its checks (R279). -/
def State.command (s : State) (kind : EngineKind) (g : Guard) (f : BitVec 6) (a b : BitVec 5) (lu fl : BitVec 1) :
    Outcome :=
  s.guarded g [a, b] fun s =>
    let i := s.me.freeRec
    let e : EngineOp := {
      kind := kind, frame := f.toNat, fl := fl = 1, lu := lu = 1, word := s.src b
      handle := (s.handleOf (stackOf s.cur.p) (s.src a)).getD Handle.absent
      ctx := s.me.contextMode && (kind = .copyin || kind = .copyout)
      index := none, done := [], part := [], stage := [], held := [], roleW := false, roleF := false, roleX := false
      ready := false, reached := false, heldSince := none, told := false }
    let s := s.formRec (s.src a) (s.src b) (.engine e)
    let s := if e.acq then
      s.onMe fun x => { x with fences := x.fences ++ [⟨0, e.scope, x.order, some (kind = .atomg)⟩] } else s
    s.admitEngine s.cur.p s.cur.q i e

/-- COPYIN (R275). -/
def execCopyin (g : Guard) (f : BitVec 6) (a b : BitVec 5) (u gr : BitVec 1) (s : State) : Outcome :=
  s.command .copyin g f a b u gr

/-- COPYOUT (R275). -/
def execCopyout (g : Guard) (f : BitVec 6) (a b : BitVec 5) (u gr : BitVec 1) (s : State) : Outcome :=
  s.command .copyout g f a b u gr

/-- GATHER (R275). -/
def execGather (g : Guard) (f : BitVec 6) (a b : BitVec 5) (u gr : BitVec 1) (s : State) : Outcome :=
  s.command .gather g f a b u gr

/-- SCATTER (R275). -/
def execScatter (g : Guard) (f : BitVec 6) (a b : BitVec 5) (u gr : BitVec 1) (s : State) : Outcome :=
  s.command .scatter g f a b u gr

/-- ATOMG (R276). -/
def execAtomg (g : Guard) (f : BitVec 6) (a b : BitVec 5) (u gr : BitVec 1) (s : State) : Outcome :=
  s.command .atomg g f a b u gr

/-! ### Sector transactions -/

/-- A command's fault at an access (R280). -/
def State.engineFault (s : State) (p q i : Nat) (f : Nat × W64) : State := s.faultRec p q i f.1 f.2

/-- A failed translation: it waits for the host, or is recorded (R349). -/
def State.engineXlate (s : State) (p q i : Nat) (c : Nat) (info : W64) : State :=
  match s.hostAsk p q i c info with
  | (s, true) => s
  | (s, false) => s.engineFault p q i (c, info)

/-- A transaction performed: noted, and its bytes counted (R280, R332). -/
def State.noteDone (s : State) (p q i k bytes : Nat) : State :=
  (s.onEngine p q i fun e => { e with done := k :: e.done }).onRec p q i fun r => { r with progress := r.progress + bytes }

/-- A command's read roles given up with its last read of its frames (R253, R277; log 63). -/
def State.dropRoles (s : State) (p q i : Nat) (e : EngineOp) : State :=
  let s := if e.roleF then s.onFrame p e.frame Frame.dropRole else s
  let s := if e.roleX then s.onFrame p e.ixf Frame.dropRole else s
  if e.roleF || e.roleX then s.onEngine p q i fun e => { e with roleF := false, roleX := false } else s

/-- Whether a command still reads its frames: a block of them, or, for a GATHER, what its index words choose; while
a write it has still to make does not translate it has not done with them either (R253, R280, log 63). -/
def State.readsLeft (s : State) (p q : Nat) (e : EngineOp) : Bool :=
  (s.undone p e).any fun kt =>
    s.readsBlock p e kt.1 || e.kind = .gather ||
      (s.accessesOf p e kt).any fun a => a.wr && match s.peekXlate (stackOf p) (s.jobOf p q) a.va true with
        | .ok _ _ => false
        | .bad _ _ => true

/-- What follows a step of a command: with no read of its frames left it gives their read roles up (R253, R277). -/
def State.endReads (s : State) (p q i : Nat) : State :=
  match (s.rec? p q i).map Rec.op with
  | some (.engine e) => if e.ready && !s.readsLeft p q e then s.dropRoles p q i e else s
  | _ => s

/-- Elements of a transaction performed: the whole of what was left of it, or some of it on a host page (R238). -/
def State.notePart (s : State) (p q i k : Nat) (run es : List Elem) (bytes : Nat) : State :=
  if es.length = run.length then s.noteDone p q i k bytes
  else (s.onEngine p q i fun e => { e with part := es.map Prod.fst ++ e.part }).onRec p q i fun r =>
    { r with progress := r.progress + bytes }

/-- The elements of a transaction, w bytes wide, that share no byte with one before them, nor with those at `seen`. -/
def firstElems (w : Nat) (seen : List Nat) : List Elem → List Elem
  | [] => []
  | x :: xs =>
    let va := x.2.getD 0
    let rest := firstElems w (va :: seen) xs
    if seen.any fun a => rangesMeet a w va w then rest else x :: rest

/-- The elements of a transaction that one step performs: all of them, but on a host page one, which is single-copy
atomic there (R238): on an SO page the first, else one of the part's choice, equal ones in their order (R240, R275).
-/
def State.oneStep (s : State) (leaf : W64) (w : Nat) (run : List Elem) : State × List Elem :=
  if leafH leaf && decide (1 < run.length) then
    if leafOrd leaf = 0 then (s, run.take 1)
    else
      let (c, s) := s.choose
      let xs := firstElems w [] run
      (s, (xs.drop (c % xs.length)).take 1)
  else (s, run)

/-- The fault of a write into the frame a command fills (R253): not FILLING any more, or past EXPB. In context mode
only a frame gone EMPTY refuses (R344). -/
def State.fillFault (s : State) (p f n : Nat) (ctx : Bool) : Option (Nat × W64) :=
  let F := s.frame p f
  if ctx then (if F.state = .empty then some (cFstate, s.frameInfo p f 7) else none)
  else if F.state ≠ .filling then some (cFstate, s.frameInfo p f 7)
  else if F.expb < F.land + n then some (cFstate, s.frameInfo p f 8)
  else none

/-- The sectors, by number, that pieces of data cover wholly between them (R354). -/
def coveredSectors (parts : List (Nat × List Byte)) : List Nat :=
  ((parts.flatMap fun x => sectorsOf x.1 x.2.length).eraseDups).filter fun k =>
    (List.range 32).all fun o => parts.any fun x => x.1 ≤ 32 * k + o && 32 * k + o < x.1 + x.2.length

/-- The marks left by one write of several pieces: a wholly covered sector loses its mark, a poisoned source marks
every sector it touches (R354). -/
def marksAfter (marks : List Nat) (parts : List (Nat × List Byte)) (bad : Bool) : List Nat :=
  if bad then (parts.flatMap fun x => sectorsOf x.1 x.2.length).foldl mark marks
  else marks.filter fun k => !(coveredSectors parts).contains k

/-- Bytes written into a frame by one step of a command: the data, and the marks (R354). -/
def Frame.fill (F : Frame) (parts : List (Nat × List Byte)) (bad : Bool) : Frame :=
  { parts.foldl (fun (F : Frame) x => F.writeN x.1 x.2) F with poison := marksAfter F.poison parts bad }

/-- Bytes written into the frame a command fills: LAND rises but in context mode (R253, R344). -/
def State.fillFrame (s : State) (p q i f : Nat) (ctx : Bool) (parts : List (Nat × List Byte)) (n : Nat) (bad : Bool) :
    State :=
  let old := (s.frame p f).poison
  let s := s.onFrame p f fun F =>
    let F := F.fill parts bad
    if ctx then F else { F with land := F.land + n }
  let s := s.logMarks p f old
  if !ctx && (s.frame p f).land = (s.frame p f).expb then s.onEngine p q i fun e => { e with reached := true } else s

/-- What a command has on its way for the element at a frame offset: its bytes, and whether their source is marked. -/
def EngineOp.staged (e : EngineOp) (off : Nat) : Option (List Byte × Bool) :=
  (e.stage.find? fun x => x.1 = off).map Prod.snd

/-- Elements read on one side of a command put on their way to the other. -/
def State.stageBytes (s : State) (p q i : Nat) (xs : List (Nat × List Byte × Bool)) : State :=
  s.onEngine p q i fun e => { e with stage := e.stage ++ xs }

/-- A sector of a COPYIN or GATHER read (R238, R241, R275). -/
def State.inward (s : State) (p q i k order : Nat) (e : EngineOp) (run : List Elem) : State :=
  let w := e.handle.width
  if e.kind = .gather && (s.frame p e.ixf).xp then
    s.engineFault p q i (cStale, faddr e.ixf (256 * bits e.word 20 8))
  else
    match run.head? with
    | some (_, some va0) =>
      (match s.translate (stackOf p) (s.jobOf p q) va0 .read with
        | (s, .bad c info) => s.engineXlate p q i c info
        | (s, .ok pa0 leaf) =>
          let (s, es) := s.oneStep leaf w run
          let xs := es.map fun x =>
            let va := x.2.getD 0
            let pa := pa0 + va - va0
            (x.1, s.readFor p q order va pa w, s.readBad p q order va pa w || e.badIndex x.1)
          (s.stageBytes p q i xs).notePart p q i k run es 0)
    | _ => s.noteDone p q i k 0

/-- A block of the frame that a COPYIN or GATHER fills, written in one step (R237, R253, R275, R354): its elements as
they came from memory, pad outside the tensor. -/
def State.fillBlock (s : State) (p q i k : Nat) (e : EngineOp) (run : List Elem) : State :=
  let n := run.length * e.handle.width
  match s.fillFault p e.frame n e.ctx with
  | some f => s.engineFault p q i f
  | none =>
    let xs := run.map fun x => (x.1, (e.staged x.1).getD (e.handle.padBytes, e.badIndex x.1))
    (s.fillFrame p q i e.frame e.ctx (xs.map fun x => (x.1, x.2.1)) n (xs.any fun x => x.2.2)).noteDone p q i k n

/-- A block of a frame read in one step by a COPYOUT or SCATTER (R237, R256, R275, R277, R354): it holds every M-slot
store that was made before this step, one of the command's own long word among them (log 80). -/
def State.takeBlock (s : State) (p q i k : Nat) (e : EngineOp) (run : List Elem) : State :=
  let w := e.handle.width
  let F := s.frame p e.frame
  if F.xp then s.engineFault p q i (cStale, faddr e.frame ((run.head?.map Prod.fst).getD 0))
  else if e.kind = .scatter && (s.frame p e.ixf).xp then
    s.engineFault p q i (cStale, faddr e.ixf (256 * bits e.word 20 8))
  else if F.state = .empty then s.engineFault p q i (cFstate, s.frameInfo p e.frame 5)
  else
    (s.stageBytes p q i (run.map fun x => (x.1, F.readN x.1 w, F.isPoisoned x.1 w || e.badIndex x.1))).noteDone p q i k 0

/-- Bytes written to memory by one transaction: its elements in order; a wholly covered sector loses its mark, a
poisoned source marks it (R238, R354). -/
def State.writeSector (s : State) (parts : List (Nat × List Byte)) (bad : Bool) : State :=
  let s := parts.foldl (fun s x => s.busWrite x.1 x.2) s
  match parts.head? with
  | none => s
  | some (pa, _) =>
    if bad then s.markMem pa
    else if (coveredSectors (parts.map fun x => (s.canonPa x.1, x.2))).contains (s.canonPa pa / 32) then
      { s with poison := s.poison.filter (· ≠ s.canonPa pa / 32) }
    else s

/-- A held write performed: its bytes reach memory as one transaction (R241). -/
def State.drainTx (s : State) (p q i : Nat) (h : HeldTx) : State :=
  ((s.writeSector (h.parts.map Prod.snd) h.bad).onEngine p q i fun e =>
    { e with held := e.held.filter fun x => x.k ≠ h.k }).noteDone p q i h.k
      ((h.parts.map fun x => x.2.2.length).foldl (· + ·) 0)

/-- A sector of a COPYOUT or SCATTER written (R238, R241, R275): on a UN page of the device the combining buffer may
hold the write, which is then performed later. Element bytes move unchanged (R112, R275), through an LG6 handle too,
where R37 has bits [7:6] written as 0 (log 99). -/
def State.outward (s : State) (p q i k : Nat) (e : EngineOp) (run : List Elem) : State :=
  let w := e.handle.width
  match e.held.find? fun h => h.k = k with
  | some h => s.drainTx p q i h
  | none =>
    match run.head? with
    | some (_, some va0) =>
      (match s.translate (stackOf p) (s.jobOf p q) va0 .write with
        | (s, .bad c info) => s.engineXlate p q i c info
        | (s, .ok pa0 leaf) =>
          let (s, es) := s.oneStep leaf w run
          let way := fun (x : Elem) => (e.staged x.1).getD ([], false)
          let parts := es.map fun x => (x.2.getD 0, pa0 + x.2.getD 0 - va0, (way x).1)
          let bad := es.any fun x => (way x).2
          let hold : Nat × State := if leafOrd leaf = 2 && !leafH leaf then s.choose else (0, s)
          if hold.1 % 2 = 1 then
            hold.2.onEngine p q i fun e => { e with held := e.held ++ [⟨k, parts, bad⟩] }
          else (hold.2.writeSector (parts.map Prod.snd) bad).notePart p q i k run es (es.length * w))
    | _ => s.noteDone p q i k 0

/-- Whether a transaction has what it needs of the command's others: an element goes on only once it has been read,
an atomic follows its operands and its result the atomic, and in context mode the blocks of a frame follow their
enumeration (R237). -/
def State.turn (s : State) (p : Nat) (e : EngineOp) (k : Nat) (run : List Elem) : Bool :=
  let there := run.all fun x => x.2.isNone || (e.staged x.1).isSome
  let isLeft := fun (j : Nat) => (s.undone p e).any fun kt => kt.1 = j
  (!(e.ctx && s.isBlock p e k) || (s.undone p e).all fun kt => k ≤ kt.1 || !s.isBlock p e kt.1) &&
    match e.kind with
    | .copyin | .gather => !s.isBlock p e k || there
    | .copyout | .scatter => s.isBlock p e k || there
    | .atomg => k = 1 || !(isLeft (if k = 0 then 1 else 0))

/-! ### Device atomics -/

/-- The new value of a device atomic on v bytes (R276). -/
def atomgNew (aop v old opd cmp : Nat) : Nat :=
  let m := 2 ^ (8 * v)
  let sg := fun (x : Nat) => signedBits (8 * v) x
  match aop with
  | 0 => (old + opd) % m
  | 1 => if sg opd < sg old then opd else old
  | 2 => if sg old < sg opd then opd else old
  | 3 => min old opd
  | 4 => max old opd
  | 5 => old &&& opd
  | 6 => old ||| opd
  | 7 => old ^^^ opd
  | 8 => opd
  | 9 => if old = cmp then opd else old
  | _ => (to32 ((val32 (BitVec.ofNat 32 old)).add (val32 (BitVec.ofNat 32 opd)))).toNat

/-- The place at which an ATOMG keeps its operands on their way, and the one for the element it read. -/
abbrev atomOperands : Nat := 1
/-- The place of the element it read. -/
abbrev atomOld : Nat := 2

/-- The operands of an ATOMG read (R256, R276, R277), with an M-slot store of its own long word (log 80); a
misaligned cell faults with an `EINFO` of no stated value (R279, log 43). -/
def State.atomTake (s : State) (p q i : Nat) (e : EngineOp) : State :=
  let F := s.frame p e.frame
  if F.xp then s.engineFault p q i (cStale, faddr e.frame (16 * e.fseg))
  else if e.atomVa.any fun va => va % e.atomWidth ≠ 0 then
    let (c, s) := s.choose
    s.engineFault p q i (cAddr, BitVec.ofNat 64 c)
  else
    (s.stageBytes p q i [(atomOperands, F.readN (16 * e.fseg) 16, F.isPoisoned (16 * e.fseg) 16)]).noteDone p q i 1 0

/-- The atomic of an ATOMG (R276): one step at its memory-side point; outside the tensor it reads pad and makes no
access. Marked operands mark what it writes (R354, log 98). -/
def State.atomicStep (s : State) (p q i : Nat) (e : EngineOp) : State :=
  let v := e.atomWidth
  let keep := fun (s : State) (old : Nat) => (s.stageBytes p q i [(atomOld, leBytes 8 old, false)]).noteDone p q i 0 v
  match e.atomVa with
  | none => keep s (e.handle.pad.toNat % 2 ^ (8 * e.handle.width))
  | some va =>
    match s.translate (stackOf p) (s.jobOf p q) va .write with
    | (s, .bad c info) => s.engineXlate p q i c info
    | (s, .ok pa _) =>
      let old := leNat (s.busRead pa v)
      let s := if s.sectorBad pa then s.onSeq p q fun x => x.poisonAsync 1 else s
      let way := (e.staged atomOperands).getD ([], false)
      let new := atomgNew (bits e.word 36 4) v old (leNat (way.1.take v)) (leNat ((way.1.drop 8).take v))
      let s := s.busWrite pa (leBytes v new)
      keep (if way.2 then s.markMem pa else s) old

/-- The result of an ATOMG written (R253, R276). An image does not hold the element read (R341): restored from one
alone it has no stated value (log 32). -/
def State.atomResult (s : State) (p q i : Nat) (e : EngineOp) : State :=
  match s.fillFault p e.rf 8 false with
  | some f => s.engineFault p q i f
  | none =>
    let (bs, s) : List Byte × State := match e.staged atomOld with
      | some x => (x.1, s)
      | none => let (c, s) := s.choose; (leBytes 8 c, s)
    (s.fillFrame p q i e.rf false [(8 * e.fseg, bs)] 8 false).noteDone p q i 2 0

/-- A transaction of an ATOMG. -/
def State.atomStep (s : State) (p q i k : Nat) (e : EngineOp) : State :=
  match k with
  | 0 => s.atomicStep p q i e
  | 1 => s.atomTake p q i e
  | _ => s.atomResult p q i e

/-! ### Self-refresh (R286) -/

/-- Whether a write belongs to a release or follows a fence that selects it (R286). -/
def State.releaseWrite (s : State) (p q order : Nat) (e : EngineOp) (a : MemAcc) : Bool :=
  a.wr && (e.rel || (s.seq p q).fences.any fun f => f.acq.isNone && decide (f.order < order) && s.fenceSelects p q f a)

/-- The page of an access in an HBM stack that is in self-refresh (R286). -/
def State.refreshPage (s : State) (p q : Nat) (a : MemAcc) : Option W64 :=
  (s.pageOf p q a).bind fun x =>
    if s.refreshing x.1 then some x.2 else none

/-- Whether an access is held by its HBM stack's self-refresh whatever the cache holds: atomics, release writes and
accesses to a page that the cache does not hold (R282, R286). -/
def State.heldAccess (s : State) (p q order : Nat) (e : EngineOp) (a : MemAcc) : Bool :=
  (s.refreshPage p q a).any fun leaf => !leafC leaf || e.kind = .atomg || s.releaseWrite p q order e a

/-- Whether what stands held is a transaction of a command. -/
def Standing.isOf (x : Standing) (p q i k : Nat) : Bool :=
  match x with
  | .access p' q' i' k' _ => p' = p && q' = q && i' = i && k' = k
  | .report _ _ => false

/-- Whether a transaction of a command stands held. -/
def State.stands (s : State) (p q i k : Nat) : Bool := s.standing.any fun x => x.isOf p q i k

/-- Whether accesses of a transaction lie behind what came to their memory-side point before them and stands held
there (R286). -/
def State.behindOthers (s : State) (p q i k : Nat) (as : List MemAcc) : Bool :=
  as.any fun a => (s.pageOf p q a).any fun x => s.behind (s.standing.takeWhile fun y => !y.isOf p q i k) x.1 a.n

/-- Whether accesses that stand held are held still. -/
def State.stillHeld (s : State) (p q i k : Nat) (as : List MemAcc) : Bool :=
  as.any (fun a => (s.refreshPage p q a).isSome) || s.behindOthers p q i k as

/-- Whether a transaction that comes to the memory-side point is held there (R286): a plain access to a page that the
cache may hold hits there or misses by the part's choice (log 64). -/
def State.arrives (s : State) (p q : Nat) (r : Rec) (e : EngineOp) (k : Nat) (as : List MemAcc) : State × Bool :=
  if s.stands p q r.idx k then (s, false)
  else if as.any (s.heldAccess p q r.order e) || s.behindOthers p q r.idx k as then (s, true)
  else if as.any fun a => (s.refreshPage p q a).isSome then
    let (c, s) := s.choose
    (s, decide (c % 2 = 1))
  else (s, false)

/-- The physical ranges that accesses touch. -/
def State.rangesOf (s : State) (p q : Nat) (as : List MemAcc) : List (Nat × Nat) :=
  as.filterMap fun a => (s.pageOf p q a).map fun x => (s.canonPa x.1, a.n)

/-- A transaction of a command performed. -/
def State.transact (s : State) (p q : Nat) (r : Rec) (e : EngineOp) (k : Nat) (run : List Elem) : State :=
  let s := { s with standing := s.standing.filter fun x => !x.isOf p q r.idx k }
  State.endReads (match e.kind, s.isBlock p e k with
    | .copyin, false | .gather, false => s.inward p q r.idx k r.order e run
    | .copyin, true | .gather, true => s.fillBlock p q r.idx k e run
    | .copyout, true | .scatter, true => s.takeBlock p q r.idx k e run
    | .copyout, false | .scatter, false => s.outward p q r.idx k e run
    | .atomg, _ => s.atomStep p q r.idx k e) p q r.idx

/-- A translation made before the access's turn (R281): it brings the page in, or the command faults. -/
def State.translateAhead (s : State) (p q : Nat) (r : Rec) (as : List MemAcc) : State :=
  match as.head? with
  | none => s
  | some a =>
    match s.translate (stackOf p) (s.jobOf p q) a.va (if a.wr then .write else .read) with
    | (s, .bad c info) => s.engineXlate p q r.idx c info
    | (s, .ok _ _) => s

/-- The runs of elements, numbered from k, that make up the bytes a command has performed, from the first on (R280,
R332). -/
def doneOf (w : Nat) : List (List Elem) → Nat → Nat → List Nat
  | [], _, _ => []
  | t :: ts, k, bytes => if bytes < t.length * w || t.isEmpty then [] else k :: doneOf w ts (k + 1) (bytes - t.length * w)

/-- The transactions that a restored command has performed: on the side where PROGRESS counts, in their order; of the
other side those of the same elements, so that an element on its way is read again. An ATOMG that PROGRESS counts has
its atomic behind it (R280, R332, R345; log 32). -/
def State.doneBefore (s : State) (p : Nat) (e : EngineOp) (bytes : Nat) : List Nat :=
  let ss := s.sectors p e
  let bs := s.blocks p e
  let w := e.handle.width
  let among := fun (l : List (List Elem)) (ks : List Nat) (k0 : Nat) =>
    let offs := ks.flatMap fun k => (l.getD (k - k0) []).map Prod.fst
    fun (t : List Elem) => t.all fun x => x.2.isNone || offs.contains x.1
  match e.kind with
  | .atomg => if bytes = 0 then [] else [0, 1]
  | .copyin | .gather =>
    let ks := doneOf w bs ss.length bytes
    (placesOf ss (among bs ks ss.length)) ++ ks
  | .copyout | .scatter =>
    let ks := doneOf w ss 0 bytes
    ks ++ (placesOf bs (among ss ks 0)).map (· + ss.length)

/-- A restored GATHER or SCATTER goes on (R280, R333, R345): its index words are read again, and what it has performed
follows from them and PROGRESS (log 32). -/
def State.reindex (s : State) (p q : Nat) (r : Rec) (e : EngineOp) : State :=
  let e' := { e with index := some (s.indexNow p e) }
  s.onEngine p q r.idx fun e => { e with index := e'.index, done := s.doneBefore p e' r.progress }

/-- ENGINE_SECTOR_TRANSACTION (R237, R238): transaction `who.k` of the command of record `who.rec_` of sequencer
`who.p`, `who.q`, performed or held at its memory-side point (R286); the last to read a frame gives its role up (R253,
R277). With `who.up` its page is only translated (R281). A command that resumes after a fault of its issue-time checks
is checked again first, a restored one with an index list reads it again (R333, R345). -/
def execEngineSectorTransaction (s : State) : Outcome :=
  let p := s.who.p
  let q := s.who.q
  let i := s.who.rec_
  .next (match s.rec? p q i with
    | some r =>
      match r.op with
      | .engine e =>
        if r.faulted then s
        else if !e.ready then s.admitEngine p q i e
        else if !e.begun then s.reindex p q r e
        else
          match (s.undone p e).find? fun kt => kt.1 = s.who.k with
          | none => s
          | some (k, run) =>
            let as := s.accessesOf p e (k, run)
            if s.who.up then s.translateAhead p q r as
            else
              match s.arrives p q r e k as with
              | (s, true) => { s with standing := s.standing ++ [.access p q i k (s.rangesOf p q as)] }
              | (s, false) => s.transact p q r e k run
      | _ => s
    | none => s)

/-! ### What may be performed -/

/-- Whether a physical address lies in a weight store that refreshes, whose reads are held (R284). -/
def State.weightHeld (s : State) (pa : Nat) : Bool :=
  match spaceOf pa with
  | some (.weight st _) => (s.stack st).refresh
  | _ => false

/-- Whether a transaction writes memory where the command's scope reaches (R244). -/
def State.ownWriteMem (s : State) (p q : Nat) (e : EngineOp) (as : List MemAcc) : Bool :=
  as.any fun b => b.wr && s.accReached p q e.scope b

/-- Whether a transaction writes where the command's scope reaches: memory, or from pil scope up a block of a frame
(R244). -/
def State.ownWrite (s : State) (p q : Nat) (e : EngineOp) (k : Nat) (as : List MemAcc) : Bool :=
  s.ownWriteMem p q e as || (s.isBlock p e k && !s.readsBlock p e k && decide (1 ≤ e.scope))

/-- Whether an acquiring command has reads of its own left that its scope reaches, which come before its writes
(R245). -/
def State.ownReadsLeft (s : State) (p q : Nat) (e : EngineOp) : Bool :=
  (s.undone p e).any fun kt =>
    (s.readsBlock p e kt.1 && decide (1 ≤ e.scope)) ||
      (s.accessesOf p e kt).any fun a => a.rd && s.accReached p q e.scope a

/-- Whether a transaction's access may not be made before an earlier one of its own command (R240, R242). -/
def State.ownTurn (s : State) (p q : Nat) (e : EngineOp) (k : Nat) (as : List MemAcc) : Bool :=
  (s.undone p e).all fun kt => k ≤ kt.1 || !(s.accessesOf p e kt).any fun a => as.any fun b => s.pairOrdered p q a b

/-- Whether the translation of accesses of a record waits for the host or for a place among the misses (R281, R349).
-/
def State.xlateWaits (s : State) (p q i : Nat) (as : List MemAcc) : Bool :=
  as.any fun b => s.hostWaiting p q i b.va || s.missWaits (stackOf p) (s.jobOf p q) b.va

/-- Whether one transaction of a command has come to the memory-side point: what the order of performance puts
before it is performed (R240-R246), and it waits for no translation and no weight store (R281, R284, R349). The write
of a release waits for the earlier accesses to memory that its scope reaches, an atomic for those to frames too
(R245, log 63). -/
def State.mayReach (s : State) (p q : Nat) (r : Rec) (e : EngineOp) (k : Nat) (run : List Elem) : Bool :=
  let as := s.accessesOf p e (k, run)
  s.ownTurn p q e k as && s.turn p e k run && s.mayAccess p q r.order as (s.isBlock p e k) true &&
    !s.xlateWaits p q r.idx as && !(as.any fun b => (s.pageOf p q b).any fun x => s.weightHeld x.1) &&
    (!(e.rel && s.ownWriteMem p q e as) ||
      (if e.kind = .atomg then s.mayRelease p q r.order e.scope else s.mayReleaseMem p q r.order e.scope)) &&
    (!(e.acq && s.ownWrite p q e k as && e.kind ≠ .atomg) ||
      !(s.readsPending p q r.order e.scope || s.ownReadsLeft p q e))

/-- Whether one transaction of a command may take its next step: come to its memory-side point, or be performed once
what held it there is over (R240-R246, R286, R349). -/
def State.mayPerform (s : State) (p q : Nat) (r : Rec) (e : EngineOp) (k : Nat) (run : List Elem) : Bool :=
  !(s.stands p q r.idx k && s.stillHeld p q r.idx k (s.accessesOf p e (k, run))) && s.mayReach p q r e k run

/-- Whether an access's page stands in the TLB and allows it. -/
def State.inTlb (s : State) (p q : Nat) (a : MemAcc) : Bool :=
  ((s.stack (stackOf p)).tlbHit (s.jobOf p q) a.va).any fun t =>
    match permitAccess t a.va (if a.wr then .write else .read) with
    | .ok _ _ => true
    | .bad _ _ => false

/-- Whether a transaction's page may be translated before its turn, so that no other command's miss, fault or access
delays it (R279, R281). -/
def State.mayTranslate (s : State) (p q : Nat) (r : Rec) (e : EngineOp) (k : Nat) (run : List Elem) : Bool :=
  let as := s.accessesOf p e (k, run)
  as.any (fun a => !s.inTlb p q a) && s.ownTurn p q e k as && !s.xlateWaits p q r.idx as

/-- The transactions of a sequencer's commands that meet a test, with their records. -/
def State.engineSteps (s : State) (p q : Nat) (f : Rec → EngineOp → Nat → List Elem → Bool) : List (Nat × Nat) :=
  (s.seq p q).recs.flatMap fun r =>
    match r.op with
    | .engine e =>
      if r.faulted || !e.begun then [] else ((s.undone p e).filter fun kt => f r e kt.1 kt.2).map fun kt => (r.idx, kt.1)
    | _ => []

/-- The transactions of a sequencer's commands that may take their next step now; a command not yet admitted has its
checks to make, a restored one its index list to read. -/
def State.engineOptions (s : State) (p q : Nat) : List (Nat × Nat) :=
  ((s.seq p q).recs.filterMap fun r => match r.op with
    | .engine e => if !r.faulted && !e.begun then some (r.idx, 0) else none
    | _ => none) ++ s.engineSteps p q fun r e k run => s.mayPerform p q r e k run

/-- The transactions whose pages may be translated before their turn. -/
def State.engineTranslations (s : State) (p q : Nat) : List (Nat × Nat) :=
  s.engineSteps p q fun r e k run => s.mayTranslate p q r e k run

/-- Whether a command may complete: every access performed, and for a release or a flag post what R245 orders before
it (R248, R278); what an acquire puts before the command's writes is performed too (R245, log 63). -/
def State.mayFinish (s : State) (p q : Nat) (r : Rec) (e : EngineOp) : Bool :=
  !r.faulted && e.ready && (s.undone p e).isEmpty && s.mayEffect p q r.order p &&
    (!(e.rel || e.fl) || s.mayRelease p q r.order e.scope) &&
    (!e.fl || s.mayEffect p q r.order (e.flagPillar p)) &&
    (!e.acq || e.kind = .atomg || !s.readsPending p q r.order e.scope)

/-- The commands of a sequencer that may complete. -/
def State.engineFinishes (s : State) (p q : Nat) : List Nat :=
  (s.seq p q).recs.filterMap fun r => match r.op with
    | .engine e => if s.mayFinish p q r e then some r.idx else none
    | _ => none

/-- ENGINE_COMPLETE (R248, R278): record `who.rec_` of sequencer `who.p`, `who.q`: the frame it fills READY when this
command's bytes reached EXPB, the flag posted. -/
def execEngineComplete (s : State) : Outcome :=
  let p := s.who.p
  let q := s.who.q
  .next (match s.rec? p q s.who.rec_ with
    | some r =>
      match r.op with
      | .engine e =>
        let s := match e.written with
          | some f => if e.roleW && e.reached && decide ((s.frame p f).state = FState.filling) then
              s.onFrame p f fun F => F.complete (s.pillar p).fadeCount else s
          | none => s
        let s := if e.fl then s.postFlag (e.flagPillar p) e.fk 1 else s
        s.endRec p q r.idx
      | _ => s
    | none => s)

/-! ### Cancelling (R326, R327) -/

/-- The engine commands of the current sequencer that a test selects are cancelled. -/
def State.cancelCommands (s : State) (sel : EngineOp → Bool) : State :=
  (s.me.recs.filter fun r => match r.op with
    | .engine e => sel e
    | _ => false).foldl (fun s r => s.cancelRec s.cur.p s.cur.q r) s

/-- ECANCEL (R326). -/
def execEcancel (g : Guard) (s : State) : Outcome := s.guarded g [] fun s => s.cancelCommands fun _ => true

/-- ECANCEL.K (R326). -/
def execEcancelK (g : Guard) (k : BitVec 5) (s : State) : Outcome :=
  s.guarded g [] fun s => s.cancelCommands fun e => e.fl && e.fk = k.toNat

/-- ECANCEL.F (R326): an operand that names no frame raises ADDR with the operand itself in `EINFO` (log 107). -/
def execEcancelF (g : Guard) (a : BitVec 5) (s : State) : Outcome :=
  s.guarded g [a] fun s =>
    let f := s.src a
    if bits f 6 58 ≠ 0 then s.raise (cause cAddr f) else s.cancelCommands fun e => e.names f.toNat

/-! ### WSWIN and THERMAL-HOLD -/

/-- The start TIME of a stack's refresh window in force at a TIME, or of the next (R284, R285). -/
def wsWindow (st t : Nat) : Nat :=
  let first := 8000 * st
  if t < first then first
  else
    let start := first + (t - first) / 32000 * 32000
    if t < start + 1600 then start else start + 32000

/-- WSWIN (R285). -/
def execWswin (g : Guard) (s : State) : Outcome :=
  s.guarded g [] fun s => s.result 2 (.push (BitVec.ofNat 64 (wsWindow (stackOf s.cur.p) s.time)))

/-- THERMAL_HOLD (R286): the command of record `who.rec_` of sequencer `who.p`, `who.q`. -/
def execThermalHold (s : State) : Outcome :=
  let p := s.who.p
  let q := s.who.q
  .next ((s.onEngine p q s.who.rec_ fun e => { e with told := true }).wakeSeq p q)

/-- Whether what stands held stands still: its command has neither faulted nor ended, and its pages are the same. -/
def State.standsStill (s : State) : Standing → Bool
  | .report _ _ => true
  | .access p q i k rs =>
    (s.rec? p q i).any fun r => match r.op with
      | .engine e => !r.faulted && (s.undone p e).any fun kt => kt.1 = k && s.rangesOf p q (s.accessesOf p e kt) = rs
      | _ => false

/-- What a command's accesses held by self-refresh say at the end of a ns: the TIME since which one stands held is
kept, begun or ended, and what nothing holds any more of the part's own steps is performed (R286). -/
def State.noteThermal (s : State) : State :=
  let s := ({ s with standing := s.standing.filter s.standsStill } : State).performReports
  allSeqs.foldl (fun s pq => (s.seq pq.1 pq.2).recs.foldl (fun s r => match r.op with
    | .engine e =>
      let since := if (s.undone pq.1 e).any fun kt => s.stands pq.1 pq.2 r.idx kt.1 then some (e.heldSince.getD s.time)
        else none
      if since = e.heldSince then s else s.onEngine pq.1 pq.2 r.idx fun e => { e with heldSince := since }
    | _ => s) s) s

end Sys2Proof.Machine
end

