-- ==== Sys2Proof/Machine/Matrix.lean ====
section
/-! DEFINITION. The cube's arithmetic: B slots and A blocks as values (R287-R289), the three paths of a k-step sum
(R115, R293, R294), the wave sum over layers (R296) and the exact checksums (R299). -/

namespace Sys2Proof.Machine

/-- The slot tag a B format needs (R289). -/
def tagOf (bfmt : Nat) : Tag := if bfmt = 8 then .trn else if [1, 2, 4].contains bfmt then .bits16 else .bits8
/-- The tag of a width code (R289). -/
def tagOfSw (sw : Nat) : Tag := if sw = 0 then .bits16 else if sw = 1 then .bits8 else .trn
/-- The image size of a width code (R289). -/
def imageBytes (sw : Nat) : Nat := if sw = 0 then 8192 else if sw = 1 then 4096 else 1024
/-- The bytes of one row k of an image (R289). -/
def imageRow (sw : Nat) : Nat := imageBytes sw / 64
/-- The bytes of an A block (R288). -/
def blockBytes (afmt : Nat) : Nat := if afmt = 8 then 256 else if afmt = 1 ∨ afmt = 2 then 2048 else 1024

/-- The path of an operation (R293). -/
inductive CubePath where
  | log | int | float
deriving DecidableEq, Repr

/-- ASC + BSC (R31, R116). -/
def CubeOp.scale (o : CubeOp) : Int := (o.fmt.extractLsb' 8 8).toInt + (o.fmt.extractLsb' 16 8).toInt
/-- The path of an operation (R293). -/
def CubeOp.path (o : CubeOp) : CubePath :=
  if o.afmt = 7 ∧ o.bfmt = 7 then .log
  else if [5, 6, 8].contains o.afmt ∧ [4, 5, 6, 8].contains o.bfmt ∧ o.scale = 0 then .int
  else .float
/-- The window W (R293). -/
def CubeOp.window (o : CubeOp) : Nat := if o.afmt = 1 ∧ o.bfmt = 1 then 40 else 48
/-- The array cycles of a wave: m-groups times the rate (R297). -/
def CubeOp.cycles (o : CubeOp) : Nat :=
  o.rows_ / 8 *
    (if o.afmt = 2 then 11 else if o.afmt = 7 then (if o.bfmt = 8 then 1 else 2) else if o.afmt = 8 then 1 else 8)
/-- The ic of a wave: D (R297). -/
def CubeOp.waveLen (o : CubeOp) : Nat := (o.cycles + 1) / 2

/-- A code of a row-major matrix of 64 columns in the layouts of R288 and R289: 16-bit, 8-bit, or a trit. -/
def codeAt (fmt : Nat) (data : Nat → Byte) (row col : Nat) : Nat :=
  if fmt = 8 then (data (16 * row + col / 5)).toNat
  else if [1, 2, 4].contains fmt then
    (data (2 * (64 * row + col))).toNat + 256 * (data (2 * (64 * row + col) + 1)).toNat
  else (data (64 * row + col)).toNat

/-- The value of an element as a cube factor, its scale apart (R111, R113, R114, R117). -/
def factor (fmt col code : Nat) : Val :=
  if fmt = 8 then valInt ((trnDecode code).getD (col % 5) 0) 0 else fmtVal fmt code

/-- A matrix's codes by row, 64 to a row. -/
def matrixCodes (fmt rows : Nat) (data : Nat → Byte) : List (List Nat) :=
  (List.range rows).map fun r => (List.range 64).map fun c => codeAt fmt data r c

/-- A row's or column's factors from its codes. -/
def factors (fmt : Nat) (codes : List Nat) : List Val := codes.mapIdx fun c x => factor fmt c x

/-- Whether a block of A holds a reserved TRN code in the rows read (R117). -/
def blockReserved (rows : Nat) (data : Nat → Byte) : Bool :=
  (List.range rows).any fun m => (List.range 13).any fun b => trnReserved (data (16 * m + b)).toNat

/-- The exact products of one k-step for one output element. -/
def products (a b : List Val) : List Val := List.zipWith Val.mul a b

/-- floor(log2) of a nonzero finite product (R294). -/
def Val.top : Val → Option Int
  | .fin _ m e => if m = 0 then none else some ((Nat.log2 m : Nat) + e)
  | _ => none

/-- A product truncated toward zero to a multiple of 2^u, in units of 2^u (R294). -/
def Val.truncTo (u : Int) : Val → Int
  | .fin neg m e => signedMag neg (if u ≤ e then m <<< (e - u).toNat else m >>> (u - e).toNat)
  | _ => 0

/-- The floating path's k-step sum (R294), the products scaled by 2^sc (R116). -/
def floatStep (win : Nat) (sc : Int) (ps : List Val) : W32 :=
  let x := ps.foldl Exact.add Exact.zero
  if x.nan || (x.pinf && x.ninf) then nan32
  else if x.pinf then 0x7F800000
  else if x.ninf then 0xFF800000
  else
    match (ps.filterMap Val.top).max? with
    | none => 0
    | some top =>
      let u := top - (win : Int)
      let sum := ps.foldl (fun (n : Int) p => n + p.truncTo u) 0
      to32 (.fin (decide (sum < 0)) sum.natAbs (u + sc))

/-- The integer path's k-step sum (R294). -/
def intStep (ps : List Val) : W32 :=
  ofInt32 (ps.foldl (fun (n : Int) p => match p with
    | .fin neg m e => n + signedMag neg (m <<< e.toNat)
    | _ => n) 0)

/-- One LG6 product in units of 2^-24, none for NaR (R115). -/
def lgTerm (a b : Nat) : Option Int :=
  let ma := a % 32
  let mb := b % 32
  if ma = 0 ∨ mb = 0 then (if a % 64 = 32 ∨ b % 64 = 32 then none else some 0)
  else
    let qe := ma + mb
    let t := qtab (qe % 4) <<< (qe / 4 + 1)
    some (signedMag (xor (a / 32 % 2 = 1) (b / 32 % 2 = 1)) t)

/-- The logarithmic path's k-step sum P (R115). -/
def logStep (sc : Int) (a b : List Nat) : W32 :=
  let ts := List.zipWith lgTerm a b
  if ts.any Option.isNone then nan32
  else
    let sum := ts.foldl (fun (n : Int) t => n + t.getD 0) 0
    to32 (.fin (decide (sum < 0)) sum.natAbs (sc - 24))

/-- add (R296): FP32 on the floating and logarithmic paths, modulo 2^32 on the integer path. -/
def CubePath.add (path : CubePath) (a b : W32) : W32 :=
  match path with
  | .int => a + b
  | _ => to32 ((val32 a).add (val32 b))

/-- A k-step of one layer: A's codes by row, B's codes by column. -/
structure KStep where
  a : List (List Nat)
  b : List (List Nat)
deriving DecidableEq, Repr

/-- A column's factors; for TRN its codes are digits, trit + 1. -/
def columnFactors (fmt : Nat) (codes : List Nat) : List Val :=
  codes.map fun (x : Nat) => if fmt = 8 then valInt ((x : Int) - 1) 0 else fmtVal fmt x

/-- The k-step sums of the written elements, row by row (R293, R294). -/
def CubeOp.stepSums (o : CubeOp) (k : KStep) : List W32 :=
  match o.path with
  | .log => k.a.flatMap fun ra => k.b.map fun cb => logStep o.scale ra cb
  | path =>
    let bs := k.b.map (columnFactors o.bfmt)
    k.a.flatMap fun ra =>
      let av := factors o.afmt ra
      bs.map fun bv => if path = .int then intStep (products av bv) else floatStep o.window o.scale (products av bv)

/-- The exact products' sum of one k-step for each written element (R299). -/
def CubeOp.exactSums (o : CubeOp) (k : KStep) : List Exact :=
  let bs := k.b.map (columnFactors o.bfmt)
  match o.path with
  | .log => k.a.flatMap fun ra => k.b.map fun cb =>
      (List.zipWith lgTerm ra cb).foldl (fun x t => x.add (match t with
        | none => .nan
        | some n => valInt n (o.scale - 24))) Exact.zero
  | _ => k.a.flatMap fun ra =>
      let av := factors o.afmt ra
      bs.map fun bv => (products av bv).foldl (fun x v => x.add (v.mul (.fin false 1 o.scale))) Exact.zero

/-- The wave sum S of each written element, the highest layer first (R296). -/
def CubeOp.waveSums (o : CubeOp) : List KStep → List W32
  | [] => []
  | k :: ks => ks.foldl (fun acc x => List.zipWith o.path.add acc (o.stepSums x)) (o.stepSums k)

/-- add0 of an exact sum (R299). -/
def CubePath.round0 (path : CubePath) (x : Exact) : W32 :=
  match path with
  | .int => ofInt32 (x.m * 2 ^ x.e.toNat)
  | _ => to32 x.val

/-- The column sums of a wave's exact element sums, added to those so far (R299). -/
def addColSums (rows : Nat) (cs : List Exact) (xs : List Exact) : List Exact :=
  cs.mapIdx fun n c => (List.range rows).foldl (fun c m => c.merge (xs.getD (64 * m + n) Exact.zero)) c

/-- The row sums of a wave's exact element sums, added to those so far (R299). -/
def addRowSums (rs : List Exact) (xs : List Exact) : List Exact :=
  rs.mapIdx fun m r => ((xs.drop (64 * m)).take 64).foldl Exact.merge r

/-! ### B slots and A blocks -/

/-- The slot's codes by column n, 64 rows k each; a slot whose tag does not fit, and a poisoned row, give zeros (R289,
R354). For TRN the digit trit + 1. -/
def BSlot.columns (b : BSlot) (bfmt : Nat) : List (List Nat) :=
  if b.tag ≠ tagOf bfmt then List.replicate 64 (List.replicate 64 (if bfmt = 8 then 1 else 0))
  else (List.range 64).map fun n => (List.range 64).map fun k =>
    let code := codeAt bfmt (fun i => if b.badRows.contains k then 0 else Mem.read b.data i) k n
    if bfmt = 8 then ((trnDecode code).getD (n % 5) 0 + 1).toNat else code

/-- A B slot from an image: reserved TRN bytes become zeros (R289), rows of poisoned sectors are marked (R354). -/
def BSlot.ofImage (sw : Nat) (image : List Byte) (bad : List Nat) : BSlot :=
  let clean := image.mapIdx fun i (x : Byte) => if sw = 2 && decide (i % 16 < 13) && trnReserved x.toNat then 0x79 else x
  { tag := tagOfSw sw
    data := Mem.writeN [] 0 clean
    badRows := (List.range 64).filter fun k =>
      (sectorsOf (imageRow sw * k) (imageRow sw)).any bad.contains }

/-- Whether a TRN image holds a reserved byte (R289). -/
def imageReserved (sw : Nat) (image : List Byte) : Bool :=
  sw = 2 && (image.mapIdx fun i (x : Byte) => decide (i % 16 < 13) && trnReserved x.toNat).any id

/-- The A codes of a block by row (R288). -/
def blockCodes (afmt rows : Nat) (block : List Byte) : List (List Nat) :=
  matrixCodes afmt rows fun i => at0 block i

end Sys2Proof.Machine
end

