-- ==== Sys2Proof/Machine/Cube.lean ====
section
/-! DEFINITION. The C slot and the pillar's cube engine (R287-R307, R360): its instructions, and the events of its
queue: items start, waves start and land, operations complete, chain blocks arrive. -/

namespace Sys2Proof.Machine

/-! ### The queue -/

/-- An operation's work has ended: every wave has had its ic (R297). -/
def CubeItem.workEnded (c : CubeItem) (ic : Nat) : Bool :=
  match c.kind with
  | .op o => c.started && !o.park && decide (o.nw ≤ o.next) && decide (o.waveAt ≤ ic)
  | _ => false

/-- The item at the head of the engine: the first whose work has not ended (R296). -/
def Pillar.cubeHead (P : Pillar) : Option CubeItem := P.cube.find? fun c => !c.workEnded P.ic

/-- An item of the queue by sequencer and record. -/
def Pillar.cubeItem? (P : Pillar) (q i : Nat) : Option CubeItem := P.cube.find? fun c => c.q = q && c.record = i

/-- One item of a pillar's queue changed. -/
def State.onCube (s : State) (p q i : Nat) (f : CubeItem → CubeItem) : State :=
  s.onPillar p fun P => { P with cube := P.cube.map fun c => if c.q = q && c.record = i then f c else c }

/-- One operation of the queue changed. -/
def State.onOp (s : State) (p q i : Nat) (f : CubeOp → CubeOp) : State :=
  s.onCube p q i fun c => match c.kind with
    | .op o => { c with kind := .op (f o) }
    | _ => c

/-- One accumulator of a sequencer changed. -/
def State.onAcc (s : State) (p q a : Nat) (f : Acc → Acc) : State :=
  s.onSeq p q fun x => { x with accs := upd x.accs a f }

/-- A C-slot item formed by the current syllable: its record and its place in the queue (R160, R296). -/
def State.enqueueCube (s : State) (opa opb : W64) (work : Nat) (kind : Nat → CubeKind) : State :=
  let i := s.me.freeRec
  (s.formRec opa opb .cube).onMine fun P => { P with cube := P.cube ++ [⟨s.cur.q, i, P.ic, false, work, kind i⟩] }

/-! ### Checks at issue -/

/-- Source values with mq read as the head of the queue, before the pop. -/
def State.peekMq (s : State) : State :=
  { s with cur := { s.cur with mq := match s.cur.mq with
      | some v => some v
      | none => s.mine.mq.head?.map Prod.fst } }

/-- Whether a layer mask names an absent layer (R13, R142). -/
def State.layerAbsent (s : State) (l : BitVec 4) : Bool := bits s.myStack.layers 0 4 &&& l.toNat ≠ l.toNat

/-- FSTATE with WHY 2 and FRAME 0 (R303, R304). -/
def State.fstateTwo (s : State) : State := s.raise (cause cFstate (fstateInfo 0 (s.frame s.cur.p 0).state 2))

/-- FSTATE with WHY 5 for a frame that cannot be read (R303, R304). -/
def State.fstateFive (s : State) (f : Nat) : State :=
  s.raise (cause cFstate (fstateInfo f (s.frame s.cur.p f).state 5))

/-- Whether a frame is EMPTY or FILLING. -/
def Frame.unreadable (F : Frame) : Bool := F.state = .empty || F.state = .filling

/-! ### CSET, CFMT, CBLD, CBLDF -/

/-- CSET (R291). -/
def execCset (g : Guard) (gr : BitVec 3) (a b : BitVec 5) (s : State) : Outcome :=
  s.guarded g [a, b] fun s =>
    let v := ((s.src b).extractLsb' 0 32 ++ (s.src a).extractLsb' 0 32 : BitVec 64)
    (s.onMe fun x => { x with geos := upd x.geos gr.toNat fun _ => v }).enqueueCube (s.src a) (s.src b) 1 fun _ => .idle

/-- Whether a format entry is set and meets R31. -/
def entryOk (v : W32) : Bool :=
  [1, 2, 5, 6, 7, 8].contains (bits v 0 4) && [1, 2, 4, 5, 6, 7, 8].contains (bits v 4 4) && bits v 28 4 = 0

/-- CFMT (R291). -/
def execCfmt (g : Guard) (gr : BitVec 4) (a : BitVec 5) (s : State) : Outcome :=
  s.guarded g [a] fun s =>
    let v := (s.src a).extractLsb' 0 32
    (s.onMe fun x => { x with fts := upd x.fts gr.toNat fun _ => if entryOk v then v else 0 }).enqueueCube
      (s.src a) 0 1 fun _ => .idle

/-- CBLD (R303). -/
def execCbld (g : Guard) (sl : BitVec 5) (l : BitVec 4) (a b : BitVec 5) (s : State) : Outcome :=
  s.guarded g [a, b] fun s =>
    let off := (s.src a).toNat
    let sw := bits (s.src b) 0 2
    if s.layerAbsent l then s.raise (cause cLayer 0)
    else if bits (s.src b) 2 62 ≠ 0 ∨ sw = 3 ∨ off % 1024 ≠ 0 ∨ 2147483648 < off + imageBytes sw then s.fstateTwo
    else s.enqueueCube (s.src a) (s.src b) 16 fun _ => .load sl.toNat l sw (some off) [] []

/-- CBLDF (R128, R303): the image is read from the frame at issue, as it was before its long word's M slot. -/
def execCbldf (g : Guard) (sl : BitVec 5) (l : BitVec 4) (a b : BitVec 5) (s : State) : Outcome :=
  s.guarded g [a, b] fun s =>
    let x := s.src a
    let sw := bits (s.src b) 0 2
    let f := frameNo x
    let off := bits x 0 22
    let F := s.foundFrame s.cur.p f
    if s.layerAbsent l then s.raise (cause cLayer 0)
    else if bits (s.src b) 2 62 ≠ 0 ∨ sw = 3 then s.fstateTwo
    else if bits x 28 36 ≠ 0 then s.raise (cause cAddr x)
    else if off % 64 ≠ 0 ∨ F.bytes < off + imageBytes sw then s.raise (cause cAddr (faddr f off))
    else if F.xp then s.raise (cause cStale (faddr f off))
    else if F.unreadable then s.fstateFive f
    else s.enqueueCube x (s.src b) 16 fun _ => .load sl.toNat l sw none (F.readN off (imageBytes sw))
      (((sectorsOf off (imageBytes sw)).filter F.poison.contains).map (· - off / 32))

/-! ### Operations -/

/-- Where an operation takes A from, as its instruction says. -/
inductive AForm where
  | frame (a : BitVec 5)
  | hold
  | handle (a : BitVec 5)
  | chain
deriving DecidableEq, Repr

/-- The source codes an operation reads. -/
def AForm.codes : AForm → List (BitVec 5)
  | .frame a | .handle a => [a]
  | _ => []

/-- The geometry register a control word selects (R292). -/
def State.geoOf (s : State) (ctl : W64) : W64 := at0 s.me.geos (bits ctl 0 3)

/-- The format entry of an operation: FTI's, or for CMMAT the loop index's (R304). -/
def State.entryOf (s : State) (geo : W64) (byLoop : Bool) : W32 :=
  at0 s.me.fts (if byLoop then (match s.me.loops[bits geo 12 3]? with
    | some e => bits e.index 0 4
    | none => 0) else bits geo 8 4)

/-- A handle's fit to an operation's format and plane (R273, R304). -/
def handleFits (h : Option Handle) (fmt : W32) (pl : Nat) : Bool :=
  match h with
  | some h => h.width = fmtBytes (bits fmt 0 4) && (pl = 0 || 2 < h.nd)
  | none => true

/-- The limits of the geometry and control words (R304 check 3). -/
def controlOk (geo ctl : W64) (isHandle : Bool) : Bool :=
  1 ≤ bits geo 0 6 && bits geo 0 6 ≤ 32 && !bit geo 7 && !bit geo 15 && bits geo 38 26 = 0 && bits ctl 44 20 = 0 &&
    bits geo 12 3 < 6 && bits geo 16 22 % 64 = 0 && (isHandle || bits ctl 8 36 = 0)

/-- The bound register in force for an operation at its issue: the entry's, else the tile's attachment with the CBNDs
still queued before it (R304, R305, R360). -/
def State.boundFor (s : State) (fmt : W32) (acc : Nat) : Option (Nat × W64) :=
  let attached := s.mine.cube.foldl (fun b c => match c.kind with
    | .bind a w => if c.q = s.cur.q ∧ a = acc then (if bit w 3 then some (bits w 0 3) else none) else b
    | _ => b) (s.me.accs.getD acc Acc.zero).bound
  (if bit fmt 27 then some (bits fmt 24 3) else attached).map fun n => (n, at0 s.me.bnds n)

/-- An operation as it stands at issue (R304). -/
def State.newOp (s : State) (acc : Nat) (geo : W64) (fmt : W32) (mask : BitVec 4) (src : ASource) (ctl : W64)
    (xc east role : Bool) (i : Nat) : CubeOp where
  record := i
  acc := acc
  geo := geo
  fmt := fmt
  bound := s.boundFor fmt acc
  mask := mask
  src := src
  sb := bits ctl 3 5
  xc := xc
  east := east && s.cur.p % 8 ≠ 7
  sent := 0
  next := 0
  waveAt := 0
  waves := []
  cols := List.replicate 64 Exact.zero
  rows := List.replicate 16 Exact.zero
  fmtErr := false
  park := false
  role := role
  waitSince := none

/-- A frame form's last byte, past which its blocks reach (R288, R304). -/
def blocksEnd (geo : W64) (fmt : W32) (off : Nat) : Nat :=
  off + bits geo 16 22 * (bits geo 0 6 - 1) + blockBytes (bits fmt 0 4)

/-- An operation accepted: AC busy, PROG 0, its record, its read role (R97, R304). -/
def State.acceptOp (s : State) (acc : Nat) (mask : BitVec 4) (geo : W64) (fmt : W32) (src : ASource) (opa ctl : W64)
    (xc east : Bool) : State :=
  let frame := match src with
    | .frame f _ _ => some f
    | _ => none
  let o := s.newOp acc geo fmt mask src ctl xc east frame.isSome
  let s := match frame with
    | some f => s.onFrame s.cur.p f Frame.takeRole
    | none => s
  (s.onAcc s.cur.p s.cur.q acc fun a => { a with busy := true, prog := 0, park := false, nw := (o 0).nw }).enqueueCube
    opa ctl 0 fun i => .op (o i)

/-- The checks of R304 in order, and the operation. -/
def State.operate (s : State) (acc : BitVec 3) (form : AForm) (b : BitVec 5) (l : BitVec 4) (xc east : BitVec 1)
    (byLoop : Bool) : State :=
  let ctl := s.src b
  let geo := s.geoOf ctl
  let fmt := s.entryOf geo byLoop
  let go := fun (src : ASource) (opa : W64) => s.acceptOp acc.toNat l geo fmt src opa ctl (xc = 1) (east = 1)
  if s.layerAbsent l then s.raise (cause cLayer 0)
  else
    match form with
    | .frame a =>
      let x := s.src a
      if !controlOk geo ctl false then s.fstateTwo
      else if bits x 28 36 ≠ 0 then s.raise (cause cAddr x)
      else
        let F := s.frame s.cur.p (frameNo x)
        if F.bytes < blocksEnd geo fmt (bits x 0 22) then s.raise (cause cAddr x)
        else if F.unreadable then s.fstateFive (frameNo x)
        else go (.frame (frameNo x) (bits x 0 22) (bits geo 16 22)) x
    | .hold => if controlOk geo ctl false then go .rowBuffer 0 else s.fstateTwo
    | .chain => if controlOk geo ctl false then go .chain 0 else s.fstateTwo
    | .handle a =>
      let h := s.handleOf (stackOf s.cur.p) (s.src a)
      if controlOk geo ctl true && handleFits h fmt (bits ctl 36 8) then
        go (match h with
          | some h => .handle h (bits ctl 8 14) (bits ctl 22 14) (bits ctl 36 8)
          | none => .noHandle) (s.src a)
      else s.fstateTwo

/-- An operation's syllable: an unset format entry raises ILLEGAL, reason 8, whatever the guard (R149, R304). -/
def State.cubeSyllable (s : State) (g : Guard) (acc : BitVec 3) (form : AForm) (b : BitVec 5) (l : BitVec 4)
    (xc east : BitVec 1) (byLoop : Bool) : Outcome :=
  let v := s.peekMq
  if bits (v.entryOf (v.geoOf (v.src b)) byLoop) 0 4 = 0 then .next (s.raise (cause cIllegal (s.sylInfo 8)))
  else s.guarded g (form.codes ++ [b]) fun s => s.operate acc form b l xc east byLoop

/-- CMMA (R304). -/
def execCmma (g : Guard) (c : BitVec 3) (a b : BitVec 5) (l : BitVec 4) (x h e : BitVec 1) (s : State) : Outcome :=
  s.cubeSyllable g c (if h = 1 then .hold else .frame a) b l x e false

/-- CMMAT (R304): the entry by loop index. -/
def execCmmat (g : Guard) (c : BitVec 3) (a b : BitVec 5) (l : BitVec 4) (x h e : BitVec 1) (s : State) : Outcome :=
  s.cubeSyllable g c (if h = 1 then .hold else .frame a) b l x e true

/-- CMMAH (R304): A from a tensor. -/
def execCmmah (g : Guard) (c : BitVec 3) (a b : BitVec 5) (l : BitVec 4) (x e : BitVec 1) (s : State) : Outcome :=
  s.cubeSyllable g c (.handle a) b l x e false

/-- CCHAIN (R301, R304). -/
def execCchain (g : Guard) (c : BitVec 3) (b : BitVec 5) (l : BitVec 4) (x e : BitVec 1) (s : State) : Outcome :=
  s.cubeSyllable g c .chain b l x e false

/-! ### The other accumulator instructions (R305) -/

/-- CZERO (R305): it sets the busy bit, and keeps PROG and NW, of which R305 says nothing (R97, log 92). -/
def execCzero (g : Guard) (c : BitVec 3) (x : BitVec 1) (s : State) : Outcome :=
  s.guarded g [] fun s =>
    (s.onAcc s.cur.p s.cur.q c.toNat fun a => { a with busy := true }).enqueueCube 0 0 2 fun _ => .zero c.toNat (x = 1)

/-- CWAIT: nothing but its hold (R155, R305). -/
def execCwait (_g : Guard) (_c : BitVec 3) (s : State) : Outcome := .next s

/-- The word CPROG pushes (R305). -/
def Acc.progWord (a : Acc) : W64 := field a.prog 0 32 ||| asBit a.busy 32 ||| asBit a.park 33 ||| field a.nw 34 8

/-- CPROG (R305). -/
def execCprog (g : Guard) (c : BitVec 3) (s : State) : Outcome :=
  s.guarded g [] fun s => s.result 4 (.push (s.acc c).progWord)

/-- CABORT: acts in the next ic (R305). -/
def execCabort (g : Guard) (c : BitVec 3) (s : State) : Outcome :=
  s.guarded g [] fun s => s.onMe fun x => { x with aborts := x.aborts ++ [(s.mine.ic + 1, c.toNat)] }

/-- CBND (R305): it leaves the busy bit, PROG and NW, of which R305 says nothing (R97, log 92). -/
def execCbnd (g : Guard) (c : BitVec 3) (a : BitVec 5) (s : State) : Outcome :=
  s.guarded g [a] fun s => s.enqueueCube (s.src a) 0 1 fun _ => .bind c.toNat (s.src a)

/-- A CABORT acts (R305): the tile's operation not yet complete is removed with its record. -/
def State.abortAcc (s : State) (p q acc : Nat) : State :=
  match (s.pillar p).cube.find? fun c => c.q = q && (match c.kind with
      | .op o => o.acc = acc
      | .zero a _ => a = acc
      | _ => false) with
  | some c => (s.removeCube p q c.record).endRec p q c.record
  | none => s

/-- The CABORTs due in a sequencer's ic (R305). -/
def State.runAborts (s : State) (p q : Nat) : State :=
  let t := (s.pillar p).ic
  ((s.seq p q).aborts.filter fun a => a.1 ≤ t).foldl (fun s a => s.abortAcc p q a.2)
    (s.onSeq p q fun x => { x with aborts := x.aborts.filter fun a => t < a.1 })

/-! ### Waves -/

/-- The bytes of a block that an operation reads (R288). -/
def CubeOp.readBytes (o : CubeOp) : Nat := blockBytes o.afmt * o.rows_ / 16

/-- A block's bytes, and the groups of 8 bytes in which an error was found, as bits (R362). -/
abbrev MarkedBlock := List Byte × Nat

/-- A block as it is read: the bytes of a group in error are 0 (R354, log 77). -/
def MarkedBlock.clean (b : MarkedBlock) : List Byte := b.1.mapIdx fun i x => if b.2.testBit (i / 8) then 0 else x

/-- The marks of a block after its first n bytes are written with others. -/
def marksOver (n new old : Nat) : Nat := new % 2 ^ (n / 8) + old / 2 ^ (n / 8) * 2 ^ (n / 8)

/-- The first n bytes of block j of the row buffer, with their marks. -/
def Pillar.rowBlock (P : Pillar) (j n : Nat) : MarkedBlock :=
  (Mem.readN (P.rowBuf.getD j []) 0 n, P.rowBad.getD j 0 % 2 ^ (n / 8))

/-- The first n bytes of a row-buffer block once a chain block has been written into it: what the chain block does not
bring is what the buffer held (R288, R301). -/
def MarkedBlock.over (new old : MarkedBlock) (n : Nat) : MarkedBlock :=
  (new.1.take n ++ old.1.drop new.1.length, marksOver (min n new.1.length) new.2 old.2)

/-- A fault met by a wave's reads: the cause and its information. -/
abbrev WaveFault := Nat × W64

/-- A block with more bytes, their groups marked when their source was (R354, R363). -/
def MarkedBlock.grown (b : MarkedBlock) (bs : List Byte) (bad : Bool) : MarkedBlock :=
  (b.1 ++ bs, if bad then b.2 ||| 2 ^ (b.1.length / 8) else b.2)

/-- A tensor block as an operation of a given order reads it, marked where its source is, the failing accesses'
virtual addresses, causes and information gathered on the way (R39, R292, R363, R395); poison on the way is consumed
(R355). -/
def State.tensorBlock (s : State) (p q order : Nat) (h : Handle) (xs : List (Option Nat)) :
    State × MarkedBlock × List (Nat × WaveFault) :=
  xs.foldl (fun acc x =>
    match x with
    | none => (acc.1, acc.2.1.grown h.padBytes false, acc.2.2)
    | some va =>
      match acc.1.translate (stackOf p) (acc.1.jobOf p q) va .read with
      | (s, .ok pa _) =>
        let bad := s.readBad p q order va pa h.width
        (if bad then s.onSeq p q fun x => x.poisonAsync 1 else s,
          acc.2.1.grown (s.readFor p q order va pa h.width) bad, acc.2.2)
      | (s, .bad c i) => (s, acc.2.1, acc.2.2 ++ [(va, c, i)])) (s, ([], 0), [])

/-- A block read from a frame, marked where its sectors are (R354, R363). -/
def Frame.markedBlock (F : Frame) (off n : Nat) : MarkedBlock :=
  (F.readN off n, ((List.range (n / 8)).map fun g => if F.isPoisoned (off + 8 * g) 8 then 2 ^ g else 0).foldl (· + ·) 0)

/-- The failing access with the lowest virtual address (R395). -/
def lowestFault (fs : List (Nat × WaveFault)) : Option (Nat × WaveFault) :=
  fs.foldl (fun b f => match b with
    | none => some f
    | some g => if f.1 < g.1 then some f else some g) none

/-- The issue order of a record of a sequencer. -/
def State.orderOf (s : State) (p q i : Nat) : Nat := ((s.rec? p q i).map fun r => r.order).getD 0

/-- The A blocks of a wave, one for each layer and k-step, or the fault that its reads meet (R297, R301, R304,
R306). -/
def State.waveBlocks (s : State) (p q : Nat) (o : CubeOp) : State × Except WaveFault (List MarkedBlock) :=
  let js := (o.stepsAt o.next).map Prod.snd
  let n := o.readBytes
  match o.src with
  | .rowBuffer => (s, .ok (js.map fun j => (s.pillar p).rowBlock j n))
  | .frame f off stride =>
    let F := s.frame p f
    if F.unreadable then (s, .error (cFstate, fstateInfo f F.state 5))
    else if F.xp then (s, .error (cStale, field (off + stride * js.headD 0) 0 22 ||| field f 22 6))
    else
      let s := if js.any fun j => F.isPoisoned (off + stride * j) n then s.onSeq p q fun x => x.poisonAsync 2 else s
      (s, .ok (js.map fun j => F.markedBlock (off + stride * j) n))
  | .chain =>
    (s, .ok (List.zipWith (fun j (b : MarkedBlock) => b.over ((s.pillar p).rowBlock j n) n) js (s.pillar p).chainQ))
  | .handle h t0 t1 pl =>
    let r := js.foldl (fun (acc : State × List MarkedBlock × List (Nat × WaveFault)) j =>
      let (s, b, fs) := acc.1.tensorBlock p q (acc.1.orderOf p q o.record) h (blockElems h o.afmt t0 t1 pl o.rows_ j)
      (s, acc.2.1 ++ [b], acc.2.2 ++ fs)) (s, [], [])
    match lowestFault r.2.2 with
    | some f => (r.1, .error f.2)
    | none => (r.1, .ok r.2.1)
  | .noHandle =>
    let (c, s) := s.choose
    (s, .error (cXlate, BitVec.ofNat 64 c))

/-- Whether a logical layer has failed while the part ran (R13). -/
def Stack.layerFailed (k : Stack) (l : Nat) : Bool :=
  let phys := bits k.layers (4 + 3 * l) 3
  decide (phys < 5) && bit k.lfail phys

/-- The park is complete: the fault is recorded, PARK set (R306, R396). -/
def State.parkDone (s : State) (p q i acc : Nat) : State :=
  match s.rec? p q i with
  | some r => ((s.onRec p q i fun r => { r with parked := true }).onAcc p q acc fun a => { a with park := true }).faultRec
      p q i r.cause r.finfo
  | none => s

/-- A wave's fault parks its operation, at once when no wave's update is on its way, else when the last one lands
(R306). -/
def State.parkWave (s : State) (p q i : Nat) (o : CubeOp) (f : WaveFault) : State :=
  let s := (s.onOp p q i fun o => { o with park := true, waitSince := none }).onRec p q i fun r =>
    { r with cause := f.1, finfo := f.2 }
  if o.waves.isEmpty then s.parkDone p q i o.acc else s

/-- The row buffer takes the blocks a loading operation reads (R288). -/
def State.loadRows (s : State) (p : Nat) (o : CubeOp) (blocks : List MarkedBlock) : State :=
  match o.src with
  | .rowBuffer => s
  | _ => ((o.stepsAt o.next).zip blocks).foldl (fun s x =>
      s.onPillar p fun P => { P with
        rowBuf := upd P.rowBuf x.1.2 fun m => Mem.writeN m 0 x.2.1
        rowBad := upd P.rowBad x.1.2 fun m => marksOver x.2.1.length x.2.2 m }) s

/-- The blocks that a wave takes from its chain queue, as they arrived (R301). -/
def State.chainTaken (s : State) (p : Nat) (o : CubeOp) : List MarkedBlock :=
  if o.src = .chain then (s.pillar p).chainQ.take (o.stepsAt o.next).length else []

/-- The blocks of a wave sent east, in k-step order, those of a chain as they arrived (R301); those of a wave run
again have gone. -/
def State.sendEast (s : State) (p : Nat) (o : CubeOp) (blocks : List MarkedBlock) : State :=
  if o.east && decide (o.sent ≤ o.next) then
    { s with agenda := blocks.map (fun b => Act.event .chainBlockArrive { p := p + 1, bytes := b.1, v := b.2 }) ++ s.agenda }
  else s

/-- The slots a wave of an operation reads. -/
def Pillar.slotsOf (P : Pillar) (o : CubeOp) (w : Nat) : List BSlot :=
  (o.stepsAt w).map fun lj => ((P.bslots.getD lj.1 []).getD ((o.sb + lj.2) % 32) BSlot.zero)

/-- The k-steps of a wave: its blocks' and its slots' codes. -/
def CubeOp.kSteps (o : CubeOp) (blocks : List (List Byte)) (slots : List BSlot) : List KStep :=
  List.zipWith (fun b t => (⟨blockCodes o.afmt o.rows_ b, t.columns o.bfmt⟩ : KStep)) blocks slots

/-- A wave's part of the column and of the row checksums (R299). -/
def CubeOp.checks (o : CubeOp) (ks : List KStep) : List Exact × List Exact :=
  let ex := if o.xc then ks.map o.exactSums else []
  (ex.foldl (addColSums o.rows_) (List.replicate 64 Exact.zero), ex.foldl addRowSums (List.replicate 16 Exact.zero))

/-- Whether an operation's blocks come from the row buffer or the chain queue, whose marks its waves consume; those of
a frame or a tensor are consumed as they are read (R355, R362). -/
def ASource.onHand : ASource → Bool
  | .rowBuffer | .chain => true
  | _ => false

/-- A wave reads its blocks and slots and is on its way (R296-R301, R354, R355). -/
def State.runWave (s : State) (p q i : Nat) (o : CubeOp) (read : List MarkedBlock) : State :=
  let slots := (s.pillar p).slotsOf o o.next
  let blocks := read.map MarkedBlock.clean
  let ks := o.kSteps blocks slots
  let t := (s.pillar p).ic
  let last := decide (o.nw ≤ o.next + 1)
  let taken := s.chainTaken p o
  let s := (s.loadRows p o read).sendEast p o (if o.src = .chain then taken else read)
  let s := s.onPillar p fun P => { P with chainQ := P.chainQ.drop taken.length }
  let s := if o.src.onHand && read.any (fun b => b.2 ≠ 0) then s.onSeq p q fun x => x.poisonAsync 8 else s
  let s := if o.afmt = 8 ∧ blocks.any (fun b => blockReserved o.rows_ fun n => at0 b n) then
    s.onSeq p q fun x => x.setFmt else s
  let s := if slots.any (fun b => !b.badRows.isEmpty) then s.onSeq p q fun x => x.poisonAsync 4 else s
  let s := match o.src with
    | .frame f _ _ => if last && o.role then s.onFrame p f Frame.dropRole else s
    | _ => s
  s.onOp p q i fun o =>
    let chk := o.checks ks
    { o with
      next := o.next + 1
      sent := max o.sent (o.next + 1)
      waveAt := t + o.waveLen
      waves := o.waves ++ [⟨o.next, t + o.waveLen + 3, o.waveSums ks, chk.1, chk.2, taken⟩]
      fmtErr := o.fmtErr || slots.any fun b => b.tag ≠ tagOf o.bfmt
      role := o.role && !last
      waitSince := none }

/-- Whether a page that a wave is to read lies in an HBM stack in self-refresh (R286). -/
def State.waveInRefresh (s : State) (p q : Nat) (o : CubeOp) : Bool :=
  (o.waveReads o.next).any fun a => (s.refreshPage p q a).isSome

/-- CUBE_WAVE_START (R297, R301, R306): of the operation at the head of pillar `who.p`'s engine. Of several layers
of the wave that have failed the UE names the highest, which the rules leave open (R13, log 91). A fault that the
host may serve waits for its answer, but not that of a handle operand which breaks R42 (R349). Whether reads of an
HBM stack in self-refresh hit in the memory-side cache is the part's choice in each ic (R286). -/
def execCubeWaveStart (s : State) : Outcome :=
  let p := s.who.p
  .next (match (s.pillar p).cubeHead with
    | some c =>
      match c.kind with
      | .op o =>
        let hit : Nat × State := if s.waveInRefresh p c.q o then s.choose else (1, s)
        let s := hit.2
        if hit.1 % 2 = 0 then s.onOp p c.q c.record fun o => { o with waveAt := (s.pillar p).ic + 1 } else
        match (o.stepsAt o.next).find? fun lj => (s.stack (stackOf p)).layerFailed lj.1 with
        | some lj =>
          let info := poisonInfo 11 lj.1 0
          (s.sufferUe p info).parkWave p c.q c.record o (cUe, info)
        | none =>
          match s.waveBlocks p c.q o with
          | (s, .ok blocks) => s.runWave p c.q c.record o blocks
          | (s, .error f) =>
            if o.src = .noHandle then s.parkWave p c.q c.record o f else
            match s.hostAsk p c.q c.record f.1 f.2 with
            | (s, true) => s
            | (s, false) => s.parkWave p c.q c.record o f
      | _ => s
    | none => s)

/-- The layers that run ballast in a wave: the present partner of a layer that works while its partner does not
(R298). -/
def CubeOp.ballast (o : CubeOp) (w : Nat) (en : Nat) : List Nat :=
  let work := (o.stepsAt w).map Prod.fst
  (List.range 4).filter fun l => !work.contains l && work.contains (l ^^^ 1) && en.testBit l

/-- Ballast counted (R369). -/
def Stack.addBallast (k : Stack) (ls : List Nat) (n : Nat) : Stack :=
  { k with ballast := ls.foldl (fun (b : W64) l => setBits b (16 * l) 16 (bits b (16 * l) 16 + n)) k.ballast }

/-- The wave sums added to the written elements (R296). -/
def CubeOp.addWave (o : CubeOp) (elems : VReg) (sums : List W32) : VReg :=
  List.zipWith o.path.add (elems.take sums.length) sums ++ elems.drop sums.length

/-- The checksums added to the side-area (R299). -/
def CubeOp.addSide (o : CubeOp) (side : List W32) : List W32 :=
  side.mapIdx fun i x =>
    if i < 64 then o.path.add x (o.path.round0 (o.cols.getD i Exact.zero))
    else if i < 64 + o.rows_ then o.path.add x (o.path.round0 (o.rows.getD (i - 64) Exact.zero))
    else x

/-- The checksums with a wave's part added (R299). -/
def CubeOp.withChecks (o : CubeOp) (w : Wave) : CubeOp :=
  { o with cols := List.zipWith Exact.merge o.cols w.cols, rows := List.zipWith Exact.merge o.rows w.rows }

/-- One wave's update lands (R296-R299, R369). -/
def State.landWave (s : State) (p q i : Nat) (o : CubeOp) (w : Wave) : State :=
  let o := o.withChecks w
  let s := s.onAcc p q o.acc fun a => { a with
    elems := o.addWave a.elems w.sums
    prog := w.w + 1
    side := if o.xc && decide (o.nw ≤ w.w + 1) then o.addSide a.side else a.side }
  let s := (s.onRec p q i fun r => { r with progress := w.w + 1 }).onStack (stackOf p) fun k =>
    k.addBallast (o.ballast w.w (bits k.layers 0 4)) o.cycles
  let s := s.onOp p q i fun o => { o.withChecks w with waves := o.waves.tail }
  if o.park && o.waves.length ≤ 1 then s.parkDone p q i o.acc else s

/-- The first operation of a pillar with a wave due to land. -/
def Pillar.landing (P : Pillar) : Option (CubeItem × CubeOp × Wave) :=
  P.cube.findSome? fun c => match c.kind with
    | .op o => (match o.waves with
      | w :: _ => if w.land ≤ P.ic then some (c, o, w) else none
      | [] => none)
    | _ => none

/-- CUBE_WAVE_LAND (R296, R297): the wave due in pillar `who.p`. -/
def execCubeWaveLand (s : State) : Outcome :=
  let p := s.who.p
  .next (match (s.pillar p).landing with
    | some (c, o, w) => s.landWave p c.q c.record o w
    | none => s)

/-- CUBE_OP_START (R297): the item at the head of pillar `who.p`'s engine starts in this ic. -/
def execCubeOpStart (s : State) : Outcome :=
  let p := s.who.p
  .next (match (s.pillar p).cubeHead with
    | some c => s.onCube p c.q c.record fun c => { c with
        started := true
        kind := match c.kind with
          | .op o => .op { o with waveAt := (s.pillar p).ic }
          | k => k }
    | none => s)

/-! ### Completion -/

/-- Whether an element breaks a bound, and what a clamp makes of it (R360); FP32 less is false with a NaN (R209). -/
def outOfBound (isInt : Bool) (lo hi x : W32) : Bool × W32 :=
  let nan := fun (v : W32) => !isInt && isNan32 v
  let k := fun (v : W32) => if isInt then v.toInt else num32 v
  let less := fun (a b : W32) => !nan a && !nan b && decide (k a < k b)
  let bad := nan x || less x lo || less hi x
  let above := less hi x && !less hi lo
  (bad, if bad then (if above then hi else lo) else x)

/-- The bound check of a completed operation (R360): the elements, the `CHKINT` bits, the BOUND fault's FINFO. -/
def CubeOp.boundCheck (o : CubeOp) (elems : VReg) : VReg × W64 × Option W64 :=
  match o.bound with
  | none => (elems, 0, none)
  | some (n, v) =>
    let act := bits v 60 2
    if act = 0 then (elems, 0, none)
    else if (o.path = .int) ≠ bit v 62 then (elems, 2, none)
    else
      let lo := BitVec.ofNat 32 (bits v 0 30 * 4)
      let hi := BitVec.ofNat 32 (bits v 30 30 * 4)
      let written := elems.take (64 * o.rows_)
      let test := fun x => outOfBound (bit v 62) lo hi x
      match written.findIdx? fun x => (test x).1 with
      | none => (elems, 0, none)
      | some at_ =>
        if act = 1 then (elems, 8, none)
        else if act = 2 then (written.map (fun x => (test x).2) ++ elems.drop (64 * o.rows_), 16, none)
        else (elems, 0, some (field at_ 0 10 ||| field n 10 3))

/-- A completed item leaves the queue; its work's end counts for the next one (R297). -/
def State.dropItem (s : State) (p : Nat) (c : CubeItem) : State :=
  s.onPillar p fun P => { P with
    cube := P.cube.filter fun d => !(d.q = c.q && d.record = c.record)
    cubeFree := max P.cubeFree (match c.kind with
      | .op o => o.waveAt
      | _ => P.ic) }

/-- The R356 word of a row of a B slot. -/
def slotWord (l slot row : Nat) : W64 := poisonInfo 4 l (field slot 0 5 ||| field row 5 6).toNat

/-- A load writes its slot in every layer of its mask; the marks it copies are reported (R289, R303, R354, R392; log
90). -/
def State.loadSlots (s : State) (p q slot : Nat) (mask : BitVec 4) (sw : Nat) (offset : Option Nat) (image : List Byte)
    (bad : List Nat) : State :=
  (layersOf mask).foldl (fun s l =>
    let pa := 0x6000000000 + 0x200000000 * stackOf p + 0x80000000 * l + offset.getD 0
    let img := if offset.isSome then s.readMem pa (imageBytes sw) else image
    let marks := if offset.isSome then
      ((sectorsOf pa (imageBytes sw)).filter s.poison.contains).map (· - pa / 32) else bad
    let s := if imageReserved sw img then s.onSeq p q fun x => x.setFmt else s
    let b := BSlot.ofImage sw img marks
    let s := s.onPillar p fun P => { P with bslots := upd P.bslots l fun bs => upd bs slot fun _ => b }
    b.badRows.foldl (fun s k => s.logError (stackOf p) (p % 32) 0 4 false (slotWord l slot k)) s) s

/-- The image and marks of a load: those its issue read from a frame (R303), or when a restored CBLDF has none its
frame's as it stands (log 32). -/
def State.loadImage (s : State) (p q i sw : Nat) (offset : Option Nat) (image : List Byte) (bad : List Nat) :
    List Byte × List Nat :=
  if offset.isSome || !image.isEmpty then (image, bad)
  else
    let opa := ((s.rec? p q i).map fun r => r.opa).getD 0
    let F := s.frame p (frameNo opa)
    let off := bits opa 0 22
    (F.readN off (imageBytes sw), ((sectorsOf off (imageBytes sw)).filter F.poison.contains).map (· - off / 32))

/-- An item completes (R289, R291, R297, R303-R305, R360). A CBLD or CBLDF whose mask names a layer that has failed
while the part runs reports UE here, at the end of its work, and writes no layer's slot: R13 gives no moment (log
91). -/
def State.completeItem (s : State) (p : Nat) (c : CubeItem) : State :=
  let q := c.q
  match c.kind with
  | .idle => (s.dropItem p c).endRec p q c.record
  | .load slot mask sw off image bad =>
    (match (layersOf mask).find? fun l => (s.stack (stackOf p)).layerFailed l with
      | some l => (s.sufferUe p (poisonInfo 11 l 0)).faultRec p q c.record cUe (poisonInfo 11 l 0)
      | none =>
        let im := s.loadImage p q c.record sw off image bad
        ((s.loadSlots p q slot mask sw off im.1 im.2).dropItem p c).endRec p q c.record)
  | .zero a xc => ((((s.onAcc p q a fun t => { t with
      elems := vfill 0
      side := if xc then List.replicate 80 0 else t.side }).onSeq p q fun x => { x with
      ueDue := x.ueDue.filter fun e => !(bits e.word 0 4 = 6 && bits e.word 8 5 = a) }).dropItem p c).settle p q).endRec
      p q c.record
  | .bind a w => ((s.onAcc p q a fun t =>
      { t with bound := if bit w 3 then some (bits w 0 3) else none }).dropItem p c).endRec p q c.record
  | .op o =>
    let (elems, chk, fault) := o.boundCheck (((s.seq p q).accs.getD o.acc Acc.zero).elems)
    let s := ((s.onAcc p q o.acc fun t => { t with elems := elems }).dropItem p c).settle p q
    let s := s.onSeq p q fun x => x.setChk (if o.fmtErr then chk ||| 2 else chk)
    match fault with
    | some info => s.faultRec p q c.record cBound info
    | none => s.endRec p q c.record

/-- Whether an item is complete in this ic: a started item with no work left, an operation not parked whose last wave
has landed (R297, R306). -/
def CubeItem.complete (c : CubeItem) : Bool :=
  c.started && (match c.kind with
    | .op o => !o.park && decide (o.nw ≤ o.next) && o.waves.isEmpty
    | _ => c.left = 0)

/-- The item complete in a pillar, if there is one; an item whose fault is recorded waits for its resumption (R333).
-/
def State.cubeDone (s : State) (p : Nat) : Option CubeItem :=
  (s.pillar p).cube.find? fun c => c.complete && !((s.rec? p c.q c.record).any fun r => r.faulted)

/-- CUBE_OP_COMPLETE (R297): the item complete in pillar `who.p`. -/
def execCubeOpComplete (s : State) : Outcome :=
  let p := s.who.p
  .next (match s.cubeDone p with
    | some c => s.completeItem p c
    | none => s)

/-- CHAIN_BLOCK_ARRIVE (R301): `who.bytes`, with the marks `who.v`, in the chain queue of pillar `who.p`. -/
def execChainBlockArrive (s : State) : Outcome :=
  .next (s.onPillar s.who.p fun P => { P with chainQ := P.chainQ ++ [(s.who.bytes, s.who.v)] })

/-! ### What is due -/

/-- Whether an operation is one that R339 lets complete or fault before the image is written. -/
def Rec.unquiet (r : Rec) : Bool :=
  !r.faulted && (match r.op with
    | .engine _ | .msend _ _ _ => true
    | .drain _ _ _ taken => taken.isSome
    | _ => false)

/-- Whether a pillar's cube stands still for a pre-emption (R307, R339): every sequencer of the pillar has stopped
and no operation that must complete first, and may wait for the cube's reads, is left in the stack (log 30); or the
head is an operation of the image of a sequencer in context mode. -/
def State.cubePaused (s : State) (p : Nat) : Bool :=
  ((s.stack (stackOf p)).req && ([0, 1].all fun q => (s.seq p q).run = .idle || (s.seq p q).run = .stopped ||
      (s.seq p q).run = .halted) &&
    (pillarsOf (stackOf p)).all fun p => [0, 1].all fun q => (s.seq p q).recs.all fun r => !r.unquiet) ||
  (match (s.pillar p).cubeHead with
    | some c => (match s.rec? p c.q c.record with
      | some r => (s.seq p c.q).imageOnly r.order
      | none => false)
    | none => false)

/-- Whether a wave's reads of memory may be made now: ordered (R240-R246), not waiting for the host (R349), not of a
weight store that refreshes (R284), of an HBM stack in self-refresh only where the cache may hold the page, and not
behind what stands held (R282, R286). -/
def State.waveReadsReady (s : State) (p q order : Nat) (o : CubeOp) : Bool :=
  let as := o.waveReads o.next
  s.mayAccess p q order as (match o.src with
    | .frame _ _ _ => true
    | _ => false) false &&
  as.all fun a => !s.hostWaiting p q o.record a.va && !s.missWaits (stackOf p) (s.jobOf p q) a.va &&
    !((s.pageOf p q a).any fun x => s.weightHeld x.1 || s.behind s.standing x.1 a.n) &&
    (s.refreshPage p q a).all leafC

/-- Whether the head's next wave may start in this ic (R297, R301): a wave of several layers takes one chain block,
and sends one, for each layer, and waits until all are there and there is room for all (log 104). -/
def State.waveReady (s : State) (p : Nat) (c : CubeItem) : Bool :=
  match c.kind with
  | .op o =>
    let n := (o.stepsAt o.next).length
    c.started && !o.park && decide (o.next < o.nw) && decide (o.waveAt ≤ (s.pillar p).ic) &&
      (o.src ≠ .chain || n ≤ (s.pillar p).chainQ.length) &&
      (!o.east || (s.pillar (p + 1)).chainQ.length + n ≤ 32) &&
      (match s.rec? p c.q c.record with
        | some r => s.waveReadsReady p c.q r.order o
        | none => true)
  | _ => false

/-- Whether the head waits for a chain block only (R301, R334). -/
def State.waitsForChain (s : State) (p : Nat) (c : CubeItem) : Bool :=
  match c.kind with
  | .op o => c.started && !o.park && decide (o.next < o.nw) && decide (o.waveAt ≤ (s.pillar p).ic) && o.src = .chain &&
      decide ((s.pillar p).chainQ.length < (o.stepsAt o.next).length)
  | _ => false

/-- The cube's next event in a pillar's ic, none when all are made. -/
def State.cubeNext (s : State) (p : Nat) : Option Instr :=
  let P := s.pillar p
  if P.landing.isSome then some .cubeWaveLand
  else if (s.cubeDone p).isSome then some .cubeOpComplete
  else
    match P.cubeHead with
    | none => none
    | some c =>
      if s.cubePaused p then none
      else if !c.started then
        let x := P.cube.foldl (fun n d => match d.kind with
          | .op o => if d.workEnded P.ic then max n o.waveAt else n
          | _ => n) P.cubeFree
        if max (c.issued + 1) x ≤ P.ic then some .cubeOpStart else none
      else if s.waveReady p c then some .cubeWaveStart
      else none

/-- The engine's work in one ic: an item other than an operation has one ic less left, unless a refresh window
stalls its weight-store reads (R284, R297); a wave's wait for a chain block is timed and faults WDOG when it is
longer than WDL (R301, R334). -/
def State.cubeWork (s : State) (p : Nat) : State :=
  match (s.pillar p).cubeHead with
  | none => s
  | some c =>
    let stalled := (s.stack (stackOf p)).refresh && (match c.kind with
      | .load _ _ _ (some _) _ _ => true
      | _ => false)
    let s := if c.started && decide (0 < c.left) && !stalled then
      s.onCube p c.q c.record fun c => { c with left := c.left - 1 } else s
    match c.kind with
    | .op o =>
      if s.waitsForChain p c then
        let since := o.waitSince.getD s.time
        if since + (s.stack (stackOf p)).wdl < s.time then s.parkWave p c.q c.record o (cWdog, 0)
        else s.onOp p c.q c.record fun o => { o with waitSince := some since }
      else s
    | _ => s

end Sys2Proof.Machine
end

