-- ==== Sys2Proof/Machine/Landing.lean ====
section
/-! DEFINITION. What comes about in a pillar by itself: results landing (R158, R162), instruction-cache fills (R152,
R153, R400), a frame's own zeroing (R266), the fade clock and renewal (R255-R257), error injection (R364), the
watchdog (R334), gang time-outs (R361), uncorrectable errors (R356) and the end of an iteration (R194, R350). -/

namespace Sys2Proof.Machine

/-- Failed state that a landing result meets (R91, R356): a push moves an entry of the result queue; a named scalar, a
vector register, a vector predicate or an accumulator's elements written whole are no longer failed (log 13). -/
def Payload.moves (w : Payload) (e : Failed) : Option Failed :=
  let unit := bits e.word 0 4
  let n := bits e.word 8 5
  let gone := fun (c : Bool) => if c then none else some e
  match w with
  | .push _ =>
    if unit = 7 && n < 16 then (if n = 15 then none else some { e with word := setBits e.word 8 5 (n + 1) }) else some e
  | .named r _ => gone (unit = 7 && n = 16 + r)
  | .vec r _ m => gone (unit = 5 && !e.pred && n = r && m = pOnes)
  | .vpred r _ m => gone (unit = 5 && e.pred && n = r && m = pOnes)
  | .acc r _ m => gone (unit = 6 && n = r && m = pOnes)
  | _ => some e

/-- What is due by an ic lands, what it wrote over noted for an unwind in this ic (R162, R358), and failed state it
meets (R356). -/
def Seq.landNoted (x : Seq) (t : Nat) : Seq :=
  { x.landUpTo t with
    undo := x.overwritten t ++ x.undo
    ueDue := (sortLandings (x.inflight.filter fun l => l.land ≤ t)).foldl (fun es l => es.filterMap l.what.moves) x.ueDue }

/-- RESULT_LANDING (R91, R157, R158, R162): what is due in this ic in sequencer `who.p`, `who.q`; a tile whose writes
have all ended is busy no more. -/
def execResultLanding (s : State) : Outcome :=
  .next ((s.onSeq s.who.p s.who.q fun x => x.landNoted (s.pillar s.who.p).ic).settle s.who.p s.who.q)

/-- Whether a result of a sequencer is due by an ic. -/
def Seq.landsBy (x : Seq) (t : Nat) : Bool := x.inflight.any fun l => l.land ≤ t

/-! ### The instruction cache -/

/-- The place in the list, most recently used first, of the last line of a set. -/
def lastOfSet (ls : List ICLine) (set : Nat) : Option ICLine :=
  ls.foldl (fun b l => if l.line % 128 = set then some l else b) none

/-- A line brought in: with its set's four ways occupied the least recently used leaves (R152, R400; the set is the
line's low seven bits, log 26). -/
def fillLine (ls : List ICLine) (x : ICLine) : List ICLine :=
  let ls := ls.filter fun l => l.line ≠ x.line
  let full := 4 ≤ (ls.filter fun l => l.line % 128 = x.line % 128).length
  match lastOfSet ls (x.line % 128) with
  | some old => x :: (if full then ls.filter (fun l => l.line ≠ old.line) else ls)
  | none => x :: ls

/-- The 32 syllables of a line from its bytes. -/
def lineWords (bs : List Byte) : List W32 :=
  (List.range 32).map fun k => BitVec.ofNat 32 (leNat ((bs.drop (4 * k)).take 4))

/-- The address a line is fetched at: the next long word's own where it stands in the line (the VA of a fetch fault,
R349), else the line's first. -/
def Seq.fetchAddress (x : Seq) (k : Nat) : Nat := if x.pc.toNat / 128 = k then x.pc.toNat else 128 * k

/-- ICACHE_FILL (R152, R153, R349): line `who.k` for sequencer `who.p`, `who.q`. A failed translation waits for the
host or is noted for the long word that would issue; for a line fetched ahead of need it is discarded. -/
def execIcacheFill (s : State) : Outcome :=
  let p := s.who.p
  let q := s.who.q
  let k := s.who.k
  .next (match s.translate (stackOf p) (s.jobOf p q) ((s.seq p q).fetchAddress k) .fetch with
    | (s, .ok pa _) =>
      s.onPillar p fun P => { P with icache := fillLine P.icache ⟨k, lineWords (s.busRead (pa / 128 * 128) 128)⟩ }
    | (s, .bad c info) =>
      if (s.seq p q).pc.toNat / 128 ≠ k then s
      else
        match s.hostAsk p q fetchOwner c info with
        | (s, true) => s
        | (s, false) => s.onSeq p q fun x => { x with fetchFault := some ⟨k, c, info⟩ })

/-- Whether a fetch of a line is held: by the refresh of a weight store (R284), by the self-refresh of an HBM stack
whose cache does not hold its page, or behind what stands held (R282, R286). -/
def State.fetchHeld (s : State) (pa : Nat) (leaf : W64) : Bool :=
  s.weightHeld pa || (s.refreshing pa && !leafC leaf) || s.behind s.standing (pa / 128 * 128) 128

/-- The lines a running sequencer fetches: its next long word's, and, where they translate, the one after it and a
branch's target (R152, R153). -/
def State.wantedLines (s : State) (p q : Nat) : List Nat :=
  let x := s.seq p q
  if x.run = .running then
    let here := x.pc.toNat / 128
    let want := here :: (here + 1) :: (match x.delay with
      | some t => [t.toNat / 128]
      | none => [])
    want.filter fun k => ((s.pillar p).icache.all fun l => l.line ≠ k) &&
      !(x.fetchFault.any fun f => f.line = k) && !s.hostWaiting p q fetchOwner (x.fetchAddress k) &&
      !s.missWaits (stackOf p) (s.jobOf p q) (x.fetchAddress k) &&
      (match (s.translate (stackOf p) (s.jobOf p q) (x.fetchAddress k) .fetch).2 with
        | .ok pa leaf => !s.fetchHeld pa leaf
        | .bad _ _ => decide (k = here))
  else []

/-! ### Frames -/

/-- FALLOC_ZERO_DONE (R253, R266): frame `who.k` of pillar `who.p`. -/
def execFallocZeroDone (s : State) : Outcome :=
  .next (s.onFrame s.who.p s.who.k fun F => F.complete (s.pillar s.who.p).fadeCount)

/-- A frame whose zeroing has ended by the pillar's ic. -/
def Pillar.zeroed (P : Pillar) : Option Nat :=
  P.frames.findIdx? fun F => F.zeroEnd.any fun t => t ≤ P.ic

/-- FADE_TICK (R255): the fade clock of pillar `who.p`. -/
def execFadeTick (s : State) : Outcome :=
  .next (s.onPillar s.who.p fun P => { P with fadeCount := P.fadeCount + P.fadeInc.zeroExtend 48 })

/-- Whether a fade count has reached an expiry (R256). -/
def fadeReached (count expiry : BitVec 48) : Bool := (count - expiry).toNat < 140737488355328

/-- FRAME_EXPIRE (R256): frame `who.k` of pillar `who.p`. -/
def execFrameExpire (s : State) : Outcome :=
  .next (s.onFrame s.who.p s.who.k fun F =>
    if F.state ≠ .empty ∧ fadeReached (s.pillar s.who.p).fadeCount F.expiry then { F with xp := true } else F)

/-- RENEWAL_OVERDUE (R257): the background rewrite of pillar `who.p`, at the µs boundary at which 200 ticks have
passed since its start: its frame is expired, the rewrite goes on. -/
def execRenewalOverdue (s : State) : Outcome :=
  let p := s.who.p
  .next (match (s.pillar p).rewrite with
    | some (f, _, start) =>
      let since := ((s.pillar p).fadeCount - start).toNat
      if 819200 ≤ since ∧ since < 819200 + (s.pillar p).fadeInc.toNat then s.onFrame p f fun F => { F with xp := true } else s
    | none => s)

/-- Units of fade a frame has left. -/
def Frame.left (F : Frame) (count : BitVec 48) : Nat := (F.expiry - count).toNat

/-- Whether the background renewer would renew a frame (R257). -/
def Frame.renewable (F : Frame) (count : BitVec 48) : Bool :=
  (F.state = .ready || F.state = .draining) && F.auto && !F.xp && F.left count < 3686400

/-- The housekeeping request that asks for a frame's renewal (R392). -/
def State.renewReq (s : State) (p f : Nat) : Option HkReq :=
  s.hkreqs.find? fun r => bits r.word0 0 8 = 3 && r.owner = (p, f)

/-- The frames of a pillar that the renewer may renew now: those it would renew, without a request under its own
control, with one after GRANT (R257, R392). -/
def State.renewables (s : State) (p : Nat) : List Nat :=
  (List.range 64).filter fun f => (s.frame p f).renewable (s.pillar p).fadeCount &&
    (match s.renewReq p f with
      | some r => r.answered == some true
      | none => !bit s.fnmode 2)

/-- The frames whose renewal must be asked for (R392). -/
def State.renewAsks (s : State) (p : Nat) : List Nat :=
  (List.range 64).filter fun f =>
    (s.frame p f).renewable (s.pillar p).fadeCount && bit s.fnmode 2 && (s.renewReq p f).isNone

/-- The frames nearest their expiry. -/
def State.nearest (s : State) (p : Nat) (fs : List Nat) : List Nat :=
  let c := (s.pillar p).fadeCount
  fs.filter fun f => fs.all fun g => (s.frame p f).left c ≤ (s.frame p g).left c

/-- A background renewal starts: EXPIRY for LIFE ticks, the first unit rewritten (R256, R257). -/
def State.startRenewal (s : State) (p f : Nat) : State :=
  let F := s.frame p f
  let c := (s.pillar p).fadeCount
  let s := (s.onFrame p f fun F => { F with expiry := c + BitVec.ofNat 48 (F.life * 4096) }).onPillar p fun P => { P with
    renewBudget := P.renewBudget - 1
    rewrite := if F.size ≤ 1 then none else some (f, F.size - 1, c) }
  match s.renewReq p f with
  | some r => { s with hkreqs := s.hkreqs.filter fun x => x.tag ≠ r.tag }
  | none => s

/-- BACKGROUND_RENEW (R257, R367, R392, R394): one half-ns slot of the renewal port of pillar `who.p`: the rewrite
under way goes on, or the frame nearest its expiry is reached; of several the part takes one. Requests the host must
grant are posted, and those of frames that need no renewal any more are forgotten. -/
def execBackgroundRenew (s : State) : Outcome :=
  let p := s.who.p
  let s := (s.renewAsks p).foldl (fun s f =>
    s.hkRequest (p, f) (hkWord 3 (stackOf p) (p % 32) f false ((s.stack (stackOf p)).job.getD 0)) 0 0) s
  let s := { s with hkreqs := s.hkreqs.filter fun r =>
    !(bits r.word0 0 8 = 3 && r.owner.1 = p && r.answered.isSome &&
      !(s.frame p r.owner.2).renewable (s.pillar p).fadeCount) }
  .next (if (s.pillar p).renewBudget = 0 then s else
    match (s.pillar p).rewrite with
    | some (f, n, start) => s.onPillar p fun P => { P with
        renewBudget := P.renewBudget - 1
        rewrite := if n ≤ 1 then none else some (f, n - 1, start) }
    | none =>
      match s.nearest p (s.renewables p) with
      | [] => s
      | [f] => s.startRenewal p f
      | fs =>
        let (c, s) := s.choose
        s.startRenewal p (fs.getD (c % fs.length) 0))

/-- Whether the renewal port of a pillar has something to do in this slot. -/
def State.renewDue (s : State) (p : Nat) : Bool :=
  (decide (0 < (s.pillar p).renewBudget) && ((s.pillar p).rewrite.isSome || !(s.renewables p).isEmpty)) ||
    !(s.renewAsks p).isEmpty

/-! ### Errors -/

/-- The tile an armed injection names. -/
def State.injTile (s : State) (p : Nat) : Acc :=
  let v := (s.pillar p).errinj
  ((s.seq p (bits v 18 1)).accs).getD (bits v 15 3) Acc.zero

/-- Whether an armed injection is to be applied in this ic: for a tile, once it is not busy (R364). -/
def State.injDue (s : State) (p : Nat) : Bool :=
  let v := (s.pillar p).errinj
  bit v 21 && (bits v 19 2 ≠ 1 || !(s.injTile p).busy)

/-- The armed injection of a pillar applied (R364). -/
def State.inject (s : State) (p : Nat) : State :=
  let v := (s.pillar p).errinj
  let s := match bits v 19 2 with
    | 1 => s.onSeq p (bits v 18 1) fun x => { x with accs := upd x.accs (bits v 15 3) fun a =>
        { a with elems := upd a.elems (64 * bits v 6 4 + bits v 0 6) fun e => e ^^^ BitVec.ofNat 32 (2 ^ bits v 10 5) } }
    | 2 => s.onFrame p (bits v 22 6) fun F =>
        if F.state = FState.empty ∨ F.bytes ≤ bits v 28 22 then F else { F with poison := mark F.poison (bits v 28 22 / 32) }
    | _ => s
  s.onPillar p fun P => { P with errinj := setBits P.errinj 21 1 0 }

/-- ERRINJ_APPLY (R364, R397): the armed injection of pillar `who.p`. -/
def execErrinjApply (s : State) : Outcome := .next (s.inject s.who.p)

/-- The wave of an operation that is under way in an ic: started, its work not ended (R297). -/
def CubeOp.wave? (o : CubeOp) (ic : Nat) : Option Wave := o.waves.find? fun w => ic + 3 < w.land

/-- An operation without its wave under way: that wave is yet to start, and adds nothing (R306). -/
def CubeOp.cutWave (o : CubeOp) (ic : Nat) : CubeOp :=
  match o.wave? ic with
  | some w => { o with waves := o.waves.filter (fun v => v.w < w.w), next := w.w }
  | none => o

/-- An error in the state of an operation parks it before the wave it meets (R306): the chain blocks that wave took
stand at the head of the queue again, and a frame's read role that it gave up is taken again. -/
def State.failOp (s : State) (p q i : Nat) (o : CubeOp) (info : W64) : State :=
  let ic := (s.pillar p).ic
  let s := match o.wave? ic with
    | some w =>
      let s := s.onPillar p fun P => { P with chainQ := w.chain ++ P.chainQ }
      (match o.src with
        | .frame f _ _ => if !o.role && !(s.frame p f).unreadable then
            (s.onFrame p f Frame.takeRole).onOp p q i fun o => { o with role := true } else s
        | _ => s).onOp p q i fun o => o.cutWave ic
    | none => s
  s.parkWave p q i (o.cutWave ic) (cUe, info)

/-- A fault recorded against an operation by an error in its state (R332, R356): a cube operation parks, another cube
item waits in its queue for the resumption (R306, R333). -/
def State.failRec (s : State) (p q i : Nat) (info : W64) : State :=
  match ((s.pillar p).cubeItem? q i).map CubeItem.kind with
  | some (.op o) => s.failOp p q i o info
  | _ => if (s.rec? p q i).isSome then s.faultRec p q i cUe info else s

/-- A failure of a gang member in another package, told over the fabric: the launch's members here each latch a GANG
condition (R361). -/
def State.failElsewhere (s : State) (id : Nat) : State :=
  s.latchGang id 1 (fun _ => false) fun _ => false

/-- UE (R13, R356, R361): in the state of sequencer `who.p`, `who.q`, raised by the next long word of it that reads
that state, or with `who.up` recorded against its operation `who.rec_`; `who.v` is the word of R356, of unit 5 for a
vector predicate with `who.k` not 0. A layer's datapath that fails stays failed. With `who.part` not 0 a gang member
of launch `who.l` has failed in another package. -/
def execUe (s : State) : Outcome :=
  if s.who.part ≠ 0 then .next (s.failElsewhere s.who.l) else
  let p := s.who.p
  let q := s.who.q
  let v := BitVec.ofNat 64 s.who.v
  let s := s.sufferUe p v
  let s := if bits v 0 4 = 11 then
    s.onStack (stackOf p) fun k =>
      let phys := bits k.layers (4 + 3 * bits v 4 2) 3
      if phys < 5 then { k with lfail := k.lfail ||| BitVec.ofNat 5 (2 ^ phys) } else k
    else s
  .next (if s.who.up then s.failRec p q s.who.rec_ v else
    s.onSeq p q fun x => { x with ueDue := x.ueDue ++ [⟨v, decide (s.who.k ≠ 0)⟩] })

/-! ### Time-outs and the end of an iteration -/

/-- WDOG (R334): the long word or DONE that sequencer `who.p`, `who.q` holds raises it. -/
def execWdog (s : State) : Outcome := .next (s.onSeq s.who.p s.who.q fun x => { x with wdog := true })

/-- GANG_TIMEOUT (R361): conditions 10 µs old are delivered at the next long word issued or held. -/
def execGangTimeout (s : State) : Outcome :=
  .next (s.onSeq s.who.p s.who.q fun x =>
    { x with gang := x.gang.map fun g => (g.1, g.2 || decide (g.1 + 10000 ≤ s.time)) })

/-- ITERATION_RETIRE (R194, R350, R352): sequencer `who.p`, `who.q`. -/
def execIterationRetire (s : State) : Outcome := .next (s.retire s.who.p s.who.q)

/-- Whether the end of an iteration makes a step on its job control block (R350, R352, R361). -/
def State.retireSteps (s : State) (p q : Nat) : Bool :=
  let x := s.seq p q
  !x.contextMode && ((s.launchOf p q).any fun l => !l.abandoned && (decide (l.parts.length < 2) || x.mode ||
    bit x.chkint 0 || x.iter.any fun i => i.failed)) && !x.iter.any fun i => i.lost

/-- Whether the end of an iteration waits for the self-refresh of the HBM stack that holds its job control block
(R286). -/
def State.retireHeld (s : State) (p q : Nat) : Bool :=
  s.retireSteps p q && (s.launchOf p q).any fun l => s.atomicsHeld l.jcb

/-- Whether a waiting DONE has nothing pending (R194): no result in flight and no operation but the image's (R344). -/
def Seq.mayRetire (x : Seq) : Bool :=
  (match x.run with
    | .atDone _ => true
    | _ => false) && x.inflight.isEmpty && x.recs.all fun r => x.imageOnly r.order

end Sys2Proof.Machine
end

