-- ==== Sys2Proof/Machine/Packets.lean ====
section
/-! DEFINITION. The packet processor (R47-R67): choosing among queues, the packets and their checks, the notify
registers, and the checks of a loop-nest record (R25-R34). -/

namespace Sys2Proof.Machine

/-! ### Packets -/

/-- n bytes of a little-endian layout at an offset, as a number. -/
def fieldAt (bs : List Byte) (off n : Nat) : Nat := leNat ((bs.drop off).take n)

/-- A packet's header (R54). -/
def hdrOf (bs : List Byte) : W64 := BitVec.ofNat 64 (fieldAt bs 0 8)
/-- A packet's TYPE. -/
def typeOf (bs : List Byte) : Nat := fieldAt bs 0 1

/-- Whether bytes from an offset to the end of a packet are 0. -/
def zeroFrom (bs : List Byte) (off : Nat) : Bool := (bs.drop off).all (· = 0)

/-- Whether a packet's reserved body bytes are 0 (R56). -/
def bodyOk (bs : List Byte) : Bool :=
  match typeOf bs with
  | 0 => zeroFrom bs 8
  | 1 => zeroFrom bs 16
  | 2 => fieldAt bs 0x14 4 < 16 && zeroFrom bs 0x20
  | 3 => zeroFrom bs 0x12
  | 4 | 5 => fieldAt bs 0x11 7 = 0 && zeroFrom bs 0x20
  | 6 => zeroFrom bs 0x20
  | _ => zeroFrom bs 0x18

/-- Whether a header's reserved bits and scopes are as R54 and R55 have them. -/
def headerOk (h : W64) : Bool :=
  bits h 17 15 = 0 && bits h 9 3 ≠ 7 && bits h 13 3 ≠ 7 && (bit h 8 || bits h 9 3 = 0) && (bit h 12 || bits h 13 3 = 0)

/-- A packet's address fields with the alignment each must have (R24, R25, R35, R43, R56). -/
def addresses (bs : List Byte) : List (Nat × Nat) :=
  let a := fieldAt bs 8 8
  match typeOf bs with
  | 1 => [(a, 128)]
  | 2 => [(a, 1)]
  | 3 | 4 | 5 => [(a, 64)]
  | 6 => [(a, 1), (fieldAt bs 0x10 8, 1)]
  | 7 => [(a, 8)]
  | _ => []

/-- Whether an address field is a 52-bit address with its alignment. -/
def addressOk (x : Nat × Nat) : Bool := x.1 < 4503599627370496 && x.1 % x.2 = 0

/-- Whether a WLOAD meets R57. -/
def wloadOk (bs : List Byte) (layers : W64) : Bool :=
  let off := fieldAt bs 0x10 4
  let mask := fieldAt bs 0x14 1
  let len := fieldAt bs 0x18 8
  off % 8192 = 0 && len % 8192 = 0 && off + len ≤ 2147483648 && mask ≠ 0 && (mask &&& bits layers 0 4) = mask

/-- The lowest ERRC of a packet's checks that need nothing but its bytes and the stack (R62). -/
def packetError (bs : List Byte) (layers : W64) : Option Nat :=
  if 8 ≤ typeOf bs then some 1
  else if !headerOk (hdrOf bs) || !bodyOk bs then some 2
  else if !(addresses bs).all addressOk then some 3
  else if typeOf bs = 3 && 4096 ≤ fieldAt bs 0x10 2 then some 5
  else if typeOf bs = 2 && !wloadOk bs layers then some 6
  else if (typeOf bs = 4 || typeOf bs = 5) && 2 ≤ fieldAt bs 0x10 1 then some 8
  else none

/-- The instruction a packet's bytes are (R56). -/
def packetInstr (bs : List Byte) : Instr :=
  match typeOf bs with
  | 0 => .nopkt
  | 1 => .launch
  | 2 => .wload
  | 3 => .tdef
  | 4 => .jwait
  | 5 => if fieldAt bs 0x10 1 = 0 then .jsignalPost else .jsignalRaise
  | 6 => .copy
  | _ => .marker

/-! ### Reading slots -/

/-- The address of a packet's slot (R49). -/
def Queue.slotAt (x : Queue) (idx : Nat) : Nat := x.ring + 64 * (idx % x.slots)

/-- Whether a fault has left a packet part-way: a COPY or WLOAD whose slot RDIDX has passed (R61, R64). -/
def Packet.stopped (k : Packet) : Bool := k.passed && !k.started && !k.done

/-- The granules of the next packet's slot still to be read (R65): the part reads ahead no further than that packet,
which is the model's choice (log 84). -/
def Queue.unread (x : Queue) : List Nat :=
  if x.state = .running && x.next < x.widx && !x.slotBad then
    (List.range 8).filter fun k => x.slot.all fun g => g.1 ≠ k
  else []

/-- One granule of the next packet's slot read; a read that does not translate fails the slot (R62, R65). -/
def State.readGranule (s : State) (st q k : Nat) : State :=
  let x := s.queue st q
  if !x.unread.contains k then s else
  match s.readVirt st x.job (x.slotAt x.next + 8 * k) 8 with
  | (s, some bs) => s.onQueue st q fun x => { x with slot := x.slot ++ [(k, bs)] }
  | (s, none) => s.onQueue st q fun x => { x with slotBad := true }

/-- The next packet's 64 bytes once all its granules are read (R65). -/
def Queue.slotBytes (x : Queue) : Option (List Byte) :=
  if x.slot.length = 8 then
    some ((List.range 8).flatMap fun k => ((x.slot.find? fun g => g.1 = k).map Prod.snd).getD [])
  else none

/-- The index to be taken next goes to a value: its slot is read from there, and the queue is not ready before
(R60). -/
def Queue.goTo (x : Queue) (i : Nat) : Queue := { x with next := i, slot := [], slotBad := false, ready := false }

/-- The first index from a value on of no packet taken before. -/
def Queue.freeFrom (x : Queue) (i : Nat) : Nat := countUp x.packets (fun _ => true) x.packets.length i

/-- A packet that has been read and not yet counted. -/
def Queue.packet? (x : Queue) (idx : Nat) : Option Packet := x.packets.find? fun k => k.idx = idx

/-- The launches of a queue in the walker. -/
def State.launchesOf (s : State) (st q : Nat) : Nat :=
  (s.launches.filter fun l => l.stack = st && l.queue = q && !l.ended).length

/-- Whether a job is pre-empted on a stack and not restored, so that none of its launches starts (R339, R345). -/
def Stack.holdsJob (k : Stack) (job : Nat) : Bool := k.parked.contains job

/-- Whether a LAUNCH may start (R58, R59, R339). -/
def State.launchMayStart (s : State) (st q : Nat) : Bool :=
  (s.stack st).wloads.isEmpty && s.launchesOf st q < 8 && !(s.stack st).holdsJob (s.queue st q).job

/-- Whether an access of a job to n bytes of one page is held: by the refresh of a weight store that it reads (R284),
by the self-refresh of an HBM stack whose cache does not hold its page, or behind what stands held (R282, R286), or as
a miss that waits (R281). -/
def State.pageHeld (s : State) (st job va n : Nat) (a : Access) : Bool :=
  s.missWaits st job va ||
  match (s.translate st job va a).2 with
  | .ok pa leaf => (a = .read && s.weightHeld pa) || (s.refreshing pa && !leafC leaf) || s.behind s.standing pa n
  | .bad _ _ => false

/-- Whether a read of n bytes of a job is held, on the page of the first or on that of the last. -/
def State.readHeld (s : State) (st job va n : Nat) : Bool :=
  let last := max va ((va + n - 1) / 65536 * 65536)
  s.pageHeld st job va (min n (65536 - va % 65536)) .read || s.pageHeld st job last (va + n - last) .read

/-- Whether a read is held that a LAUNCH or TDEF needs as it is taken: of its record with the argument block and
format image that names, or of its handle (R61, R284, R286; log 88). -/
def State.objectHeld (s : State) (st job : Nat) (bs : List Byte) : Bool :=
  let a := fieldAt bs 8 8
  match typeOf bs with
  | 1 => s.readHeld st job a 128 || (match (s.readVirt st job a 128).2 with
    | some r => s.readHeld st job (fieldAt r 0x10 8) 256 ||
        (bits (BitVec.ofNat 64 (fieldAt r 0 8)) 32 5 ≠ 0 && s.readHeld st job (fieldAt r 0x18 8) 64)
    | none => false)
  | 3 => s.readHeld st job a 64
  | _ => false

/-- `ready(q)` (R58-R60): the queue runs, and its next packet has been read and may be taken; a slot whose read failed
has no CONC and counts as CONC 0 (log 66). -/
def State.queueReady (s : State) (st q : Nat) : Bool :=
  let x := s.queue st q
  x.state = .running && x.next < x.widx && x.packets.all (fun k => k.started) &&
    (if x.slotBad then x.doneidx = x.next
    else match x.slotBytes with
      | none => false
      | some bs => (bit (hdrOf bs) 16 || x.doneidx = x.next) && (typeOf bs ≠ 1 || s.launchMayStart st q) &&
        !s.objectHeld st x.job bs)

/-- The queues of a stack that are ready. -/
def State.readyQueues (s : State) (st : Nat) : List Nat := (List.range 1024).filter fun q => s.queueReady st q

/-- The time since which each queue has been ready (R60). -/
def State.noteReady (s : State) (st : Nat) : State :=
  let rs := s.readyQueues st
  s.onStack st fun k => { k with queues := k.queues.mapIdx fun q x =>
    let r := rs.contains q
    if r = x.ready then x else { x with ready := r, waitStart := if r then s.time else x.waitStart } }

/-! ### The choice -/

/-- A queue's level (R60). -/
def Queue.level (x : Queue) : Nat := if x.aged then bits x.qcfg 5 2 - 1 else bits x.qcfg 5 2

/-- The smallest element of a rising list above a bound, else its smallest. -/
def roundRobin (l : List Nat) (last : Nat) : Option Nat := (l.find? fun q => last < q).or l.head?

/-- Step 2 of the choice, from a level on (R60). -/
def chooseQueue (level : Nat → Nat) (last : List Nat) (rs : List Nat) : Option (Nat × Nat) :=
  (List.range 4).findSome? fun lv =>
    (roundRobin (rs.filter fun q => level q = lv) (last.getD lv 0)).map fun q => (lv, q)

/-- A packet halts its queue before it has had an effect (R61): its slot is to be read again. -/
def State.haltPacket (s : State) (st q idx errc : Nat) (hdr : W64) : State :=
  (s.onQueue st q fun x => { (if idx ≤ x.next then x.goTo idx else x) with
    packets := x.packets.filter fun k => k.idx ≠ idx }).haltQueue st q errc idx hdr

/-- An address on an SO page; none when it does not translate, lacks permission, or lies on another page (R62). -/
def State.soAddress (s : State) (st job va : Nat) (write : Bool) : State × Option Nat :=
  match s.translate st job va (if write then .write else .read) with
  | (s, .ok pa leaf) => (s, if leafOrd leaf = 0 then some pa else none)
  | (s, .bad _ _) => (s, none)

/-- The signed number of a 48-bit stride. -/
def stride48 (v : Nat) : Int := if v < 140737488355328 then v else (v : Int) - 281474976710656

/-- A handle from its 64 bytes (R35, R36). -/
def handleFrom (bs : List Byte) : Handle :=
  let d := BitVec.ofNat 64 (fieldAt bs 8 8)
  { base := fieldAt bs 0 8
    fmt := bits d 0 4
    tiled := bits d 4 2 = 1
    nd := bits d 6 3
    pad := BitVec.ofNat 32 (bits d 32 32)
    dims := (List.range 5).map fun i => fieldAt bs (0x10 + 4 * i) 4
    strides := (List.range 4).map fun i => stride48 (fieldAt bs (0x28 + 6 * i) 6) }

/-- Whether a handle meets R40, and R24 for its BASE, whose failure counts as the handle's own, ERRC 5 (log 89). -/
def handleOk (bs : List Byte) : Bool :=
  let d := BitVec.ofNat 64 (fieldAt bs 8 8)
  let h := handleFrom bs
  let align : Int := if h.tiled then 32 else h.width
  1 ≤ h.nd && h.nd ≤ 5 &&
    (List.range 5).all (fun i => if i < h.nd then 1 ≤ h.dims.getD i 0 else h.dims.getD i 0 = 0) &&
    (List.range 4).all (fun i => i + 1 < h.nd || h.strides.getD i 0 = 0) &&
    (!h.tiled || 2 ≤ h.nd) && (h.base : Int) % align = 0 && h.strides.all (fun x => x % align = 0) &&
    h.fmt ≤ 12 && bits d 4 2 ≤ 1 && (h.fmt ≠ 8 || bits h.pad 0 8 < 243) && bits d 9 23 = 0 &&
    fieldAt bs 0x24 4 = 0 && h.base < 4503599627370496

/-- The job control block of a loop-nest record: the physical address of a writable SO page in device memory; none
when it fails check 5 or 10 of R34. -/
def State.recordJcb (s : State) (st job : Nat) (rec_ : List Byte) : State × Option Nat :=
  let va := fieldAt rec_ 0x20 8
  if addressOk (va, 64) then
    let (s, block) := s.soAddress st job va true
    (s, block.filter s.isDevice)
  else (s, none)

/-- The object a LAUNCH or TDEF names: its record with a usable job control block, or its handle, read now unless it
has been read; else the ERRC of R62. -/
def State.readObject (s : State) (st job : Nat) (k : Packet) : State × Except Nat (List Byte) :=
  let tdef : Bool := typeOf k.bytes = 3
  let (s, bs) := match k.object with
    | some bs => (s, some bs)
    | none => s.readVirt st job (fieldAt k.bytes 8 8) (if tdef then 64 else 128)
  match bs with
  | none => (s, .error (if tdef then 5 else 3))
  | some bs =>
    if tdef then (s, if handleOk bs then .ok bs else .error 5)
    else
      let (s, block) := s.recordJcb st job bs
      (s, if block.isSome then .ok bs else .error 4)

/-- A LAUNCH or TDEF of another job is held, once its own checks have passed (R61, R75). -/
def State.holdPacket (s : State) (st q : Nat) (k : Packet) : State :=
  match s.readObject st (s.queue st q).job k with
  | (s, .error e) => s.haltPacket st q k.idx e (hdrOf k.bytes)
  | (s, .ok bs) => (s.onPacket st q k.idx fun k => { k with object := some bs }).onStack st fun t =>
      { t with waiting := t.waiting ++ [(q, k.idx)] }

/-- The next packet of a queue, whose slot has been read, is checked, and starts, waits, or halts the queue (R58-R62,
R75). A WLOAD that halted part-way and whose slot is read again keeps its place in the order chosen (R59, R64). -/
def State.takePacket (s : State) (st q : Nat) : State :=
  let x := s.queue st q
  let idx := x.next
  match x.slotBytes with
  | none =>
    let (c, s) := s.choose
    s.haltPacket st q idx 3 (BitVec.ofNat 64 c)
  | some bs =>
    match packetError bs (s.stack st).layers with
    | some e => s.haltPacket st q idx e (hdrOf bs)
    | none =>
      let k : Packet := ⟨idx, bs, none, false, false, false, 0⟩
      let s := s.onQueue st q fun x => { x.goTo (x.freeFrom (idx + 1)) with packets := x.packets ++ [k] }
      let t := typeOf bs
      let s := s.onStack st fun k => { k with wloads :=
        if t = 2 then (if k.wloads.contains (q, idx) then k.wloads else k.wloads ++ [(q, idx)]) else k.wloads.filter (· ≠ (q, idx)) }
      if t = 2 then s.noteReady st
      else if (t = 1 || t = 3) && (s.stack st).job ≠ some (s.queue st q).job then s.holdPacket st q k
      else { s with agenda := .event (packetInstr bs) { st := st, q := q, k := idx } :: s.agenda }

/-- PACKET_CHOICE (R60) of stack `who.st`; with `who.up`, one of the reads before it: granule `who.k` of the slot of
the next packet of queue `who.q` (R65). -/
def execPacketChoice (s : State) : Outcome :=
  let st := s.who.st
  if s.who.up then .next (s.readGranule st s.who.q s.who.k) else
  let s := s.noteReady st
  let rs := s.readyQueues st
  let s := rs.foldl (fun s q =>
    if !(s.queue st q).aged && decide ((s.queue st q).waitStart + 200000 < s.time) then
      s.onQueue st q fun x => { x with aged := true } else s) s
  .next (match chooseQueue (fun q => (s.queue st q).level) (s.stack st).lastQ rs with
    | none => s
    | some (lv, q) =>
      let s := s.onStack st fun k => { k with lastQ := upd k.lastQ lv fun _ => q }
      (s.onQueue st q fun x => { x with aged := false, waitStart := s.time }).takePacket st q)

/-- Whether 16 ns have passed since a stack's last packet start (R60). -/
def State.maySpace (s : State) (st : Nat) : Bool := (s.stack st).lastStart.all fun t => t + 16 ≤ s.time

/-- Whether the processor of a stack may choose (R60). -/
def State.mayChoose (s : State) (st : Nat) : Bool := s.maySpace st && !(s.readyQueues st).isEmpty

/-! ### Starting and completing -/

/-- A packet starts: held ones are held no more, and the next start is 16 ns away (R58, R60, R75). -/
def State.packetBegins (s : State) (st q idx : Nat) : State :=
  (s.onPacket st q idx fun k => { k with started := true }).onStack st fun t => { t with
    lastStart := some s.time
    waiting := t.waiting.filter (· ≠ (q, idx)) }

/-- A packet starts whose slot and objects are read: RDIDX may pass it (R50, R58). -/
def State.packetStarts (s : State) (st q idx : Nat) : State :=
  ((s.packetBegins st q idx).onPacket st q idx fun k => { k with passed := true }).advanceRdidx st q

/-- A packet that completes as it starts, or that had started and completes. -/
def State.packetRuns (s : State) (st q idx : Nat) : State :=
  (if ((s.queue st q).packet? idx).any fun k => k.started then s else s.packetStarts st q idx).completePacket st q idx

/-- The packet an event is of: queue `who.q` of stack `who.st`, index `who.k`. -/
def State.thePacket (s : State) : Option Packet := (s.queue s.who.st s.who.q).packet? s.who.k

/-- The effect of the packet an event is of, with the job and the bytes of its slot. -/
def State.withPacket (s : State) (f : Nat → Packet → State) : Outcome :=
  .next (match s.thePacket with
    | some k => f (s.queue s.who.st s.who.q).job k
    | none => s)

/-- NOPKT (R56). -/
def execNopkt (s : State) : Outcome := s.withPacket fun _ k => s.packetRuns s.who.st s.who.q k.idx

/-- A packet that acts on an SO page, or halts its queue with ERRC 8 (R62). -/
def State.onSo (s : State) (write : Bool) (f : State → Packet → Nat → State) : Outcome :=
  s.withPacket fun job k =>
    match s.soAddress s.who.st job (fieldAt k.bytes 8 8) write with
    | (s, some pa) => f s k pa
    | (s, none) => s.haltPacket s.who.st s.who.q k.idx 8 (hdrOf k.bytes)

/-- Whether a packet with REL still waits for the packets before it in its queue, which its effect is to order (R54,
R57). -/
def Queue.releaseWaits (x : Queue) (k : Packet) : Bool :=
  bit (hdrOf k.bytes) 12 && x.packets.any fun j => j.idx < k.idx && !j.done

/-- Whether the effect of a JSIGNAL or MARKER may be performed: not before what its release orders, nor, as an
atomic or a release, while its HBM stack is in self-refresh (R54, R57, R286). -/
def State.mayEffectPacket (s : State) (st q : Nat) (k : Packet) (pa : Nat) : Bool :=
  !(s.queue st q).releaseWaits k && !((typeOf k.bytes = 5 || bit (hdrOf k.bytes) 12) && s.atomicsHeld pa)

/-- A JSIGNAL or MARKER: its effect once it may be performed, until then it has only started; RDIDX stays below it
until then (R57, R61). -/
def State.onEffect (s : State) (f : State → Packet → Nat → State) : Outcome :=
  s.onSo true fun s k pa =>
    let st := s.who.st
    let q := s.who.q
    if s.mayEffectPacket st q k pa then (f s k pa).packetRuns st q k.idx
    else if k.started then s else s.packetBegins st q k.idx

/-- JSIGNAL_POST (R45, R57). -/
def execJsignalPost (s : State) : Outcome :=
  s.onEffect fun s k pa => s.jcbStep pa fun j => j.addCount (fieldAt k.bytes 0x18 8) s.time

/-- JSIGNAL_RAISE (R45, R57). -/
def execJsignalRaise (s : State) : Outcome :=
  s.onEffect fun s k pa => s.jcbStep pa fun j => j.raise (fieldAt k.bytes 0x18 8)

/-- MARKER (R57). -/
def execMarker (s : State) : Outcome :=
  s.onEffect fun s k pa => s.busWrite pa (leBytes 8 (fieldAt k.bytes 0x10 8))

/-- JWAIT starts (R57): it then waits until its condition is observed; RDIDX stays below it until then (R61). -/
def execJwait (s : State) : Outcome := s.onSo false fun s k _ => s.packetBegins s.who.st s.who.q k.idx

/-- Whether a JWAIT's condition holds (R56, R57). -/
def jwaitMet (bs : List Byte) (j : Jcb) : Bool :=
  if fieldAt bs 0x10 1 = 0 then j.complete else decide (fieldAt bs 0x18 8 ≤ j.count)

/-- JWAIT_SATISFIED (R57): the block read once more; the packet completes, or goes on waiting. -/
def execJwaitSatisfied (s : State) : Outcome :=
  s.onSo false fun s k pa =>
    if jwaitMet k.bytes (s.readJcb pa) then s.completePacket s.who.st s.who.q k.idx else s

/-! ### TDEF -/

/-- A packet that its own check stops is held no more, and halts its queue (R61, R75). -/
def State.stopPacket (s : State) (st q : Nat) (k : Packet) (errc : Nat) : State :=
  (s.onStack st fun t => { t with waiting := t.waiting.filter (· ≠ (q, k.idx)) }).haltPacket st q k.idx errc (hdrOf k.bytes)

/-- TDEF (R41, R57, R62). -/
def execTdef (s : State) : Outcome :=
  s.withPacket fun job k =>
    let st := s.who.st
    let q := s.who.q
    match s.readObject st job k with
    | (s, .ok bs) =>
      let n := fieldAt k.bytes 0x10 2
      (s.onStack st fun t => { t with
        handles := (n, handleFrom bs) :: t.handles.filter fun h => h.1 ≠ n }).packetRuns st q k.idx
    | (s, .error e) => s.stopPacket st q k e

/-! ### COPY and WLOAD -/

/-- A COPY or WLOAD faults part-way: its queue halts, with the copy of its slot kept where RDIDX has passed it, else
with its slot to be read again (R61, R62, R64). A WLOAD keeps its place in the order chosen, and its hold on LAUNCHes,
until it completes (R59, log 71). -/
def State.haltBulk (s : State) (st q : Nat) (k : Packet) (errc : Nat) : State :=
  if (s.queue st q).rdidx ≤ k.idx then s.haltPacket st q k.idx errc (hdrOf k.bytes)
  else (s.onPacket st q k.idx fun k => { k with started := false }).haltQueue st q errc k.idx (hdrOf k.bytes)

/-- Bytes of the next piece of a bulk transfer: to the end of the source's and the target's sector, the data and the
window's budget (R394). -/
def pieceLen (src dst left budget : Nat) : Nat := min (min (32 - src % 32) (32 - dst % 32)) (min left budget)

/-- Bytes written by the bulk channel, with a mark on their sector when their source was marked (R354). -/
def State.bulkWrite (s : State) (pa : Nat) (bs : List Byte) (bad : Bool) : State :=
  let s := s.busWrite pa bs
  if bad then s.markMem pa else s

/-- A piece transferred: counted, and taken from the window's budget (R394). -/
def State.bulkDone (s : State) (st q idx n : Nat) : State :=
  (s.onPacket st q idx fun k => { k with progress := k.progress + n }).onStack st fun t =>
    { t with hdmaLeft := t.hdmaLeft - n }

/-- One piece of a COPY (R57, R62); the bytes move in rising address order (log 85). -/
def State.copyPiece (s : State) (st q job : Nat) (k : Packet) : State :=
  let src := fieldAt k.bytes 8 8 + k.progress
  let dst := fieldAt k.bytes 0x10 8 + k.progress
  let n := pieceLen src dst (fieldAt k.bytes 0x18 8 - k.progress) (s.stack st).hdmaLeft
  if n = 0 then s else
  match s.translate st job src .read with
  | (s, .bad _ _) => s.haltBulk st q k 7
  | (s, .ok pa _) =>
    match s.translate st job dst .write with
    | (s, .bad _ _) => s.haltBulk st q k 7
    | (s, .ok pd _) =>
      (s.bulkWrite pd (s.busRead pa n) (s.poison.contains (s.canonPa pa / 32))).bulkDone st q k.idx n

/-- Whether one access of a job to an address is permitted. -/
def State.permits (s : State) (st job va : Nat) (a : Access) : State × Bool :=
  match s.translate st job va a with
  | (s, .ok _ _) => (s, true)
  | (s, .bad _ _) => (s, false)

/-- COPY (R57): it starts, its first access being permitted (R61), and each further occurrence moves its next bytes.
-/
def execCopy (s : State) : Outcome :=
  s.withPacket fun job k =>
    let st := s.who.st
    let q := s.who.q
    if k.started then s.copyPiece st q job k
    else if fieldAt k.bytes 0x18 8 = 0 then s.packetStarts st q k.idx
    else
      let (s, r) := s.permits st job (fieldAt k.bytes 8 8) .read
      let (s, w) := s.permits st job (fieldAt k.bytes 0x10 8) .write
      if r && w then s.packetStarts st q k.idx else s.haltPacket st q k.idx 7 (hdrOf k.bytes)

/-- COPY_COMPLETE (R56). -/
def execCopyComplete (s : State) : Outcome :=
  s.withPacket fun _ k =>
    if k.started && k.progress = fieldAt k.bytes 0x18 8 then s.completePacket s.who.st s.who.q k.idx else s

/-- The physical address of a byte offset in a layer's weight store (R384). -/
def weightAt (st l off : Nat) : Nat := 0x6000000000 + 0x200000000 * st + 0x80000000 * l + off

/-- One piece of a WLOAD, written to every named layer (R57, R62), in rising address order (log 85). -/
def State.wloadPiece (s : State) (st q job : Nat) (k : Packet) : State :=
  let src := fieldAt k.bytes 8 8 + k.progress
  let off := fieldAt k.bytes 0x10 4 + k.progress
  let n := pieceLen src off (fieldAt k.bytes 0x18 8 - k.progress) (s.stack st).hdmaLeft
  if n = 0 then s else
  match s.translate st job src .read with
  | (s, .bad _ _) => s.haltBulk st q k 6
  | (s, .ok pa _) =>
    let bs := s.busRead pa n
    let bad := s.poison.contains (s.canonPa pa / 32)
    ((layersOf (BitVec.ofNat 4 (fieldAt k.bytes 0x14 1))).foldl (fun s l =>
      let s := s.writeMem (weightAt st l off) bs
      if bad then s.markMem (weightAt st l off) else s) s).bulkDone st q k.idx n

/-- WLOAD (R57, R59): it starts, its first access being permitted (R61), and each further occurrence moves its next
bytes. -/
def execWload (s : State) : Outcome :=
  s.withPacket fun job k =>
    let st := s.who.st
    let q := s.who.q
    if k.started then s.wloadPiece st q job k
    else if fieldAt k.bytes 0x18 8 = 0 then s.packetStarts st q k.idx
    else
      let (s, r) := s.permits st job (fieldAt k.bytes 8 8) .read
      if r then s.packetStarts st q k.idx
      else (s.onStack st fun t => { t with wloads := t.wloads.filter (· ≠ (q, k.idx)) }).haltPacket st q k.idx 6
        (hdrOf k.bytes)

/-- WLOAD_COMPLETE (R56, R59). -/
def execWloadComplete (s : State) : Outcome :=
  s.withPacket fun _ k =>
    if k.started && k.progress = fieldAt k.bytes 0x18 8 then
      (s.onStack s.who.st fun t => { t with wloads := t.wloads.filter (· ≠ (s.who.q, k.idx)) }).completePacket
        s.who.st s.who.q k.idx
    else s

/-- Whether no launch that a test selects is in a stack's walker, and no iteration is placed on it (R59, R75). -/
def State.drained (s : State) (st : Nat) (sel : Launch → Bool) : Bool :=
  (s.launches.all fun l => l.ended || !sel l || l.parts.all fun x => x.pkg ≠ s.pkg || x.stack ≠ st) &&
    (pillarsOf st).all fun p => [0, 1].all fun q => (s.seq p q).iter.isNone

/-- Whether a stack has drained for the clearing of R75: launches of a job pre-empted there, of which none is placed
before its RESTORE, do not count (R339). -/
def State.drainedFor (s : State) (st : Nat) : Bool :=
  s.drained st fun l => (s.stack st).job = some l.job && !(s.stack st).holdsJob l.job

/-- Whether a WLOAD of a stack runs, or stands part-way, its slot to be read again or not, so that no iteration is
placed on the stack (R59, R61, R250). -/
def State.wloadRuns (s : State) (st : Nat) : Bool :=
  (s.stack st).wloads.any fun w => ((s.queue st w.1).packet? w.2).all fun k => k.started || k.stopped

/-! ### The loop-nest record -/

/-- A level's number, START, COUNT, STEP and ORD (R27). -/
def levelFrom (bs : List Byte) (l : Nat) : Nat × Int × Nat × Int × Nat :=
  let o := 0x30 + 12 * l
  (l, (BitVec.ofNat 32 (fieldAt bs o 4)).toInt, fieldAt bs (o + 4) 4, (BitVec.ofNat 16 (fieldAt bs (o + 8) 2)).toInt,
    fieldAt bs (o + 10) 1 % 8)

/-- HDR of a record (R26). -/
def recHdr (bs : List Byte) : W64 := BitVec.ofNat 64 (fieldAt bs 0 8)
/-- DOMAIN of a record (R28). -/
def recDomain (bs : List Byte) : W64 := BitVec.ofNat 64 (fieldAt bs 0x28 8)
/-- The used levels of a record. -/
def recLevels (bs : List Byte) : List (Nat × Int × Nat × Int × Nat) :=
  (List.range (bits (recHdr bs) 4 3)).map fun l => levelFrom bs l
/-- The iterations a record describes (R29). -/
def recTotal (bs : List Byte) : Nat := (recLevels bs).foldl (fun n l => n * l.2.2.1) 1

/-- The packages of a DOMAIN in pod-address order (R28, R68). -/
def domPackages (d : W64) (own : Nat) : List Nat :=
  if bit d 38 then
    let ps := (List.range (bits d 49 10 + 1)).map fun i => (bits d 39 10 + i) % 1024
    (List.range 1024).filter ps.contains
  else [own]

/-- The stacks a DOMAIN selects. -/
def domStacks (d : W64) : List Nat := allStacks.filter fun st => bit d (32 + st)

/-- The sequencers of a DOMAIN. -/
def domSize (d : W64) (own : Nat) : Nat :=
  popN d 32 * (domStacks d).length * domSeqs d * (domPackages d own).length

/-- Whether a record's VER, NL, unused levels and ORDs are right: the lowest REJC of checks 1 to 4 (R34). -/
def shapeReject (bs : List Byte) : Option Nat :=
  let h := recHdr bs
  let nl := bits h 4 3
  if bits h 0 4 ≠ 1 then some 1
  else if nl = 0 || nl = 7 || !(List.range 6).all (fun l => l < nl || fieldAt bs (0x30 + 12 * l) 12 = 0) then some 2
  else if !(List.range nl).all (fun o => (recLevels bs).any fun l => l.2.2.2.2 = o) then some 3
  else if 281474976710656 ≤ recTotal bs then some 4
  else none

/-- A record's address fields with their alignments, FTIMG only with entries to read (R25). -/
def recAddresses (bs : List Byte) : List (Nat × Nat) :=
  [(fieldAt bs 8 8, 32), (fieldAt bs 0x10 8, 64), (fieldAt bs 0x20 8, 64)] ++
    if bits (recHdr bs) 32 5 = 0 then [] else [(fieldAt bs 0x18 8, 4)]

/-- Whether an image entry's codes are permitted (R31). -/
def codesOk (v : W32) : Bool :=
  v = 0 || ([1, 2, 5, 6, 7, 8].contains (bits v 0 4) && [1, 2, 4, 5, 6, 7, 8].contains (bits v 4 4))

/-- Whether a DOMAIN passes check 8 (R28, R34, R386, R389). -/
def State.domainOk (s : State) (d : W64) (stkown : Nat) (fabric : Bool) : Bool :=
  bits d 0 32 ≠ 0 && bits d 36 2 ≠ 0 && !(domStacks d).isEmpty && (domStacks d).all (fun st => stkown.testBit st) &&
    (if bit d 38 then fabric && (domPackages d s.pkg).all (fun k => k = s.pkg || s.aligned.contains k)
      else bits d 39 20 = 0)

/-- Whether a record's reserved fields are 0 (R25-R28, R31). -/
def recReservedOk (bs : List Byte) (fts : List W32) : Bool :=
  bits (recHdr bs) 8 8 = 0 && bits (recHdr bs) 37 27 = 0 && fieldAt bs 0x78 8 = 0 && bits (recDomain bs) 59 5 = 0 &&
    (List.range 6).all (fun l => fieldAt bs (0x30 + 12 * l + 10) 1 < 8 && fieldAt bs (0x30 + 12 * l + 11) 1 = 0) &&
    fts.all fun v => bits v 28 4 = 0

/-- n 4-byte words at a virtual address, each translated; none when one does not translate. -/
def State.readWords (s : State) (st job va : Nat) : Nat → State × Option (List W32)
  | 0 => (s, some [])
  | n + 1 =>
    match s.readVirt st job va 4 with
    | (s, none) => (s, none)
    | (s, some bs) =>
      match s.readWords st job (va + 4) n with
      | (s, none) => (s, none)
      | (s, some ws) => (s, some (BitVec.ofNat 32 (leNat bs) :: ws))

/-- n blocks of 64 bytes at a 64-byte aligned virtual address; none when one does not translate. -/
def State.readBlocks (s : State) (st job va : Nat) : Nat → State × Option (List Byte)
  | 0 => (s, some [])
  | n + 1 =>
    match s.readVirt st job va 64 with
    | (s, none) => (s, none)
    | (s, some bs) =>
      match s.readBlocks st job (va + 64) n with
      | (s, none) => (s, none)
      | (s, some rest) => (s, some (bs ++ rest))

/-- Whether ENTRY translates to an X page (R34). -/
def State.entryIsCode (s : State) (st job va : Nat) : State × Bool :=
  match s.translate st job va .fetch with
  | (s, .ok _ _) => (s, true)
  | (s, .bad _ _) => (s, false)

/-- The snapshots of a launch: its argument block and format image (R33). -/
abbrev Snapshot := List Byte × List W32

/-- The sectors of an argument block of 256 bytes that are poisoned as it is read (R354). -/
def State.argMarksAt (s : State) (st job va : Nat) : List Nat :=
  (List.range 8).filter fun k => match (s.translate st job (va + 32 * k) .read).2 with
    | .ok pa _ => s.poison.contains (s.canonPa pa / 32)
    | .bad _ _ => false

/-- The checks of R34 but those of the JCB, in order, with the launch's snapshots. -/
def State.checkRecord (s : State) (st job stkown : Nat) (bs : List Byte) : State × Except Nat Snapshot :=
  match shapeReject bs with
  | some n => (s, .error n)
  | none =>
    if !(recAddresses bs).all addressOk then (s, .error 5)
    else
      let ftn := bits (recHdr bs) 32 5
      let (s, code) := s.entryIsCode st job (fieldAt bs 8 8)
      let (s, args) := s.readBlocks st job (fieldAt bs 0x10 8) 4
      let (s, fts) := s.readWords st job (fieldAt bs 0x18 8) (min ftn 16)
      match code, args, fts with
      | true, some args, some fts =>
        let d := recDomain bs
        let fabric := (st :: domStacks d).all fun k => bits (s.stack k).bootst 4 4 ≠ 5
        (s, if 16 < ftn || !fts.all codesOk then .error 7
          else if !s.domainOk d stkown fabric then .error 8
          else if bit (recHdr bs) 7 && decide (domSize d s.pkg < recTotal bs) then .error 9
          else if !recReservedOk bs fts then .error 11
          else .ok (args, fts))
      | _, _, _ => (s, .error 6)

/-- The participants of a launch, in order (R68). -/
def partsOf (d : W64) (own : Nat) (now : Nat) : List Part :=
  let all := (domPackages d own).flatMap fun k => (domStacks d).map fun st => (k, st)
  all.map fun x => {
    pkg := x.1, stack := x.2, granted := [], unplaced := [], log := [], heard := all.map fun _ => now
    epoch := 0, failed := none, retired := 0, posted := 0, copied := 0, held := [], mute := false, killed := 0 }

/-- Iterations a grant of a launch has (R26, R70). -/
def Launch.chunk (l : Launch) : Nat := if bits l.hdr 16 16 = 0 then 64 else bits l.hdr 16 16

/-- A participant by its place. -/
def Launch.part? (l : Launch) (i : Nat) : Option Part := l.parts[i]?

/-- A participant holds a chunk (R70). -/
def Part.receive (x : Part) (first n : Nat) : Part :=
  { x with granted := x.granted ++ [(first, n)], unplaced := x.unplaced ++ [(first, n)] }

/-- Iterations a participant holds and has not placed. -/
def Part.left (x : Part) : Nat := x.unplaced.foldl (fun n c => n + c.2) 0

/-- Whether a participant is to request a chunk (R70): it holds at most two that it has not fully placed, and none, or
fewer than half a chunk's iterations. -/
def Part.wants (x : Part) (chunk : Nat) : Bool :=
  decide (x.unplaced.length < 2) && (x.unplaced.isEmpty || decide (x.left < (chunk + 1) / 2))

/-- A sole participant, its own leader, grants itself the chunk it wants, or the whole of a gang (R69, R70, R80). -/
def Launch.selfGrant (l : Launch) : Launch :=
  let n := if l.gang then l.total - l.nextT else min l.chunk (l.total - l.nextT)
  if l.parts.length = 1 && 0 < n && (l.part? 0).any (fun x => x.wants l.chunk) then
    { l with nextT := l.nextT + n, parts := l.parts.map fun x => x.receive l.nextT n }
  else l

/-- An accepted launch as it enters the walker (R69). -/
def State.newLaunch (s : State) (st q idx job : Nat) (bs : List Byte) (jcb : Nat) (snap : Snapshot) : Launch :=
  Launch.selfGrant {
    id := s.nextLaunch, stack := st, queue := q, packet := idx, job := job, hdr := recHdr bs
    entry := BitVec.ofNat 64 (fieldAt bs 8 8), jcb := jcb, domain := recDomain bs, levels := recLevels bs
    args := snap.1, argMarks := s.argMarksAt st job (fieldAt bs 0x10 8), fts := snap.2, total := recTotal bs
    nextT := 0
    leader := 0, epoch := 0, electing := false, candidate := none, gathered := [], requests := [], grants := []
    abandoned := false, fabric := []
    parts := partsOf (recDomain bs) s.pkg s.time
    lostN := 0, ended := false }

/-- LAUNCH (R25-R34, R61, R62): the record read and checked once; a record that fails is reported in its job control
block, or halts the queue when the block itself cannot be used; an accepted one goes to the walker. -/
def execLaunch (s : State) : Outcome :=
  s.withPacket fun job k =>
    let st := s.who.st
    let q := s.who.q
    match s.readObject st job k with
    | (s, .error e) => s.stopPacket st q k e
    | (s, .ok bs) =>
      match s.recordJcb st job bs with
      | (s, none) => s.stopPacket st q k 4
      | (s, some jcb) =>
        match s.checkRecord st job (bits (s.queue st q).qcfg 8 4) bs with
        | (s, .error n) => (s.report jcb (.reject n)).packetRuns st q k.idx
        | (s, .ok snap) =>
          if recTotal bs = 0 then s.packetRuns st q k.idx
          else
            let s := { s with
              launches := s.launches ++ [s.newLaunch st q k.idx job bs jcb snap]
              nextLaunch := s.nextLaunch + 1 }
            s.packetStarts st q k.idx

/-! ### Notify registers -/

/-- The first packet of a queue that has not started. -/
def Queue.firstUnstarted (x : Queue) : Nat := ((x.packets.find? fun k => !k.started).map fun k => k.idx).getD x.next

/-- NOTIFY_WIDX_WRITE (R52, R63): `who.v` to WIDX of queue `who.q` of stack `who.st`. Before any descriptor of the
queue has been read its LOG2N is taken as 0 (log 87). -/
def execNotifyWidxWrite (s : State) : Outcome :=
  let st := s.who.st
  let q := s.who.q
  let v := s.who.v
  let x := s.queue st q
  .next (if v ≤ x.widx then s
    else if v ≤ x.rdidx + x.slots then s.onQueue st q fun x => { x with widx := v }
    else if x.state = .running then s.haltQueue st q 9 x.firstUnstarted 0
    else s)

/-- Whether a descriptor meets R53; its RING and IDXWB must have their alignments (log 27). -/
def descriptorOk (bs : List Byte) : Bool :=
  let c := BitVec.ofNat 64 (fieldAt bs 8 8)
  4 ≤ bits c 0 5 && bits c 0 5 ≤ 16 && bits c 12 20 = 0 && bits c 48 16 = 0 && zeroFrom bs 0x20 &&
    addressOk (fieldAt bs 0 8, 4096) && addressOk (fieldAt bs 0x10 8, 16) && addressOk (fieldAt bs 0x18 8, 1)

/-- A queue enabled: its descriptor read untranslated, its indices 0, STATE 1, or 2 with ERRC 10 (R47, R53). -/
def State.enableQueue (s : State) (st q : Nat) : State :=
  let bs := s.readMem ((s.stack st).qtbase.toNat + 64 * q) 64
  let s := s.onQueue st q fun x => { x with
    en := true
    state := .running
    widx := 0
    rdidx := 0
    doneidx := 0
    ring := fieldAt bs 0 8
    qcfg := BitVec.ofNat 64 (fieldAt bs 8 8)
    idxwb := fieldAt bs 0x10 8
    errwb := fieldAt bs 0x18 8
    next := 0
    slot := []
    slotBad := false
    packets := []
    aged := false
    ready := false
    failedWb := []
    abortTo := none
    fault := none
    badDesc := !descriptorOk bs }
  if descriptorOk bs then s else s.haltQueue st q 10 0 0

/-- QUEUE_ENABLE (R51, R53, R388): ignored in a stack out of service; a queue still draining is enabled once it has
drained. -/
def execQueueEnable (s : State) : Outcome :=
  let st := s.who.st
  let q := s.who.q
  .next (if !bit (s.stack st).bootst 3 then s
    else if (s.queue st q).state = .disabled then s.enableQueue st q
    else s.onQueue st q fun x => { x with en := true })

/-- The packets of a queue that have not started are discarded; STATE 3 until the others complete, then 1, or 0 with
EN written to 0 (R53, R64). A COPY or WLOAD that a fault has left part-way is discarded with them (log 70). -/
def State.discard (s : State) (st q : Nat) (off : Bool) : State :=
  (s.onQueue st q fun x => { x with
    en := x.en && !off
    state := .aborting
    packets := x.packets.filter fun k => k.started
    slot := []
    slotBad := false
    ready := false
    failedWb := []
    abortTo := some (off || x.abortTo.getD false) }).onStack st fun t => { t with
      waiting := t.waiting.filter fun w => w.1 ≠ q
      wloads := t.wloads.filter fun w => w.1 ≠ q || (t.queues.getD q Queue.reset).packets.any fun k => k.idx = w.2 }

/-- QUEUE_DISABLE (R53, R64): nothing to discard in a disabled queue. -/
def execQueueDisable (s : State) : Outcome :=
  .next (if (s.queue s.who.st s.who.q).state = .disabled then s else s.discard s.who.st s.who.q true)

/-- ABORT (R64): nothing to discard in a disabled queue. -/
def execAbortQueue (s : State) : Outcome :=
  .next (if (s.queue s.who.st s.who.q).state = .disabled then s else s.discard s.who.st s.who.q false)

/-- The index block as an abort leaves it; for a queue switched off a write that fails is dropped, and none is made
when the descriptor it was enabled with was bad (R53, R64, log 27). -/
def State.closeIndices (s : State) (st q : Nat) (off : Bool) : State :=
  let x := s.queue st q
  if !off then (s.writeIdx st q true x.widx).writeIdx st q false x.widx
  else if x.badDesc then s
  else ((s.postVirt st x.job x.idxwb (leBytes 8 x.widx)).1.postVirt st x.job (x.idxwb + 8) (leBytes 8 x.widx)).1

/-- Whether an aborted queue's started packets have completed (R64). -/
def Queue.abortOver (x : Queue) : Bool := x.state = .aborting && x.packets.all fun k => k.done

/-- ABORT_DRAINED (R64): the started packets have completed; RDIDX and DONEIDX become WIDX. -/
def execAbortDrained (s : State) : Outcome :=
  let st := s.who.st
  let q := s.who.q
  let x := s.queue st q
  .next (if x.abortOver then
    let off := x.abortTo.getD false
    let s := s.onQueue st q fun x => { x.goTo x.widx with
      rdidx := x.widx
      doneidx := x.widx
      packets := []
      state := if off then .disabled else .running
      abortTo := none }
    let s := s.closeIndices st q off
    if off && x.en then s.enableQueue st q else s
  else s)

/-- A queue runs again after a halt that concerns no packet: 9, or 11 with its write repeated (R64); one that halted
while it was being aborted goes on with that. -/
def State.resumePlain (s : State) (st q : Nat) : State :=
  let x := s.queue st q
  let s := s.onQueue st q fun x => { x with state := if x.abortTo.isSome then .aborting else .running, failedWb := [] }
  x.failedWb.foldl (fun s w => s.writeIdx st q w.1 w.2) s

/-- The packets that faults have left part-way start again from their first byte, but for one (R64). -/
def Queue.restart (x : Queue) (but : Option Nat) : Queue :=
  { x with packets := x.packets.map fun k =>
    if k.stopped && some k.idx ≠ but then { k with progress := 0, started := true } else k }

/-- RESUME (R64): every packet left part-way starts again, and the slot of one that failed its checks is read again.
-/
def execResumeQueue (s : State) : Outcome :=
  let st := s.who.st
  let q := s.who.q
  let x := s.queue st q
  .next (if x.state ≠ .halted ∨ x.errc = 10 then s else (s.resumePlain st q).onQueue st q fun x => x.restart none)

/-- A packet counted as completed without effect, or without further effect (R64). -/
def State.skipPacket (s : State) (st q i : Nat) : State :=
  let s := s.onStack st fun t => { t with wloads := t.wloads.filter (· ≠ (q, i)) }
  if ((s.queue st q).packet? i).isSome then s.completePacket st q i
  else
    (s.onQueue st q fun x =>
      let y := { x with packets := x.packets ++ [(⟨i, [], none, true, false, false, 0⟩ : Packet)] }
      if i = x.next then y.goTo (y.freeFrom (i + 1)) else y).packetRuns st q i

/-- SKIP: RESUME with SKIP (R64), which counts the packet of the last halt as completed (log 83). -/
def execSkipPacket (s : State) : Outcome :=
  let st := s.who.st
  let q := s.who.q
  let x := s.queue st q
  .next (if x.state ≠ .halted ∨ x.errc = 10 then s else
    let s := (s.resumePlain st q).onQueue st q fun y => y.restart x.fault
    match x.fault with
    | none => s
    | some i => s.skipPacket st q i)

/-! ### What may happen -/

/-- Whether the next bytes of a bulk transfer may move: budget is left (R394), and no access of them is held. -/
def State.mayMove (s : State) (st job : Nat) (k : Packet) : Bool :=
  let src := fieldAt k.bytes 8 8 + k.progress
  let dst := fieldAt k.bytes 0x10 8 + k.progress
  let n := pieceLen src dst (fieldAt k.bytes 0x18 8 - k.progress) (s.stack st).hdmaLeft
  0 < (s.stack st).hdmaLeft && !s.pageHeld st job src n .read &&
    (typeOf k.bytes = 2 || !s.pageHeld st job dst n .write)

/-- What a started packet may do next. -/
def State.packetOptions (s : State) (st q : Nat) (x : Queue) (k : Packet) : List (Instr × Who) :=
  let w : Who := { st := st, q := q, k := k.idx }
  if !k.started || k.done then [] else
  match typeOf k.bytes with
  | 2 => if k.progress = fieldAt k.bytes 0x18 8 then [(.wloadComplete, w)]
    else if s.mayMove st x.job k then [(.wload, w)] else []
  | 5 | 7 => (match s.soAddress st x.job (fieldAt k.bytes 8 8) true with
    | (s, some pa) => if s.mayEffectPacket st q k pa then [(packetInstr k.bytes, w)] else []
    | (_, none) => [(packetInstr k.bytes, w)])
  | 4 => (match s.soAddress st x.job (fieldAt k.bytes 8 8) false with
    | (s, some pa) => if !s.pageHeld st x.job (fieldAt k.bytes 8 8) 64 .read && jwaitMet k.bytes (s.readJcb pa) then
        [(.jwaitSatisfied, w)] else []
    | (_, none) => [(.jwaitSatisfied, w)])
  | 6 => if k.progress = fieldAt k.bytes 0x18 8 then [(.copyComplete, w)]
    else if s.mayMove st x.job k then [(.copy, w)] else []
  | _ => []

/-- The held LAUNCH or TDEF that may start: the first in the order chosen whose job is the stack's (R60, R75),
though its queue has halted since (log 67). -/
def State.heldOptions (s : State) (st : Nat) : List (Instr × Who) :=
  let k := s.stack st
  if !s.maySpace st then [] else
  (((k.waiting.filterMap fun w => ((s.queue st w.1).packet? w.2).map fun x => (w, x)).filter fun w =>
    k.job = some (s.queue st w.1.1).job && (typeOf w.2.bytes ≠ 1 || s.launchMayStart st w.1.1) &&
      !s.objectHeld st (s.queue st w.1.1).job w.2.bytes).take 1).map fun w =>
      (packetInstr w.2.bytes, { st := st, q := w.1.1, k := w.1.2 })

/-- The first chosen WLOAD, once no launch is in the walker, a pre-empted job's among them, and no iteration is placed
(R59); it starts though its queue has halted since for another packet (log 67). -/
def State.wloadOptions (s : State) (st : Nat) : List (Instr × Who) :=
  match (s.stack st).wloads with
  | (q, idx) :: _ =>
    if s.maySpace st && ((s.queue st q).packet? idx).any (fun k => !k.started && !k.stopped) && s.drained st (fun _ => true) then
      [(.wload, { st := st, q := q, k := idx })] else []
  | [] => []

/-- What the packet processor of a stack may do (R58-R64). -/
def State.processorOptions (s : State) (st : Nat) : List (Instr × Who) :=
  (if s.mayChoose st then [(Instr.packetChoice, ({ st := st } : Who))] else []) ++ s.heldOptions st ++
    s.wloadOptions st ++
    ((List.range 1024).flatMap fun q =>
      let x := s.queue st q
      ((x.unread.filter fun k => !s.pageHeld st x.job (x.slotAt x.next + 8 * k) 8 .read).map fun k =>
        (Instr.packetChoice, ({ st := st, q := q, k := k, up := true } : Who))) ++
        (x.packets.flatMap fun k => s.packetOptions st q x k) ++
        (if x.abortOver then [(.abortDrained, { st := st, q := q })] else []))

end Sys2Proof.Machine
end

