-- ==== Sys2Proof/Machine/Sync.lean ====
section
/-! DEFINITION. Synchronisation: flags (R308-R315), messages (R316-R318), domain barriers (R76-R78, R319, R320), job
control from kernels (R321, R322) and trays (R323-R325), with the events that complete them. -/

namespace Sys2Proof.Machine

/-! ### Flags -/

/-- A flag instruction or DSYNC under its guard; a member of a failed gang takes GANG at it, with no effect (R314,
R361). -/
def State.gangSafe (s : State) (g : Guard) (srcs : List (BitVec 5)) (k : State → State) : Outcome :=
  s.guarded g srcs fun s => if s.me.gang.isEmpty then k s else s.raise (cause cGang 0)

/-- One change of a flag applied; what is posted in the same ic comes after a set value (R309). -/
def State.applyChange (s : State) (p : Nat) (c : FlagChange) : State :=
  if c.set then s.setFlag p c.k (c.amount + (s.pillar p).postedNow c.k) else s.addFlag p c.k c.amount

/-- A KPOST or KSET: at once, or in order behind a fence that delays it (R312). -/
def State.changeFlag (s : State) (k : Nat) (set : Bool) (amount : W32) : State :=
  let c : FlagChange := ⟨k, set, amount, s.me.order⟩
  if s.me.flagq.isEmpty && s.mayEffect s.cur.p s.cur.q s.me.order s.cur.p then s.applyChange s.cur.p c
  else s.onMe fun x => { x with flagq := x.flagq ++ [c] }

/-- The delayed changes of a sequencer whose fences let them be applied, in order with its other changes of the
pillar's flags: posts it sent before arrive first (R312). -/
def State.runFlagq (s : State) (p q : Nat) : State :=
  ((s.seq p q).flagq.takeWhile fun c =>
    s.mayEffect p q c.order p && !s.postPending p q c.order (· = p)).foldl (fun s c =>
    s.applyChange p c |>.onSeq p q fun x => { x with flagq := x.flagq.tail }) s

/-- A[31:0] + I (R312). -/
def State.kSum (s : State) (a i : BitVec 5) : W32 := s.kTarget a i

/-- KWAIT: nothing but its hold (R155, R312). -/
def execKwait (g : Guard) (_k : BitVec 5) (a _i : BitVec 5) (s : State) : Outcome := s.gangSafe g [a] fun s => s

/-- KPOST (R312). -/
def execKpost (g : Guard) (k : BitVec 5) (a i : BitVec 5) (s : State) : Outcome :=
  s.gangSafe g [a] fun s => s.changeFlag k.toNat false (s.kSum a i)

/-- KSET (R312). -/
def execKset (g : Guard) (k : BitVec 5) (a i : BitVec 5) (s : State) : Outcome :=
  s.gangSafe g [a] fun s => s.changeFlag k.toNat true (s.kSum a i)

/-- KRD (R312). -/
def execKrd (g : Guard) (k : BitVec 5) (s : State) : Outcome :=
  s.gangSafe g [] fun s => s.result 2 (.push ((s.flag s.cur.p k.toNat).zeroExtend 64))

/-- KPOSTR (R313): the post is on its way from its issue. -/
def execKpostr (g : Guard) (k : BitVec 5) (a b : BitVec 5) (sc : BitVec 3) (s : State) : Outcome :=
  s.gangSafe g [a, b] fun s =>
    let t := s.src a
    if bits t 7 57 ≠ 0 then s.raise (cause cAddr t)
    else { s with posts := s.posts ++
      [⟨s.cur.p, s.cur.q, s.me.order, t.toNat, k.toNat, (s.src b).extractLsb' 0 32, sc.toNat⟩] }

/-- FWAIT: nothing but its hold (R155, R315). -/
def execFwait (_g : Guard) (_f : BitVec 6) (_h : BitVec 1) (s : State) : Outcome := .next s

/-- The list without its element at a place. -/
def dropAt {α : Type} : List α → Nat → List α
  | [], _ => []
  | _ :: xs, 0 => xs
  | x :: xs, n + 1 => x :: dropAt xs n

/-- KPOSTR_ARRIVE (R313): post number `who.k` of those on their way. -/
def execKpostrArrive (s : State) : Outcome :=
  .next (match s.posts[s.who.k]? with
    | some n => ({ s with posts := dropAt s.posts s.who.k } : State).postFlag n.toP n.k n.amount
    | none => s)

/-- Whether a post may arrive: a release at its scope, behind every effect its scope reaches and the sender's earlier
changes of that pillar's flags (R312, R313). -/
def State.mayArrive (s : State) (n : Post) : Bool :=
  s.mayRelease n.fromP n.fromQ n.order n.scope && s.effectsDone n.fromP n.fromQ n.order n.scope &&
    (n.toP ≠ n.fromP || !(s.seq n.fromP n.fromQ).flagPending n.order) &&
    s.mayEffect n.fromP n.fromQ n.order n.toP &&
    s.posts.all fun m => m.fromP ≠ n.fromP || m.fromQ ≠ n.fromQ || m.toP ≠ n.toP || n.order ≤ m.order

/-! ### Messages -/

/-- MSEND (R317). -/
def execMsend (g : Guard) (a b : BitVec 5) (sc : BitVec 3) (s : State) : Outcome :=
  s.guarded g [a, b] fun s =>
    let t := s.src a
    if bits t 7 57 ≠ 0 then s.raise (cause cAddr t)
    else (s.onPillar t.toNat fun P => { P with pools := upd P.pools (stackOf s.cur.p) (· - 1) }).formRec t (s.src b)
      (.msend t.toNat sc.toNat (s.src b))

/-- MSEND_DELIVER (R317): record `who.rec_` of sequencer `who.p`, `who.q`. -/
def execMsendDeliver (s : State) : Outcome :=
  let p := s.who.p
  let q := s.who.q
  .next (match s.rec? p q s.who.rec_ with
    | some r =>
      match r.op with
      | .msend t _ v =>
        ((s.onPillar t fun P => { P with mq := P.mq ++ [(v, stackOf p)] }).wake t).endRec p q r.idx
      | _ => s
    | none => s)

/-- Whether an MSEND's entry may be appended: a release at its scope, in issue order to its target (R317, R318). -/
def State.mayDeliver (s : State) (p q : Nat) (r : Rec) (target scope : Nat) : Bool :=
  s.mayRelease p q r.order scope && s.mayEffect p q r.order target &&
    ((s.seq p q).earlier r.order).all fun e => match e.op with
      | .msend t _ _ => t ≠ target
      | _ => true

/-- CREDIT_RETURN (R317): credit number `who.k` of those on their way. -/
def execCreditReturn (s : State) : Outcome :=
  .next (match s.credits[s.who.k]? with
    | some (p, st, _) => ({ s with credits := dropAt s.credits s.who.k } : State).onPillar p fun P =>
        { P with pools := upd P.pools st (· + 1) }
    | none => s)

/-! ### Domain barriers -/

/-- AX1, the counts and the axes a sequencer holds for a launch (R73, R78). -/
def Seq.syncOf (x : Seq) (launch : Nat) : Bool × List Nat × List Bool :=
  if x.lastLaunch = some launch then (x.ax1, x.syncs, x.axes)
  else ((x.domains.find? fun d => d.1 = launch).map Prod.snd).getD (false, [0, 0, 0, 0], [])

/-- The sequencers of this package in a launch's domain (R28). -/
def State.domainSeqs (s : State) (l : Launch) : List (Nat × Nat) :=
  allSeqs.filter fun pq => bit l.domain (pq.1 % 32) && bit l.domain (36 + pq.2) &&
    (l.parts.any fun x => x.pkg = s.pkg && x.stack = stackOf pq.1)

/-- The axis of a sequencer's level-1 DSYNC, as its issue had it (R77). -/
def Seq.axis (x : Seq) : Bool := x.axes.headD x.ax1

/-- The members of a sequencer's group at a level in this package, itself included, at level 1 by an axis (R77). -/
def State.group (s : State) (l : Launch) (p lv : Nat) (ax : Bool) : List (Nat × Nat) :=
  (s.domainSeqs l).filter fun m =>
    match lv with
    | 1 => stackOf m.1 = stackOf p && (if ax then m.1 % 8 = p % 8 else m.1 / 8 = p / 8)
    | 2 => stackOf m.1 = stackOf p
    | _ => true

/-- The scope of a level (R319). -/
def levelScope (lv : Nat) : Nat := if lv ≤ 2 then 2 else if lv = 3 then 3 else 4

/-- Whether what a sequencer issued before its DSYNC has completed: the first condition of R320. -/
def State.dsyncQuiet (s : State) (p q : Nat) (r : Rec) : Bool :=
  ((s.seq p q).earlier r.order).all (fun e => !e.op.dsyncWaits) &&
    s.posts.all fun n => n.fromP ≠ p || n.fromQ ≠ q || r.order < n.order

/-- Whether a sequencer's DSYNC counts as issued: what it issued before has completed, and its release is performed;
cube operations are not waited for (R320). -/
def State.dsyncReady (s : State) (p q : Nat) (r : Rec) (lv : Nat) : Bool :=
  s.dsyncQuiet p q r &&
    !((s.seq p q).earlier r.order).any fun e => e.op ≠ .cube && s.releasePending p q (levelScope lv) e

/-- A sequencer's DSYNC not yet complete, with its level and count; none that only its image holds (R344). -/
def Seq.dsyncRec (x : Seq) : Option (Rec × Nat × Nat) :=
  x.recs.findSome? fun r => match r.op with
    | .dsync lv c => if x.imageOnly r.order then none else some (r, lv, c)
    | _ => none

/-- Whether a launch has iterations not yet placed or granted, those of chunks on their way among them (R78). -/
def Launch.unplaced (l : Launch) : Bool :=
  !l.abandoned && (decide (l.nextT < l.total) || (l.grants.any fun g => 0 < g.2.2.1) ||
    l.parts.any fun x => x.failed.isNone && x.unplaced.any fun c => 0 < c.2)

/-- Whether the axis of a member's level-1 DSYNC number c + 1 is the given one (R78). -/
def axisFits (axes : List Bool) (issued c : Nat) (ax : Bool) : Bool := axes[issued - (c + 1)]? == some ax

/-- Whether another member lets a DSYNC with count c at a level complete (R78, R320). -/
def State.memberMet (s : State) (l : Launch) (m : Nat × Nat) (lv c : Nat) (ax : Bool) : Bool :=
  let x := s.seq m.1 m.2
  let sync := x.syncOf l.id
  let done := sync.2.1.getD (lv - 1) 0
  let here := x.lastLaunch = some l.id
  let waits := match x.dsyncRec with
    | some (r, lv', c') => here && lv' = lv && c' = c && s.dsyncReady m.1 m.2 r lv
    | none => false
  let pending := if here && x.syncing = some lv then 1 else 0
  let fits := lv ≠ 1 || axisFits sync.2.2 (done + pending) c ax
  ((c < done || waits) && fits) || ((!x.iter.any fun i => i.launch = l.id) && !l.unplaced &&
    !s.away.any fun a => a.p = m.1 && a.q = m.2 && a.iter.any fun i => i.launch = l.id)

/-- Whether the members of a launch in other packages let a DSYNC with count c complete: at level 4 what the fabric
has told of each package (R77, R78, R385). -/
def Launch.fabricMet (l : Launch) (pkg lv c : Nat) : Bool :=
  lv ≠ 4 || !bit l.domain 38 || l.parts.all fun x => x.pkg = pkg || l.fabric.any fun f => f.1 = x.pkg && c < f.2

/-- Whether a DSYNC may complete: it counts as issued itself, and every other member of its group lets it (R78, R320);
with no other member the first condition is enough (R320). -/
def State.mayComplete (s : State) (p q : Nat) : Bool :=
  match (s.seq p q).dsyncRec with
  | none => false
  | some (r, lv, c) =>
    match s.launchOf p q with
    | none => s.dsyncQuiet p q r
    | some l =>
      let ax := (s.seq p q).axis
      if (domMembers l.domain p ax).getD (lv - 1) 0 = 1 then s.dsyncQuiet p q r
      else s.dsyncReady p q r lv && l.fabricMet s.pkg lv c &&
        (s.group l p lv ax).all fun m => m = (p, q) || s.memberMet l m lv c ax

/-- DSYNC (R319, R320). -/
def execDsync (g : Guard) (l : BitVec 3) (s : State) : Outcome :=
  s.gangSafe g [] fun s =>
    let lv := l.toNat
    (s.formRec 0 0 (.dsync lv (s.me.syncs.getD (lv - 1) 0))).onMe fun x => { x with
      syncing := some lv
      axes := if lv = 1 then x.ax1 :: x.axes else x.axes }

/-- DSYNC_COMPLETE (R78, R320, R385): of sequencer `who.p`, `who.q`; with `who.up`, what the fabric brings of launch
`who.l`: every member in package `who.k` that is not finished counts as having issued `who.n` level-4 DSYNCs. -/
def execDsyncComplete (s : State) : Outcome :=
  let p := s.who.p
  let q := s.who.q
  let w := s.who
  .next (if w.up then s.onLaunch w.l fun l => { l with fabric := (w.k, w.n) :: l.fabric.filter fun f => f.1 ≠ w.k } else
    match (s.seq p q).dsyncRec with
    | some (r, lv, _) => (s.onSeq p q fun x => { x with
        syncing := none
        syncs := upd x.syncs (lv - 1) (· + 1) }).endRec p q r.idx
    | none => s)

/-! ### Job control -/

/-- JRAISE (R321). -/
def execJraise (g : Guard) (a b : BitVec 5) (s : State) : Outcome :=
  s.guarded g [a, b] fun s => s.formRec (s.src a) (s.src b) (.jcb true)

/-- JPOST (R321). -/
def execJpost (g : Guard) (a b : BitVec 5) (s : State) : Outcome :=
  s.guarded g [a, b] fun s => s.formRec (s.src a) (s.src b) (.jcb false)

/-- The block's physical address, or the fault of R322; the rules give ADDR's FINFO no value (log 25). -/
def State.jcbAddress (s : State) (p q : Nat) (a : W64) : State × Xlate :=
  if bits a 0 6 ≠ 0 ∨ bits a 52 12 ≠ 0 then
    let (c, s) := s.choose
    (s, .bad cAddr (BitVec.ofNat 64 c))
  else
    match s.translate (stackOf p) (s.jobOf p q) a.toNat .write with
    | (s, .ok pa leaf) =>
      let size := (((s.stack (stackOf p)).tlbHit (s.jobOf p q) a.toNat).map fun t => t.size).getD 65536
      if leafOrd leaf = 0 then (s, .ok pa leaf) else (s, .bad cPerm (xlateInfo a.toNat (levelOf size) 0 true))
    | other => other

/-- The step of a JPOST or JRAISE at its block (R321); the package's own memory is one block by either address
(R384). -/
def State.jcbPerform (s : State) (p q : Nat) (r : Rec) (isRaise : Bool) (pa : Nat) : State :=
  let block := s.canonPa pa
  let s :=
    if isRaise then
      let posted := (s.seq p q).iter.any fun i => i.posted.contains block
      s.jcbStep pa fun j => if posted || j.complete then { j with err := j.err ||| 4 } else j.raise r.opb.toNat
    else
      (s.jcbStep pa fun j => j.addCount r.opb.toNat s.time).onSeq p q fun x =>
        { x with iter := x.iter.map fun i => { i with posted := mark i.posted block } }
  s.endRec p q r.idx

/-- JCB_STEP (R321, R322): record `who.rec_` of sequencer `who.p`, `who.q`; a translation that the host may serve
waits for its answer (R349). -/
def execJcbStep (s : State) : Outcome :=
  let p := s.who.p
  let q := s.who.q
  .next (match s.rec? p q s.who.rec_ with
    | some r =>
      match r.op with
      | .jcb isRaise =>
        (match s.jcbAddress p q r.opa with
          | (s, .ok pa _) => s.jcbPerform p q r isRaise pa
          | (s, .bad c info) =>
            match s.hostAsk p q r.idx c info with
            | (s, true) => s
            | (s, false) => s.faultRec p q r.idx c info)
      | _ => s
    | none => s)

/-- Whether a JPOST's or JRAISE's step may be performed: as an SO access, and for JPOST as a release at sys scope
(R242, R246, R321); not while its block's HBM stack is in self-refresh (R286). -/
def State.mayStep (s : State) (p q : Nat) (r : Rec) (isRaise : Bool) : Bool :=
  let a : MemAcc := ⟨r.opa.toNat, 64, true, true⟩
  !r.faulted && s.mayAccess p q r.order [a] false false && !s.hostWaiting p q r.idx (bits r.opa 0 52) &&
    !s.missWaits (stackOf p) (s.jobOf p q) (bits r.opa 0 52) &&
    !((s.pageOf p q a).any fun x => s.atomicsHeld x.1) &&
    (isRaise || s.mayRelease p q r.order 6) &&
    !(s.seq p q).fences.any fun f =>
      f.acq.isNone && decide (f.order < r.order) && bit f.kinds 3 && s.accReached p q f.scope a && s.fencePending p q f

/-! ### Trays -/

/-- The items of a DEFER: for each enabled element, in row-major order, its values (R325). -/
def deferItems (vs : List VReg) (mask : PReg) : List (List W32) :=
  ((List.range 1024).filter mask.on).map fun e => vs.map fun v => at0 v e

/-- The register names of a tray instruction. -/
def trayNames (v : BitVec 5) (c : BitVec 3) : List (BitVec 5) := (List.range c.toNat).map fun i => v + BitVec.ofNat 5 i

/-- DEFER (R325): its items into the tray at once, or FSTATE with WHY 3 through its record. -/
def execDefer (g : Guard) (v : BitVec 5) (c m : BitVec 3) (t : BitVec 2) (s : State) : Outcome :=
  s.guarded g [] fun s =>
    let items := deferItems ((trayNames v c).map s.vreg) (s.vpred m)
    match s.mine.deferTo t.toNat items with
    | some P => ((s.onMine fun _ => P).wakeSeq s.cur.p s.cur.q).serveTray s.cur.p t.toNat
    | none =>
      let i := s.me.freeRec
      (s.formRec 0 0 (.defer t.toNat items)).faultRec s.cur.p s.cur.q i cFstate deferInfo

/-- DRAIN (R325): joins its tray's queue. -/
def execDrain (g : Guard) (v : BitVec 5) (c m : BitVec 3) (t : BitVec 2) (s : State) : Outcome :=
  s.guarded g [] fun s =>
    let i := s.me.freeRec
    let regs := (trayNames v c).map fun r => physV s.me.rbase r.toNat
    ((s.formRec 0 0 (.drain t.toNat regs m.toNat none)).onMine fun P =>
      { P with drains := upd P.drains t.toNat (· ++ [(s.cur.q, i)]) }).serveTray s.cur.p t.toNat

/-- The first n elements. -/
def firstN (n : Nat) : PReg := PReg.of fun e => decide (e < n)

/-- What a DRAIN's items write into its registers and flush predicate (R325). -/
def drainResults (regs : List Nat) (p : Nat) (items : List (List W32)) : List Payload :=
  let mask := firstN items.length
  (regs.mapIdx fun i r => .vec r (VReg.of fun e => (items.getD e []).getD i 0) mask) ++
    if p = 0 then [] else [.vpred p mask pOnes]

/-- TRAY_DELIVERY (R162, R325): record `who.rec_` of sequencer `who.p`, `who.q`, whose items are taken: its
registers land in the pillar's next ic, the first whose port sees the flag, in the Y slot of its long word. -/
def execTrayDelivery (s : State) : Outcome :=
  let p := s.who.p
  let q := s.who.q
  .next (match s.rec? p q s.who.rec_ with
    | some r =>
      match r.op with
      | .drain t regs pd (some items) =>
        let t1 := (s.pillar p).ic + 1
        let s := (s.onSeq p q fun x => { x with
          inflight := x.inflight ++ (drainResults regs pd items).map fun w => ⟨t1, r.slot, r.order, w⟩ }).onPillar p fun P =>
            { P with drains := upd P.drains t fun l => l.filter (· ≠ (q, r.idx)) }
        (s.postFlag p (28 + t) (BitVec.ofNat 32 items.length)).endRec p q r.idx
      | _ => s
    | none => s)

/-- The drain of a tray that may deliver: the first of its queue, once it has taken its items. -/
def State.trayReady (s : State) (p t : Nat) : Option (Nat × Nat) :=
  match (s.pillar p).drains.getD t [] with
  | (q, i) :: _ =>
    match s.rec? p q i with
    | some r => if r.taken && s.mayRelease p q r.order 1 && s.mayEffect p q r.order p then some (q, i) else none
    | none => none
  | [] => none

end Sys2Proof.Machine
end

