-- ==== Sys2Proof/Machine/Walker.lean ====
section
/-! DEFINITION. The loop-nest walker: placing iterations (R29, R32, R71-R76), clearing a stack (R75), chunks and gangs
(R70, R79, R80), and leadership over several participants (R68, R81-R86). -/

namespace Sys2Proof.Machine

/-! ### Who may use a sequencer -/

/-- The sequencers of a stack in the order of their numbers (R71). -/
def seqsOf (st : Nat) : List (Nat × Nat) := (pillarsOf st).flatMap fun p => [(p, 0), (p, 1)]

/-- Whether a launch's domain selects a sequencer of one of its stacks (R28). -/
def Launch.selects (l : Launch) (p q : Nat) : Bool := bit l.domain (p % 32) && bit l.domain (36 + q)

/-- The participant a stack of this package is, if the launch has it and it has not failed. -/
def Launch.partHere (l : Launch) (pkg st : Nat) : Option Part :=
  l.parts.find? fun x => x.pkg = pkg && x.stack = st && x.failed.isNone

/-- A gang that several participants still wait for (R80). -/
def Launch.gangWaits (l : Launch) : Bool := l.gang && decide (2 ≤ l.parts.length) && decide (l.nextT < l.total)

/-- Whether a stack places iterations, is cleared and sends heartbeats: not after a thermal shutdown, nor out of
service (R378, R388). -/
def Stack.serves (k : Stack) : Bool := !k.shut && bit k.bootst 3

/-- The launches with iterations to place on a stack, or whose gang waits there, in the order they started (R71, R72,
R80, R339). A gang of another job than the stack's current one does not count: it holds nothing back there until the
stack is cleared for its job (R75, log 86). -/
def State.walkable (s : State) (st : Nat) : List Launch :=
  s.launches.filter fun l =>
    !l.ended && !l.abandoned && (s.stack st).serves && (s.stack st).job = some l.job && !(s.stack st).holdsJob l.job &&
      (l.partHere s.pkg st).any fun x => l.gangWaits || x.unplaced.any fun c => decide (0 < c.2)

/-- Whether a sequencer runs no iteration (R71). -/
def State.isIdle (s : State) (p q : Nat) : Bool := (s.seq p q).iter.isNone && (s.seq p q).run = .idle

/-- Whether a sequencer is held for the gang of another launch (R71, R80). -/
def State.heldForOther (s : State) (id p q : Nat) : Bool :=
  s.launches.any fun l => l.id ≠ id && l.parts.any fun x => x.pkg = s.pkg && x.held.contains (p, q)

/-- The launch that gets a free sequencer: the one started earliest among those that could use it (R72, R80). -/
def State.firstUser (s : State) (ls : List Launch) (p q : Nat) : Option Launch :=
  if s.isIdle p q then ls.find? fun l => l.selects p q && !s.heldForOther l.id p q else none

/-- The sequencers of a stack that are free for a launch and that no earlier launch uses. -/
def State.seats (s : State) (st : Nat) (l : Launch) : List (Nat × Nat) :=
  (seqsOf st).filter fun m => ((s.firstUser (s.walkable st) m.1 m.2).map fun x => x.id) = some l.id

/-! ### f0 -/

/-- Whether an iteration of another launch runs on a pillar. -/
def State.othersRun (s : State) (id p : Nat) : Bool :=
  [0, 1].any fun q => (s.seq p q).iter.any fun i => i.launch ≠ id

/-- What R74 lets the walker do on a pillar for a launch: nothing yet, or place, with the WHY of the FSTATE that its
first long word then raises. The wait of step 1 comes before the case of an EMPTY f0 without room, and delays no other
pillar (log 65). -/
def State.f0Check (s : State) (l : Launch) (p : Nat) : Option (Option Nat) :=
  let F := s.frame p 0
  match F.state with
  | .filling | .draining =>
    if (s.pillar p).f0Wait.any fun t => t + (s.stack (stackOf p)).wdl < s.time then some (some 4) else none
  | .ready | .empty =>
    if F.state = .ready ∧ (s.pillar p).f0Launch = some l.id then some none
    else if s.othersRun l.id p then none
    else if F.state = .empty ∧ 4096 ≤ (s.pillar p).unitsUsed then some (some 3)
    else some none

/-- f0 with a launch's argument block and the marks of its poisoned sectors (R74, R354). -/
def argFrame (args : List Byte) (marks : List Nat) (count : BitVec 48) : Frame where
  state := .ready
  ph := false
  auto := true
  size := 1
  expb := 4096
  land := 4096
  life := 1800
  expiry := count + 7372800
  drn := 0
  xp := false
  zeroEnd := none
  data := Mem.writeN [] 0 args
  poison := marks

/-- f0 refilled, when it is not READY with the launch's own block (R74). -/
def State.refillF0 (s : State) (l : Launch) (p : Nat) : State :=
  if (s.frame p 0).state = .ready ∧ (s.pillar p).f0Launch = some l.id then s
  else ((((s.onFrame p 0 fun _ => argFrame l.args l.argMarks (s.pillar p).fadeCount).onPillar p fun P => { P with
    f0Launch := some l.id
    rewrite := P.rewrite.filter fun w => w.1 ≠ 0 }).noRenewal p 0).logMarks p 0 []).wake p

/-! ### Placing -/

/-- The indices of iteration t: pairs of level and j (R29). -/
def indices (levels : List (Nat × Int × Nat × Int × Nat)) (t : Nat) : List (Nat × Nat) :=
  let byPos := (List.range levels.length).reverse.filterMap fun pos => levels.find? fun l => l.2.2.2.2 = pos
  (byPos.foldl (fun (a : Nat × List (Nat × Nat)) l =>
    (a.1 / l.2.2.1, a.2 ++ [(l.1, a.1 % l.2.2.1)])) (t, [])).2

/-- The value of s9 + L in iteration t (R29). -/
def indexValue (levels : List (Nat × Int × Nat × Int × Nat)) (t lv : Nat) : W64 :=
  match levels.find? (fun l => l.1 = lv), (indices levels t).find? fun x => x.1 = lv with
  | some l, some x => ofInt64 (l.2.1 + x.2 * l.2.2.2.1)
  | _, _ => 0

/-- AX1, the counts, the axes and the format table on the sequencer's entry into a launch (R32, R73, R76). -/
def Seq.enterLaunch (x : Seq) (l : Launch) : Seq :=
  if x.lastLaunch = some l.id then x
  else
    let kept := match x.lastLaunch with
      | some old => (old, x.ax1, x.syncs, x.axes) :: x.domains.filter fun d => d.1 ≠ old
      | none => x.domains
    let first := kept.all fun d => d.1 ≠ l.id
    let d := x.syncOf l.id
    { x with
      domains := kept
      lastLaunch := some l.id
      ax1 := d.1
      syncs := d.2.1
      axes := d.2.2
      fts := if first then (List.range 16).map fun i => at0 l.fts i else x.fts }

/-- The sequencer of a pillar at the start of iteration t of a launch (R73, R74). -/
def Seq.place (x : Seq) (l : Launch) (p t : Nat) (fault : Option Nat) : Seq :=
  let x := x.enterLaunch l
  { x with
    pc := addrBits l.entry
    delay := none
    run := .running
    iter := some ⟨l.id, t, false, false, []⟩
    loops := []
    queue := List.replicate 16 0
    ueDue := x.ueDue.filter fun e => bits e.word 0 4 ≠ 7
    named := List.replicate 9 0 ++ (List.range 6).map (fun i => indexValue l.levels t i) ++ [0]
    preds := List.replicate 16 false
    vHold := none
    fHold := none
    userBank := Bank.empty
    supBank := Bank.empty
    members := domMembers l.domain p x.ax1
    rbase := 0
    wpos := 0
    rpos := 0
    lpitch := 1
    chkint := 0
    mode := false
    pmode := false
    bd := false
    regions := []
    latch := true
    gang := []
    poisonDue := false
    firstFault := fault
    heldSince := none
    wdog := false
    fetchFault := none
    delivered := [] }

/-- Iteration t of a launch placed on a sequencer (R72-R74). -/
def State.placeOn (s : State) (l : Launch) (p q t : Nat) (fault : Option Nat) : State :=
  (if fault.isNone then s.refillF0 l p else s).onSeq p q fun x => x.place l p t fault

/-- The next unplaced iteration of a participant taken (R72). -/
def takeNext : List (Nat × Nat) → Option (Nat × List (Nat × Nat))
  | [] => none
  | (t, n) :: cs => if n = 0 then takeNext cs else some (t, if n = 1 then cs else (t + 1, n - 1) :: cs)

/-- One iteration of a launch placed on the given sequencer of a stack, with the FSTATE its pillar's f0 brings it; a
sole participant then holds its next chunk when it wants one (R70). -/
def State.placeNext (s : State) (id st : Nat) (m : Nat × Nat) (fault : Option Nat) : State :=
  match s.launch? id with
  | none => s
  | some l =>
    match (l.partHere s.pkg st).bind fun x => takeNext x.unplaced with
    | some (t, rest) =>
      (((s.placeOn l m.1 m.2 t fault).onPart id (l.partOf s.pkg st) fun x =>
        { x with unplaced := rest, held := x.held.filter (· ≠ m) }).onLaunch id Launch.selfGrant).onPillar m.1 fun P =>
          { P with f0Wait := none }
    | none => s

/-- The seats a launch takes on a stack now: for a gang all of its share at once, else the lowest-numbered free
sequencer whose pillar is ready; none while it waits (R72, R74, R79, R80). -/
def State.placement (s : State) (st : Nat) (l : Launch) : List (Nat × Nat) :=
  match l.partHere s.pkg st with
  | none => []
  | some x =>
    let n := x.left
    if l.gang then
      let seats := if 2 ≤ l.parts.length then x.held.filter fun m => s.isIdle m.1 m.2 else s.seats st l
      let use_ := seats.take n
      if n ≠ 0 && use_.length = n && use_.all fun m => (s.f0Check l m.1).isSome then use_ else []
    else if n = 0 then []
    else ((s.seats st l).find? fun m => (s.f0Check l m.1).isSome).toList

/-- The launch a stack's walker places next, with its seats. -/
def State.nextPlacement (s : State) (st : Nat) : Option (Nat × List (Nat × Nat)) :=
  (s.walkable st).findSome? fun l => match s.placement st l with
    | [] => none
    | ms => some (l.id, ms)

/-- PLACE_ITERATION (R72-R74, R79): the walker of stack `who.st`; a gang's iterations at one point, f0 of each pillar
as it was found before. -/
def execPlaceIteration (s : State) : Outcome :=
  let st := s.who.st
  .next (match s.nextPlacement st with
    | none => s
    | some (id, ms) =>
      let found := ms.map fun m => (m, ((s.launch? id).bind fun l => s.f0Check l m.1).join)
      (found.foldl (fun s m => s.placeNext id st m.1 m.2) s).onStack st fun k =>
        { k with lastPlace := some (s.pillar (32 * st)).ic })

/-- Whether a stack's walker may place: 2 ic after its last placement (R72), and not while a WLOAD runs (R59, R250).
-/
def State.mayPlace (s : State) (st : Nat) : Bool :=
  ((s.stack st).lastPlace.all fun t => t + 2 ≤ (s.pillar (32 * st)).ic) && !(s.stack st).req &&
    !s.wloadRuns st && (s.nextPlacement st).isSome

/-- The TIME since which the walker waits for a FILLING or DRAINING f0 of a pillar (R74). -/
def State.noteF0 (s : State) (p : Nat) : State :=
  let waits := ((s.frame p 0).state = .filling || (s.frame p 0).state = .draining) &&
    (s.walkable (stackOf p)).any fun l => [0, 1].any fun q => l.selects p q && s.isIdle p q
  s.onPillar p fun P => { P with f0Wait := if waits then some (P.f0Wait.getD s.time) else none }

/-! ### Clearing a stack (R75) -/

/-- A sequencer cleared for another job. -/
def Seq.cleared (x : Seq) : Seq :=
  { x with
    vregs := List.replicate 32 (vfill 0)
    vpreds := List.replicate 8 pZero
    accs := x.accs.map fun _ => Acc.zero
    dirs := List.replicate 8 (List.replicate 1024 0)
    norms := List.replicate 8 (List.replicate 16 0)
    geos := List.replicate 8 0
    bnds := List.replicate 8 0
    ueDue := x.ueDue.filter fun e => bits e.word 0 4 ≠ 5 ∧ bits e.word 0 4 ≠ 6
    userBank := Bank.empty
    supBank := Bank.empty }

/-- A pillar cleared for another job; its instruction cache (R153), its chain queue (R301) and its trays (R323) too.
-/
def Pillar.cleared (P : Pillar) : Pillar :=
  { P with
    seqs := P.seqs.map Seq.cleared
    frames := List.replicate 64 Frame.cleared
    flags := List.replicate 32 0
    newPosts := []
    mq := []
    bslots := List.replicate 4 (List.replicate 32 BSlot.zero)
    rowBuf := List.replicate 32 []
    rowBad := List.replicate 32 0
    chainQ := []
    trays := List.replicate 4 []
    icache := []
    rewrite := none
    f0Launch := none }

/-- Messages of a stack's sequencers on their way to a pillar (R317). -/
def State.msendsTo (s : State) (p st : Nat) : Nat :=
  ((seqsOf st).map fun m => ((s.seq m.1 m.2).recs.filter fun r => match r.op with
    | .msend t _ _ => t = p
    | _ => false).length).foldl (· + ·) 0

/-- The credits of a pillar whose message queue is emptied: 16 in each pool, but for messages still on their way
(R316, R317). -/
def State.refillPools (s : State) (p : Nat) : State :=
  { s with credits := s.credits.filter fun c => c.1 ≠ p }.onPillar p fun P =>
    { P with pools := (List.range 4).map fun st => 16 - s.msendsTo p st }

/-- A stack cleared (R75): its pillars, its handle table, its translations under the old JOBID. -/
def State.clearStack (s : State) (st : Nat) : State :=
  let s := (pillarsOf st).foldl (fun s p => (((s.onPillar p Pillar.cleared).refillPools p).disown 3 p fun _ => true).wake p) s
  s.onStack st fun k => { k with
    handles := []
    tlb := k.tlb.filter fun t => some t.job ≠ k.job
    cleared := true }

/-- STACK_CLEAR (R75): stack `who.st` for the job `who.k`. -/
def execStackClear (s : State) : Outcome :=
  .next ((s.clearStack s.who.st).onStack s.who.st fun k => { k with job := some s.who.k })

/-- The jobs that wait for a stack: of the packets held there, the longest held first, then of launches that other
stacks' processors have started, with iterations to place here (R75, log 68). -/
def State.jobsWaiting (s : State) (st : Nat) : List Nat :=
  ((s.stack st).waiting.map fun w => (s.queue st w.1).job) ++
    (s.launches.filter fun l => !l.ended && !l.abandoned && l.stack ≠ st &&
      (l.partHere s.pkg st).any fun x => l.gangWaits || 0 < x.left).map fun l => l.job

/-- The job a stack may be cleared for once its own job's launches have ended: the first that waits (R75, R339). -/
def State.clearFor (s : State) (st : Nat) : Option Nat :=
  let k := s.stack st
  if k.req || !s.drainedFor st || !k.serves then none
  else if k.waiting.any fun w => k.job = some (s.queue st w.1).job && !k.holdsJob (s.queue st w.1).job then none
  else ((s.jobsWaiting st).filter fun j => k.job ≠ some j).head?

/-! ### Chunks -/

/-- The healthy participants that follow one, in order (R68). -/
def Launch.followers (l : Launch) (i : Nat) : List Nat :=
  let n := l.parts.length
  ((List.range (n - 1)).map fun d => (i + 1 + d) % n).filter fun j => (l.parts[j]?).any fun x => x.failed.isNone

/-- The log holders of a requester: the two healthy participants after it, or the only one (R83); the last healthy
participant has none, so that nobody posts its retirements (log 69). -/
def Launch.holders (l : Launch) (i : Nat) : List Nat := (l.followers i).take 2

/-- Whether a participant asks for a chunk now (R70). -/
def Launch.mayAsk (l : Launch) (i : Nat) : Bool :=
  !l.gang && decide (2 ≤ l.parts.length) && decide (l.nextT < l.total) && (l.requests.all fun r => r.2 ≠ i) &&
    (l.grants.all fun g => g.1 ≠ i) && (l.part? i).any fun x => x.failed.isNone && x.wants l.chunk

/-- The leader answers one request: the next chunk, on its way to its log holders; refused once next_t is T (R70,
R83). -/
def Launch.answer (l : Launch) (i : Nat) : Launch :=
  let n := min l.chunk (l.total - l.nextT)
  if n = 0 then l
  else { l with nextT := l.nextT + n, grants := l.grants ++ [(i, l.nextT, n, l.holders i)] }

/-- The leader answers the requests that reached it before a tick, in order; none during an election (R70, R85). -/
def Launch.answerBefore (l : Launch) (tick : Nat) : Launch :=
  if l.electing then l
  else { (l.requests.filter fun r => r.1 < tick).foldl (fun (l : Launch) r => l.answer r.2) l with
    requests := l.requests.filter fun r => tick ≤ r.1 }

/-- A request put behind those that reached the leader earlier, and among those of its own tick by participant order
(R70). -/
def insertRequest (r : Nat × Nat) : List (Nat × Nat) → List (Nat × Nat)
  | [] => [r]
  | x :: xs => if x.1 < r.1 || (x.1 = r.1 && x.2 ≤ r.2) then x :: insertRequest r xs else r :: x :: xs

/-- Participant i hears from participant j at a TIME (R82). -/
def Launch.hears (l : Launch) (i j time : Nat) : Launch :=
  { l with parts := upd l.parts i fun x => { x with heard := upd x.heard j fun _ => time } }

/-- Whether a message of a participant counts: one declared failed takes no further part, and what it sends later is
discarded (R82). -/
def Launch.takesFrom (l : Launch) (j : Nat) : Bool := (l.part? j).any fun x => x.failed.isNone

/-- Whether a participant takes a message with an epoch: not below the highest it has seen (R81). -/
def Launch.takesEpoch (l : Launch) (i epoch : Nat) : Bool := (l.part? i).any fun x => x.epoch ≤ epoch

/-- A participant sees an epoch (R81). -/
def Launch.sees (l : Launch) (i epoch : Nat) : Launch :=
  { l with parts := upd l.parts i fun x => { x with epoch := max x.epoch epoch } }

/-- CHUNK_REQUEST (R70, R82): a request of participant `who.part` reaches the leader of launch `who.l`; it is answered
with those of its time. -/
def execChunkRequest (s : State) : Outcome :=
  let w := s.who
  .next (s.onLaunch w.l fun l =>
    if l.takesFrom w.part then
      ({ l with requests := insertRequest (s.tick, w.part) l.requests }).hears l.leader w.part s.time
    else l)

/-- The requests of earlier times answered (R70). -/
def State.answerRequests (s : State) : State :=
  { s with launches := s.launches.map fun l => if l.requests.isEmpty then l else l.answerBefore s.tick }

/-- GRANT_LOG_ENTRY (R81-R83): holder `who.k` logs the chunk from `who.v` granted to participant `who.part` of launch
`who.l` under the epoch `who.n`, and acknowledges it; under an old epoch it is discarded. -/
def execGrantLogEntry (s : State) : Outcome :=
  let w := s.who
  .next (s.onLaunch w.l fun l =>
    match l.grants.find? fun g => g.1 = w.part && g.2.1 = w.v with
    | some g =>
      if !l.takesEpoch w.k w.n || !l.takesFrom l.leader then l else
      ((({ l with
        parts := upd l.parts w.k fun x => { x with log := x.log ++ [(w.part, w.v, g.2.2.1)] }
        grants := l.grants.map fun (h : Nat × Nat × Nat × List Nat) =>
          if h.1 = w.part ∧ h.2.1 = w.v then (h.1, h.2.1, h.2.2.1, h.2.2.2.filter (· ≠ w.k))
          else h }).sees w.k w.n).hears w.k l.leader s.time).hears l.leader w.k s.time
    | none => l)

/-- CHUNK_GRANT (R70, R81, R83): the chunk of `who.n` iterations from `who.v` reaches participant `who.part` of launch
`who.l`, under the leader's epoch `who.k`; under an old epoch, or of a leader declared failed, it is discarded. -/
def execChunkGrant (s : State) : Outcome :=
  let w := s.who
  .next (s.onLaunch w.l fun l =>
    if !l.takesEpoch w.part w.k || !l.takesFrom w.part || !l.takesFrom l.leader then l else
    (({ l with
      grants := l.grants.filter fun g => !(g.1 = w.part && g.2.1 = w.v)
      nextT := max l.nextT (w.v + w.n)
      parts := upd l.parts w.part fun x => x.receive w.v w.n }).sees w.part w.k).hears w.part l.leader s.time)

/-! ### Gangs -/

/-- GANG_REPORT (R80, R82): participant `who.part` of launch `who.l` reports its free sequencers and holds them, in
the order of their numbers (R79); one of another package reports `who.n` of its own. -/
def execGangReport (s : State) : Outcome :=
  let w := s.who
  .next (match s.launch? w.l with
    | none => s
    | some l =>
      match (l.part? w.part).filter fun x => x.failed.isNone with
      | some x =>
        let new := if x.pkg = s.pkg then s.seats x.stack l else (List.range w.n).map fun i => (i / 2, i % 2)
        (s.onPart w.l w.part fun x =>
          { x with held := allSeqs.filter fun m => x.held.contains m || new.contains m }).onLaunch w.l fun l =>
            l.hears l.leader w.part s.time
      | none => s)

/-- Whether a participant has free sequencers to report. -/
def State.mayReport (s : State) (l : Launch) (i : Nat) : Bool :=
  l.gangWaits && !l.electing && (l.part? i).any fun x =>
    x.pkg = s.pkg && x.failed.isNone && (s.seats x.stack l).any fun m => !x.held.contains m

/-- Reported sequencers of a launch's healthy participants (R80). -/
def Launch.reportedN (l : Launch) : Nat :=
  l.parts.foldl (fun n x => if x.failed.isNone then n + x.held.length else n) 0

/-- The shares of a gang grant, in participant order: participant, first t, size (R79, R80). -/
def Launch.shares (l : Launch) : List (Nat × Nat × Nat) :=
  ((l.parts.mapIdx fun i x => (i, x)).foldl (fun (a : Nat × List (Nat × Nat × Nat)) ix =>
    let n := if ix.2.failed.isNone then min ix.2.held.length (l.total - a.1) else 0
    (a.1 + n, if n = 0 then a.2 else a.2 ++ [(ix.1, a.1, n)])) (0, [])).2

/-- GANG_GRANT (R79-R83): the leader of launch `who.l` grants [0, T) under its epoch `who.k`, with the log entries
of each participant's share; each participant keeps the lowest-numbered sequencers it needs and releases the others.
Under an old epoch, or of a leader declared failed, it is discarded. -/
def execGangGrant (s : State) : Outcome :=
  .next (s.onLaunch s.who.l fun l =>
    if !l.takesFrom l.leader || (List.range l.parts.length).any fun i => l.takesFrom i && !l.takesEpoch i s.who.k then l else
    let sh := l.shares
    let l := sh.foldl (fun (l : Launch) g => { l with
      parts := (l.holders g.1).foldl (fun ps h => upd ps h fun x => { x with log := x.log ++ [g] })
        (upd l.parts g.1 fun x => x.receive g.2.1 g.2.2) }) l
    { l with
      nextT := l.total
      parts := l.parts.mapIdx fun i x => { x with
        held := x.held.take x.left
        epoch := max x.epoch s.who.k
        heard := if x.failed.isNone && i ≠ l.leader then upd x.heard l.leader fun _ => s.time else x.heard } })

/-! ### Leadership -/

/-- HEARTBEAT (R82): participant `who.part` of launch `who.l`, if it is one of this package and well, to every
other. -/
def execHeartbeat (s : State) : Outcome :=
  let w := s.who
  .next (match s.launch? w.l with
    | none => s
    | some l =>
      match l.part? w.part with
      | some x =>
        if x.pkg = s.pkg ∧ x.failed.isNone ∧ (s.stack x.stack).serves ∧ !x.mute then
          let others := (List.range l.parts.length).filter (· ≠ w.part)
          { s with agenda := (others.map fun r =>
            Act.event .heartbeatReceive { l := w.l, part := r, k := w.part, v := x.epoch, n := x.retired }) ++ s.agenda }
        else s
      | none => s)

/-- A cumulative count posted for a participant by its first log holder (R84). -/
def State.postCount (s : State) (l : Launch) (i n : Nat) : State :=
  match l.part? i with
  | some x =>
    (s.jcbStep l.jcb fun j => j.addCount (n - x.posted) s.time).onPart l.id i fun x =>
      { x with posted := max x.posted n, copied := max x.copied n, retired := max x.retired n }
  | none => s

/-- HEARTBEAT_RECEIVE (R81, R82, R84): at participant `who.part` of launch `who.l` from participant `who.k`, with
epoch `who.v` and count `who.n`. The count is posted with a later heartbeat while self-refresh holds the block
(R286). -/
def execHeartbeatReceive (s : State) : Outcome :=
  let w := s.who
  .next (match s.launch? w.l with
    | none => s
    | some l =>
      match l.part? w.part, l.part? w.k with
      | some r, some x =>
        if x.failed.isSome ∨ w.v < r.epoch then s
        else
          let s := s.onPart w.l w.part fun r => { r with heard := upd r.heard w.k fun _ => s.time, epoch := w.v }
          let s := if (l.holders w.k).head? = some w.part && !l.abandoned && !s.atomicsHeld l.jcb then
            s.postCount l w.k w.n else s
          s.checkLaunch w.l
      | _, _ => s)

/-- Whether some participant sees another's silence of 30 µs (R82). -/
def State.silent (s : State) (l : Launch) (i : Nat) : Bool :=
  (l.parts.mapIdx fun j x => (j, x)).any fun jx =>
    jx.1 ≠ i && jx.2.pkg = s.pkg && jx.2.failed.isNone && jx.2.heard.getD i 0 + 30000 ≤ s.time

/-- An election begins, with the next epoch (R81, R85, R392): the lowest healthy participant gathers the logs; under
host assistance the host is asked first. -/
def State.elect (s : State) (id : Nat) : State :=
  match s.launch? id with
  | none => s
  | some l =>
    match (List.range l.parts.length).find? fun j => (l.part? j).any fun x => x.failed.isNone with
    | none => s
    | some c =>
      let ask := bit s.fnmode 1
      let s := s.onLaunch id fun l =>
        let l := { l with epoch := l.epoch + 1, electing := true, candidate := if ask then none else some c, gathered := [] }
        if ask then l else l.sees c l.epoch
      if ask then
        let x := (l.part? c).getD ⟨0, 0, [], [], [], [], 0, none, 0, 0, 0, [], false, 0⟩
        s.hkRequest (l.id, 0) (hkWord 2 x.stack 0 0 false l.job) (field x.pkg 0 10 ||| field x.stack 10 2) 0
      else s

/-- A launch abandoned (R86): its ungranted iterations and every one not posted lost in one step; nothing of it is
granted or placed any more. -/
def State.abandonLaunch (s : State) (id : Nat) : State :=
  match s.launch? id with
  | none => s
  | some l =>
    let posted := l.parts.foldl (fun n x => n + x.posted) 0
    let lost := l.total - posted - l.lostN
    let s := s.report l.jcb (.lost lost)
    (s.onLaunch id fun l => { l with
      abandoned := true
      nextT := l.total
      requests := []
      grants := []
      lostN := l.lostN + lost
      parts := l.parts.map fun x => { x with unplaced := [], held := [] } }).checkLaunch id

/-- The failures a participant's fall brings to a gang: each member on it, or each of its granted iterations not
posted when it is another package's (R361). -/
def State.failMembersOn (s : State) (l : Launch) (x : Part) : State :=
  if x.pkg = s.pkg then
    s.failMembers l fun st => st = x.stack
  else if l.gang then
    let n := x.granted.foldl (fun n c => n + c.2) 0 - x.posted - x.killed
    s.latchGang l.id n (fun _ => false) fun _ => false
  else s

/-- Whether a chunk on its way to a participant stays granted when that participant fails: next_t has passed it for
good, but not when the leader that granted it is gone and no survivor's log has it (R83, R85). -/
def Launch.staysGranted (l : Launch) (i : Nat) (g : Nat × Nat × Nat × List Nat) : Bool :=
  (l.leader ≠ i && !l.electing) || (l.parts.mapIdx fun j x => (j, x)).any fun jx =>
    jx.1 ≠ i && jx.2.failed.isNone && jx.2.log.contains (g.1, g.2.1, g.2.2.1)

/-- A participant declared failed (R82, R85): what was granted to it and not posted is lost, chunks on their way to it
among them; it holds no log any more, and a grant no longer waits for its acknowledgement, with nobody in its place
(R83, log 93); its iterations post nothing more. -/
def State.failPart (s : State) (l : Launch) (i : Nat) (x : Part) : State :=
  let mine := (l.grants.filter fun g => g.1 = i && l.staysGranted i g).foldl (fun n g => n + g.2.2.1) 0
  let lost := x.granted.foldl (fun n c => n + c.2) 0 + mine - x.posted - x.killed
  let s := s.failMembersOn l x
  let s := s.report l.jcb (.lost lost)
  let s := if x.pkg = s.pkg then
    ((s.membersOf l.id).filter fun m => stackOf m.1 = x.stack).foldl (fun s m => s.onSeq m.1 m.2 fun y =>
      { y with iter := y.iter.map fun t => { t with lost := true } }) s
    else s
  s.onLaunch l.id fun l => { l with
    lostN := l.lostN + lost
    requests := l.requests.filter fun r => r.2 ≠ i
    grants := (l.grants.filter fun g => g.1 ≠ i).map fun g => (g.1, g.2.1, g.2.2.1, g.2.2.2.filter (· ≠ i))
    gathered := l.gathered.filter (· ≠ i)
    parts := upd l.parts i fun x => { x with failed := some s.time, unplaced := [], held := [] } }

/-- Every healthy participant hears from one (R82). -/
def Launch.allHear (l : Launch) (j time : Nat) : Launch :=
  { l with parts := l.parts.mapIdx fun i x => if i ≠ j ∧ x.failed.isNone then
    { x with heard := upd x.heard j fun _ => time } else x }

/-- The participant that declares another failed and tells the others (R82). -/
def State.teller (s : State) (l : Launch) (i : Nat) : Nat :=
  if s.who.up then s.who.k
  else (l.parts.mapIdx fun j x => (j, x)).findSome? (fun jx =>
    if jx.1 ≠ i && jx.2.pkg = s.pkg && jx.2.failed.isNone && jx.2.heard.getD i 0 + 30000 ≤ s.time then some jx.1
    else none) |>.getD i

/-- The rebuild of a new leader (R85), under the epoch of its election: next_t the largest chunk end in any
survivor's log; a survivor's chunk that is logged and was never sent reaches it now (log 28). -/
def Launch.rebuild (l : Launch) (c : Nat) : Launch :=
  let logs := l.parts.flatMap fun x => if x.failed.isNone then x.log else []
  let nextT := logs.foldl (fun n g => max n (g.2.1 + g.2.2)) 0
  { l with
    leader := c
    electing := false
    candidate := none
    gathered := []
    grants := []
    nextT := nextT
    parts := l.parts.mapIdx fun i x =>
      if x.failed.isSome then x
      else
        let missing := (logs.eraseDups).filter fun g => g.1 = i && !x.granted.contains (g.2.1, g.2.2)
        { missing.foldl (fun (x : Part) g => x.receive g.2.1 g.2.2) x with epoch := l.epoch } }

/-- An election in which the log of every survivor is there ends: the participant that gathered them leads (R85). -/
def Launch.endElection (l : Launch) : Launch :=
  match l.candidate with
  | some c => if l.electing && (l.parts.mapIdx fun i x => (i, x)).all fun ix => ix.2.failed.isSome || l.gathered.contains ix.1
      then l.rebuild c else l
  | none => l

/-- PARTICIPANT_FAILED (R82, R85, R86): participant `who.part` of launch `who.l`, silent for 30 µs, or as participant
`who.k` tells with `who.up`, unless that one has been declared failed. A new election follows, or the end of one that
waited for this participant's log. -/
def execParticipantFailed (s : State) : Outcome :=
  let w := s.who
  .next (match s.launch? w.l with
    | none => s
    | some l =>
      match l.part? w.part with
      | some x =>
        if x.failed.isSome || l.abandoned || !(if w.up then l.takesFrom w.k else s.silent l w.part) then s
        else
          let s := (s.failPart l w.part x).onLaunch w.l fun l => l.allHear (s.teller l w.part) s.time
          if l.parts.any fun y => y.failed.any fun t => s.time ≤ t + 30000 then s.abandonLaunch w.l
          else
            let s := if l.leader = w.part ∨ (l.electing ∧ l.candidate = some w.part) then s.elect w.l
              else s.onLaunch w.l Launch.endElection
            s.checkLaunch w.l
      | none => s)

/-- LOG_TRANSFER (R81, R82, R85): the grant log of participant `who.part` of launch `who.l`, under the epoch `who.k`
of the election, reaches the participant that gathers them; with the last survivor's it becomes leader. -/
def execLogTransfer (s : State) : Outcome :=
  .next (s.onLaunch s.who.l fun l =>
    match l.candidate with
    | none => l
    | some c =>
      if !l.takesEpoch c s.who.k || !l.takesFrom s.who.part then l else
      (((({ l with gathered := mark l.gathered s.who.part }).sees s.who.part s.who.k).sees c s.who.k).hears c s.who.part
        s.time).endElection)

/-! ### What may happen -/

/-- What the dispatchers of a launch with several participants may do, those of stacks that serve (R70, R80, R83, R85,
R388). -/
def State.launchOptions (s : State) (l : Launch) : List (Instr × Who) :=
  if l.parts.length ≤ 1 ∨ l.ended ∨ l.abandoned then [] else
  let own := fun (i : Nat) => (l.part? i).any fun x => x.pkg = s.pkg && x.failed.isNone && (s.stack x.stack).serves
  (List.range l.parts.length).flatMap (fun i =>
    (if own i && l.mayAsk i then [(Instr.chunkRequest, ({ l := l.id, part := i } : Who))] else []) ++
    (if s.mayReport l i then [(.gangReport, { l := l.id, part := i })] else []) ++
    (if l.electing && l.candidate.isSome && own i && !l.gathered.contains i then
      [(.logTransfer, { l := l.id, part := i, k := l.epoch })] else [])) ++
  (l.grants.flatMap fun g =>
    (g.2.2.2.filter own).map (fun h =>
      (Instr.grantLogEntry, ({ l := l.id, part := g.1, k := h, v := g.2.1, n := l.epoch } : Who))) ++
      (if g.2.2.2.isEmpty && !l.electing then
        [(.chunkGrant, { l := l.id, part := g.1, k := l.epoch, v := g.2.1, n := g.2.2.1 })] else [])) ++
  (if l.gangWaits && !l.electing && own l.leader && decide (l.total ≤ l.reportedN) then
    [(.gangGrant, { l := l.id, k := l.epoch })] else [])

/-- What a stack's walker may do (R72, R75). -/
def State.walkerOptions (s : State) (st : Nat) : List (Instr × Who) :=
  (if s.mayPlace st then [(Instr.placeIteration, ({ st := st } : Who))] else []) ++
    (match s.clearFor st with
      | some j => [(.stackClear, { st := st, k := j })]
      | none => [])

end Sys2Proof.Machine
end

