-- ==== Sys2Proof/Machine/Image.lean ====
section
/-! DEFINITION. The context image (R341-R343): its bytes from a pillar's state, and a pillar's state from its bytes,
with the asynchronous operations of its records (R345). -/

namespace Sys2Proof.Machine

/-! ### Writing -/

/-- Bytes at an offset of an image. -/
abbrev Piece := Nat × List Byte

/-- A number as 8 bytes at an offset. -/
def piece8 (off : Nat) (v : Nat) : Piece := (off, leBytes 8 v)

/-- A vector register's 4,096 bytes. -/
def vregBytes (v : VReg) : List Byte := v.flatMap fun x => leBytes 4 x.toNat
/-- A vector predicate's 128 bytes. -/
def predBytes (p : PReg) : List Byte := p.flatMap fun x => leBytes 8 x.toNat
/-- 16-bit elements as bytes. -/
def halfBytes (l : List W16) : List Byte := l.flatMap fun x => leBytes 2 x.toNat
/-- Doublewords as bytes. -/
def dwordBytes (l : List W64) : List Byte := l.flatMap fun x => leBytes 8 x.toNat

/-- Bits numbered from 0 as a number. -/
def flagsNat (l : List Bool) : Nat := (l.mapIdx fun i b => if b then 2 ^ i else 0).foldl (· + ·) 0

/-- One entry of the loop-index stack (R343). -/
def LoopEntry.bytes (e : LoopEntry) : List Byte :=
  leBytes 4 e.count.toNat ++ leBytes 4 e.index.toNat ++ leBytes 2 e.step.toNat ++ leBytes 2 (if e.rot then 1 else 0) ++
    leBytes 8 e.bstart.toNat ++ leBytes 4 ((e.bend - e.bstart).toNat / 32)

/-- A loop-index stack's 144 bytes. -/
def loopBytes (l : List LoopEntry) : List Byte :=
  let bs := l.flatMap LoopEntry.bytes
  bs ++ List.replicate (144 - bs.length) 0

/-- A region snapshot's 288 bytes (R343). -/
def Region.bytes (g : Region) : List Byte :=
  leBytes 8 g.handler.toNat ++ leBytes 8 g.pol.toNat ++ dwordBytes ((g.named.drop 1).take 14) ++
    leBytes 8 (flagsNat (g.preds.set 0 false)) ++ leBytes 8 g.rbase.toNat ++ loopBytes g.loops

/-- An accumulator's 0x1200 bytes (R343). -/
def Acc.bytes (a : Acc) : List Byte :=
  vregBytes a.elems ++ vregBytes a.side ++
    leBytes 8 (field a.prog 0 32 ||| asBit a.busy 32 ||| asBit a.park 33 ||| field a.nw 34 8 |||
      field (a.bound.getD 0) 42 3 ||| asBit a.bound.isSome 45).toNat

/-- A mask's bytes, none for a full one. -/
def maskBytes (m : PReg) : List Byte := if m = pOnes then [] else predBytes m

/-- A latched result's kind, register and payload (R343; side-area writes are the model's, log 30); none for `CHKINT`
bits, which the image's `CHKINT` takes. -/
def Payload.latch : Payload → Option (Nat × Nat × List Byte)
  | .named r v => some (1, r, leBytes 8 v.toNat)
  | .push v => some (2, 0, leBytes 8 v.toNat)
  | .pred c b => some (3, c, leBytes 8 (if b then 1 else 0))
  | .vec r v m => some (4, r, vregBytes v ++ maskBytes m)
  | .vpred r v _ => some (5, r, predBytes v)
  | .acc r v _ => some (6, r, vregBytes v)
  | .side r vs => some (6, 8 + r, vs.flatMap fun x => leBytes 4 x.1 ++ leBytes 4 x.2.toNat)
  | .dir r v _ => some (7, r, halfBytes v)
  | .norm r v _ => some (8, r, halfBytes v)
  | .chk _ => none

/-- Bytes padded to a multiple of 32. -/
def pad32 (bs : List Byte) : List Byte := bs ++ List.replicate ((32 - bs.length % 32) % 32) 0

/-- A latch-bank entry: header and payload (R343). -/
def latchEntry (rem slot kind reg order : Nat) (payload : List Byte) : List Byte :=
  leBytes 8 (field rem 0 5 ||| field slot 5 3 ||| field kind 8 4 ||| field reg 12 8 ||| field order 20 12 |||
    field payload.length 32 16).toNat ++ List.replicate 24 0 ++ pad32 payload

/-- A result as the whole value that its register then holds, where a latch-bank entry has no mask (R343): of a vector
predicate, an accumulator, a direction, a norm. -/
def Payload.whole (w : Payload) (x : Seq) : Payload :=
  match w with
  | .vpred r _ _ => .vpred r (x.vpreds.getD r pZero) pOnes
  | .acc r _ _ => .acc r (x.accs.getD r Acc.zero).elems pOnes
  | .dir r _ _ => .dir r (x.dirs.getD r []) (BitVec.allOnes 16)
  | .norm r _ _ => .norm r (x.norms.getD r []) (BitVec.allOnes 16)
  | w => w

/-- The entries of a sequencer's latch bank in the order they land in, each as the whole value its register then
holds. -/
def Seq.wholeEntries (x : Seq) (b : Bank) : List Landing :=
  ((sortLandings b.entries).foldl (fun (a : Seq × List Landing) l =>
    let y := l.what.land a.1
    (y, a.2 ++ [{ l with what := l.what.whole y }])) (x, [])).2

/-- A sequencer's latch bank as the image holds it, the hold latches last; issue orders count from the bank's first.
-/
def Seq.latches (x : Seq) (b : Bank) : List (List Byte) :=
  let first := b.entries.foldl (fun n l => min n l.order) (b.entries.foldl (fun n l => max n l.order) 0)
  ((x.wholeEntries b).filterMap fun l => l.what.latch.map fun k =>
    latchEntry l.land l.slot k.1 k.2.1 (l.order - first) k.2.2) ++
  (b.vHold.toList.map fun v => latchEntry 0 4 9 0 0 (vregBytes v)) ++
  b.fHold.toList.map fun v => latchEntry 0 5 9 1 0 (vregBytes v)

/-- `CHKINT` with the bits of results still latched. -/
def Seq.chkLatched (x : Seq) : W64 :=
  x.userBank.entries.foldl (fun c l => match l.what with
    | .chk b => chkSet c b
    | _ => c) x.chkint

/-- A hold latch's 4,096 bytes, [0] of the last word set when it is full (R343). -/
def latchBytes (h : Option VReg) : List Byte :=
  match h with
  | some v => vregBytes (upd v 1023 (· ||| 1))
  | none => List.replicate 4096 0

/-! R341 and R343 list no bytes for some state that R87, R301, R307 and R345 count with the context. The model's
images hold it in bytes that the two layouts leave unlisted (log 75): in a section five CSRs at 0x710 and the
operations on its accumulators at 0xC80, in a pillar's image the lengths of the chain queue's blocks at 0x10A8 and
the images of CBLDFs at 0x1200 and 0x8_0000. -/

/-- The CSRs of R87 that R343 gives no offset, as the entry with PREEMPT leaves them, after a doubleword that says
that they are there: `TVEC`, `ECAUSE`, `EINFO`, `SSCR0`, `SSCR1`. -/
def Seq.csrBytes (x : Seq) : List Byte :=
  dwordBytes (1 :: x.tvec :: (if x.run = .halted then [x.ecause, x.einfo] else [field cPreempt 0 8, asBit x.iter.isNone 1]) ++
    [x.sscr0, x.sscr1])

/-- What an operation found at its issue and its record does not hold: the geometry, the format entry, the bound. -/
def CubeOp.issueBytes (o : CubeOp) : List Byte :=
  leBytes 8 o.geo.toNat ++ leBytes 4 o.fmt.toNat ++
    leBytes 4 (1 + (if o.bound.isSome then 2 else 0) + (o.bound.map Prod.fst).getD 0 * 2 ^ 4 + o.record * 2 ^ 8) ++
    leBytes 8 ((o.bound.map fun b => b.2.toNat).getD 0)

/-- The operations of a sequencer on the pillar's cube, each at its accumulator's place. -/
def Pillar.opPieces (P : Pillar) (q : Nat) : List Piece :=
  P.cube.filterMap fun c => match c.kind with
    | .op o => if c.q = q then some (0xC80 + 32 * o.acc, o.issueBytes) else none
    | _ => none

/-- The images that CBLDFs not yet complete have read at their issue, with sequencer, record and marks: the first 64
of the queue (R303; log 32). -/
def Pillar.loadImages (P : Pillar) : List (Nat × Nat × List Byte × List Nat) :=
  (P.cube.filterMap fun c => match c.kind with
    | .load _ _ _ none image bad => if image.isEmpty then none else some (c.q, c.record, image, bad)
    | _ => none).take 64

/-- The doubleword that names the owner of such an image. -/
def imageOwner (q i : Nat) : Nat := 1 + 2 * q + 256 * i

/-- A sequencer's section (R343), as the entry with PREEMPT leaves it. -/
def State.sectionPieces (s : State) (p q : Nat) : List Piece :=
  let x := s.seq p q
  let bank := x.latches x.userBank
  [piece8 0 (addrBits x.pc).toNat,
   piece8 0x8 (s.statusCsr p q &&& ~~~7).toNat,
   piece8 0x10 x.ebt.toNat,
   (0x18, dwordBytes [field x.rbase.toNat 0 4, x.xpos, field x.lpitch.toNat 0 16, x.domm, x.chkLatched]),
   (0x40, dwordBytes x.bnds),
   piece8 0x80 (asBit x.latch 0 ||| asBit x.iter.isNone 1 ||| field x.loops.length 2 3).toNat,
   piece8 0x88 (flagsNat (x.preds.set 0 false)),
   (0x90, dwordBytes x.queue),
   (0x110, dwordBytes ((x.named.drop 1).take 14)),
   (0x180, loopBytes x.loops),
   (0x210, dwordBytes x.geos),
   (0x250, x.fts.flatMap fun v => leBytes 4 v.toNat),
   (0x290, x.regions.flatMap Region.bytes),
   (0x710, x.csrBytes),
   (0x800, x.norms.flatMap halfBytes),
   (0x900, (x.vpreds.drop 1).flatMap predBytes),
   (0xE000, latchBytes x.vHold ++ latchBytes x.fHold)] ++
  (x.accs.mapIdx fun i a => (0x1000 + 0x1200 * i, a.bytes)) ++
  (x.dirs.mapIdx fun i d => (0xA000 + 2048 * i, halfBytes d)) ++
  (x.vregs.mapIdx fun i v => (0x10000 + 4096 * i, vregBytes v)) ++
  [(0x30000, leBytes 8 bank.length ++ bank.flatten)] ++ (s.pillar p).opPieces q ++
  x.recs.map fun r => (0x70000 + 64 * r.idx, r.toBytes)

/-- A frame's entry in the image (R342). -/
def Frame.imageEntry (F : Frame) (count : BitVec 48) : List Byte :=
  let left := if F.xp ∨ F.state = FState.empty then 0 else (F.expiry - count).toNat
  leBytes 16 (F.state.code + (if F.ph then 4 else 0) + (if F.auto then 8 else 0) + F.size * 2 ^ 4 + F.expb * 2 ^ 15 +
    F.land * 2 ^ 38 + F.life * 2 ^ 64 + left * 2 ^ 75 % 2 ^ 98 + F.drn * 2 ^ 98)

/-- The code of a slot's tag in the image (R341). -/
def Tag.code : Tag → Nat
  | .bits16 => 0 | .bits8 => 1 | .trn => 2

/-- An item of a tray as 16 bytes. -/
def itemBytes (it : List W32) : List Byte := (List.range 4).flatMap fun i => leBytes 4 (at0 it i).toNat

/-- A slot's bytes in the image; nothing for an absent layer (R341). -/
def slotPieces (en : Nat) (P : Pillar) : List Piece :=
  (List.range 4).flatMap fun l =>
    if en.testBit l then (P.bslots.getD l []).mapIdx fun j b =>
      (0x100000 + 0x40000 * l + 0x2000 * j, Mem.readN b.data 0 8192) else []

/-- A pillar's image but for its sections (R341). -/
def State.pillarPieces (s : State) (p : Nat) : List Piece :=
  let P := s.pillar p
  let k := s.stack (stackOf p)
  let en := bits k.layers 0 4
  [piece8 0 (1 + k.job.getD 0 * 2 ^ 16 + en * 2 ^ 32 + p * 2 ^ 36),
   (0x40, P.flags.flatMap fun v => leBytes 4 v.toNat),
   (0xC0, leBytes 8 P.mq.length ++ P.mq.flatMap fun e => leBytes 8 e.1.toNat ++ leBytes 8 e.2),
   (0x4C8, P.pools.flatMap fun n => leBytes 1 n),
   (0x800, P.frames.flatMap fun F => F.imageEntry P.fadeCount),
   (0x1000, P.bslots.flatMap fun l => l.flatMap fun b => leBytes 1 b.tag.code),
   (0x1080, (P.trays.flatMap fun t => leBytes 8 t.length) ++ leBytes 8 P.chainQ.length),
   (0x10A8, P.chainQ.flatMap fun b => leBytes 8 b.1.length),
   (0x1200, P.loadImages.flatMap fun x => leBytes 8 (imageOwner x.1 x.2.1))] ++
  (P.loadImages.mapIdx fun n x => (0x80000 + 0x2000 * n, x.2.2.1)) ++
  (P.rowBuf.mapIdx fun j b => (0x10000 + 2048 * j, Mem.readN b 0 2048)) ++
  (P.chainQ.mapIdx fun j b => (0x20000 + 2048 * j, b.1)) ++
  (P.trays.mapIdx fun t its => (0x40000 + 65536 * t, its.flatMap itemBytes)) ++
  slotPieces en P

/-- The sectors of an area of the image from an offset on in which a block's groups of 8 bytes in error lie. -/
def groupSectors (off marks : Nat) : List Nat :=
  (List.range 64).filterMap fun k => if marks / 2 ^ (4 * k) % 16 = 0 then none else some (off / 32 + k)

/-- The sectors of the image that an error in a block, or a poisoned row of a slot, marks (R354, R362). -/
def State.imageMarks (s : State) (p : Nat) : List Nat :=
  ((s.pillar p).rowBad.mapIdx fun j m => groupSectors (0x10000 + 2048 * j) m).flatten ++
  ((s.pillar p).chainQ.mapIdx fun j b => groupSectors (0x20000 + 2048 * j) b.2).flatten ++
  ((s.pillar p).loadImages.mapIdx fun n x => x.2.2.2.map (0x4000 + 0x100 * n + ·)).flatten ++
  (List.range 4).flatMap fun l => ((s.pillar p).bslots.getD l []).mapIdx (fun j b =>
    let row := match b.tag with
      | .bits16 => 128
      | .bits8 => 64
      | .trn => 16
    b.badRows.flatMap fun k => sectorsOf (0x100000 + 0x40000 * l + 0x2000 * j + row * k) row) |>.flatten

/-- Bytes of memory made zero, their marks gone. -/
def State.zeroArea (s : State) (a n : Nat) : State :=
  { s with mem := s.mem.filter (fun c => c.1 < a || a + n ≤ c.1), poison := unmark s.poison a n }

/-- The address of a pillar's image (R338, R341). -/
def State.imageAt (s : State) (p : Nat) : Nat := s.canonPa ((s.stack (stackOf p)).ctxbase.toNat) + 0x300000 * (p % 32)

/-- A pillar's image written (R341). -/
def State.writeImage (s : State) (p : Nat) : State :=
  let base := s.imageAt p
  let pieces := s.pillarPieces p ++ (s.sectionPieces p 0).map (fun x => (0x200000 + x.1, x.2)) ++
    (s.sectionPieces p 1).map fun x => (0x280000 + x.1, x.2)
  let marks := s.imageMarks p
  let s := pieces.foldl (fun s x => s.writeMem (base + x.1) x.2) (s.zeroArea base 0x300000)
  marks.foldl (fun s k => s.markMem (base + 32 * k)) s

/-! ### Reading -/

/-- n bytes of memory as a number. -/
def State.num (s : State) (a n : Nat) : Nat := leNat (s.readMem a n)
/-- A doubleword of memory. -/
def State.dword (s : State) (a : Nat) : W64 := BitVec.ofNat 64 (s.num a 8)
/-- Doublewords of memory. -/
def State.dwords (s : State) (a n : Nat) : List W64 := (List.range n).map fun i => s.dword (a + 8 * i)
/-- Words of memory. -/
def State.words (s : State) (a n : Nat) : List W32 := (List.range n).map fun i => BitVec.ofNat 32 (s.num (a + 4 * i) 4)
/-- Halfwords of memory. -/
def State.halves (s : State) (a n : Nat) : List W16 := (List.range n).map fun i => BitVec.ofNat 16 (s.num (a + 2 * i) 2)

/-- c0-c15 from a doubleword. -/
def predsFrom (v : W64) : List Bool := (List.range 16).map fun i => i ≠ 0 && bit v i
/-- s0-s15 from s1-s14. -/
def namedFrom (l : List W64) : List W64 := 0 :: (l ++ [0])

/-- A loop-index stack from its 144 bytes. -/
def State.loadLoops (s : State) (a n : Nat) : List LoopEntry :=
  (List.range n).map fun i =>
    let b := a + 24 * i
    let start := s.dword (b + 12)
    ⟨BitVec.ofNat 32 (s.num b 4), BitVec.ofNat 32 (s.num (b + 4) 4), BitVec.ofNat 16 (s.num (b + 8) 2), start,
      addrBits (start + BitVec.ofNat 64 (32 * s.num (b + 20) 4)), s.num (b + 10) 2 % 2 = 1⟩

/-- The entries of a snapshot's loop stack: those with a count. -/
def State.loopDepth (s : State) (a : Nat) : Nat := ((List.range 6).takeWhile fun i => s.num (a + 24 * i) 4 ≠ 0).length

/-- The regions of a section, innermost first; mode and issue order from what the part kept, else user regions opened
before every restored operation (log 30). -/
def State.loadRegions (s : State) (a n : Nat) (kept : List Region) : List Region :=
  (List.range n).map fun i =>
    let b := a + 288 * i
    let old := kept[i]?
    { handler := s.dword b
      pol := BitVec.ofNat 2 (s.num (b + 8) 8)
      sup := (old.map fun g => g.sup).getD false
      order := (old.map fun g => g.order).getD (n - i)
      named := namedFrom (s.dwords (b + 16) 14)
      preds := predsFrom (s.dword (b + 128))
      rbase := BitVec.ofNat 4 (s.num (b + 136) 8)
      loops := s.loadLoops (b + 144) (s.loopDepth (b + 144)) }

/-- An accumulator from its bytes. -/
def State.loadAcc (s : State) (a : Nat) : Acc :=
  let w := s.dword (a + 4416)
  ⟨s.words a 1024, s.words (a + 4096) 80, bit w 32, bits w 0 32, bit w 33, bits w 34 8,
    if bit w 45 then some (bits w 42 3) else none⟩

/-- A predicate from its bytes. -/
def State.loadPred (s : State) (a : Nat) : PReg := s.dwords a 16
/-- A mask after a payload of n bytes, all ones when the payload is no longer. -/
def State.loadMask (s : State) (a n len : Nat) : PReg := if n < len then s.loadPred (a + n) else pOnes

/-- A latched result from its kind, register and payload. -/
def State.loadPayload (s : State) (kind reg a len : Nat) : Payload :=
  match kind with
  | 1 => .named reg (s.dword a)
  | 2 => .push (s.dword a)
  | 3 => .pred reg (s.num a 8 % 2 = 1)
  | 4 => .vec reg (s.words a 1024) (s.loadMask a 4096 len)
  | 5 => .vpred reg (s.loadPred a) pOnes
  | 6 => if reg < 8 then .acc reg (s.words a 1024) pOnes
    else .side (reg - 8) ((List.range (len / 8)).map fun i => (s.num (a + 8 * i) 4, BitVec.ofNat 32 (s.num (a + 8 * i + 4) 4)))
  | 7 => .dir reg (s.halves a 1024) (BitVec.allOnes 16)
  | _ => .norm reg (s.halves a 16) (BitVec.allOnes 16)

/-- A hold latch from its 4,096 bytes: full when [0] of the last word is set (R343, log 75). -/
def State.loadHold (s : State) (a : Nat) : Option VReg := if s.num (a + 4092) 4 % 2 = 1 then some (s.words a 1024) else none

/-- A latch bank from n entries. -/
def State.loadBank (s : State) : Nat → Nat → Bank
  | _, 0 => Bank.empty
  | a, n + 1 =>
    let h := s.dword a
    let len := bits h 32 16
    let rest := s.loadBank (a + 32 + (len + 31) / 32 * 32) n
    if bits h 8 4 = 9 then
      let v := s.words (a + 32) 1024
      if bits h 12 8 = 0 then { rest with vHold := some v } else { rest with fHold := some v }
    else { rest with entries :=
      ⟨bits h 0 5, bits h 5 3, bits h 20 12, s.loadPayload (bits h 8 4) (bits h 12 8) (a + 32) len⟩ :: rest.entries }

/-- The user bank of a section: the one the part kept, masks and all, where the image holds it unchanged (log 32). -/
def State.restoreBank (s : State) (a : Nat) (kept : Option Seq) : Bank :=
  match kept.filter fun k =>
    let ls := k.latches k.userBank
    s.num a 8 = ls.length && s.readMem (a + 8) ls.flatten.length == ls.flatten with
  | some k => k.userBank
  | none => s.loadBank (a + 8) (s.num a 8)

/-- The five CSRs that the model's images add, in a sequencer whose image has them (R87, log 75). -/
def State.loadCsrs (s : State) (a : Nat) (x : Seq) : Seq :=
  if s.num a 8 ≠ 1 then x
  else { x with
    tvec := addrBits (s.dword (a + 8))
    ecause := s.dword (a + 16) &&& 0x1FF
    einfo := s.dword (a + 24)
    sscr0 := s.dword (a + 32)
    sscr1 := s.dword (a + 40) }

/-- A sequencer from its section, over what the part kept of it (R343, R345); reserved bits read 0 (R2), and a
sequencer stopped by HALT stays so (R193). -/
def State.loadSeq (s : State) (a : Nat) (kept : Option Seq) (x : Seq) : Seq :=
  let k := kept.getD { Seq.reset with order := 4096 + 256 }
  let st := s.dword (a + 8)
  let info := s.dword (a + 0x80)
  let domm := s.dword (a + 0x30)
  let crd := bits st 4 3
  { s.loadCsrs (a + 0x710) x with
    pc := addrBits (s.dword a)
    delay := none
    run := if x.run = .halted then .halted else .idle
    mode := false
    pmode := false
    bd := bit st 2
    ebt := addrBits (s.dword (a + 0x10))
    rbase := BitVec.ofNat 4 (s.num (a + 0x18) 8)
    wpos := BitVec.ofNat 10 (s.num (a + 0x20) 2)
    rpos := BitVec.ofNat 10 (s.num (a + 0x22) 2)
    lpitch := BitVec.ofNat 16 (s.num (a + 0x28) 8)
    ax1 := bit domm 0
    members := [bits domm 8 5, bits domm 13 7, bits domm 20 9, bits domm 29 19]
    syncs := if kept.isSome then k.syncs else (List.range 4).map fun i => bits domm (48 + i) 1
    chkint := s.dword (a + 0x38) &&& 0xF1F
    bnds := (s.dwords (a + 0x40) 8).map fun v => v &&& 0x7FFFFFFFFFFFFFFF
    latch := bit info 0
    preds := predsFrom (s.dword (a + 0x88))
    queue := s.dwords (a + 0x90) 16
    named := namedFrom (s.dwords (a + 0x110) 14)
    loops := s.loadLoops (a + 0x180) (bits info 2 3)
    geos := s.dwords (a + 0x210) 8
    fts := s.words (a + 0x250) 16
    regions := s.loadRegions (a + 0x290) crd k.regions
    norms := (List.range 8).map fun i => s.halves (a + 0x800 + 32 * i) 16
    vpreds := pZero :: (List.range 7).map fun i => s.loadPred (a + 0x900 + 128 * i)
    accs := (List.range 8).map fun i => s.loadAcc (a + 0x1000 + 0x1200 * i)
    dirs := (List.range 8).map fun i => s.halves (a + 0xA000 + 2048 * i) 1024
    vregs := (List.range 32).map fun i => s.words (a + 0x10000 + 4096 * i) 1024
    vHold := s.loadHold (a + 0xE000)
    fHold := s.loadHold (a + 0xF000)
    inflight := []
    undo := []
    csrws := []
    userBank := s.restoreBank (a + 0x30000) kept
    order := k.order
    fences := k.fences
    flagq := k.flagq
    domains := k.domains
    axes := k.axes
    lastLaunch := k.lastLaunch
    syncing := k.syncing
    recs := []
    aborts := []
    iter := none
    gang := k.gang
    poisonDue := k.poisonDue
    firstFault := k.firstFault
    delivered := []
    fetchFault := none
    heldSince := none
    wdog := false }

/-- A frame from its entry, when it is not kept (R342, R345). -/
def State.loadFrame (s : State) (a : Nat) (count : BitVec 48) : Frame :=
  let v := BitVec.ofNat 128 (s.num a 16)
  let left := bits v 75 23
  match bits v 0 2 with
  | 0 => Frame.cleared
  | c => {
    state := if c = 1 then .filling else if c = 2 then .ready else .draining
    ph := bit v 2
    auto := bit v 3
    size := bits v 4 11
    expb := bits v 15 23
    land := bits v 38 23
    life := bits v 64 11
    expiry := count + BitVec.ofNat 48 left
    drn := bits v 98 8
    xp := left = 0
    zeroEnd := if c = 1 ∧ bits v 15 23 = 0 then some 0 else none
    data := []
    poison := [] }

/-- A B slot from the image (R341, R354). -/
def State.loadSlot (s : State) (base l j : Nat) : BSlot :=
  let a := base + 0x100000 + 0x40000 * l + 0x2000 * j
  let tag := match s.num (base + 0x1000 + 32 * l + j) 1 with
    | 0 => Tag.bits16
    | 1 => Tag.bits8
    | _ => Tag.trn
  let row := match tag with
    | .bits16 => 128
    | .bits8 => 64
    | .trn => 16
  { tag := tag
    data := Mem.writeN [] 0 (s.readMem a 8192)
    badRows := (List.range 64).filter fun k => (sectorsOf (a + row * k) row).any s.poison.contains }

/-- The groups of 8 bytes of a block in the image that lie in poisoned sectors, as bits (R354). -/
def State.loadMarks (s : State) (a : Nat) : Nat :=
  ((List.range 64).map fun k => if s.sectorBad (a + 32 * k) then 15 * 2 ^ (4 * k) else 0).foldl (· + ·) 0

/-- The length of a block of the chain queue in an image, 2 KiB where the image names none (log 75). -/
def State.chainLen (s : State) (base j : Nat) : Nat :=
  let n := s.num (base + 0x10A8 + 8 * j) 8
  if n = 0 ∨ 2048 < n then 2048 else n

/-- A pillar's own state from its image, its frames and sequencers apart (R341, R345). -/
def State.loadPillar (s : State) (base : Nat) (P : Pillar) : Pillar :=
  { P with
    flags := s.words (base + 0x40) 32
    mq := (List.range (min (s.num (base + 0xC0) 8) 64)).map fun i =>
      (s.dword (base + 0xC8 + 16 * i), s.num (base + 0xD0 + 16 * i) 1 % 4)
    pools := (List.range 4).map fun i => s.num (base + 0x4C8 + i) 1
    bslots := (List.range 4).map fun l => (List.range 32).map fun j => s.loadSlot base l j
    rowBuf := (List.range 32).map fun j => Mem.writeN [] 0 (s.readMem (base + 0x10000 + 2048 * j) 2048)
    rowBad := (List.range 32).map fun j => s.loadMarks (base + 0x10000 + 2048 * j)
    chainQ := (List.range (min (s.num (base + 0x10A0) 8) 32)).map fun j =>
      let a := base + 0x20000 + 2048 * j
      (s.readMem a (s.chainLen base j), s.loadMarks a)
    trays := (List.range 4).map fun t => (List.range (min (s.num (base + 0x1080 + 8 * t) 8) 4096)).map fun i =>
      s.words (base + 0x40000 + 65536 * t + 16 * i) 4
    cube := []
    drains := List.replicate 4 []
    cubeFree := P.ic }

/-- What of a context that an area of its image holds has failed, the area being marked (R354, R356; log 103). -/
def State.failedIn (s : State) (a n unit loc : Nat) (pred : Bool) : List Failed :=
  if s.poison.any fun k => rangesMeet (32 * k) 32 a n then [⟨poisonInfo unit 0 loc, pred⟩] else []

/-- What a restored sequencer finds failed, its image's bytes being marked: registers one by one, everything else of
its section and of its pillar's own state as control state (R354, R356; log 103). -/
def State.failedState (s : State) (base q : Nat) : List Failed :=
  let a := base + 0x200000 + 0x80000 * q
  let control := [(base, 0x10000), (base + 0x40000, 0x40000), (a, 0x90), (a + 0x180, 0x780), (a + 0xC80, 0x380),
    (a + 0xA000, 0x6000), (a + 0x30000, 0x44000)]
  if s.poison.isEmpty then [] else
  (control.flatMap fun x => s.failedIn x.1 x.2 9 0 false).take 1 ++
  ((List.range 16).flatMap fun i => s.failedIn (a + 0x90 + 8 * i) 8 7 i false) ++
  ((List.range 14).flatMap fun i => s.failedIn (a + 0x110 + 8 * i) 8 7 (17 + i) false) ++
  ((List.range 7).flatMap fun i => s.failedIn (a + 0x900 + 128 * i) 128 5 (1 + i) true) ++
  ((List.range 8).flatMap fun i => s.failedIn (a + 0x1000 + 0x1200 * i) 0x1200 6 i false) ++
  ((List.range 32).flatMap fun i => s.failedIn (a + 0x10000 + 4096 * i) 4096 5 i false)

/-! ### Records and their operations -/

/-- A record from its 64 bytes, its operation still to be set. -/
def State.loadRec (s : State) (a i : Nat) : Rec :=
  let lw := s.dword a
  let x := s.dword (a + 0x18)
  let st := s.dword (a + 0x20)
  { idx := i, lw := addrBits lw, slot := bits lw 0 3, opa := s.dword (a + 8), opb := s.dword (a + 0x10)
    syl := x.extractLsb' 0 32, rbase := x.extractLsb' 32 4, cause := bits st 0 8, faulted := bit st 8, parked := bit st 9
    cancelled := bit st 10, finfo := s.dword (a + 0x28), progress := s.num (a + 0x30) 8, seqno := s.num (a + 0x38) 4
    order := 0, op := .cube }

/-- An engine command from its record (R345): its handle from the table as it now stands, the transactions it has
performed from PROGRESS; an index list is read again as the command goes on (log 32). -/
def State.rebuildEngine (s : State) (p q : Nat) (r : Rec) (kind : EngineKind) (f : BitVec 6) (lu fl : BitVec 1) : EngineOp :=
  let e : EngineOp := {
    kind := kind, frame := f.toNat, fl := fl = 1, lu := lu = 1, word := r.opb
    handle := (s.handleOf (stackOf p) r.opa).getD Handle.absent
    ctx := false, index := none, done := [], part := [], stage := [], held := []
    roleW := false, roleF := false, roleX := false, ready := false
    reached := false, heldSince := none, told := false }
  let began := decide (0 < r.progress) || (r.cause ≠ cFstate && r.cause ≠ cAddr && e.handle.nd ≠ 0)
  if began then
    let e := e.taken
    if e.indexed then e else
    let e := { e with done := s.doneBefore p e r.progress }
    if s.readsLeft p q e then e else { e with roleF := false, roleX := false }
  else e

/-- The checksums and the format error of an operation's waves that have landed, from the row buffer and the slots
that they read (R288, R299, R307). -/
def Pillar.replayed (P : Pillar) (o : CubeOp) (n : Nat) : CubeOp :=
  (List.range n).foldl (fun (o : CubeOp) w =>
    let slots := P.slotsOf o w
    let chk := o.checks (o.kSteps ((o.stepsAt w).map fun lj => (P.rowBlock lj.2 o.readBytes).clean) slots)
    { o.withChecks ⟨w, 0, [], chk.1, chk.2, []⟩ with fmtErr := o.fmtErr || slots.any fun b => b.tag ≠ tagOf o.bfmt }) o

/-- What an operation on an accumulator found at its issue, from its section, when the section holds it (log 75). -/
def State.issuedOp (s : State) (a acc record : Nat) : Option (W64 × W32 × Option (Nat × W64)) :=
  let b := a + 0xC80 + 32 * acc
  let w := s.dword (b + 12)
  if bit w 0 && bits w 8 8 = record then
    some (s.dword b, BitVec.ofNat 32 (s.num (b + 8) 4), if bit w 1 then some (bits w 4 3, s.dword (b + 16)) else none)
  else none

/-- An operation on the cube from its record, restarting at PROG with the geometry, the format entry and the bound
that it found at issue (R306, R307, R345); an image of another maker that does not hold these has them read again
from the restored registers (log 75). -/
def State.rebuildOp (s : State) (a : Nat) (r : Rec) (acc : BitVec 3) (form : AForm) (l : BitVec 4) (xc east : BitVec 1)
    (byLoop : Bool) : CubeKind :=
  let ctl := r.opb
  let issued := s.issuedOp a acc.toNat r.idx
  let geo := (issued.map fun x => x.1).getD (s.geoOf ctl)
  let fmt := (issued.map fun x => x.2.1).getD (s.entryOf geo byLoop)
  let src := match form with
    | .frame _ => ASource.frame (frameNo r.opa) (bits r.opa 0 22) (bits geo 16 22)
    | .hold => .rowBuffer
    | .chain => .chain
    | .handle _ => (match s.handleOf (stackOf s.cur.p) r.opa with
      | some h => .handle h (bits ctl 8 14) (bits ctl 22 14) (bits ctl 36 8)
      | none => .noHandle)
  let role := match src with
    | .frame _ _ _ => true
    | _ => false
  let op := s.newOp acc.toNat geo fmt l src ctl (xc = 1) (east = 1) role r.idx
  .op { s.mine.replayed { op with bound := (issued.map fun x => x.2.2).getD op.bound } r.progress with
    next := r.progress, sent := r.progress, park := r.parked }

/-- The image and marks that a CBLDF has read at its issue, from its pillar's image, when that holds it (log 75). -/
def State.heldImage (s : State) (base q i sw : Nat) : List Byte × List Nat :=
  match (List.range 64).find? fun n => s.num (base + 0x1200 + 8 * n) 8 = imageOwner q i with
  | some n =>
    let at_ := base + 0x80000 + 0x2000 * n
    (s.readMem at_ (imageBytes sw), ((sectorsOf at_ (imageBytes sw)).filter s.poison.contains).map (· - at_ / 32))
  | none => ([], [])

/-- An operation from its record and its syllable: its kind, and for a C-slot item its ic of work and what it does.
What neither the record nor the image holds comes from the restored part: DEFER's vectors and predicate from the
registers, the image of a CBLDF beyond the 64th from its frame, once it completes (log 32). -/
def State.rebuild (s : State) (p q base : Nat) (r : Rec) (i : Instr) : Op × Option (Nat × CubeKind) :=
  let at_ := base + 0x200000 + 0x80000 * q
  match i with
  | .copyin _ f _ _ u gr => (.engine (s.rebuildEngine p q r .copyin f u gr), none)
  | .copyout _ f _ _ u gr => (.engine (s.rebuildEngine p q r .copyout f u gr), none)
  | .gather _ f _ _ u gr => (.engine (s.rebuildEngine p q r .gather f u gr), none)
  | .scatter _ f _ _ u gr => (.engine (s.rebuildEngine p q r .scatter f u gr), none)
  | .atomg _ f _ _ u gr => (.engine (s.rebuildEngine p q r .atomg f u gr), none)
  | .msend _ _ _ sc => (.msend r.opa.toNat sc.toNat r.opb, none)
  | .dsync _ l => (.dsync l.toNat ((s.seq p q).syncs.getD (l.toNat - 1) 0), none)
  | .jraise .. => (.jcb true, none)
  | .jpost .. => (.jcb false, none)
  | .defer _ v c m t =>
    let reg := fun (n : BitVec 5) => (s.seq p q).vregs.getD (physV r.rbase n.toNat) (vfill 0)
    (.defer t.toNat (deferItems ((trayNames v c).map reg) (s.vpred m)), none)
  | .drain _ v c m t => (.drain t.toNat ((trayNames v c).map fun n => physV r.rbase n.toNat) m.toNat none, none)
  | .cbld _ sl l _ _ => (.cube, some (16, .load sl.toNat l (bits r.opb 0 2) (some r.opa.toNat) [] []))
  | .cbldf _ sl l _ _ => (.cube, some (16, .load sl.toNat l (bits r.opb 0 2) none
      (s.heldImage base q r.idx (bits r.opb 0 2)).1 (s.heldImage base q r.idx (bits r.opb 0 2)).2))
  | .czero _ c x => (.cube, some (2, .zero c.toNat (x = 1)))
  | .cbnd _ c _ => (.cube, some (1, .bind c.toNat r.opa))
  | .cmma _ c a _ l x h e => (.cube, some (0, s.rebuildOp at_ r c (if h = 1 then .hold else .frame a) l x e false))
  | .cmmat _ c a _ l x h e => (.cube, some (0, s.rebuildOp at_ r c (if h = 1 then .hold else .frame a) l x e true))
  | .cmmah _ c a _ l x e => (.cube, some (0, s.rebuildOp at_ r c (.handle a) l x e false))
  | .cchain _ c _ l x e => (.cube, some (0, s.rebuildOp at_ r c .chain l x e false))
  | _ => (.cube, some (1, .idle))

/-- The instruction of a record's syllable; NOP when it decodes to none. -/
def Rec.instr (r : Rec) : Instr :=
  match Slot.all[r.slot]? with
  | some sl => (match decodeSyllable sl r.syl with
    | .ok (i :: _) => i
    | _ => .nop Guard.always)
  | none => .nop Guard.always

/-- Whether a syllable sends its A blocks east (R301, R304). -/
def sendsEast : Instr → Bool
  | .cmma _ _ _ _ _ _ _ e | .cmmat _ _ _ _ _ _ _ e | .cmmah _ _ _ _ _ _ e | .cchain _ _ _ _ _ e => e = 1
  | _ => false

/-- An operation on a pillar: its blocks go east from the column it now stands in (R301, R307). -/
def CubeItem.onPillar (c : CubeItem) (p : Nat) (i : Instr) : CubeItem :=
  { c with kind := match c.kind with
    | .op o => .op { o with east := sendsEast i && p % 8 ≠ 7 }
    | k => k }

/-- One record restored with its operation (R345): as the part kept it when the image's record is unchanged, else
rebuilt from the record; with it the queue item of a C-slot instruction. -/
def State.restoreRec (s : State) (p q base : Nat) (keep : Option Away) (r : Rec) : Rec × Option CubeItem :=
  let kept := keep.bind fun a => a.seq.recs.find? fun k => k.idx = r.idx && k.toBytes == r.toBytes
  let ic := (s.pillar p).ic
  match kept with
  | some k => (k, (keep.bind fun a => a.items.find? fun c => c.record = k.idx).map fun c =>
      ({ c with issued := ic, started := false } : CubeItem).onPillar p r.instr)
  | none =>
    let s := { s with cur := { s.cur with p := p, q := q } }
    let x := s.rebuild p q base r r.instr
    ({ r with op := x.1, order := (s.seq p q).order }, x.2.map fun w => ⟨q, r.idx, ic, false, w.1, w.2⟩)

/-- The records of a section: those with a syllable (R332). -/
def State.loadRecs (s : State) (a : Nat) : List Rec :=
  ((List.range 256).map fun i => s.loadRec (a + 0x70000 + 64 * i) i).filter fun r => r.syl ≠ 0

end Sys2Proof.Machine
end

