-- ==== Sys2Proof/Machine/Preempt.lean ====
section
/-! DEFINITION. Pre-emption, the kill at its deadline, context save and restore (R107, R335, R338-R345), and the
invalidation of translations (R348). -/

namespace Sys2Proof.Machine

/-- The stacks of the package that a job owns: those its queues on any stack name (R49, R339), and the stack itself.
-/
def State.ownedStacks (s : State) (st job : Nat) : List Nat :=
  let qs := s.stks.flatMap fun k => k.queues.filter fun x => x.en && x.job = job
  allStacks.filter fun t => t = st || qs.any fun x => bit x.qcfg (8 + t)

/-- The stacks being pre-empted together with one (R339). -/
def State.preemptGroup (s : State) (st : Nat) : List Nat :=
  match (s.stack st).reqAt with
  | some at_ => allStacks.filter fun t => (s.stack t).req && (s.stack t).reqAt = some at_
  | none => []

/-- A pre-emption request reaches every pillar of a stack: both event latches become 1 (R199). -/
def State.wakeStack (s : State) (t : Nat) : State :=
  (pillarsOf t).foldl State.wake s

/-- Whether a sequencer of some stacks runs an iteration of a job. -/
def State.runsOn (s : State) (sts : List Nat) (job : Nat) : Bool :=
  sts.any fun t => (pillarsOf t).any fun p => [0, 1].any fun q => (s.seq p q).iter.isSome && s.jobOf p q = job

/-- PREEMPT_REQUEST (R199, R338, R339): a write of REQ in stack `who.st`. With no job running, or one pre-empted
there of which no iteration runs again, nothing is left to stop or to save, and STOPPED is set at once (log 30). An
owned stack on which the job is not current is only barred from starting the job's LAUNCHes and placing its
iterations, until a RESTORE or a kill there (log 30). -/
def execPreemptRequest (s : State) : Outcome :=
  let st := s.who.st
  let done := s.onStack st fun k => { k with stopped := true, restored := false }
  .next (match (s.stack st).job with
    | none => done
    | some j =>
      if (s.stack st).req then s
      else if (s.stack st).holdsJob j && !s.runsOn (s.ownedStacks st j) j then done
      else (s.ownedStacks st j).foldl (fun s t =>
        if (s.stack t).job = some j ∧ !(s.stack t).req then
          (s.onStack t fun k => { k with
            req := true
            stopped := false
            restored := false
            reqAt := some (s.time, j)
            parked := mark k.parked j }).wakeStack t
        else s.onStack t fun k => { k with parked := mark k.parked j }) s)

/-- The stop at a boundary in the ic t_s after the last issue (R335): results due in it land, the others and the hold
latches go to the user bank; pending CSR writes take effect. -/
def Seq.stopAt (x : Seq) (t : Nat) : Seq :=
  { x.capture t with run := .stopped, notBefore := t + 4, heldSince := none, wdog := false }

/-- PREEMPT_STOP (R107, R335, R339): sequencer `who.p`, `who.q` at its boundary. -/
def execPreemptStop (s : State) : Outcome :=
  let p := s.who.p
  let q := s.who.q
  .next (((s.flushAtTrap p q).onSeq p q fun x => x.stopAt ((s.pillar p).ic + 1)).settle p q)

/-! ### Saving -/

/-- A sequencer has stopped, or runs no iteration (R339). -/
def Seq.hasStopped (x : Seq) : Bool := x.run = .stopped || (x.iter.isNone && (x.run = .idle || x.run = .halted))

/-- Whether the operation of a cube item has a fault recorded. -/
def Pillar.itemFaulted (P : Pillar) (c : CubeItem) : Bool :=
  (P.seqs.getD c.q Seq.reset).recs.any fun r => r.idx = c.record && r.faulted

/-- Whether the cube of a pillar stands at a wave boundary (R307); a load with its fault recorded stands too (R339).
-/
def Pillar.cubeQuiet (P : Pillar) : Bool :=
  P.cube.all fun c => match c.kind with
    | .op o => o.waves.isEmpty && (!c.started || decide (o.waveAt ≤ P.ic) || o.park)
    | _ => !c.started || P.itemFaulted c

/-- Whether all that R339 names holds for a pillar. -/
def State.pillarQuiet (s : State) (p : Nat) : Bool :=
  ([0, 1].all fun q => (s.seq p q).hasStopped && (s.seq p q).recs.all fun r => !r.unquiet) &&
    (s.pillar p).cubeQuiet && s.posts.all fun n => n.fromP ≠ p

/-- Whether every pillar of the stacks pre-empted together is ready to be saved. -/
def State.mayContextSave (s : State) (st : Nat) : Bool :=
  let g := s.preemptGroup st
  !g.isEmpty && g.all fun t => (pillarsOf t).all fun p => s.pillarQuiet p

/-- What a faulted command's combining buffer holds is written before the image is (R241, R339). -/
def State.drainHeld (s : State) (p q : Nat) : State :=
  (s.seq p q).recs.foldl (fun s r => match r.op with
    | .engine e => e.held.foldl (fun s h => s.drainTx p q r.idx h) s
    | _ => s) s

/-- An idle sequencer stops at once: its latches go to the latch bank, and its handler begins 4 ic later (R335,
R339). -/
def State.stopIdle (s : State) (p q : Nat) : State :=
  let t := (s.pillar p).ic
  if (s.seq p q).run = .idle then
    ((s.flushAtTrap p q).onSeq p q fun x => { x.capture t with notBefore := t + 4 }).settle p q
  else s

/-- The entry with PREEMPT (R331, R335, R339, R345): every stopped sequencer enters `TVEC`, an idle one with IDLE; a
restored one's stop ic is that of its entry (log 82). -/
def Seq.enterPreempt (x : Seq) (resume : Bool) (ic : Nat) : Seq :=
  { x with
    ecause := field cPreempt 0 8
    einfo := asBit resume 0 ||| asBit x.iter.isNone 1
    epc := addrBits x.pc
    bd := resume && x.bd
    pmode := x.mode
    mode := true
    pc := x.tvec
    delay := none
    run := .running
    notBefore := max x.notBefore (ic + if resume then 4 else 1)
    heldSince := none
    wdog := false
    fetchFault := none
    delivered := none :: x.delivered
    ctxOrder := x.order }

/-- A pillar saved: an injection due as its tile is read for the image is applied first (R397). -/
def State.savePillar (s : State) (p : Nat) : State :=
  let s := (((s.drainHeld p 0).drainHeld p 1).stopIdle p 0).stopIdle p 1
  (if s.injDue p then s.inject p else s).writeImage p

/-- A stack's pillars saved, STOPPED set, and its sequencers entered (R339, R341). A sequencer stopped by HALT
stays. -/
def State.saveStack (s : State) (st : Nat) : State :=
  let s := (pillarsOf st).foldl (fun s p => s.savePillar p) s
  let s := s.onStack st fun k => { k with req := false, reqAt := none, stopped := true, cleared := false }
  (pillarsOf st).foldl (fun s p => [0, 1].foldl (fun s q => s.onSeq p q fun x =>
    if x.run = .halted then x else x.enterPreempt false (s.pillar p).ic) s) s

/-- CONTEXT_SAVE (R339, R341): the stacks pre-empted together with stack `who.st`, once every pillar has stopped. -/
def execContextSave (s : State) : Outcome :=
  .next (if s.mayContextSave s.who.st then (s.preemptGroup s.who.st).foldl (fun s t => s.saveStack t) s else s)

/-! ### Killing -/

/-- Whether every participant of a launch is one of some stacks of this package (R340). -/
def Launch.onlyOn (l : Launch) (pkg : Nat) (sts : List Nat) : Bool :=
  l.parts.all fun x => x.pkg = pkg && sts.contains x.stack

/-- The iterations of one participant written as lost at the kill of its job (R340): those running there. -/
def State.losePart (s : State) (cause : Nat) (l : Launch) (i : Nat) (x : Part) : State :=
  let n := ((s.membersOf l.id).filter fun m => stackOf m.1 = x.stack && !(s.seq m.1 m.2).iter.any fun t => t.lost).length
  (s.report l.jcb (.kill 0 cause n)).onLaunch l.id fun l => { l with
    lostN := l.lostN + n
    parts := upd l.parts i fun x => { x with mute := true, unplaced := [], held := [], killed := x.killed + n } }

/-- A launch killed on some stacks (R340, R378): with no other participant, everything of it that has not ended is
lost; else the iterations running there are, these stacks send no heartbeat any more, and R85 counts what else they
lose when they are declared failed (log 31). -/
def State.killLaunch (s : State) (cause : Nat) (l : Launch) (sts : List Nat) : State :=
  let s := s.failMembers l fun t => sts.contains t
  if l.onlyOn s.pkg sts then
    let n := l.total - l.endedN
    let unposted := if 2 ≤ l.parts.length then
      l.parts.foldl (fun n x => if x.failed.isNone then n + (x.retired - x.posted) else n) 0 else 0
    let s := s.report l.jcb (.kill unposted cause n)
    (s.onLaunch l.id fun l => { l with
      lostN := l.lostN + n
      abandoned := true
      parts := l.parts.map fun x => { x with unplaced := [], held := [] } })
  else (l.parts.mapIdx fun i x => (i, x)).foldl (fun s ix =>
    if ix.2.pkg = s.pkg ∧ sts.contains ix.2.stack ∧ ix.2.failed.isNone ∧ !ix.2.mute then s.losePart cause l ix.1 ix.2 else s) s

/-- A sequencer whose iteration is killed: nothing of it goes on; `CHKINT` (R351) and the mode (R101) stay. -/
def Seq.killed (x : Seq) : Seq :=
  { x with
    run := if x.run = .halted then .halted else .idle
    iter := none
    delay := none
    loops := []
    regions := []
    inflight := []
    csrws := []
    recs := []
    fences := []
    flagq := []
    aborts := []
    syncing := none
    gang := []
    poisonDue := false
    heldSince := none
    wdog := false
    fetchFault := none
    undo := []
    firstFault := none
    userBank := Bank.empty
    supBank := Bank.empty
    delivered := [] }

/-- The credits of the messages that a pillar's sequencers have on their way to pillars of other stacks than some go
back to their pools, the operations being cancelled (R316, R317, R340). -/
def State.returnCredits (s : State) (p : Nat) (sts : List Nat) : State :=
  ((s.pillar p).seqs.flatMap fun x => x.recs).foldl (fun s r => match r.op with
    | .msend t _ _ => if sts.contains (stackOf t) then s
      else s.onPillar t fun P => { P with pools := upd P.pools (stackOf p) (· + 1) }
    | _ => s) s

/-- A job killed on some stacks (R340): its launches there, its sequencers, then the stacks cleared, whose pools
find no message of a killed sequencer on its way (R316), KILLED set. -/
def State.killJob (s : State) (cause job : Nat) (sts : List Nat) : State :=
  let ls := s.launches.filter fun l => l.job = job && l.parts.any fun x => x.pkg = s.pkg && sts.contains x.stack
  let s := ls.foldl (fun s l => s.killLaunch cause l sts) s
  let s := sts.foldl (fun s t => (pillarsOf t).foldl (fun s p => ((s.returnCredits p sts).onPillar p fun P =>
    { P with seqs := P.seqs.map Seq.killed, cube := [], drains := List.replicate 4 [] }).disown 1 p fun _ => true) s) s
  let s := sts.foldl (fun s t => (s.clearStack t).onStack t fun k => { k with
    req := false
    reqAt := none
    killed := true
    parked := k.parked.filter (· ≠ job) }) s
  let s := { s with away := s.away.filter fun a => !(a.job = job && sts.contains (stackOf a.p)) }
  ls.foldl (fun s l => s.checkLaunch l.id) s

/-- PREEMPT_KILL (R340): the deadline of stack `who.st`'s request has passed with some sequencer not stopped. -/
def execPreemptKill (s : State) : Outcome :=
  let g := s.preemptGroup s.who.st
  .next (match (s.stack s.who.st).reqAt with
    | some (_, j) =>
      if g.any fun t => (pillarsOf t).any fun p => [0, 1].any fun q => !(s.seq p q).hasStopped then s.killJob cPreempt j g else s
    | none => s)

/-! ### Restoring -/

/-- What the part kept beside the image of a pillar's sequencer, by the source pillar in its header (R341, log 32). -/
def State.awayOf (s : State) (base q job : Nat) : Option Away :=
  let src := bits (s.dword base) 36 7
  s.away.find? fun a => a.job = job && a.p = src && a.q = q

/-- A frame restored: one still held with the image's SIZE and no clearing since stays as it is (R345). -/
def State.restoreFrame (s : State) (p f base : Nat) : State :=
  let new := s.loadFrame (base + 0x800 + 16 * f) (s.pillar p).fadeCount
  let old := s.frame p f
  if new.state = .empty then s.clearFrame p f
  else if old.state ≠ .empty ∧ old.size = new.size ∧ !(s.stack (stackOf p)).cleared then s
  else ((s.clearFrame p f).onFrame p f fun _ => new)

/-- The level of a DSYNC among records. -/
def pendingSync (rs : List Rec) : Option Nat :=
  rs.findSome? fun r => match r.op with
    | .dsync lv _ => some lv
    | _ => none

/-- One sequencer restored with its records, their operations and its iteration (R343, R345). Of an iteration that the
part has kept nothing of, no launch is known: it is one of the stack's job under a number of its own (log 32). -/
def State.restoreSeq (s : State) (p q base job : Nat) : State :=
  let a := base + 0x200000 + 0x80000 * q
  let keep := s.awayOf base q job
  let s := s.onSeq p q fun x => s.loadSeq a (keep.map fun k => k.seq) x
  let rs := (s.loadRecs a).map fun r => s.restoreRec p q base keep r
  let s := s.onSeq p q fun x => { x with
    ueDue := x.ueDue.filter (fun e => bits e.word 0 4 = 10) ++ s.failedState base q
    recs := rs.map Prod.fst
    syncing := pendingSync (rs.map Prod.fst)
    iter := if bit (s.dword (a + 0x80)) 1 then none
      else (keep.bind fun k => k.iter).or (some ⟨s.nextLaunch, 0, true, false, []⟩) }
  let s := { s with nextLaunch := s.nextLaunch + 1 }
  let s := s.onPillar p fun P => { P with cube := P.cube ++ rs.filterMap Prod.snd }
  (rs.map Prod.fst).foldl (fun s r => match r.op with
    | .drain t _ _ _ => s.onPillar p fun P => { P with drains := upd P.drains t (· ++ [(q, r.idx)]) }
    | _ => s) s

/-- The issue number of a queue entry's record. -/
def Pillar.seqnoOf (P : Pillar) (q i : Nat) : Nat :=
  ((((P.seqs.getD q Seq.reset).recs.find? fun r => r.idx = i).map fun r => r.seqno).getD 0)

/-- Insertion into a list by rising key, after its equals. -/
def insertBy {α : Type} (key : α → Nat) (x : α) : List α → List α
  | [] => [x]
  | y :: ys => if key y ≤ key x then y :: insertBy key x ys else x :: y :: ys

/-- The restored queues of a pillar in the issue order of their records (R296, R325, R332). -/
def Pillar.inOrder (P : Pillar) : Pillar :=
  { P with
    cube := P.cube.foldl (fun l c => insertBy (fun c => P.seqnoOf c.q c.record) c l) []
    drains := P.drains.map fun l => l.foldl (fun m d => insertBy (fun d => P.seqnoOf d.1 d.2) d m) [] }

/-- A pillar restored from its image (R345). -/
def State.restorePillar (s : State) (p job : Nat) : State :=
  let base := s.imageAt p
  let s := (List.range 64).foldl (fun s f => s.restoreFrame p f base) s
  let s := s.onPillar p fun P => s.loadPillar base P
  let s := ((s.restoreSeq p 0 base job).restoreSeq p 1 base job).onPillar p Pillar.inOrder
  { s with away := s.away.filter fun a => !(a.job = job && a.p = bits (s.dword base) 36 7) }

/-- The JOBID of the images at a stack's CTXBASE (R341). -/
def State.imageJob (s : State) (st : Nat) : Nat := bits (s.dword (s.imageAt (32 * st))) 16 16

/-- Whether the images name only layers the stack has (R345). -/
def State.imageFits (s : State) (st : Nat) : Bool :=
  (pillarsOf st).all fun p =>
    bits (s.dword (s.imageAt p)) 32 4 &&& bits (s.stack st).layers 0 4 = bits (s.dword (s.imageAt p)) 32 4

/-- Whether a stack's RESTORE is honoured (R345): none of the image's job's iterations is placed there, and no WLOAD
of the stack runs (R250); a stack of another job must have drained, as the clearing of R75 has it. -/
def State.mayRestore (s : State) (st : Nat) : Bool :=
  let j := s.imageJob st
  !s.runsOn [st] j && !s.wloadRuns st &&
    ((s.stack st).job = some j || s.drainedFor st)

/-- RESTORE (R345): stack `who.st`. -/
def execRestore (s : State) : Outcome :=
  let st := s.who.st
  let j := s.imageJob st
  .next (if !s.mayRestore st then s
    else if !s.imageFits st then s.killJob cPreempt j [st]
    else
      let s := if (s.stack st).job = some j then s
        else (s.clearStack st).onStack st fun k => { k with job := some j }
      let s := (pillarsOf st).foldl (fun s p => s.restorePillar p j) s
      let s := s.onStack st fun k =>
        { k with restored := true, stopped := false, parked := k.parked.filter (· ≠ j) }
      (pillarsOf st).foldl (fun s p => ([0, 1].foldl (fun s q => s.onSeq p q fun x =>
        if x.iter.isNone || x.run = .halted then x else x.enterPreempt true (s.pillar p).ic) s).wake p) s)

/-! ### Translations -/

/-- TLB_INVALIDATE (R348): the entries of IJOB, all with IALL, else those of IVA's page; IGO reads 0 again. -/
def execTlbInvalidate (s : State) : Outcome :=
  .next (s.onStack s.who.st fun k =>
    let job := bits k.inval 0 16
    let va := k.iva.toNat
    { k with
      inval := setBits k.inval 17 1 0
      tlb := k.tlb.filter fun t => !(t.job = job && (bit k.inval 16 || (t.va ≤ va && va < t.va + t.size))) })

end Sys2Proof.Machine
end

