-- ==== Sys2Proof/Machine/Clock.lean ====
section
/-! DEFINITION. Time: what happens at each TIME (R255, R284, R334, R370-R379), which slots carry an ic (R367, R376,
R381), and what is due in a pillar's ic. -/

namespace Sys2Proof.Machine

/-- One slot of a stack's clock (R367, R376, R381): the stack after it, whether an ic begins, whether the port may
grant in it. -/
def Stack.tickClock (k : Stack) : Stack × Bool × Bool :=
  if k.half then ({ k with half := false }, false, false)
  else
    let adopted := if k.duty = 0 then k.stop else k.adopted
    let k := { k with adopted := adopted, duty := (k.duty + 1) % 8 }
    if k.shut || (8 - adopted ≤ (k.duty + 7) % 8) then (k, false, false)
    else if 0 < k.stretch then
      ({ k with stretch := k.stretch - 1, half := true, halve := if k.stretch = 1 then some 0 else k.halve }, true, true)
    else
      match k.halve with
      | some n => if n < 64 then ({ k with halve := some (n + 1) }, true, n % 2 = 0) else (k, true, true)
      | none => (k, true, true)

/-- An event with what it is of. -/
abbrev Happening := Instr × Who

/-- What a TIME that is a multiple of 1,000 ns brings, in order: the new FNMODE, the token, the fade clock and what
follows from it (R255-R257, R370, R391). -/
def State.atMicrosecond (s : State) : List Happening :=
  (.fnmodeApply, {}) :: (.tokenHop, {}) ::
    (allPillars.flatMap fun p =>
      (.fadeTick, { p := p }) ::
        (((List.range 64).filter fun f => (s.frame p f).state ≠ .empty).map fun f =>
          (Instr.frameExpire, ({ p := p, k := f } : Who))) ++
        [(.renewalOverdue, { p := p })])

/-- What a TIME brings by itself (R284, R285, R334, R361, R365, R371, R372, R379, R381, R82, R340, R286); heartbeats
go out at the multiples of 10,000 ns (log 74). -/
def State.atTime (s : State) (t : Nat) : List Happening :=
  let per (n : Nat) (l : List Happening) : List Happening := if t % n = 0 then l else []
  per 1000 s.atMicrosecond ++
  per 64 (allStacks.map fun st => (.permitRefill, { st := st })) ++
  (if t % 10000 = 500 then allStacks.map fun st => (Instr.sensorSample, ({ st := st } : Who)) else []) ++
  (allStacks.flatMap fun st =>
    let k := s.stack st
    (if 8000 * st ≤ t ∧ (t - 8000 * st) % 32000 = 0 then [(Instr.wsRefreshWindow, ({ st := st } : Who))] else []) ++
    (if 8000 * st ≤ t ∧ (t - 8000 * st) % 32000 = 1600 then [(Instr.wsRefreshWindowEnd, { st := st })] else []) ++
    (if bit k.alarm 48 ∧ bits k.alarm 0 48 = t then [(Instr.testAlarm, { st := st })] else []) ++
    (match k.reqAt with
      | some (at_, _) => if k.req ∧ at_ + k.pdl < t then [(Instr.preemptKill, { st := st })] else []
      | none => []) ++
    (if k.req then [(Instr.contextSave, { st := st })] else [])) ++
  (allSeqs.flatMap fun pq =>
    let x := s.seq pq.1 pq.2
    (match x.heldSince with
      | some h =>
        if h + (s.stack (stackOf pq.1)).wdl ≤ t ∧ !x.wdog then [(Instr.wdog, ({ p := pq.1, q := pq.2 } : Who))] else []
      | none => []) ++
    (if x.gang.any fun g => !g.2 && g.1 + 10000 ≤ t then [(Instr.gangTimeout, { p := pq.1, q := pq.2 })] else []) ++
    (x.recs.filterMap fun r => match r.op with
      | .engine e => (match e.heldSince with
        | some h =>
          if h + 5000000 ≤ t ∧ !e.told then some (Instr.thermalHold, { p := pq.1, q := pq.2, rec_ := r.idx }) else none
        | none => none)
      | _ => none)) ++
  ((s.launches.filter fun l => decide (2 ≤ l.parts.length)).flatMap fun l =>
    (List.range l.parts.length).flatMap fun i =>
      per 10000 [(Instr.heartbeat, ({ l := l.id, part := i } : Who))] ++
      (if (l.part? i).any (fun x => x.failed.isNone) && !l.abandoned && s.silent l i then
        [(.participantFailed, { l := l.id, part := i })] else [])) ++
  per 1000000000 [(.lifetimeCount, {})] ++ per 3600000000000 [(.counterPersist, {})]

/-- The budgets of the windows that begin at a TIME that is a multiple of 1,000 ns (R394). -/
def State.openWindows (s : State) : State :=
  { s with
    stks := s.stks.map fun k =>
      let hdma := bits k.budget 16 9
      { k with scrubLeft := 1024 * bits k.budget 8 8, hdmaLeft := if hdma = 0 then 256000 else 1024 * hdma }
    pillars := s.pillars.mapIdx fun p P => { P with renewBudget := bits (s.stack (stackOf p)).budget 0 8 } }

/-- What is noted as a ns ends: since when a queue is ready (R60), the walker waits on f0 (R74), a command is held by
self-refresh (R286). -/
def State.noteTimes (s : State) : State :=
  (allPillars.foldl State.noteF0 (allStacks.foldl State.noteReady s)).noteThermal

/-- The inputs that reach the part only through what unverified firmware does not expose (R387). -/
def needsFirmware : Instr → Bool
  | .notifyWidxWrite | .queueEnable | .queueDisable | .resumeQueue | .skipPacket | .abortQueue | .mgmtRegisterWrite
  | .preemptRequest | .restore | .tlbInvalidate | .hkrWrite | .hkVerdict | .govthWrite | .pkgbudWrite => true
  | _ => false

/-- The next half-ns slot: TIME's own events when a ns begins, the credits that must be back by now (R317), the
outside world's inputs for the slot, then the clocks, and last the free choice of what else happens in it. -/
def State.nextTick (s : State) : State :=
  let t := s.tick + 1
  let s := (({ (if t % 2 = 0 then s.noteTimes else s) with tick := t }) : State).answerRequests
  let s := if t % 2000 = 0 then s.openWindows else s
  let now := s.env.filter fun e => e.1 ≤ t && !((s.stack 0).unbooted && needsFirmware e.2.1)
  let timed := if t % 2 = 0 then s.atTime (t / 2) else []
  let ends := allStacks.filter fun st => (s.stack st).halve = some 64
  let back := s.credits.takeWhile fun c => c.2.2 ≤ t
  { s with
    env := s.env.filter fun e => t < e.1
    agenda := (ends.map fun st => .event .droopHalvingEnd { st := st }) ++ (timed.map fun e => .event e.1 e.2) ++
      (back.map fun _ => .event .creditReturn {}) ++ (now.map fun e => .event e.2.1 e.2.2) ++
      .clock :: (allPillars.map Act.renewal ++ [.async]) }

/-- The CSR writes of a pillar's sequencers that are due in the ic about to begin take effect (R105). -/
def State.csrTurn (s : State) (p : Nat) : State :=
  if (s.pillar p).seqs.all fun x => x.csrws.isEmpty then s
  else
    let t := (s.pillar p).ic + 1
    (s.csrUpTo p 0 t).csrUpTo p 1 t

/-- The clocks of this slot: the ic that begin are put before the rest of the agenda, and first of all the CSR writes
due in them take effect, so that every long word of these ic sees them. Of the writes due in one slot to a CSR that
pillars share the single order of R105 takes those of the lower-numbered pillar first, then of sequencer 0, as the
model's choice (log 100). -/
def State.runClock (s : State) : State :=
  let ks := allStacks.map fun st => (s.stack st).tickClock
  let starts : List (Nat × Bool) := allStacks.flatMap fun st =>
    match ks[st]? with
    | some (_, true, grant) => (pillarsOf st).map fun p => (p, grant)
    | _ => []
  let s := starts.foldl (fun (s : State) x => s.csrTurn x.1) { s with stks := ks.map fun x => x.1 }
  { s with agenda := (starts.map fun x => Act.icStart x.1 x.2) ++ s.agenda }

/-- The start of a pillar's ic: the count rises (R20; its CSR writes are in effect), the CABORTs due act (R305), the
flag changes whose fences let them follow (R312), and the cube's ic of work passes (R297). -/
def State.icBegin (s : State) (p : Nat) : State :=
  let s := s.onPillar p fun P => { P with ic := P.ic + 1, seqs := P.seqs.map fun x => { x with undo := [], chkNow := 0 } }
  let s := (s.runAborts p 0).runAborts p 1
  ((s.runFlagq p 0).runFlagq p 1).cubeWork p

end Sys2Proof.Machine
end

