-- ==== Sys2Proof/Machine/Due.lean ====
section
/-! DEFINITION. What is due in a pillar's ic before its port may grant and after, and what the part is free to do in a
slot. -/

namespace Sys2Proof.Machine

/-- The next event due in a pillar's ic before its port may grant, none when all are made: results landing (R158,
R162), a frame's zeroing at its end (R266), the cube (R297), an injection (R364), iterations retiring (R194). -/
def State.icNext (s : State) (p : Nat) : Option Happening :=
  let t := (s.pillar p).ic
  match [0, 1].find? fun q => (s.seq p q).landsBy t with
  | some q => some (.resultLanding, { p := p, q := q })
  | none =>
    match (s.pillar p).zeroed with
    | some f => some (.fallocZeroDone, { p := p, k := f })
    | none =>
      match s.cubeNext p with
      | some i => some (i, { p := p })
      | none =>
        if s.injDue p then some (.errinjApply, { p := p })
        else
          match [0, 1].find? fun q => (s.seq p q).mayRetire && !s.retireHeld p q with
          | some q => some (.iterationRetire, { p := p, q := q })
          | none => none

/-- The renewal port of a pillar in a slot (R257, R367). -/
def State.renewPort (s : State) (p : Nat) : State :=
  if s.renewDue p then { s with agenda := .event .backgroundRenew { p := p } :: s.agenda } else s

/-- What may happen to one asynchronous record, but for an engine command's transactions: the step of a JPOST or
JRAISE (R321), a message's arrival (R317). In context mode the operations of the image stay as they are (R344). -/
def State.recOptions (s : State) (p q : Nat) (r : Rec) : List Happening :=
  if (s.seq p q).imageOnly r.order then [] else
  match r.op with
  | .jcb isRaise => if s.mayStep p q r isRaise then [(.jcbStep, { p := p, q := q, rec_ := r.idx })] else []
  | .msend t sc _ => if s.mayDeliver p q r t sc then [(.msendDeliver, { p := p, q := q, rec_ := r.idx })] else []
  | _ => []

/-- Whether a record of a sequencer is not the image's alone. -/
def State.lives (s : State) (p q i : Nat) : Bool :=
  (s.rec? p q i).any fun r => !(s.seq p q).imageOnly r.order

/-- What may happen to a sequencer: lines arriving (R152), its engine commands' transactions, translations and ends
(R238, R281), its records' other effects, its DSYNC completing (R320). -/
def State.seqOptions (s : State) (p q : Nat) : List Happening :=
  ((s.wantedLines p q).map fun k => (Instr.icacheFill, ({ p := p, q := q, k := k } : Who))) ++
    (((s.engineOptions p q).filter fun ik => s.lives p q ik.1).map fun ik =>
      (.engineSectorTransaction, { p := p, q := q, rec_ := ik.1, k := ik.2 })) ++
    (((s.engineTranslations p q).filter fun ik => s.lives p q ik.1).map fun ik =>
      (.engineSectorTransaction, { p := p, q := q, rec_ := ik.1, k := ik.2, up := true })) ++
    (((s.engineFinishes p q).filter fun i => s.lives p q i).map fun i =>
      (.engineComplete, { p := p, q := q, rec_ := i })) ++
    ((s.seq p q).recs.flatMap fun r => s.recOptions p q r) ++
    (if s.mayComplete p q then [(.dsyncComplete, { p := p, q := q })] else [])

/-- What may happen to a pillar: its trays' deliveries (R325). -/
def State.pillarOptions (s : State) (p : Nat) : List Happening :=
  (List.range 4).filterMap fun t => match s.trayReady p t with
    | some (q, i) => if s.lives p q i then some (Instr.trayDelivery, ({ p := p, q := q, rec_ := i } : Who)) else none
    | none => none

/-- The voltage steps a stack may make: in each domain the first of a change, or the next of the one that goes on
(R374). -/
def State.voltOptions (s : State) (st : Nat) : List Happening :=
  (List.range 5).flatMap fun d => [true, false].filterMap fun up =>
    if (s.stack st).voltBegins d s.time || (s.stack st).voltGoesOn d s.time up then
      some (.voltageStep, { st := st, k := d, up := up }) else none

/-- What may happen in this slot, from which the free choice takes one after another. -/
def State.options (s : State) : List Happening :=
  ((placesOf s.posts s.mayArrive).map fun k => (Instr.kpostrArrive, ({ k := k } : Who))) ++
    ((List.range s.credits.length).map fun k => (.creditReturn, { k := k })) ++
    (allSeqs.flatMap fun pq => s.seqOptions pq.1 pq.2) ++
    (allPillars.flatMap s.pillarOptions) ++
    (allStacks.flatMap fun st => s.processorOptions st ++ s.walkerOptions st ++ s.voltOptions st) ++
    s.launches.flatMap s.launchOptions

/-- The free choice: nothing more in this slot, or one of the things that may happen, the choice then being made
again (log 3). -/
def State.freely (s : State) : State :=
  let os := s.options
  if os.isEmpty then s else
  let (c, s) := s.choose
  match os[c % (os.length + 1)]? with
  | some (i, w) => { s with agenda := .event i w :: .async :: s.agenda }
  | none => s

end Sys2Proof.Machine
end

