-- ==== Sys2Proof/Machine/Power.lean ====
section
/-! DEFINITION. Power and heat (R366-R381): samples and the governor, thermal shutdown, the power token, issue
permits, droop alarms, voltage steps; weight-store refresh windows (R284) and HBM self-refresh (R286). -/

namespace Sys2Proof.Machine

/-! ### Samples and the governor -/

/-- The highest valid sample, in 1/8 K; 0x8000 is no sample (R372). -/
def hottest (l : List (BitVec 16)) : Option Int :=
  l.foldl (fun (b : Option Int) (x : BitVec 16) => if x = 0x8000 then b else
    match b with
    | some m => some (max m x.toInt)
    | none => some x.toInt) none

/-- The samples of a die: 0 the logic die, 1 + p physical layer p (R371). -/
def Stack.dieSamples (k : Stack) (d : Nat) : List (BitVec 16) := (k.sens.drop (16 * d)).take 16

/-- `rne_int(4096 * 2^((T/8 - 85) / 12))` with T clamped to 0..130 °C (R255): the number m with
2m - 1 at most 2 × the exact real and 2m + 1 above it; no tie arises. -/
def fadeIncrement (t : Int) : Nat :=
  let n := (max 0 (min t 1040)).toNat + 472
  (List.range 17).reverse.foldl (fun m i => if (2 * (m + 2 ^ i) - 1) ^ 96 ≤ 2 ^ (n + 96) then m + 2 ^ i else m) 0

/-- The sample that serves a pillar row (R372). -/
def Stack.rowSample (k : Stack) (r : Nat) : Option Int :=
  (hottest ((k.sens.drop (4 * r)).take 4)).or (hottest (k.dieSamples 0))

/-- The powered dies: the logic die and every layer that carries a logical layer (R373). -/
def Stack.poweredDies (k : Stack) : List Nat :=
  0 :: (List.range 5).filterMap fun phys =>
    if (List.range 4).any fun i => bit k.layers i && bits k.layers (4 + 3 * i) 3 = phys then some (phys + 1) else none

/-- The governor temperature (R373). -/
def Stack.govTemp (k : Stack) : Option Int :=
  (k.poweredDies.filterMap fun d => hottest (k.dieSamples d)).foldl (fun b x => match b with
    | some m => some (max m x)
    | none => some x) none

/-- Threshold TH j in °C (R371). -/
def Stack.threshold (k : Stack) (j : Nat) : Int := bits k.govth (8 * (j - 1)) 8

/-- The thermal stop after a sample (R373, R375). -/
def Stack.nextTstop (k : Stack) : Nat :=
  if k.poweredDies.any fun d => (hottest (k.dieSamples d)).isNone then 7
  else
    match k.govTemp with
    | none => 7
    | some t =>
      let u := (((List.range 8).filter fun j => 1 ≤ j ∧ 8 * k.threshold j ≤ t).getLast?).getD 0
      if k.tstop < u then u
      else if 0 < k.tstop ∧ t ≤ 8 * k.threshold k.tstop - 16 then
        (((List.range k.tstop).filter fun j => j = 0 ∨ 8 * k.threshold j - 16 < t).getLast?).getD 0
      else k.tstop

/-- STOP after a sample at a TIME (R375). -/
def Stack.govern (k : Stack) (now : Nat) : Stack :=
  let want := max k.tstop k.pstop
  if want ≠ k.stop ∧ k.tchg.all fun t => t + 100000 ≤ now then { k with stop := want, tchg := some now } else k

/-- SENSOR_SAMPLE (R255, R372-R375, R378): the samples of stack `who.st` taken 500 ns ago land; INC of a row without
any valid sample stays, and TGOV without one is a free value (log 33). -/
def execSensorSample (s : State) : Outcome :=
  let st := s.who.st
  let taken := s.time - 500
  let s := s.onStack st fun k => { k with
    sens := (List.range 96).map fun i => Config.sensorReading st (i / 16) (i % 16) taken
    stime := taken }
  let k := s.stack st
  let s := (pillarsOf st).foldl (fun s p => match k.rowSample (p % 32 / 8) with
    | some t => s.onPillar p fun P => { P with fadeInc := BitVec.ofNat 16 (fadeIncrement t) }
    | none => s) s
  let (tgov, s) : BitVec 16 × State := match k.govTemp with
    | some t => (BitVec.ofInt 16 t, s)
    | none =>
      let (c, s) := s.choose
      (BitVec.ofNat 16 c, s)
  let s := s.onStack st fun k => ({ k with tstop := k.nextTstop, tgov := tgov } : Stack).govern s.time
  let hot := (hottest k.sens).any fun t => 1000 ≤ t
  .next (if hot && !k.shut then { s with agenda := .event .thermalShutdown { st := st } :: s.agenda } else s)

/-- THERMAL_SHUTDOWN (R378): stack `who.st`. -/
def execThermalShutdown (s : State) : Outcome :=
  let st := s.who.st
  let s := s.onStack st fun k => { k with shut := true, msix := mark k.msix 1024 }
  .next (match (s.stack st).job with
    | some j => s.killJob cUe j [st]
    | none => s)

/-! ### The power ring -/

/-- Grains a stack needs at a stop (R370). -/
def need (k : Nat) : Nat := 1140 - 142 * k

/-- The next stack on the ring 0, 1, 3, 2 (R370). -/
def ringNext (st : Nat) : Nat :=
  match st with
  | 0 => 1
  | 1 => 3
  | 3 => 2
  | _ => 0

/-- Whether some iteration is placed on a stack. -/
def State.busy (s : State) (st : Nat) : Bool :=
  (pillarsOf st).any fun p => [0, 1].any fun q => (s.seq p q).iter.isSome

/-- The exchange when the token with F grains reaches a stack (R370), at every budget as the block of R370 has it
(log 34). -/
def Stack.exchange (k : Stack) (busy : Bool) (f : Nat) : Stack × Nat :=
  let w := if busy then need k.tstop else need 7
  let (h, f) := if w < k.held then (w, f + (k.held - w)) else
    let x := min f (w - k.held)
    (k.held + x, f - x)
  ({ k with
    held := h
    token := f
    pstop := ((List.range 8).find? fun j => need j ≤ h).getD 7 }, f)

/-- TOKEN_HOP (R370): the token moves on; after a write of PKGBUD the grains are dealt anew and it stands at stack
0. -/
def execTokenHop (s : State) : Outcome :=
  .next (if s.pkgbudDue then
    { s with
      pkgbudDue := false
      tokenAt := 0
      tokenF := (s.pkgbud - 640) % 4
      stks := s.stks.map fun k => { k with held := (s.pkgbud - 640) / 4 } }
  else
    let st := ringNext s.tokenAt
    let x := (s.stack st).exchange (s.busy st) s.tokenF
    { s.onStack st fun _ => x.1 with tokenAt := st, tokenF := x.2 })

/-- PKGBUD_WRITE (R370, R371): accepted within 1,224 to 5,200. -/
def execPkgbudWrite (s : State) : Outcome :=
  let v := s.who.v % 8192
  .next (if 1224 ≤ v ∧ v ≤ 5200 then { s with pkgbud := v, pkgbudDue := true } else s)

/-- Whether a GOVTH value is accepted (R371). -/
def govthOk (v : W64) : Bool :=
  let th := (List.range 7).map fun j => bits v (8 * j) 8
  60 ≤ th.getD 0 0 && th.getD 6 0 ≤ 124 && (List.range 6).all fun j => th.getD j 0 < th.getD (j + 1) 0

/-- GOVTH_WRITE (R371): `who.v` to stack `who.st`, accepted or refused as a whole. -/
def execGovthWrite (s : State) : Outcome :=
  let v := BitVec.ofNat 64 s.who.v
  .next (if govthOk v then s.onStack s.who.st fun k => { k with govth := v &&& 0x00FFFFFFFFFFFFFF } else s)

/-! ### Permits, droop, voltage -/

/-- The permits a refill adds at a stop: matrix, vector, special-function, memory (R379). -/
def refill (stop : Nat) : List Nat :=
  match stop with
  | 0 => [128, 128, 128, 128]
  | 1 => [96, 104, 96, 112]
  | 2 => [72, 84, 64, 96]
  | 3 => [56, 64, 48, 80]
  | 4 => [40, 48, 32, 64]
  | 5 => [28, 32, 24, 48]
  | 6 => [16, 20, 16, 32]
  | _ => [8, 12, 8, 16]

/-- PERMIT_REFILL (R379): the pillars of stack `who.st`. -/
def execPermitRefill (s : State) : Outcome :=
  let st := s.who.st
  let add := refill (s.stack st).stop
  .next ((pillarsOf st).foldl (fun s p => s.onPillar p fun P =>
    { P with permits := List.zipWith (fun n a => min 128 (n + a)) P.permits add }) s)

/-- Whether a stack's clock is in the three stretched slots of an alarm (R381). -/
def Stack.stretching (k : Stack) : Bool := decide (0 < k.stretch) || k.half

/-- An alarm (R380, R381): ignored during a stretch, else it starts the sequence from step 1 and is counted. -/
def Stack.alarmed (k : Stack) : Stack :=
  if k.stretching then k
  else { k with
    stretch := 3
    halve := none
    drpth := setBits (setBits k.drpth 16 16 (bits k.drpth 16 16 + 1)) 32 1 1
    fresh := { k.fresh with droops := k.fresh.droops + 1 } }

/-- DROOP_ALARM (R381): the supply of stack `who.st` lies `who.v` mV below its set point; masked while ARM is 1. -/
def execDroopAlarm (s : State) : Outcome :=
  .next (s.onStack s.who.st fun k =>
    if bit k.alarm 48 ∨ s.who.v ≤ bits k.drpth 0 8 then k else k.alarmed)

/-- TEST_ALARM (R371, R381): stack `who.st`; ARM clears at the end of the halving that follows. -/
def execTestAlarm (s : State) : Outcome :=
  .next (s.onStack s.who.st fun k => if bit k.alarm 48 then { k.alarmed with testing := true } else k)

/-- DROOP_HALVING_END (R371, R380, R381): stack `who.st`. -/
def execDroopHalvingEnd (s : State) : Outcome :=
  .next (s.onStack s.who.st fun k => { k with
    halve := none
    drpth := setBits k.drpth 32 1 0
    alarm := if k.testing then setBits k.alarm 48 1 0 else k.alarm
    testing := false })

/-- VOLTAGE_STEP (R374): domain `who.k` of stack `who.st`, up or down by 1 mV, as a change begins or goes on. -/
def execVoltageStep (s : State) : Outcome :=
  let d := s.who.k
  let t := s.time
  .next (s.onStack s.who.st fun k =>
    if k.voltBegins d t || k.voltGoesOn d t s.who.up then { k with
      volts := upd k.volts d fun v => if s.who.up then v + 1 else v - 1
      voltAt := upd k.voltAt d fun a => if k.voltGoesOn d t s.who.up then a else t
      voltLast := upd k.voltLast d fun _ => (t, s.who.up) }
    else k)

/-! ### Memory refresh -/

/-- WS_REFRESH_WINDOW (R284): stack `who.st`. -/
def execWsRefreshWindow (s : State) : Outcome := .next (s.onStack s.who.st fun k => { k with refresh := true })

/-- WS_REFRESH_WINDOW_END (R284): stack `who.st`. -/
def execWsRefreshWindowEnd (s : State) : Outcome := .next (s.onStack s.who.st fun k => { k with refresh := false })

/-- HBM_SELF_REFRESH_ENTER (R286): HBM stack `who.k`. -/
def execHbmSelfRefreshEnter (s : State) : Outcome :=
  .next { s with selfRefresh := upd s.selfRefresh s.who.k fun _ => true }

/-- HBM_SELF_REFRESH_EXIT (R286): HBM stack `who.k`; held accesses may be performed again, in their order; the
part's own steps that nothing holds any more are performed at once. -/
def execHbmSelfRefreshExit (s : State) : Outcome :=
  .next (State.performReports { s with selfRefresh := upd s.selfRefresh s.who.k fun _ => false })

end Sys2Proof.Machine
end

