-- ==== Sys2Proof/Machine/Host.lean ====
section
/-! DEFINITION. The host's and the firmware's side (R365, R382-R394): housekeeping answers, management registers, host
accesses, scrubbing, lifetime counters, attestation, and package reset with its boot. -/

namespace Sys2Proof.Machine

/-! ### Housekeeping -/

/-- An election the host has granted (R392): the candidate its request named gathers the logs, if it is healthy. -/
def State.grantElection (s : State) (r : HkReq) : State :=
  let named := fun (x : Part) => x.pkg = bits r.word1 0 10 && x.stack = bits r.word1 10 2 && x.failed.isNone
  match s.launches.find? fun l => l.id = r.owner.1 && l.electing && l.candidate.isNone && l.parts.any named with
  | some l => s.onLaunch l.id fun l =>
      let c := (l.parts.findIdx? named).getD 0
      { l.sees c l.epoch with candidate := some c }
  | none => s

/-- A translation the host has refused: its XLATE is recorded for the operation or the fetch that waits (R349,
R392). -/
def State.refuse (s : State) (r : HkReq) : State :=
  let p := r.pillar
  let q := r.owner.1
  let i := r.owner.2
  let k := r.word1.toNat / 128
  if i = fetchOwner then
    if (s.seq p q).pc.toNat / 128 = k then s.onSeq p q fun x => { x with fetchFault := some ⟨k, cXlate, r.info⟩ } else s
  else
    match (s.rec? p q i).filter fun c => !c.faulted, ((s.pillar p).cubeItem? q i).map CubeItem.kind with
    | some _, some (.op o) => s.parkWave p q i o (cXlate, r.info)
    | some _, _ => s.faultRec p q i cXlate r.info
    | none, _ => s

/-- HK_VERDICT (R392, R393): the host answers the tag in `who.v` [31:0] with its bit 32; an unknown tag, or one
answered before, is ignored. A granted translation walks again, a refused one is recorded. -/
def execHkVerdict (s : State) : Outcome :=
  let v := BitVec.ofNat 64 s.who.v
  let g := bit v 32
  .next (match s.hkreqs.find? fun r => r.posted && r.tag % 4294967296 = bits v 0 32 && r.answered.isNone with
    | none => s
    | some r =>
      let drop := { s with hkreqs := s.hkreqs.filter fun x => x.tag ≠ r.tag }
      match bits r.word0 0 8 with
      | 1 => if g then drop else drop.refuse r
      | 2 => if g then drop.grantElection r else drop
      | 3 => if r.owner = noOwner then drop else
        { s with hkreqs := s.hkreqs.map fun x => if x.tag = r.tag then { x with answered := some g } else x }
      | _ => s)

/-- HKR_WRITE (R393): only increases are accepted; waiting requests are then posted in order. -/
def execHkrWrite (s : State) : Outcome :=
  .next (if s.hkr < s.who.v then State.hkPump { s with hkr := s.who.v } else s)

/-- FNMODE_APPLY (R391). -/
def execFnmodeApply (s : State) : Outcome := .next { s with fnmode := s.fnmodeNext }

/-! ### Registers and memory -/

/-- The value a write leaves in a plain register of a management block (R338, R371, R393, R394). -/
def State.mgmtPut (s : State) (st off : Nat) (v : W64) : State :=
  let on := s.onStack st
  match off with
  | 0x00 => on fun k => { k with killed := k.killed && !bit v 2 }
  | 0x08 => on fun k => { k with ctxbase := v &&& 0x000FFFFFFFFFF000 }
  | 0x10 => on fun k => { k with troot := v &&& 0x000FFFFFFFF80000 }
  | 0x18 => on fun k => { k with inval := v &&& 0x3FFFF }
  | 0x20 => on fun k => { k with iva := v &&& 0x000FFFFFFFFFFFFF }
  | 0x120 => on fun k => { k with budget := v &&& 0x1FFFFFF }
  | 0x140 => { s with hkbase := v &&& 0x000FFFFFFFFFE000 }
  | 0x218 =>
    let s := on fun k => { k with alarm := v &&& 0x0001FFFFFFFFFFFF }
    if bit v 48 ∧ bits v 0 48 ≤ s.time then { s with agenda := .event .testAlarm { st := st } :: s.agenda } else s
  | _ => s

/-- MGMT_REGISTER_WRITE (R338, R371, R383, R393, R394): `who.v` to the register at offset `who.k` of stack `who.st`'s
management block; a TA already past gives its alarm at once (R381). -/
def execMgmtRegisterWrite (s : State) : Outcome :=
  .next (s.mgmtPut s.who.st s.who.k (BitVec.ofNat 64 s.who.v))

/-- An action that is an event, with what it is of. -/
def Act.happening : Act → Option (Instr × Who)
  | .event i w => some (i, w)
  | _ => none

/-- The inputs of this slot that have not come yet put off to the next one, behind another (R249, log 81). -/
def State.putOff (s : State) (i : Instr) (w : Who) : State :=
  let later := (s.agenda.takeWhile fun a => a.happening.isSome).filterMap Act.happening
  { s with
    agenda := s.agenda.dropWhile fun a => a.happening.isSome
    env := ((i, w) :: later).map (s.tick + 1, ·) ++ s.env }

/-- A host write (R238, R249, R383): to registers in one piece; to memory first the bytes of one sector, then in the
next slot the others, which the inputs behind it do not overtake (log 81). A sector behind what stands held at its
memory-side point waits (R286). -/
def State.hostWrite (s : State) (pa : Nat) (bs : List Byte) : State :=
  let n := 32 - pa % 32
  let whole : Bool := match spaceOf pa with
    | some (.bar _) => true
    | _ => false
  if !whole && s.behind s.standing pa (min n bs.length) then s.putOff .hostMemAccess { k := pa, up := true, bytes := bs }
  else if whole || bs.length ≤ n then s.busWrite pa bs
  else (s.busWrite pa (bs.take n)).putOff .hostMemAccess { k := pa + n, up := true, bytes := bs.drop n }

/-- Whether the boot failed to verify the firmware (R387). -/
def State.unbooted (s : State) : Bool := (s.stack 0).unbooted

/-- HOST_MEM_ACCESS (R238, R382-R384, R387): at physical address `who.k`, a write of `who.bytes` with `who.up`, else
a read of `who.n` bytes, which changes nothing; with `who.q` not 0, at offset `who.k` of function `who.st`'s
configuration space. Without verified firmware only the configuration spaces and BOOTST answer. -/
def execHostMemAccess (s : State) : Outcome :=
  let pa := s.who.k
  let n := if s.who.up then s.who.bytes.length else s.who.n
  if s.who.q ≠ 0 then
    .next (if s.who.up then s.onStack s.who.st fun k => { k with cfg := Mem.writeN k.cfg pa s.who.bytes } else s)
  else if (spaceOf pa).isNone ∨ (spaceOf (pa + (n - 1))).isNone then .fault (.noSuchAddress pa)
  else .next (if s.who.up && !s.unbooted then s.hostWrite pa s.who.bytes else s)

/-! ### Scrubbing and counters -/

/-- Where an error is found (R356): unit code, layer and LOC. A memory sector `who.k`, with `who.up` sector `who.k` of
frame `who.rec_`; unit 4 the slot `who.k` of layer `who.part`, row `who.rec_`; another unit the register `who.k`. -/
def Who.unitWord (w : Who) : W64 :=
  match w.q with
  | 0 | 1 | 2 | 3 =>
    if w.up then frameWord w.rec_ w.k else memWord (32 * w.k)
  | 4 => slotWord w.part w.k w.rec_
  | 5 | 6 | 7 => poisonInfo w.q 0 (w.k % 32)
  | u => poisonInfo u 0 0

/-- What an error that cannot be corrected does where marking contains it (R354, R362): the sector, the slot's row,
or the destination is poisoned: 8 bytes of a row-buffer block or of a block of the chain queue, number `who.rec_` of
block `who.k`, are marked for the operation that reads them (log 77). -/
def State.poisonAt (s : State) (w : Who) : State :=
  match w.q with
  | 0 | 1 | 2 | 3 =>
    if w.up then s.onFrame w.p w.rec_ fun F => { F with poison := mark F.poison w.k }
    else { s with poison := mark s.poison w.k }
  | 4 => s.onPillar w.p fun P => { P with
      bslots := upd P.bslots w.part fun l => upd l w.k fun b => { b with badRows := mark b.badRows w.rec_ } }
  | 8 =>
    let g := w.rec_ % 256
    s.onPillar w.p fun P => if w.up then { P with chainQ := upd P.chainQ w.k fun b => (b.1, b.2 ||| 2 ^ g) }
      else { P with rowBad := upd P.rowBad w.k fun m => m ||| 2 ^ g }
  | _ => s

/-- SCRUB (R354, R362, R363, R394): in stack `who.st`, pillar `who.p`, `who.n` bits are found wrong, one of a code
that corrects is corrected, what else is found poisons its place (R356's units). With `who.q` 0 the scrubber reads
and rewrites the sector within its budget; with a unit code the error is found by another access to that unit. -/
def execScrub (s : State) : Outcome :=
  let w := s.who
  .next (if w.q = 0 ∧ (s.stack w.st).scrubLeft < 32 then s
    else
      let s := if w.q = 0 then s.onStack w.st fun k => { k with scrubLeft := k.scrubLeft - 32 } else s
      let word := w.unitWord
      let unit := bits word 0 4
      let log := fun (s : State) c => s.logError w.st (w.p % 32) (wordFrame word) unit c word
      if w.n = 0 then s
      else if w.n = 1 ∧ unit ≠ 4 ∧ unit ≠ 8 then log s true
      else if unit ≤ 4 ∨ unit = 8 then log (s.poisonAt w) false
      else s)

/-- One more in a bin of counters. -/
def bump (l : List Nat) (i : Nat) : List Nat := upd l i fun n => min (n + 1) 18446744073709551615

/-- Counters with what a second has added, saturating. -/
def addCounts (l new : List Nat) : List Nat := List.zipWith (fun a b => min (a + b) 18446744073709551615) l new

/-- A stack's counters after a second (R365, R377). -/
def Stack.secondPasses (k : Stack) (supply : Int) : Stack :=
  let temps := (List.range 6).foldl (fun l d => match hottest (k.dieSamples d) with
    | some t => bump l (48 * d + min 47 ((t - 240) / 16).toNat)
    | none => l) k.life.temps
  { k with
    life := {
      temps := temps
      supply := bump k.life.supply (min 31 ((supply + 160) / 10).toNat)
      droops := min (k.life.droops + k.fresh.droops) 18446744073709551615
      corrected := addCounts k.life.corrected k.fresh.corrected
      errors := addCounts k.life.errors k.fresh.errors
      stops := bump k.life.stops k.stop }
    fresh := Life.zero }

/-- LIFETIME_COUNT (R365). -/
def execLifetimeCount (s : State) : Outcome :=
  .next { s with stks := s.stks.mapIdx fun st k => k.secondPasses (Config.supplyReading st s.time) }

/-- COUNTER_PERSIST (R365). -/
def execCounterPersist (s : State) : Outcome :=
  .next { s with stks := s.stks.map fun k => { k with nvlife := k.life } }

/-! ### Attestation and reset -/

/-- The measurements (R390): boot ROM, firmware image, factory table, each stack's BOOTST and LAYERS, FNMODE. -/
def State.measurements (s : State) : List Nat :=
  [Config.measured 0, Config.measured 1, Config.measured 2] ++
    (s.stks.flatMap fun k => [k.bootst.toNat, k.layers.toNat]) ++ [s.fnmode.toNat]

/-- ATTEST_REQUEST (R387, R390): over the DOE mailbox of function 0, a response with both signatures, the LMS state
persisted before; an SPDM error once 2^30 signatures are spent; nothing without verified firmware. -/
def execAttestRequest (s : State) : Outcome :=
  .next (if s.unbooted then s
    else if 1073741824 ≤ s.signatures then s.onStack 0 fun k => { k with doe := some .spdmError }
    else
      let m := s.measurements
      let d := Doe.response m (Config.ecdsaSignature m s.signatures) (Config.lmsSignature m s.signatures)
      { s.onStack 0 (fun k => { k with doe := some d }) with signatures := s.signatures + 1 })

/-- `LAYERS` for the physical layers that failed (R12-R14). -/
def layersWord (failed : BitVec 5) : W64 :=
  let good := ((List.range 5).filter fun p => !bit failed p).take 4
  (List.range 4).foldl (fun (w : W64) i => match good[i]? with
    | some p => w ||| asBit true i ||| field p (4 + 3 * i) 3
    | none => w ||| field 7 (4 + 3 * i) 3) 0 ||| asBit (good.contains 4) 16

/-- BOOTST (R389). -/
def bootWord (stage err : Nat) (failed : BitVec 5) (rows cols : Nat) : W64 :=
  field stage 0 3 ||| asBit (err = 0 || err = 5) 3 ||| field err 4 4 ||| field failed.toNat 8 5 ||| field rows 13 16 |||
    field cols 29 16

/-- The planes of a stack's physical layer that need more than their 2 spare rows or 2 spare columns (R388). -/
def planesShort (st phys : Nat) : Bool :=
  (List.range 32).any fun n => 2 < (Config.planeFails st phys n).1 || 2 < (Config.planeFails st phys n).2

/-- Physical layers by a test, as LFAIL numbers them. -/
def layerSet (f : Nat → Bool) : BitVec 5 :=
  (List.range 5).foldl (fun (b : BitVec 5) p => if f p then b ||| BitVec.ofNat 5 (2 ^ p) else b) 0

/-- Spares in use over the planes of a stack's layers that have not failed (R388, R389). -/
def sparesUsed (st : Nat) (failed : BitVec 5) (f : Nat × Nat → Nat) : Nat :=
  (List.range 5).foldl (fun n p => if bit failed p then n
    else (List.range 32).foldl (fun n k => n + f (Config.planeFails st p k)) n) 0

/-- The error of a stack's boot and the last step it completed (R387-R389): tested are the layers that step 3 found
failed, failed those with the ones whose planes lack spares in step 4. -/
def bootResult (tested failed : BitVec 5) (logicOk hbmOk fabricOk : Bool) : Nat × Nat :=
  if !logicOk then (2, 2)
  else if (List.range 5).all fun p => bit tested p then (3, 2)
  else if (List.range 5).all fun p => bit failed p then (3, 3)
  else if !hbmOk then (4, 4)
  else if !fabricOk then (5, 6)
  else (0, 7)

/-- Whether the weight store of a stack refreshes at a TIME (R284). -/
def refreshAt (st t : Nat) : Bool := 8000 * st ≤ t && (t - 8000 * st) % 32000 < 1600

/-- A stack after its boot at a TIME (R13, R284, R387-R389): a layer that failed while the part ran has failed for
good; the lifetime counters come from the non-volatile store (R365). -/
def bootStack (st : Nat) (old : Stack) (time : Nat) : Stack :=
  let k := { Stack.reset with
    life := old.nvlife, nvlife := old.nvlife, lfail := old.lfail, refresh := refreshAt st time }
  if Config.firmwareOk then
    let (found, logicOk, hbmOk, fabricOk) := Config.bootTest st
    let tested := found ||| old.lfail
    let failed := tested ||| layerSet (planesShort st)
    let r := bootResult tested failed logicOk hbmOk fabricOk
    { k with
      layers := layersWord failed
      bootst := bootWord r.2 r.1 failed (sparesUsed st failed Prod.fst) (sparesUsed st failed Prod.snd)
      msix := if r.1 = 0 then [] else [1024] }
  else { k with bootst := bootWord 0 1 0 0 0 }

/-- Whether package reset leaves a physical address's byte: host memory and the memories of other packages. -/
def State.outside (s : State) (pa : Nat) : Bool :=
  match spaceOf pa with
  | some .host => true
  | some (.pod p) => p ≠ s.pkg
  | _ => false

/-- Whether step 7 of the boot has brought the fabric up: some stack has completed it (R386, R387, log 78). -/
def fabricUp (stks : List Stack) : Bool := stks.any fun k => bits k.bootst 0 3 = 7

/-- TIME in half ns when the boot is done (R19, R386): that of the package with the lowest pod address, 0 in that
package itself and without a fabric. -/
def bootTick (up : Bool) : Nat :=
  if up && Config.podAligned.any fun a => a < Config.podAddress % 1024 then 2 * Config.alignedTime else 0

/-- PACKAGE_RESET (R19, R87, R386, R387, R390): every field at its reset value, then the boot; the non-volatile store,
the count of signatures and what lies outside the package stay, as do the inputs still to come and the model's
counter. -/
def execPackageReset (s : State) : Outcome :=
  let up := fabricUp (s.stks.mapIdx fun st k => bootStack st k 0)
  let now := bootTick up
  .next { State.reset with
    tick := now
    mem := s.mem.filter fun c => s.outside c.1
    stks := s.stks.mapIdx fun st k => bootStack st k (now / 2)
    pkg := if up then Config.podAddress % 1024 else 0
    aligned := if up then Config.podAligned else []
    signatures := s.signatures
    nonce := s.nonce
    env := s.env.map fun e => (e.1 - s.tick + now, e.2)
    agenda := [] }

end Sys2Proof.Machine
end

