-- ==== Sys2Proof/Machine/Flow.lean ====
section
/-! DEFINITION. The flow of a sequencer's long words: loop ends (R188), iteration boundaries (R106), and which
syllables choose the next fetch themselves. -/

namespace Sys2Proof.Machine

/-- The loop-index stack after a long word at X, the loop-back's target and ROT when one goes back (R188): entries
that end at X count down; one at zero is left and the next is checked. -/
def loopEnd : List LoopEntry → W64 → List LoopEntry × Option (W64 × Bool)
  | [], _ => ([], none)
  | e :: rest, x =>
    if e.bend = x then
      if e.count = 1 then loopEnd rest x
      else ({ e with count := e.count - 1, index := e.index + e.step.signExtend 32 } :: rest, some (e.bstart, e.rot))
    else (e :: rest, none)

/-- `end_check(X)` (R188): the loop stack, the next fetch, and for a loop-back with R the rotation, in force from the
next ic after other writes of RBASE (R95, R184). -/
def State.endCheck (s : State) (x : W64) : State :=
  s.onMe fun m =>
    match loopEnd m.loops x with
    | (ls, none) => { m with loops := ls, pc := addrBits (x + 32) }
    | (ls, some (b, rot)) => { m with
        loops := ls
        pc := b
        csrws := if rot then m.csrws ++ [⟨s.mine.ic + 1, 8, 0x003, .rotate, 0⟩] else m.csrws }

/-- Whether `end_check(X)` finds an entry that ends at X, which makes the point after X an iteration boundary
(R106, R188). -/
def Seq.endsLoop (m : Seq) (x : W64) : Bool := m.loops.head?.any fun e => e.bend = x

/-- The branches and calls, which have a delay long word (R163). -/
def isBranch : Instr → Bool
  | .br .. | .bri .. | .call .. | .calli .. => true
  | _ => false

/-- The syllables a delay long word may not hold (R164). -/
def notInDelay : Instr → Bool
  | .br .. | .bri .. | .call .. | .calli .. | .loop .. | .loopi .. | .lbreak .. | .eret .. | .done .. | .halt .. => true
  | _ => false

/-- Whether a long word at an address breaks R164: a forbidden syllable in a delay long word; a branch, a branch's
delay long word or a loop instruction as the last long word of a loop body. -/
def Seq.illseq (m : Seq) (x : W64) (is : List Instr) : Bool :=
  let last := m.loops.any fun e => e.bend = x
  (m.delay.isSome && (is.any notInDelay || last)) ||
    (last && is.any fun i => isBranch i || (match i with
      | .loop .. | .loopi .. => true
      | _ => false))

/-- Whether an enabled syllable chooses the next fetch itself (R187, R189, R192-R194). -/
def movesPc (m : Seq) : Instr → Bool
  | .br .. | .bri .. | .call .. | .calli .. | .loop .. | .loopi .. | .eret .. | .done .. | .halt .. => true
  | .lbreak .. => !m.loops.isEmpty
  | _ => false

/-- Whether an enabled syllable itself marks the point after its long word as a boundary (R106, R189, R195). -/
def marksPoint (m : Seq) : Instr → Bool
  | .pmark .. => true
  | .lbreak .. => !m.loops.isEmpty
  | _ => false

/-- A syllable's guard (R156); what is no syllable has none. -/
def guardOfInstr : Instr → Guard
  | .nop g .. | .add g .. | .sub g .. | .addi g .. | .mul g .. | .mulh g .. | .mulhn g .. | .div g .. | .divn g ..
  | .rem g .. | .remn g .. | .andOp g .. | .orOp g .. | .xorOp g .. | .andi g .. | .ori g .. | .xori g ..
  | .shl g .. | .shr g .. | .sar g .. | .shli g .. | .shri g .. | .sari g .. | .rotl g .. | .minOp g ..
  | .maxOp g .. | .minn g .. | .maxn g .. | .cmpeq g .. | .cmpne g .. | .cmplt g .. | .cmple g .. | .cmpltn g ..
  | .cmplen g .. | .cmpeqi g .. | .cmplti g .. | .sel g .. | .bfx g .. | .bfxs g .. | .bfi g .. | .clz g ..
  | .ctz g .. | .popc g .. | .bswap g .. | .li g .. | .lih g .. | .mov g .. | .addx g .. | .cand g .. | .cor g ..
  | .cxor g .. | .cnot g .. | .time g .. | .cyc g .. | .csrr g .. | .csrw g .. | .csrs g .. | .csrc g ..
  | .fadr g .. | .br g .. | .bri g .. | .call g .. | .calli g .. | .loop g .. | .loopi g .. | .lbreak g ..
  | .lidx g .. | .trap g .. | .syscall g .. | .eret g .. | .bkpt g .. | .done g .. | .pmark g .. | .cropen g ..
  | .crclose g .. | .chkerr g .. | .waitev g .. | .fencei g .. | .halt g .. | .ld g .. | .st g .. | .ldaq g ..
  | .strl g .. | .ldv g .. | .stv g .. | .ldvt g .. | .ldvr g .. | .stvr g .. | .ldvb g .. | .ldvx g ..
  | .stvx g .. | .atom g .. | .cas g .. | .fence g .. | .ldp g .. | .stp g .. | .falloc g .. | .ffree g ..
  | .frenew g .. | .fstat g .. | .fsetx g .. | .xsve g .. | .xsvr g .. | .xsva g .. | .xspr g .. | .xsn g ..
  | .xvse g .. | .xpsa g .. | .xpsc g .. | .xpsr g .. | .xns g .. | .vadd g .. | .vsub g .. | .vmul g ..
  | .vfma g .. | .vfms g .. | .vmin g .. | .vmax g .. | .vabs g .. | .vneg g .. | .vcmp g .. | .vsel g ..
  | .viadd g .. | .visub g .. | .vimul g .. | .vaddw g .. | .viadds g .. | .vand g .. | .vor g .. | .vxor g ..
  | .vshl g .. | .vshr g .. | .vsar g .. | .vimin g .. | .vimax g .. | .vicmp g .. | .vcvt g .. | .vpack g ..
  | .vunpk g .. | .vmov g .. | .vli g .. | .vliF g .. | .vacc g .. | .vdrain g .. | .vperm g .. | .viota g ..
  | .vpand g .. | .vpor g .. | .vpxor g .. | .vpnot g .. | .dfromv g .. | .dtov g .. | .dtovN g .. | .dadd g ..
  | .dscale g .. | .ddot g .. | .ddotB g .. | .dmov g .. | .dneg g .. | .dwsum g .. | .fexp2 g .. | .flog2 g ..
  | .frcp g .. | .frsq g .. | .fsqrt g .. | .ftanh g .. | .fsigm g .. | .ferf g .. | .fsin g .. | .fcos g ..
  | .vrotr g .. | .vrotc g .. | .vbcr g .. | .vbcc g .. | .vredr g .. | .vredc g .. | .vscanr g .. | .vscanc g ..
  | .vtrn g .. | .vshfr g .. | .vshfc g .. | .cset g .. | .cfmt g .. | .cbld g .. | .cbldf g .. | .cmma g ..
  | .cmmat g .. | .czero g .. | .cchain g .. | .cwait g .. | .cprog g .. | .cabort g .. | .cbnd g .. | .cmmah g ..
  | .kwait g .. | .kpost g .. | .kpostr g .. | .kset g .. | .krd g .. | .copyin g .. | .copyout g .. | .gather g ..
  | .scatter g .. | .atomg g .. | .msend g .. | .defer g .. | .drain g .. | .jraise g .. | .jpost g ..
  | .dsync g .. | .wswin g .. | .fwait g .. | .ecancel g .. | .ecancelK g .. | .ecancelF g .. => g
  | _ => Guard.always

end Sys2Proof.Machine
end

