-- ==== Sys2Proof/Machine/Control.lean ====
section
/-! DEFINITION. The S0 slot's control instructions: branches and calls (R163, R185), hardware loops (R187-R190), traps
and return (R191-R193), retiring and boundaries (R194, R195, R352), containment (R196-R198), WAITEV and FENCEI (R199,
R200). Which long word follows is decided after the slots (Port.lean, R188). -/

namespace Sys2Proof.Machine

/-- BR's and CALL's target: 32 × the sign-extended offset from the branch's own address (R185). -/
def branchTarget (addr : W64) (i : BitVec 20) : W64 := addrBits (addr + 32 * i.signExtend 64)

/-- A taken branch: its delay long word next, then the target (R163). -/
def State.branchTo (s : State) (target : W64) : State :=
  s.onMe fun x => { x with pc := addrBits (s.cur.addr + 32), delay := some (addrBits target) }

/-- BR (R185). -/
def execBr (g : Guard) (i : BitVec 20) (s : State) : Outcome :=
  s.guarded g [] fun s => s.branchTo (branchTarget s.cur.addr i)

/-- BRI (R185). -/
def execBri (g : Guard) (a : BitVec 5) (s : State) : Outcome :=
  s.guarded g [a] fun s => s.branchTo (s.src a)

/-- CALL: BR, and the return address pushed (R185). -/
def execCall (g : Guard) (i : BitVec 20) (s : State) : Outcome :=
  s.guarded g [] fun s => (s.branchTo (branchTarget s.cur.addr i)).result 1 (.push (s.cur.addr + 64))

/-- CALLI: BRI, and the return address in D (R185). -/
def execCalli (g : Guard) (d a : BitVec 5) (s : State) : Outcome :=
  s.guarded g [a] fun s => (s.branchTo (s.src a)).toDest 1 d (s.cur.addr + 64)

/-- A loop entered with n passes, or skipped with none (R187); with six entries held it raises ILLEGAL, reason 9,
whatever its predicate (R149). -/
def State.enterLoop (s : State) (g : Guard) (srcs : List (BitVec 5)) (n : State → W32) (r : BitVec 1) (e : BitVec 9) :
    Outcome :=
  if 6 ≤ s.me.loops.length then .next (s.raise (cause cIllegal (s.sylInfo 9)))
  else s.guarded g srcs fun s =>
    let y := s.cur.addr
    let bend := addrBits (y + 32 * e.zeroExtend 64)
    if n s = 0 then s.onMe fun x => { x with pc := addrBits (bend + 32) }
    else s.onMe fun x => { x with
      loops := ⟨n s, 0, x.lpitch, addrBits (y + 32), bend, r = 1⟩ :: x.loops
      pc := addrBits (y + 32) }

/-- LOOP (R187). -/
def execLoop (g : Guard) (a : BitVec 5) (r : BitVec 1) (e : BitVec 9) (s : State) : Outcome :=
  s.enterLoop g [a] (fun s => (s.src a).extractLsb' 0 32) r e

/-- LOOPI (R187). -/
def execLoopi (g : Guard) (k : BitVec 10) (r : BitVec 1) (e : BitVec 9) (s : State) : Outcome :=
  s.enterLoop g [] (fun _ => k.zeroExtend 32) r e

/-- LBREAK: the innermost entry popped, and end_check of its body's end on the rest (R189). -/
def execLbreak (g : Guard) (s : State) : Outcome :=
  s.guarded g [] fun s =>
    match s.me.loops with
    | [] => s
    | e :: rest => (s.onMe fun x => { x with loops := rest }).endCheck e.bend

/-- LIDX: the INDEX at a level, 0 where no entry is held (R190). -/
def execLidx (g : Guard) (d : BitVec 5) (l : BitVec 3) (s : State) : Outcome :=
  s.guarded g [] fun s => s.toDest 1 d
    (match s.me.loops[l.toNat]? with
      | some e => e.index.signExtend 64
      | none => 0)

/-- TRAP (R191). -/
def execTrap (g : Guard) (i : BitVec 15) (s : State) : Outcome :=
  s.guarded g [] fun s => s.raise (cause cSyscall (i.zeroExtend 64 ||| asBit true 15))

/-- SYSCALL (R191). -/
def execSyscall (g : Guard) (i : BitVec 15) (s : State) : Outcome :=
  s.guarded g [] fun s => s.raise (cause cSyscall (i.zeroExtend 64))

/-- BKPT (R191). -/
def execBkpt (g : Guard) (s : State) : Outcome := s.guarded g [] fun s => s.raise (cause cBkpt 0)

/-- ERET (R192, R333, R337): PRIV in user mode (R101); else the return, and the operation whose fault had been
delivered resumes. -/
def execEret (g : Guard) (s : State) : Outcome :=
  s.guarded g [] fun s =>
    if s.me.mode = false then s.raise (cause cPriv (s.sylInfo 0))
    else
      let t := s.onMe fun x => x.eret s.mine.ic
      match s.me.delivered with
      | some i :: _ => t.resumeRec s.cur.p s.cur.q i
      | _ => t

/-- HALT (R193): PRIV in user mode (R101); else the sequencer stops. -/
def execHalt (g : Guard) (s : State) : Outcome :=
  s.guarded g [] fun s =>
    if s.me.mode = false then s.raise (cause cPriv (s.sylInfo 0)) else s.onMe fun x => { x with run := .halted }

/-- DONE (R194): a fault recorded before its long word is delivered here (R332); else the sequencer waits at the DONE,
where later ones are delivered. In supervisor mode
outside context mode it abandons the iteration and delivers no fault (R352). -/
def execDone (g : Guard) (s : State) : Outcome :=
  s.guarded g [] fun s =>
    let wait := fun (s : State) => s.onMe fun x => { x with run := .atDone s.cur.addr }
    if s.me.mode && !s.me.contextMode then wait (s.abandon s.cur.p s.cur.q)
    else
      match s.me.priorFault with
      | some r => s.raise r.asRaise
      | none => wait s

/-- PMARK: nothing but the boundary after its long word (R195). -/
def execPmark (_g : Guard) (s : State) : Outcome := .next s

/-- CROPEN (R196): a region with its handler, policy and snapshot; with four open, an ILLEGAL error inside the
innermost. -/
def execCropen (g : Guard) (a : BitVec 5) (o : BitVec 2) (s : State) : Outcome :=
  s.guarded g [a] fun s =>
    if 4 ≤ s.me.regions.length then s.raise { cause cIllegal (s.sylInfo 0) with force := true }
    else s.onMe fun x => { x with
      regions := ⟨addrBits (s.src a), o, x.mode, x.order, x.named, x.preds, x.rbase, x.loops⟩ :: x.regions }

/-- The regions without the innermost one opened in a mode. -/
def closeInnermost (mode : Bool) : List Region → List Region
  | [] => []
  | r :: rs => if r.sup == mode then rs else r :: closeInnermost mode rs

/-- CRCLOSE (R197). -/
def execCrclose (g : Guard) (s : State) : Outcome :=
  s.guarded g [] fun s => s.onMe fun x => { x with regions := closeInnermost x.mode x.regions }

/-- CHKERR (R198): the recorded fault due first, else poison under a region that unwinds on it. -/
def execChkerr (g : Guard) (s : State) : Outcome :=
  s.guarded g [] fun s =>
    match s.me.dueFault with
    | some r => s.raise r.asRaise
    | none =>
      if bit s.me.chkint 0 && (s.me.regionFor (cause cPoison 0)).isSome then s.raise (cause cPoison 0) else s

/-- WAITEV (R199): held before issue until an event or its deadline (R155); the latch is cleared at issue. -/
def execWaitev (g : Guard) (a : BitVec 5) (s : State) : Outcome :=
  s.guarded g [a] fun s => s.onMe fun x => { x with latch := false }

/-- FENCEI (R200): the pillar's instruction cache and what was fetched ahead are discarded. -/
def execFencei (g : Guard) (s : State) : Outcome :=
  s.guarded g [] fun s =>
    (s.onMine fun P => { P with icache := [] }).onMe fun x => { x with fetchFault := none }

end Sys2Proof.Machine
end

