-- ==== Sys2Proof/Machine/Vector.lean ====
section
/-! DEFINITION. The V slot but for the direction instructions: elementwise arithmetic, compares, moves, conversion and
packing, accumulator access (R201-R215), with the latencies of R159. -/

namespace Sys2Proof.Machine

/-- A V result of an elementwise instruction: operand A under H, the latch as H leaves it, the elements the mask
enables (R202, R203). -/
def State.elementwise (s : State) (g : Guard) (lat : Nat) (d a : BitVec 5) (h : BitVec 2) (m : BitVec 3)
    (f : State → VReg → VReg) : Outcome :=
  s.guarded g [] fun s => (s.keepV h a).toVec lat d (f s (s.holdV h a)) (s.vpred m)

/-- The elements of three registers combined. -/
def zip3 (f : W32 → W32 → W32 → W32) : VReg → VReg → VReg → VReg
  | x :: xs, y :: ys, z :: zs => f x y z :: zip3 f xs ys zs
  | _, _, _ => []

/-- An elementwise instruction of A (R204). -/
def State.vv1 (s : State) (g : Guard) (lat : Nat) (d a : BitVec 5) (h : BitVec 2) (m : BitVec 3) (f : W32 → W32) :
    Outcome := s.elementwise g lat d a h m fun _ x => x.map f

/-- An elementwise instruction of A and B (R204). -/
def State.vv2 (s : State) (g : Guard) (lat : Nat) (d a b : BitVec 5) (h : BitVec 2) (m : BitVec 3)
    (f : W32 → W32 → W32) : Outcome := s.elementwise g lat d a h m fun s x => List.zipWith f x (s.vreg b)

/-- An elementwise instruction of D, A and B (R204). -/
def State.vv3 (s : State) (g : Guard) (lat : Nat) (d a b : BitVec 5) (h : BitVec 2) (m : BitVec 3)
    (f : W32 → W32 → W32 → W32) : Outcome := s.elementwise g lat d a h m fun s x => zip3 f (s.vreg d) x (s.vreg b)

/-- A signed sum clamped to 32 bits (R207). -/
def addSat32 (a b : W32) : W32 := ofInt32 (max (-2147483648) (min 2147483647 (a.toInt + b.toInt)))

/-- The widened narrow value a view code selects (R208). -/
def widen (code : BitVec 5) (a : W32) : W32 :=
  let j := bits code 3 2
  let sg := bit code 2
  match bits code 0 2 with
  | 0 => a
  | 1 => if sg then (a.extractLsb' (16 * j) 16).signExtend 32 else (a.extractLsb' (16 * j) 16).zeroExtend 32
  | _ => if sg then (a.extractLsb' (8 * j) 8).signExtend 32 else (a.extractLsb' (8 * j) 8).zeroExtend 32

/-- VADD (R206). -/
def execVadd (g : Guard) (d a b : BitVec 5) (h : BitVec 2) (m : BitVec 3) (s : State) : Outcome :=
  s.vv2 g 4 d a b h m fun a b => to32 ((val32 a).add (val32 b))

/-- VSUB (R206). -/
def execVsub (g : Guard) (d a b : BitVec 5) (h : BitVec 2) (m : BitVec 3) (s : State) : Outcome :=
  s.vv2 g 4 d a b h m fun a b => to32 ((val32 a).add (val32 b).neg)

/-- VMUL (R206). -/
def execVmul (g : Guard) (d a b : BitVec 5) (h : BitVec 2) (m : BitVec 3) (s : State) : Outcome :=
  s.vv2 g 4 d a b h m fun a b => to32 ((val32 a).mul (val32 b))

/-- VFMA: one rounding of the exact product and sum (R206). -/
def execVfma (g : Guard) (d a b : BitVec 5) (h : BitVec 2) (m : BitVec 3) (s : State) : Outcome :=
  s.vv3 g 5 d a b h m fun d a b => to32 ((val32 d).add ((val32 a).mul (val32 b)))

/-- VFMS (R206). -/
def execVfms (g : Guard) (d a b : BitVec 5) (h : BitVec 2) (m : BitVec 3) (s : State) : Outcome :=
  s.vv3 g 5 d a b h m fun d a b => to32 ((val32 d).add ((val32 a).mul (val32 b)).neg)

/-- VMIN (R206). -/
def execVmin (g : Guard) (d a b : BitVec 5) (h : BitVec 2) (m : BitVec 3) (s : State) : Outcome :=
  s.vv2 g 4 d a b h m fun a b => fmin32 a b

/-- VMAX (R206). -/
def execVmax (g : Guard) (d a b : BitVec 5) (h : BitVec 2) (m : BitVec 3) (s : State) : Outcome :=
  s.vv2 g 4 d a b h m fun a b => fmax32 a b

/-- VABS (R206). -/
def execVabs (g : Guard) (d a : BitVec 5) (h : BitVec 2) (m : BitVec 3) (s : State) : Outcome :=
  s.vv1 g 4 d a h m fun a => if isNan32 a then nan32 else a &&& 0x7FFFFFFF

/-- VNEG (R206). -/
def execVneg (g : Guard) (d a : BitVec 5) (h : BitVec 2) (m : BitVec 3) (s : State) : Outcome :=
  s.vv1 g 4 d a h m fun a => if isNan32 a then nan32 else a ^^^ 0x80000000

/-- VIADD (R207). -/
def execViadd (g : Guard) (d a b : BitVec 5) (h : BitVec 2) (m : BitVec 3) (s : State) : Outcome :=
  s.vv2 g 4 d a b h m fun a b => a + b

/-- VISUB (R207). -/
def execVisub (g : Guard) (d a b : BitVec 5) (h : BitVec 2) (m : BitVec 3) (s : State) : Outcome :=
  s.vv2 g 4 d a b h m fun a b => a - b

/-- VIMUL (R207). -/
def execVimul (g : Guard) (d a b : BitVec 5) (h : BitVec 2) (m : BitVec 3) (s : State) : Outcome :=
  s.vv2 g 4 d a b h m fun a b => a * b

/-- VADDW: the view code in B, not a register (R208). -/
def execVaddw (g : Guard) (d a b : BitVec 5) (h : BitVec 2) (m : BitVec 3) (s : State) : Outcome :=
  s.elementwise g 4 d a h m fun s x => List.zipWith (fun o v => o + widen b v) (s.vreg d) x

/-- VIADDS: saturating (R207). -/
def execViadds (g : Guard) (d a b : BitVec 5) (h : BitVec 2) (m : BitVec 3) (s : State) : Outcome :=
  s.vv2 g 4 d a b h m fun a b => addSat32 a b

/-- VAND (R207). -/
def execVand (g : Guard) (d a b : BitVec 5) (h : BitVec 2) (m : BitVec 3) (s : State) : Outcome :=
  s.vv2 g 4 d a b h m fun a b => a &&& b

/-- VOR (R207). -/
def execVor (g : Guard) (d a b : BitVec 5) (h : BitVec 2) (m : BitVec 3) (s : State) : Outcome :=
  s.vv2 g 4 d a b h m fun a b => a ||| b

/-- VXOR (R207). -/
def execVxor (g : Guard) (d a b : BitVec 5) (h : BitVec 2) (m : BitVec 3) (s : State) : Outcome :=
  s.vv2 g 4 d a b h m fun a b => a ^^^ b

/-- VSHL (R207). -/
def execVshl (g : Guard) (d a b : BitVec 5) (h : BitVec 2) (m : BitVec 3) (s : State) : Outcome :=
  s.vv2 g 4 d a b h m fun a b => a <<< bits b 0 5

/-- VSHR (R207). -/
def execVshr (g : Guard) (d a b : BitVec 5) (h : BitVec 2) (m : BitVec 3) (s : State) : Outcome :=
  s.vv2 g 4 d a b h m fun a b => a >>> bits b 0 5

/-- VSAR (R207). -/
def execVsar (g : Guard) (d a b : BitVec 5) (h : BitVec 2) (m : BitVec 3) (s : State) : Outcome :=
  s.vv2 g 4 d a b h m fun a b => a.sshiftRight (bits b 0 5)

/-- VIMIN (R207). -/
def execVimin (g : Guard) (d a b : BitVec 5) (h : BitVec 2) (m : BitVec 3) (s : State) : Outcome :=
  s.vv2 g 4 d a b h m fun a b => if b.slt a then b else a

/-- VIMAX (R207). -/
def execVimax (g : Guard) (d a b : BitVec 5) (h : BitVec 2) (m : BitVec 3) (s : State) : Outcome :=
  s.vv2 g 4 d a b h m fun a b => if a.slt b then b else a

/-- VMOV: the bits unchanged (R211). -/
def execVmov (g : Guard) (d a : BitVec 5) (h : BitVec 2) (m : BitVec 3) (s : State) : Outcome :=
  s.vv1 g 2 d a h m fun a => a

/-- VSEL: P selects, every element is written (R202, R211). -/
def execVsel (g : Guard) (d a b : BitVec 5) (h : BitVec 2) (m : BitVec 3) (s : State) : Outcome :=
  s.guarded g [] fun s =>
    (s.keepV h a).toVec 2 d (mergeMask (s.vpred m) (s.vreg b) (s.holdV h a)) pOnes

/-- VPERM: any element of A at any position (R211). -/
def execVperm (g : Guard) (d a b : BitVec 5) (h : BitVec 2) (m : BitVec 3) (s : State) : Outcome :=
  s.elementwise g 6 d a h m fun s x => (s.vreg b).map fun i => at0 x (bits i 0 10)

/-- VIOTA (R211). -/
def execViota (g : Guard) (d : BitVec 5) (m : BitVec 3) (s : State) : Outcome :=
  s.guarded g [] fun s => s.toVec 2 d (VReg.of fun e => BitVec.ofNat 32 e) (s.vpred m)

/-- VLI: every element (R211). -/
def execVli (g : Guard) (d : BitVec 5) (i : BitVec 13) (s : State) : Outcome :=
  s.guarded g [] fun s => s.toVec 2 d (vfill (i.signExtend 32)) pOnes

/-- VLI.F: the top bits of an FP32 (R211). -/
def execVliF (g : Guard) (d : BitVec 5) (i : BitVec 13) (s : State) : Outcome :=
  s.guarded g [] fun s => s.toVec 2 d (vfill (i.zeroExtend 32 <<< 19)) pOnes

/-- VCMP's conditions on FP32 (R209). -/
def floatCompare (cc : Nat) (a b : W32) : Bool :=
  let un := isNan32 a || isNan32 b
  match cc with
  | 0 => !un && num32 a = num32 b
  | 1 => un || num32 a ≠ num32 b
  | 2 => !un && num32 a < num32 b
  | 3 => !un && num32 a ≤ num32 b
  | 4 => !un && num32 b < num32 a
  | 5 => !un && num32 b ≤ num32 a
  | 6 => !un
  | _ => un

/-- A compare into a vector predicate on the mask's bits, after 3 ic (R209). -/
def State.vcompare (s : State) (g : Guard) (d : BitVec 3) (a b : BitVec 5) (m : BitVec 3) (f : W32 → W32 → Bool) :
    Outcome :=
  s.guarded g [] fun s =>
    let x := s.vreg a
    let y := s.vreg b
    s.result 3 (.vpred d.toNat (PReg.of fun e => f (at0 x e) (at0 y e)) (s.vpred m))

/-- VCMP (R209). -/
def execVcmp (g : Guard) (d c : BitVec 3) (a b : BitVec 5) (m : BitVec 3) (s : State) : Outcome :=
  s.vcompare g d a b m (floatCompare c.toNat)

/-- VICMP (R209). -/
def execVicmp (g : Guard) (d c : BitVec 3) (a b : BitVec 5) (m : BitVec 3) (s : State) : Outcome :=
  s.vcompare g d a b m (intCompare c.toNat)

/-- A predicate operation on every bit, after 2 ic (R210). -/
def State.vplogic (s : State) (g : Guard) (d a b : BitVec 3) (f : W64 → W64 → W64) : Outcome :=
  s.guarded g [] fun s => s.result 2 (.vpred d.toNat (List.zipWith f (s.vpred a) (s.vpred b)) pOnes)

/-- VPAND (R210). -/
def execVpand (g : Guard) (d a b : BitVec 3) (s : State) : Outcome := s.vplogic g d a b fun x y => x &&& y
/-- VPOR (R210). -/
def execVpor (g : Guard) (d a b : BitVec 3) (s : State) : Outcome := s.vplogic g d a b fun x y => x ||| y
/-- VPXOR (R210). -/
def execVpxor (g : Guard) (d a b : BitVec 3) (s : State) : Outcome := s.vplogic g d a b fun x y => x ^^^ y
/-- VPNOT (R210). -/
def execVpnot (g : Guard) (d a : BitVec 3) (s : State) : Outcome := s.vplogic g d a a fun x _ => ~~~x

/-- VCVT: every element; under TRAP the first that overflows raises FMTOVF with its position (R124, R212). -/
def execVcvt (g : Guard) (d a : BitVec 5) (f t : BitVec 4) (o : BitVec 2) (s : State) : Outcome :=
  s.guarded g [] fun s =>
    let ys := (s.vreg a).map fun x => convert (fmtVal f.toNat x.toNat) t.toNat o.toNat
    match ys.findIdx? (·.isNone) with
    | some e => s.raise (cause cFmtovf (BitVec.ofNat 64 e))
    | none => s.toVec 4 d (ys.map fun y => BitVec.ofNat 32 (y.getD 0)) pOnes

/-- The elements a mask enables of those a test picks. -/
def anyEnabled (mask : PReg) (v : VReg) (f : W32 → Bool) : Bool :=
  (List.range 1024).any fun e => mask.on e && f (at0 v e)

/-- CHKINT.FMT set at issue when an enabled element holds a reserved TRN code (R117, R202, R213). -/
def State.trnFlag (s : State) (sel : BitVec 5) (m : BitVec 3) (v : VReg) : State :=
  if bits sel 0 2 = 3 && anyEnabled (s.vpred m) v fun x => trnReserved (bits x 0 8) then s.onMe Seq.setFmt else s

/-- The sub-element VUNPK moves out (R213). -/
def unpack (sel : BitVec 5) (a : W32) : W32 :=
  let j := bits sel 2 3
  match bits sel 0 2 with
  | 1 => (a.extractLsb' (16 * j) 16).zeroExtend 32
  | 2 => (a.extractLsb' (8 * j) 8).zeroExtend 32
  | _ => ofInt32 ((trnDecode (bits a 0 8)).getD j 0)

/-- The element VPACK leaves: D with one sub-element replaced; a TRN byte with bits [31:8] 0 (R213). -/
def pack (sel : BitVec 5) (r a : W32) : W32 :=
  let j := bits sel 2 3
  match bits sel 0 2 with
  | 1 => setBits r (16 * j) 16 a.toNat
  | 2 => setBits r (8 * j) 8 a.toNat
  | _ =>
    let t : Int := if a.toInt < 0 then -1 else if a = 0 then 0 else 1
    BitVec.ofNat 32 (trnEncode (upd (trnDecode (bits r 0 8)) j fun _ => t))

/-- VUNPK (R213). -/
def execVunpk (g : Guard) (d a b : BitVec 5) (h : BitVec 2) (m : BitVec 3) (s : State) : Outcome :=
  s.guarded g [] fun s =>
    ((s.trnFlag b m (s.holdV h a)).keepV h a).toVec 4 d ((s.holdV h a).map (unpack b)) (s.vpred m)

/-- VPACK (R213). -/
def execVpack (g : Guard) (d a b : BitVec 5) (h : BitVec 2) (m : BitVec 3) (s : State) : Outcome :=
  s.guarded g [] fun s =>
    ((s.trnFlag b m (s.vreg d)).keepV h a).toVec 4 d (List.zipWith (pack b) (s.vreg d) (s.holdV h a)) (s.vpred m)

/-- The side position that element r:c stands for, none beyond rows 0 and 1's (R214, R215). -/
def sidePos (e : Nat) : Option Nat := if e < 80 then some e else none

/-- VACC: the tile is busy until its write lands after 4 ic (R157, R214). -/
def execVacc (g : Guard) (v : BitVec 5) (a : BitVec 3) (c sd : BitVec 1) (m : BitVec 3) (s : State) : Outcome :=
  s.guarded g [] fun s =>
    let x := s.vreg v
    let t := s.acc a
    let put := fun (old new : W32) => if c = 1 then new else to32 ((val32 old).add (val32 new))
    let s' := s.onMe fun q => { q with accs := upd q.accs a.toNat fun t => { t with busy := true } }
    if sd = 0 then s'.result 4 (.acc a.toNat (List.zipWith put t.elems x) (s.vpred m))
    else s'.result 4 (.side a.toNat ((List.range 80).filterMap fun e =>
      if (s.vpred m).on e then (sidePos e).map fun k => (k, put (at0 t.side k) (at0 x e)) else none))

/-- VDRAIN: the values read at issue land after 6 ic; CLR clears what is read in the issue ic (R215). -/
def execVdrain (g : Guard) (v : BitVec 5) (a : BitVec 3) (c sd : BitVec 1) (m : BitVec 3) (s : State) : Outcome :=
  s.guarded g [] fun s =>
    let t := s.acc a
    let mask := s.vpred m
    let vals := if sd = 0 then t.elems else t.side ++ List.replicate 944 0
    let cleared : Acc :=
      if c = 0 then t
      else if sd = 0 then { t with elems := mergeMask mask t.elems (vfill 0) }
      else { t with side := (List.range 80).map fun k => if mask.on k then 0 else at0 t.side k }
    (s.onMe fun q => { q with accs := upd q.accs a.toNat fun _ => cleared }).toVec 6 v vals mask

end Sys2Proof.Machine
end

