-- ==== Sys2Proof/Machine/Special.lean ====
section
/-! DEFINITION. The F slot's special functions (R219-R225), bit for bit as the manual's Q30 definitions give them;
every table entry is the manual's rounding of the real number it names. -/

namespace Sys2Proof.Machine

/-- floor(v / 2^30) (R220). -/
def sar30 (v : Int) : Int := Int.fdiv v 1073741824

/-- Horner's scheme in Q30 (R220): the coefficients from c[0] up. -/
def horner (h : Int) : List Int → Int
  | [] => 0
  | [c] => c
  | c :: cs => c + sar30 (horner h cs * h)

/-- T[j] := q(2^(j/32)) (R221). -/
def expT : List Int :=
  [1073741824, 1097253708, 1121280436, 1145833280, 1170923762, 1196563654, 1222764986, 1249540052] ++
  [1276901417, 1304861917, 1333434672, 1362633090, 1392470869, 1422962010, 1454120821, 1485961921] ++
  [1518500250, 1551751076, 1585730000, 1620452965, 1655936265, 1692196547, 1729250827, 1767116489] ++
  [1805811301, 1845353420, 1885761398, 1927054196, 1969251188, 2012372174, 2056437387, 2101467502]

/-- The coefficients of the exponential core (R221). -/
def expP : List Int :=
  [1073741824, 744261118, 257941248, 59597083, 10327387]

/-- K := q(log2 e) (R221). -/
def log2e : Int := 1549082005

/-- L[k] := q((-1)^k / ((k+1) ln 2)) (R222). -/
def logL : List Int :=
  [1549082005, -774541002, 516360668, -387270501, 309816401, -258180334, 221297429]

/-- Rc[j] := rne_int(2^30 / (1 + (2j+1)/64)) (R222). -/
def logR : List Int :=
  [1057222719, 1025663832, 995934445, 967879954, 941362695, 916259690, 892460737, 869866794] ++
  [848388602, 827945503, 808464432, 789879043, 772128952, 755159085, 738919105, 723362913] ++
  [708448214, 694136129, 680390859, 667179386, 654471207, 642238100, 630453915, 619094385] ++
  [608136962, 597560667, 587345955, 577474594, 567929560, 558694933, 549755814, 541098242]

/-- LT[j] := q(log2(2^30 / Rc[j])) (R222). -/
def logT : List Int :=
  [24017256, 70962728, 116527249, 160789745, 203822568, 245692198, 286459867, 326182095] ++
  [364911161, 402695523, 439580171, 475606957, 510814882, 545240343, 578917365, 611877800] ++
  [644151509, 675766524, 706749198, 737124328, 766915285, 796144115, 824831638, 852997541] ++
  [880660456, 907838030, 934547002, 960803258, 986621888, 1012017244, 1037002979, 1061592099]

/-- S[j] := q(sin(2 pi (2j+1)/128)) (R223). -/
def sinS : List Int :=
  [52686014, 157550647, 260897982, 361732726, 459083786, 552013618, 639627258, 721080937] ++
  [795590213, 862437520, 920979082, 970651112, 1010975242, 1041563127, 1062120190, 1072448455] ++
  [1072448455, 1062120190, 1041563127, 1010975242, 970651112, 920979082, 862437520, 795590213] ++
  [721080937, 639627258, 552013618, 459083786, 361732726, 260897982, 157550647, 52686014] ++
  [-52686014, -157550647, -260897982, -361732726, -459083786, -552013618, -639627258, -721080937] ++
  [-795590213, -862437520, -920979082, -970651112, -1010975242, -1041563127, -1062120190, -1072448455] ++
  [-1072448455, -1062120190, -1041563127, -1010975242, -970651112, -920979082, -862437520, -795590213] ++
  [-721080937, -639627258, -552013618, -459083786, -361732726, -260897982, -157550647, -52686014]

/-- C[j] := q(cos(2 pi (2j+1)/128)) (R223). -/
def cosC : List Int :=
  [1072448455, 1062120190, 1041563127, 1010975242, 970651112, 920979082, 862437520, 795590213] ++
  [721080937, 639627258, 552013618, 459083786, 361732726, 260897982, 157550647, 52686014] ++
  [-52686014, -157550647, -260897982, -361732726, -459083786, -552013618, -639627258, -721080937] ++
  [-795590213, -862437520, -920979082, -970651112, -1010975242, -1041563127, -1062120190, -1072448455] ++
  [-1072448455, -1062120190, -1041563127, -1010975242, -970651112, -920979082, -862437520, -795590213] ++
  [-721080937, -639627258, -552013618, -459083786, -361732726, -260897982, -157550647, -52686014] ++
  [52686014, 157550647, 260897982, 361732726, 459083786, 552013618, 639627258, 721080937] ++
  [795590213, 862437520, 920979082, 970651112, 1010975242, 1041563127, 1062120190, 1072448455]

/-- The coefficients of sp (R223). -/
def sinP : List Int :=
  [1073741824, 0, -178956971, 0, 8947849, 0]

/-- The coefficients of cp (R223). -/
def cosP : List Int :=
  [1073741824, 0, -536870912, 0, 44739243, 0, -1491308]

/-- q(2 pi) (R223). -/
def twoPi : Int := 6746518852

/-- floor(2^400 / (2 pi)): enough of 1/(2 pi) to decide the rounding of T for every FP32 argument (log 21). -/
def invTwoPi : Nat :=
  0x28be60db9391054a7f09d5f47d4d377036d8a5664f10e4107f9458eaf7aef1586dc91b8e909374b801924bba827464873f87

/-- q(2 / sqrt pi) (R224). -/
def twoOverSqrtPi : Int := 1211587905

/-- E[j][k] := q(erf^(k)(c_j) / k!), c_j := (2j+1)/16 (R224). -/
def erfE : List (List Int) :=
  [[75625760, 1206864371, -75429023, -399145248, 37616297, 118803167, -12506078, -28063145]] ++
  [[224538396, 1169733058, -219324948, -362495401, 107092260, 100716701, -34852730, -22113056]] ++
  [[366649153, 1098862515, -343394536, -294746977, 160519060, 68359210, -49925834, -11818339]] ++
  [[498106830, 1000525706, -437729996, -205837320, 190936912, 28337236, -55049024, 134167]] ++
  [[615978257, 882960836, -496665470, -108070727, 195950049, -11667543, -50065682, 10824257]] ++
  [[718424186, 755236425, -519225042, -13767331, 177807534, -44766873, -37156267, 17957332]] ++
  [[804730870, 626112988, -508716803, 66850605, 142414209, -66339800, -20010093, 20440391]] ++
  [[875209539, 503095919, -471652424, 127084125, 97646791, -74742784, -2682024, 18514300]] ++
  [[930996728, 391811496, -416299714, 164275132, 51495407, -71168088, 11473256, 13461830]] ++
  [[973799782, 295754834, -351208865, 179455407, 10517974, -58832660, 20483135, 7058141]] ++
  [[1005632850, 216378859, -283997252, 176371309, -21077921, -41845484, 23928178, 990144]] ++
  [[1028580894, 153435586, -220563655, 160228308, -41642878, -24123838, 22664106, -3564701]] ++
  [[1044616162, 105454634, -164772865, 136486856, -51706068, -8629764, 18282954, -6107327]] ++
  [[1055477171, 70247930, -118543382, 109945328, -53251910, 2961441, 12534699, -6748620]] ++
  [[1062607793, 45355473, -82206794, 84214719, -48917324, 10200644, 6881730, -5992478]] ++
  [[1067145620, 28382730, -54991539, 61569827, -41315257, 13548376, 2267409, -4480977]] ++
  [[1069944805, 17214996, -35505929, 43082320, -32593333, 13964804, -909247, -2789147]] ++
  [[1071618509, 10120174, -22137880, 28911018, -24242132, 12538560, -2678132, -1311539]] ++
  [[1072588547, 5766301, -13334572, 18635364, -17102283, 10229002, -3324247, -239099]] ++
  [[1073133503, 3184454, -7762107, 11551939, -11491556, 7738686, -3223267, 402231]] ++
  [[1073430258, 1704515, -4367821, 6893522, -7376385, 5492738, -2724678, 687059]] ++
  [[1073586895, 884291, -2376532, 3963189, -4533358, 3684403, -2091716, 728900]] ++
  [[1073667037, 444649, -1250576, 2196614, -2672130, 2347162, -1487896, 636783]] ++
  [[1073706782, 216705, -636570, 1174382, -1512684, 1425089, -992017, 493279]] ++
  [[1073725888, 102364, -313490, 605921, -823320, 826790, -624463, 349550]] ++
  [[1073734791, 46866, -149384, 301820, -431231, 459273, -372983, 230330]] ++
  [[1073738812, 20797, -68889, 145197, -217519, 244654, -212133, 142518]] ++
  [[1073740572, 8944, -30747, 67480, -105732, 125137, -115191, 83340]] ++
  [[1073741319, 3729, -13283, 30305, -49552, 61521, -59842, 46263]] ++
  [[1073741627, 1506, -5555, 13154, -22402, 29096, -29790, 24458]] ++
  [[1073741749, 590, -2249, 5520, -9773, 13248, -14229, 12346]] ++
  [[1073741796, 224, -882, 2240, -4116, 5810, -6528, 5961]]

/-- The value q × 2^e of an integer. -/
def scaled (q e : Int) : Val := valInt q e

/-- n/d × 2^e rounded to FP32 with a sign. -/
def round32 (neg : Bool) (n d : Nat) (e : Int) : W32 := BitVec.ofNat 32 (fp32.round neg n d e)

/-- The exponential core e2(X) (R221): m and the exponent of the exact rational m × 2^(i - 30). -/
def e2 (x : Int) : Nat × Int :=
  let i := Int.fdiv x 1073741824
  let f := x - i * 1073741824
  let j := f / 33554432
  let h := f - j * 33554432
  ((sar30 (expT.getD j.toNat 0 * horner h expP)).toNat, i - 30)

/-- Whether |x| = m × 2^e is at least n × 2^k. -/
def magGe (m : Nat) (e : Int) (n : Nat) (k : Int) : Bool := pow2 n (k - e) ≤ pow2 m (e - k)

/-- FEXP2 (R221). -/
def fexp2 (x : W32) : W32 :=
  match val32 x with
  | .nan => nan32
  | .inf neg => if neg then 0 else 0x7F800000
  | .fin neg m e =>
    if !neg && magGe m e 128 0 then 0x7F800000
    else if neg && magGe m e 152 0 && !(pow2 m e == pow2 152 (-e)) then 0
    else
      let (q, k) := e2 (rneInt (signedMag neg m) (e + 30))
      round32 false q 1 k

/-- 1 / (1 + q × 2^k) rounded (R221). -/
def recipOnePlus (q : Nat) (k : Int) : W32 := round32 false (pow2 1 (-k)) (pow2 1 (-k) + pow2 q k) 0

/-- FSIGM (R221). -/
def fsigm (x : W32) : W32 :=
  match val32 x with
  | .nan => nan32
  | .inf neg => if neg then 0 else 0x3F800000
  | .fin neg m e =>
    if !neg && magGe m e 64 0 then 0x3F800000
    else if neg && magGe m e 106 0 then 0
    else
      let (q, k) := e2 (rneInt (-(signedMag neg m) * log2e) e)
      recipOnePlus q k

/-- FTANH (R221). -/
def ftanh (x : W32) : W32 :=
  match val32 x with
  | .nan => nan32
  | .inf neg => if neg then 0xBF800000 else 0x3F800000
  | .fin neg m e =>
    if magGe m e 10 0 then (if neg then 0xBF800000 else 0x3F800000)
    else if !magGe m e 1 (-12) then x
    else
      let (q, k) := e2 (rneInt (-(2 * (m : Int)) * log2e) e)
      let one := pow2 1 (-k)
      let u := pow2 q k
      round32 neg (one - u) (one + u) 0

/-- FLOG2 (R222). -/
def flog2 (x : W32) : W32 :=
  match val32 x with
  | .nan => nan32
  | .inf neg => if neg then nan32 else 0x7F800000
  | .fin neg m e =>
    if m = 0 then 0xFF800000
    else if neg then nan32
    else if magGe m e 31 (-5) && !magGe m e 33 (-5) then
      let w := floorInt m (e + 30) - 1073741824
      to32 (scaled (w * horner w logL) (-60))
    else
      let l := Nat.log2 m
      let f := m * 2 ^ (23 - l) - 8388608
      let ex := e + l
      let j := f / 262144
      let z := sar30 (((1073741824 + f * 128 : Nat) : Int) * logR.getD j 0) - 1073741824
      to32 (scaled (ex * 1073741824 + logT.getD j 0 + sar30 (z * horner z logL)) (-30))

/-- T of R223: the fraction of x / (2 pi) in 32 bits. -/
def angle (neg : Bool) (m : Nat) (e : Int) : Nat :=
  let y := signedMag neg m * invTwoPi
  let turns := rneInt y (e - 400 + 32)
  (turns % 4294967296).toNat

/-- The parts of FSIN and FCOS from T (R223): S[j], C[j], sp, cp. -/
def sincos (t : Nat) : Int × Int × Int × Int :=
  let j := t / 67108864
  let h : Int := ((t - j * 67108864 : Nat) : Int) - 33554432
  let phi := Int.fdiv (h * twoPi) 4294967296
  (sinS.getD j 0, cosC.getD j 0, sar30 (phi * horner phi sinP), horner phi cosP)

/-- FSIN (R223). -/
def fsin (x : W32) : W32 :=
  match val32 x with
  | .fin neg m e =>
    if !magGe m e 1 (-12) then x
    else
      let (sj, cj, sp, cp) := sincos (angle neg m e)
      to32 (scaled (sj * cp + cj * sp) (-60))
  | _ => nan32

/-- FCOS (R223). -/
def fcos (x : W32) : W32 :=
  match val32 x with
  | .fin neg m e =>
    let (sj, cj, sp, cp) := sincos (angle neg m e)
    to32 (scaled (cj * cp - sj * sp) (-60))
  | _ => nan32

/-- FERF; of a zero the zero of its sign (R224, log 22). -/
def ferf (x : W32) : W32 :=
  match val32 x with
  | .nan => nan32
  | .inf neg => if neg then 0xBF800000 else 0x3F800000
  | .fin neg m e =>
    if magGe m e 4 0 then (if neg then 0xBF800000 else 0x3F800000)
    else if !magGe m e 1 (-12) then round32 neg (m * twoOverSqrtPi.toNat) 1 (e - 30)
    else
      let y := rneInt m (e + 30)
      let j := y / 134217728
      let h := y - j * 134217728 - 67108864
      round32 neg (horner h (erfE.getD j.toNat [])).toNat 1 (-30)

/-- FRCP (R225). -/
def frcp (x : W32) : W32 :=
  match val32 x with
  | .nan => nan32
  | .inf neg => if neg then 0x80000000 else 0
  | .fin neg m e => if m = 0 then (if neg then 0xFF800000 else 0x7F800000) else round32 neg 1 m (-e)

/-- The square root of n × 2^e, for an even e, cut to at least `extra` fraction bits, with a last bit that tells
whether anything was cut; and its exponent. -/
def sqrtSticky (n : Nat) (e : Int) (extra : Nat) : Nat × Int :=
  let y := iroot 2 (n <<< (2 * extra))
  (2 * y + (if y * y = n <<< (2 * extra) then 0 else 1), e / 2 - extra - 1)

/-- FSQRT (R225). -/
def fsqrt (x : W32) : W32 :=
  match val32 x with
  | .nan => nan32
  | .inf neg => if neg then nan32 else 0x7F800000
  | .fin neg m e =>
    if m = 0 then x
    else if neg then nan32
    else
      let (n, k) := if e % 2 = 0 then (m, e) else (2 * m, e - 1)
      let (y, t) := sqrtSticky n k 30
      round32 false y 1 t

/-- 1/sqrt(n × 2^e) for positive n and even e: floor and sticky bit as in `sqrtSticky`. -/
def rsqrtSticky (n : Nat) (e : Int) (extra : Nat) : Nat × Int :=
  let big := 1 <<< (2 * extra)
  let y := iroot 2 (big / n)
  (2 * y + (if y * y * n = big then 0 else 1), -(e / 2) - extra - 1)

/-- FRSQ (R225). -/
def frsq (x : W32) : W32 :=
  match val32 x with
  | .nan => nan32
  | .inf neg => if neg then nan32 else 0
  | .fin neg m e =>
    if m = 0 then (if neg then 0xFF800000 else 0x7F800000)
    else if neg then nan32
    else
      let (n, k) := if e % 2 = 0 then (m, e) else (2 * m, e - 1)
      let (y, t) := rsqrtSticky n k 48
      round32 false y 1 t

/-- A special function of each enabled element, after 8 ic (R219, R220). -/
def State.special (s : State) (g : Guard) (d a : BitVec 5) (h : BitVec 2) (m : BitVec 3) (f : W32 → W32) : Outcome :=
  s.guarded g [] fun s => (s.keepF h a).toVec 8 d ((s.holdF h a).map f) (s.vpred m)

/-- FEXP2 (R221). -/
def execFexp2 (g : Guard) (d a : BitVec 5) (h : BitVec 2) (m : BitVec 3) (s : State) : Outcome :=
  s.special g d a h m fexp2

/-- FLOG2 (R222). -/
def execFlog2 (g : Guard) (d a : BitVec 5) (h : BitVec 2) (m : BitVec 3) (s : State) : Outcome :=
  s.special g d a h m flog2

/-- FRCP (R225). -/
def execFrcp (g : Guard) (d a : BitVec 5) (h : BitVec 2) (m : BitVec 3) (s : State) : Outcome :=
  s.special g d a h m frcp

/-- FRSQ (R225). -/
def execFrsq (g : Guard) (d a : BitVec 5) (h : BitVec 2) (m : BitVec 3) (s : State) : Outcome :=
  s.special g d a h m frsq

/-- FSQRT (R225). -/
def execFsqrt (g : Guard) (d a : BitVec 5) (h : BitVec 2) (m : BitVec 3) (s : State) : Outcome :=
  s.special g d a h m fsqrt

/-- FTANH (R221). -/
def execFtanh (g : Guard) (d a : BitVec 5) (h : BitVec 2) (m : BitVec 3) (s : State) : Outcome :=
  s.special g d a h m ftanh

/-- FSIGM (R221). -/
def execFsigm (g : Guard) (d a : BitVec 5) (h : BitVec 2) (m : BitVec 3) (s : State) : Outcome :=
  s.special g d a h m fsigm

/-- FERF (R224). -/
def execFerf (g : Guard) (d a : BitVec 5) (h : BitVec 2) (m : BitVec 3) (s : State) : Outcome :=
  s.special g d a h m ferf

/-- FSIN (R223). -/
def execFsin (g : Guard) (d a : BitVec 5) (h : BitVec 2) (m : BitVec 3) (s : State) : Outcome :=
  s.special g d a h m fsin

/-- FCOS (R223). -/
def execFcos (g : Guard) (d a : BitVec 5) (h : BitVec 2) (m : BitVec 3) (s : State) : Outcome :=
  s.special g d a h m fcos

end Sys2Proof.Machine
end

