-- ==== Sys2Proof/Machine/Direction.lean ====
section
/-! DEFINITION. Direction registers (R98, R118, R119, R229-R234): rows of 64 Q14 components with an LN16 norm, and the
instructions that form, read and rescale them. -/

namespace Sys2Proof.Machine

/-- n × 2^e rounded to 26 significant bits (R230). -/
def round26 (n : Nat) (e : Int) : Nat × Int := roundTo 26 none n 1 e

/-- round26(1/sqrt(m × 2^e)) for positive m (R230). -/
def rsqrt26 (m : Nat) (e : Int) : Nat × Int :=
  let (n, k) := if e % 2 = 0 then (m, e) else (2 * m, e - 1)
  let (y, t) := rsqrtSticky n k (Nat.log2 n / 2 + 40)
  round26 y t

/-- rne_int(128 × log2 of m × 2^e) for positive m; it is never a tie (R230). -/
def log128 (m : Nat) (e : Int) : Int := Int.fdiv (256 * e + (Nat.log2 (m ^ 256) : Nat) + 1) 2

/-- sat_ln (R230). -/
def satLn (k : Int) : W16 := if 32767 < k then 0x7FFF else if k < -32767 then 0x8001 else BitVec.ofInt 16 k

/-- A formed row: components, norm, the exact squared length it came from, and whether CHKINT.DIR is set. -/
structure DirRow where
  comps : List W16
  norm : W16
  len : Nat × Int
  flag : Bool
deriving DecidableEq, Repr

/-- A zero row (R229). -/
def DirRow.zero (flag : Bool) : DirRow := ⟨List.replicate 64 0, 0x8000, (0, 0), flag⟩

/-- An infinite vector's components as ±1 and 0 (R230). -/
def infUnit : Val → Val
  | .inf neg => .fin neg 1 0
  | _ => .fin false 0 0

/-- The sum of the squares of finite values, exact. -/
def sumSquares (xs : List Val) : Nat × Int :=
  let s := xs.foldl (fun a x => a.add (x.mul x)) Exact.zero
  (s.m.toNat, s.e)

/-- renorm (R230). -/
def renorm (xs : List Val) : DirRow :=
  if xs.any (fun x => x = .nan) then DirRow.zero true else
  let inf := xs.any fun x => x = .inf false || x = .inf true
  let ys := if inf then xs.map infUnit else xs
  let (m, e) := sumSquares ys
  if m = 0 then DirRow.zero false else
  let (r, t) := rsqrt26 m e
  let ks := ys.map fun y => match y with
    | .fin neg a k => rneInt (signedMag neg a * r) (k + t + 14)
    | _ => 0
  let sq := ks.foldl (fun a k => a + k * k) 0
  if 262144 < (sq - 268435456).natAbs then DirRow.zero true
  else ⟨ks.map (BitVec.ofInt 16), if inf then 0x7FFF else satLn (log128 m e), (m, e), false⟩

/-- The components of row r of a direction register as stored. -/
def storedRow (d : List W16) (r : Nat) : List W16 := (d.drop (64 * r)).take 64

/-- Whether a stored row is a zero row (R229). -/
def isZeroRow (d n : List W16) (r : Nat) : Bool := at0 n r = 0x8000 || (storedRow d r).all (· = 0)

/-- The components of row r as an instruction reads them (R229). -/
def readRow (d n : List W16) (r : Nat) : List W16 :=
  if isZeroRow d n r then List.replicate 64 0 else storedRow d r

/-- A Q14 component's value (R118). -/
def q14Val (x : W16) : Val := valInt x.toInt (-14)

/-- A direction result and its norm in flight, each at its own latency; CHKINT.DIR with the direction part (R98, R159,
R230). -/
def State.toDir (s : State) (latD latN : Nat) (d : BitVec 3) (rows : List DirRow) : State :=
  let s := s.result latN (.norm d.toNat (rows.map fun x => x.norm) 0xFFFF)
  let s := s.result latD (.dir d.toNat (rows.flatMap fun x => x.comps) 0xFFFF)
  if rows.any fun x => x.flag then s.result latD (.chk 4) else s

/-- DFROMV (R232). -/
def execDfromv (g : Guard) (d : BitVec 3) (x : BitVec 5) (s : State) : Outcome :=
  s.guarded g [] fun s =>
    let v := s.vreg x
    s.toDir 12 9 d ((List.range 16).map fun r => renorm (((v.drop (64 * r)).take 64).map val32))

/-- A finite value. -/
def Val.isFin : Val → Bool
  | .fin _ _ _ => true
  | _ => false

/-- The exact weighted sum of two rows. -/
def weighted (al be : Val) (a b : List W16) : List Val :=
  List.zipWith (fun x y => ((q14Val x).mul al).add ((q14Val y).mul be)) a b

/-- DWSUM (R232). -/
def execDwsum (g : Guard) (d a b : BitVec 3) (x : BitVec 5) (s : State) : Outcome :=
  s.guarded g [] fun s =>
    let v := s.vreg x
    s.toDir 14 11 d ((List.range 16).map fun r =>
      let al := val32 (at0 v (64 * r))
      let be := val32 (at0 v (64 * r + 1))
      if al.isFin && be.isFin then
        renorm (weighted al be (readRow (s.dir a) (s.norms a) r) (readRow (s.dir b) (s.norms b) r))
      else DirRow.zero true)

/-- round26(2^(-g/256)) (R232). -/
def pow26 (g : Nat) : Val :=
  let a := (g + 255) / 256
  let t := 256 * a - g
  let y := iroot 256 (1 <<< (256 * 40 + t))
  let (q, e) := round26 (2 * y + if t = 0 then 0 else 1) (-41 - (a : Int))
  .fin false q e

/-- One row of DADD (R232). -/
def addRows (a na b nb : List W16) (r : Nat) : DirRow :=
  let x := readRow a na r
  let y := readRow b nb r
  if isZeroRow a na r then ⟨y, if isZeroRow b nb r then 0x8000 else at0 nb r, (0, 0), false⟩
  else if isZeroRow b nb r then ⟨x, at0 na r, (0, 0), false⟩
  else
    let g := (at0 na r).toInt - (at0 nb r).toInt
    let w := pow26 g.natAbs
    let one := Val.fin false 1 0
    let z := renorm (if 0 ≤ g then weighted one w x y else weighted w one x y)
    if z.norm = 0x8000 then DirRow.zero z.flag
    else { z with norm := satLn (max (at0 na r).toInt (at0 nb r).toInt + log128 z.len.1 z.len.2) }

/-- DADD (R232). -/
def execDadd (g : Guard) (d a b : BitVec 3) (s : State) : Outcome :=
  s.guarded g [] fun s =>
    s.toDir 14 11 d ((List.range 16).map fun r => addRows (s.dir a) (s.norms a) (s.dir b) (s.norms b) r)

/-- DSCALE: the stored norm and the word of column 0; the direction part is not written (R234). -/
def execDscale (g : Guard) (d : BitVec 3) (x : BitVec 5) (s : State) : Outcome :=
  s.guarded g [] fun s =>
    let v := s.vreg x
    s.result 2 (.norm d.toNat ((List.range 16).map fun r =>
      let n := at0 (s.norms d) r
      if n = 0x8000 then 0x8000 else satLn (n.toInt + (at0 v (64 * r)).toInt)) 0xFFFF)

/-- DMOV: the stored bits (R234). -/
def execDmov (g : Guard) (d a : BitVec 3) (s : State) : Outcome :=
  s.guarded g [] fun s =>
    s.toDir 2 2 d ((List.range 16).map fun r => ⟨storedRow (s.dir a) r, at0 (s.norms a) r, (0, 0), false⟩)

/-- A component negated, −2.0 giving the largest (R234). -/
def negComp (x : W16) : W16 := if x = 0x8000 then 0x7FFF else -x

/-- DNEG: a zero row's stored bits unchanged (R234). -/
def execDneg (g : Guard) (d a : BitVec 3) (s : State) : Outcome :=
  s.guarded g [] fun s =>
    s.toDir 2 2 d ((List.range 16).map fun r =>
      let row := storedRow (s.dir a) r
      ⟨if isZeroRow (s.dir a) (s.norms a) r then row else row.map negComp, at0 (s.norms a) r, (0, 0), false⟩)

/-- DTOV (R233). -/
def execDtov (g : Guard) (a : BitVec 3) (x : BitVec 5) (s : State) : Outcome :=
  s.guarded g [] fun s =>
    s.toVec 6 x ((List.range 16).flatMap fun r => (readRow (s.dir a) (s.norms a) r).map fun c => to32 (q14Val c)) pOnes

/-- round_fp32(c × 2^-14 × 2^(n/256)), one rounding of the exact real (R233). -/
def scaledComp (n c : W16) : W32 :=
  let k := n.toInt
  let a := Int.fdiv k 256
  let t := (k - 256 * a).toNat
  let m := c.toInt.natAbs
  if m = 0 then 0
  else if t = 0 then round32 (decide (c.toInt < 0)) m 1 (a - 14)
  else round32 (decide (c.toInt < 0)) (2 * iroot 256 ((m ^ 256) <<< (256 * 30 + t)) + 1) 1 (a - 14 - 31)

/-- DTOV.N (R233). -/
def execDtovN (g : Guard) (a : BitVec 3) (x : BitVec 5) (s : State) : Outcome :=
  s.guarded g [] fun s =>
    s.toVec 6 x ((List.range 16).flatMap fun r =>
      (readRow (s.dir a) (s.norms a) r).map (scaledComp (at0 (s.norms a) r))) pOnes

/-- The rounded cosine of two rows as read (R233). -/
def cosine (x y : List W16) : W32 :=
  to32 (scaled ((List.zipWith (fun a b => a.toInt * b.toInt) x y).foldl (· + ·) 0) (-28))

/-- A cosine written across each row (R233). -/
def State.cosines (s : State) (a b : BitVec 3) (x : BitVec 5) (rowB : Nat → Nat) : State :=
  s.toVec 8 x ((List.range 16).flatMap fun r =>
    List.replicate 64 (cosine (readRow (s.dir a) (s.norms a) r) (readRow (s.dir b) (s.norms b) (rowB r)))) pOnes

/-- DDOT (R233). -/
def execDdot (g : Guard) (a b : BitVec 3) (x : BitVec 5) (s : State) : Outcome :=
  s.guarded g [] fun s => s.cosines a b x id

/-- DDOT.B: against one row of db (R233). -/
def execDdotB (g : Guard) (a b : BitVec 3) (x : BitVec 5) (k : BitVec 4) (s : State) : Outcome :=
  s.guarded g [] fun s => s.cosines a b x fun _ => k.toNat

end Sys2Proof.Machine
end

