-- ==== Sys2Proof/Machine/Lane.lean ====
section
/-! DEFINITION. The F slot's cross-lane operations (R226-R228), with the latencies of R159. -/

namespace Sys2Proof.Machine

/-- A cross-lane result: A read in full, the enabled elements written (R202, R227). -/
def State.lanes (s : State) (g : Guard) (lat : Nat) (d a : BitVec 5) (m : BitVec 3) (f : VReg → Nat → Nat → W32) :
    Outcome :=
  s.guarded g [] fun s => s.toVec lat d (VReg.of fun e => f (s.vreg a) (e / 64) (e % 64)) (s.vpred m)

/-- The reduction of a list of elements (R228). -/
def reduce (op : Nat) (xs : List W32) : W32 :=
  match op with
  | 0 => fsum xs
  | 1 => xs.foldl fmax32 0xFF800000
  | 2 => xs.foldl fmin32 0x7F800000
  | _ => xs.foldl (· + ·) 0

/-- Row r of a register. -/
def rowElems (v : VReg) (r : Nat) : List W32 := (v.drop (64 * r)).take 64
/-- Column c of a register. -/
def colElems (v : VReg) (c : Nat) : List W32 := (List.range 16).map fun r => at0 v (64 * r + c)

/-- The 16 × 64 register of row-wise results, one a row. -/
def perRow (f : Nat → W32) : VReg := (List.range 16).flatMap fun r => List.replicate 64 (f r)
/-- The 16 × 64 register of column-wise results, one a column. -/
def perCol (f : Nat → W32) : VReg :=
  (List.range 16).flatMap fun _ => (List.range 64).map f

/-- VROTR (R227). -/
def execVrotr (g : Guard) (d a : BitVec 5) (k : BitVec 6) (m : BitVec 3) (s : State) : Outcome :=
  s.lanes g 6 d a m fun v r c => at0 v (64 * r + (c + 64 - k.toNat) % 64)

/-- VROTC (R227). -/
def execVrotc (g : Guard) (d a : BitVec 5) (k : BitVec 6) (m : BitVec 3) (s : State) : Outcome :=
  s.lanes g 3 d a m fun v r c => at0 v (64 * ((r + 16 - k.toNat % 16) % 16) + c)

/-- VBCR (R227). -/
def execVbcr (g : Guard) (d a : BitVec 5) (k : BitVec 6) (m : BitVec 3) (s : State) : Outcome :=
  s.lanes g 6 d a m fun v r _ => at0 v (64 * r + k.toNat)

/-- VBCC (R227). -/
def execVbcc (g : Guard) (d a : BitVec 5) (k : BitVec 6) (m : BitVec 3) (s : State) : Outcome :=
  s.lanes g 3 d a m fun v _ c => at0 v (64 * (k.toNat % 16) + c)

/-- VSHFR (R227). -/
def execVshfr (g : Guard) (d a : BitVec 5) (k : BitVec 6) (m : BitVec 3) (s : State) : Outcome :=
  s.lanes g 6 d a m fun v r c => at0 v (64 * r + (c ^^^ k.toNat))

/-- VSHFC (R227). -/
def execVshfc (g : Guard) (d a : BitVec 5) (k : BitVec 6) (m : BitVec 3) (s : State) : Outcome :=
  s.lanes g 3 d a m fun v r c => at0 v (64 * (r ^^^ k.toNat % 16) + c)

/-- VTRN: the four 16 × 16 blocks transposed (R227). -/
def execVtrn (g : Guard) (d a : BitVec 5) (m : BitVec 3) (s : State) : Outcome :=
  s.lanes g 10 d a m fun v r c => at0 v (64 * (c % 16) + 16 * (c / 16) + r)

/-- A reduction or scan: the whole result from A, the enabled elements written. -/
def State.reduced (s : State) (g : Guard) (lat : Nat) (d a : BitVec 5) (m : BitVec 3) (f : VReg → VReg) : Outcome :=
  s.guarded g [] fun s => s.toVec lat d (f (s.vreg a)) (s.vpred m)

/-- VREDR (R227, R228). -/
def execVredr (g : Guard) (d a : BitVec 5) (o : BitVec 2) (m : BitVec 3) (s : State) : Outcome :=
  s.reduced g 8 d a m fun v => perRow fun r => reduce o.toNat (rowElems v r)

/-- VREDC (R227, R228). -/
def execVredc (g : Guard) (d a : BitVec 5) (o : BitVec 2) (m : BitVec 3) (s : State) : Outcome :=
  s.reduced g 3 d a m fun v => perCol fun c => reduce o.toNat (colElems v c)

/-- The number of elements a scan takes in at a position: itself too unless exclusive (R227). -/
def scanLen (x : BitVec 1) (i : Nat) : Nat := if x = 1 then i else i + 1

/-- VSCANR (R227, R228). -/
def execVscanr (g : Guard) (d a : BitVec 5) (x : BitVec 1) (o : BitVec 2) (m : BitVec 3) (s : State) : Outcome :=
  s.reduced g 8 d a m fun v => (List.range 16).flatMap fun r =>
    (List.range 64).map fun c => reduce o.toNat ((rowElems v r).take (scanLen x c))

/-- VSCANC (R227, R228). -/
def execVscanc (g : Guard) (d a : BitVec 5) (x : BitVec 1) (o : BitVec 2) (m : BitVec 3) (s : State) : Outcome :=
  s.reduced g 3 d a m fun v => (List.range 16).flatMap fun r =>
    (List.range 64).map fun c => reduce o.toNat ((colElems v c).take (scanLen x r))

end Sys2Proof.Machine
end

