-- ==== Sys2Proof/Machine/Scalar.lean ====
section
/-! DEFINITION. The scalar slots: integer arithmetic, bit fields, immediates, compares, predicate logic, TIME, CYC and
the CSR instructions (R174-R184), with their latencies (R159). -/

namespace Sys2Proof.Machine

/-- A scalar result of an enabled syllable: its sources read at issue, its value landing at a latency (R158, R174). -/
def State.scalar (s : State) (g : Guard) (srcs : List (BitVec 5)) (lat : Nat) (d : BitVec 5) (f : State → W64) :
    Outcome := s.guarded g srcs fun s => s.toDest lat d (f s)

/-- A scalar predicate result after 1 ic (R159, R180). -/
def State.compare (s : State) (g : Guard) (srcs : List (BitVec 5)) (k : BitVec 4) (f : State → Bool) : Outcome :=
  s.guarded g srcs fun s => s.toPred 1 k (f s)

/-- The sign-extended 10-bit immediate (R176). -/
def imm10 (i : BitVec 10) : W64 := i.signExtend 64

/-- The high doubleword of the signed 128-bit product (R176). -/
def mulHigh (a b : W64) : W64 := (a.signExtend 128 * b.signExtend 128).extractLsb' 64 64
/-- The high doubleword of the unsigned 128-bit product (R176). -/
def mulHighN (a b : W64) : W64 := (a.zeroExtend 128 * b.zeroExtend 128).extractLsb' 64 64
/-- Signed division, truncating; by 0 it gives -1 (R177). -/
def divide (a b : W64) : W64 := if b = 0 then BitVec.allOnes 64 else a.sdiv b
/-- Unsigned division; by 0 it gives all ones (R177). -/
def divideN (a b : W64) : W64 := if b = 0 then BitVec.allOnes 64 else a.udiv b
/-- Signed remainder, with the dividend's sign; by 0 it gives the dividend (R177). -/
def remainder (a b : W64) : W64 := if b = 0 then a else a.srem b
/-- Unsigned remainder; by 0 it gives the dividend (R177). -/
def remainderN (a b : W64) : W64 := if b = 0 then a else a.umod b
/-- The shift count: bits [5:0] (R176). -/
def count6 (b : W64) : Nat := bits b 0 6
/-- Leading zero bits; 64 for 0 (R176). -/
def clz64 (a : W64) : W64 := BitVec.ofNat 64 (((List.range 64).find? fun i => bit a (63 - i)).getD 64)
/-- Trailing zero bits; 64 for 0 (R176). -/
def ctz64 (a : W64) : W64 := BitVec.ofNat 64 (((List.range 64).find? fun i => bit a i).getD 64)
/-- One bits (R176). -/
def popc64 (a : W64) : W64 := BitVec.ofNat 64 (popN a 64)
/-- The byte order reversed (R176). -/
def bswap64 (a : W64) : W64 :=
  (List.range 8).foldl (fun (w : W64) i => w ||| ((a.extractLsb' (56 - 8 * i) 8).zeroExtend 64 <<< (8 * i))) 0

/-- A bit-field control: offset and width, the width 0 when the offset is 64 or more, cut at bit 63 (R178). -/
def ctlField (ctl : W64) : Nat × Nat :=
  if bits ctl 14 50 ≠ 0 then (64, 0)
  else (bits ctl 0 6, min (min (bits ctl 6 8) 64) (64 - bits ctl 0 6))
/-- BFX (R178). -/
def bitField (a ctl : W64) : W64 := BitVec.ofNat 64 (bits a (ctlField ctl).1 (ctlField ctl).2)
/-- BFXS: the field extended from its top bit (R178). -/
def bitFieldS (a ctl : W64) : W64 :=
  let w := (ctlField ctl).2
  if w = 0 then 0
  else (bitField a ctl <<< (64 - w)).sshiftRight (64 - w)
/-- BFI (R178). -/
def bitInsert (a b ctl : W64) : W64 := setBits a (ctlField ctl).1 (ctlField ctl).2 b.toNat
/-- FADR: a frame address (R179). -/
def frameAddr (f : BitVec 6) (a : W64) : W64 := field f.toNat 22 6 ||| (a &&& 0x3FFFFF)

/-- NOP: a syllable with opcode 0 does nothing (R130). -/
def execNop (_g : Guard) (s : State) : Outcome := .next s

/-- ADD (R176). -/
def execAdd (g : Guard) (d a b : BitVec 5) (s : State) : Outcome :=
  s.scalar g [a, b] 1 d fun s => s.src a + s.src b

/-- SUB (R176). -/
def execSub (g : Guard) (d a b : BitVec 5) (s : State) : Outcome :=
  s.scalar g [a, b] 1 d fun s => s.src a - s.src b

/-- MUL (R176). -/
def execMul (g : Guard) (d a b : BitVec 5) (s : State) : Outcome :=
  s.scalar g [a, b] 3 d fun s => s.src a * s.src b

/-- MULH (R176). -/
def execMulh (g : Guard) (d a b : BitVec 5) (s : State) : Outcome :=
  s.scalar g [a, b] 3 d fun s => mulHigh (s.src a) (s.src b)

/-- MULHN (R176). -/
def execMulhn (g : Guard) (d a b : BitVec 5) (s : State) : Outcome :=
  s.scalar g [a, b] 3 d fun s => mulHighN (s.src a) (s.src b)

/-- DIV (R177). -/
def execDiv (g : Guard) (d a b : BitVec 5) (s : State) : Outcome :=
  s.scalar g [a, b] 18 d fun s => divide (s.src a) (s.src b)

/-- DIVN (R177). -/
def execDivn (g : Guard) (d a b : BitVec 5) (s : State) : Outcome :=
  s.scalar g [a, b] 18 d fun s => divideN (s.src a) (s.src b)

/-- REM (R177). -/
def execRem (g : Guard) (d a b : BitVec 5) (s : State) : Outcome :=
  s.scalar g [a, b] 18 d fun s => remainder (s.src a) (s.src b)

/-- REMN (R177). -/
def execRemn (g : Guard) (d a b : BitVec 5) (s : State) : Outcome :=
  s.scalar g [a, b] 18 d fun s => remainderN (s.src a) (s.src b)

/-- AND (R176). -/
def execAndOp (g : Guard) (d a b : BitVec 5) (s : State) : Outcome :=
  s.scalar g [a, b] 1 d fun s => s.src a &&& s.src b

/-- OR (R176). -/
def execOrOp (g : Guard) (d a b : BitVec 5) (s : State) : Outcome :=
  s.scalar g [a, b] 1 d fun s => s.src a ||| s.src b

/-- XOR (R176). -/
def execXorOp (g : Guard) (d a b : BitVec 5) (s : State) : Outcome :=
  s.scalar g [a, b] 1 d fun s => s.src a ^^^ s.src b

/-- SHL (R176). -/
def execShl (g : Guard) (d a b : BitVec 5) (s : State) : Outcome :=
  s.scalar g [a, b] 1 d fun s => s.src a <<< count6 (s.src b)

/-- SHR (R176). -/
def execShr (g : Guard) (d a b : BitVec 5) (s : State) : Outcome :=
  s.scalar g [a, b] 1 d fun s => s.src a >>> count6 (s.src b)

/-- SAR (R176). -/
def execSar (g : Guard) (d a b : BitVec 5) (s : State) : Outcome :=
  s.scalar g [a, b] 1 d fun s => (s.src a).sshiftRight (count6 (s.src b))

/-- ROTL (R176). -/
def execRotl (g : Guard) (d a b : BitVec 5) (s : State) : Outcome :=
  s.scalar g [a, b] 1 d fun s => (s.src a).rotateLeft (count6 (s.src b))

/-- MIN (R176). -/
def execMinOp (g : Guard) (d a b : BitVec 5) (s : State) : Outcome :=
  s.scalar g [a, b] 1 d fun s => if (s.src b).slt (s.src a) then s.src b else s.src a

/-- MAX (R176). -/
def execMaxOp (g : Guard) (d a b : BitVec 5) (s : State) : Outcome :=
  s.scalar g [a, b] 1 d fun s => if (s.src a).slt (s.src b) then s.src b else s.src a

/-- MINN (R176). -/
def execMinn (g : Guard) (d a b : BitVec 5) (s : State) : Outcome :=
  s.scalar g [a, b] 1 d fun s => if s.src b < s.src a then s.src b else s.src a

/-- MAXN (R176). -/
def execMaxn (g : Guard) (d a b : BitVec 5) (s : State) : Outcome :=
  s.scalar g [a, b] 1 d fun s => if s.src a < s.src b then s.src b else s.src a

/-- BFX (R178). -/
def execBfx (g : Guard) (d a b : BitVec 5) (s : State) : Outcome :=
  s.scalar g [a, b] 1 d fun s => bitField (s.src a) (s.src b)

/-- BFXS (R178). -/
def execBfxs (g : Guard) (d a b : BitVec 5) (s : State) : Outcome :=
  s.scalar g [a, b] 1 d fun s => bitFieldS (s.src a) (s.src b)

/-- ADDI (R176). -/
def execAddi (g : Guard) (d a : BitVec 5) (i : BitVec 10) (s : State) : Outcome :=
  s.scalar g [a] 1 d fun s => s.src a + imm10 i

/-- ANDI (R176). -/
def execAndi (g : Guard) (d a : BitVec 5) (i : BitVec 10) (s : State) : Outcome :=
  s.scalar g [a] 1 d fun s => s.src a &&& imm10 i

/-- ORI (R176). -/
def execOri (g : Guard) (d a : BitVec 5) (i : BitVec 10) (s : State) : Outcome :=
  s.scalar g [a] 1 d fun s => s.src a ||| imm10 i

/-- XORI (R176). -/
def execXori (g : Guard) (d a : BitVec 5) (i : BitVec 10) (s : State) : Outcome :=
  s.scalar g [a] 1 d fun s => s.src a ^^^ imm10 i

/-- LIH (R179). -/
def execLih (g : Guard) (d a : BitVec 5) (i : BitVec 10) (s : State) : Outcome :=
  s.scalar g [a] 1 d fun s => (s.src a <<< 10) ||| i.zeroExtend 64

/-- SHLI (R176). -/
def execShli (g : Guard) (d a : BitVec 5) (i : BitVec 6) (s : State) : Outcome :=
  s.scalar g [a] 1 d fun s => s.src a <<< i.toNat

/-- SHRI (R176). -/
def execShri (g : Guard) (d a : BitVec 5) (i : BitVec 6) (s : State) : Outcome :=
  s.scalar g [a] 1 d fun s => s.src a >>> i.toNat

/-- SARI (R176). -/
def execSari (g : Guard) (d a : BitVec 5) (i : BitVec 6) (s : State) : Outcome :=
  s.scalar g [a] 1 d fun s => (s.src a).sshiftRight i.toNat

/-- CMPEQ (R180). -/
def execCmpeq (g : Guard) (k : BitVec 4) (a b : BitVec 5) (s : State) : Outcome :=
  s.compare g [a, b] k fun s => s.src a = s.src b

/-- CMPNE (R180). -/
def execCmpne (g : Guard) (k : BitVec 4) (a b : BitVec 5) (s : State) : Outcome :=
  s.compare g [a, b] k fun s => s.src a ≠ s.src b

/-- CMPLT (R180). -/
def execCmplt (g : Guard) (k : BitVec 4) (a b : BitVec 5) (s : State) : Outcome :=
  s.compare g [a, b] k fun s => (s.src a).slt (s.src b)

/-- CMPLE (R180). -/
def execCmple (g : Guard) (k : BitVec 4) (a b : BitVec 5) (s : State) : Outcome :=
  s.compare g [a, b] k fun s => (s.src a).sle (s.src b)

/-- CMPLTN (R180). -/
def execCmpltn (g : Guard) (k : BitVec 4) (a b : BitVec 5) (s : State) : Outcome :=
  s.compare g [a, b] k fun s => s.src a < s.src b

/-- CMPLEN (R180). -/
def execCmplen (g : Guard) (k : BitVec 4) (a b : BitVec 5) (s : State) : Outcome :=
  s.compare g [a, b] k fun s => s.src a ≤ s.src b

/-- CMPEQI (R180). -/
def execCmpeqi (g : Guard) (k : BitVec 4) (a : BitVec 5) (i : BitVec 10) (s : State) : Outcome :=
  s.compare g [a] k fun s => s.src a = imm10 i

/-- CMPLTI (R180). -/
def execCmplti (g : Guard) (k : BitVec 4) (a : BitVec 5) (i : BitVec 10) (s : State) : Outcome :=
  s.compare g [a] k fun s => (s.src a).slt (imm10 i)

/-- SEL: the predicate is read at issue (R179). -/
def execSel (g : Guard) (d a b : BitVec 5) (k : BitVec 4) (s : State) : Outcome :=
  s.scalar g [a, b] 1 d fun s => if s.cpred k then s.src a else s.src b

/-- BFI: the control is the source named by M (R178). -/
def execBfi (g : Guard) (d a b m : BitVec 5) (s : State) : Outcome :=
  s.scalar g [a, b, m] 1 d fun s => bitInsert (s.src a) (s.src b) (s.src m)

/-- CLZ (R176). -/
def execClz (g : Guard) (d a : BitVec 5) (s : State) : Outcome :=
  s.scalar g [a] 1 d fun s => clz64 (s.src a)

/-- CTZ (R176). -/
def execCtz (g : Guard) (d a : BitVec 5) (s : State) : Outcome :=
  s.scalar g [a] 1 d fun s => ctz64 (s.src a)

/-- POPC (R176). -/
def execPopc (g : Guard) (d a : BitVec 5) (s : State) : Outcome :=
  s.scalar g [a] 1 d fun s => popc64 (s.src a)

/-- BSWAP (R176). -/
def execBswap (g : Guard) (d a : BitVec 5) (s : State) : Outcome :=
  s.scalar g [a] 1 d fun s => bswap64 (s.src a)

/-- MOV (R176). -/
def execMov (g : Guard) (d a : BitVec 5) (s : State) : Outcome :=
  s.scalar g [a] 1 d fun s => s.src a

/-- LI (R179). -/
def execLi (g : Guard) (d : BitVec 5) (i : BitVec 15) (s : State) : Outcome :=
  s.scalar g [] 1 d fun _ => i.signExtend 64

/-- ADDX (R176). -/
def execAddx (g : Guard) (d a b : BitVec 5) (sh : BitVec 3) (s : State) : Outcome :=
  s.scalar g [a, b] 1 d fun s => s.src a + (s.src b <<< sh.toNat)

/-- CAND (R181). -/
def execCand (g : Guard) (k x y : BitVec 4) (s : State) : Outcome :=
  s.compare g [] k fun s => s.cpred x && s.cpred y

/-- COR (R181). -/
def execCor (g : Guard) (k x y : BitVec 4) (s : State) : Outcome :=
  s.compare g [] k fun s => s.cpred x || s.cpred y

/-- CXOR (R181). -/
def execCxor (g : Guard) (k x y : BitVec 4) (s : State) : Outcome :=
  s.compare g [] k fun s => xor (s.cpred x) (s.cpred y)

/-- CNOT (R181). -/
def execCnot (g : Guard) (k x : BitVec 4) (s : State) : Outcome :=
  s.compare g [] k fun s => !s.cpred x

/-- TIME, the whole ns at the start of the ic, after 2 ic (R182, R367). -/
def execTime (g : Guard) (d : BitVec 5) (s : State) : Outcome :=
  s.scalar g [] 2 d fun s => BitVec.ofNat 64 s.time

/-- CYC, the pillar's issue-cycle count, after 2 ic (R20, R182). -/
def execCyc (g : Guard) (d : BitVec 5) (s : State) : Outcome :=
  s.scalar g [] 2 d fun s => BitVec.ofNat 64 s.mine.ic

/-- A CSR instruction: PRIV for a supervisor CSR in user mode (R101), else the old value after 2 ic (R183) and the
change it makes two ic later (R105). -/
def State.csrOp (s : State) (g : Guard) (srcs : List (BitVec 5)) (d : BitVec 5) (n : BitVec 10)
    (change : State → State) : Outcome :=
  s.guarded g srcs fun s =>
    if 0x100 ≤ n.toNat ∧ s.me.mode = false then s.raise (cause cPriv (s.sylInfo 0))
    else (change s).toDest 2 d (s.csrRead s.cur.p s.cur.q n.toNat)

/-- CSRR (R183). -/
def execCsrr (g : Guard) (d : BitVec 5) (n : BitVec 10) (s : State) : Outcome :=
  s.csrOp g [] d n id

/-- CSRW (R183, R184). -/
def execCsrw (g : Guard) (d a : BitVec 5) (n : BitVec 10) (s : State) : Outcome :=
  s.csrOp g [a] d n fun s => s.csrNote n.toNat .write (s.src a)

/-- CSRS (R183, R184). -/
def execCsrs (g : Guard) (d a : BitVec 5) (n : BitVec 10) (s : State) : Outcome :=
  s.csrOp g [a] d n fun s => s.csrNote n.toNat .set (s.src a)

/-- CSRC (R183, R184). -/
def execCsrc (g : Guard) (d a : BitVec 5) (n : BitVec 10) (s : State) : Outcome :=
  s.csrOp g [a] d n fun s => s.csrNote n.toNat .clear (s.src a)

/-- FADR (R179). -/
def execFadr (g : Guard) (d a : BitVec 5) (f : BitVec 6) (s : State) : Outcome :=
  s.scalar g [a] 1 d fun s => frameAddr f (s.src a)

end Sys2Proof.Machine
end

