-- ==== Sys2Proof/Machine/Dispatch.lean ====
section
/-! DEFINITION. One arm per constructor of `Instr`: a direct call of its meaning. -/

namespace Sys2Proof.Machine

/-- What an instruction does in a state. -/
def exec (i : Instr) (s : State) : Host.Outcome State Fault Refusal :=
  match i with
  | .nop g => Sys2Proof.Machine.execNop g s
  | .add g d a b => Sys2Proof.Machine.execAdd g d a b s
  | .sub g d a b => Sys2Proof.Machine.execSub g d a b s
  | .addi g d a im => Sys2Proof.Machine.execAddi g d a im s
  | .mul g d a b => Sys2Proof.Machine.execMul g d a b s
  | .mulh g d a b => Sys2Proof.Machine.execMulh g d a b s
  | .mulhn g d a b => Sys2Proof.Machine.execMulhn g d a b s
  | .div g d a b => Sys2Proof.Machine.execDiv g d a b s
  | .divn g d a b => Sys2Proof.Machine.execDivn g d a b s
  | .rem g d a b => Sys2Proof.Machine.execRem g d a b s
  | .remn g d a b => Sys2Proof.Machine.execRemn g d a b s
  | .andOp g d a b => Sys2Proof.Machine.execAndOp g d a b s
  | .orOp g d a b => Sys2Proof.Machine.execOrOp g d a b s
  | .xorOp g d a b => Sys2Proof.Machine.execXorOp g d a b s
  | .andi g d a im => Sys2Proof.Machine.execAndi g d a im s
  | .ori g d a im => Sys2Proof.Machine.execOri g d a im s
  | .xori g d a im => Sys2Proof.Machine.execXori g d a im s
  | .shl g d a b => Sys2Proof.Machine.execShl g d a b s
  | .shr g d a b => Sys2Proof.Machine.execShr g d a b s
  | .sar g d a b => Sys2Proof.Machine.execSar g d a b s
  | .shli g d a im => Sys2Proof.Machine.execShli g d a im s
  | .shri g d a im => Sys2Proof.Machine.execShri g d a im s
  | .sari g d a im => Sys2Proof.Machine.execSari g d a im s
  | .rotl g d a b => Sys2Proof.Machine.execRotl g d a b s
  | .minOp g d a b => Sys2Proof.Machine.execMinOp g d a b s
  | .maxOp g d a b => Sys2Proof.Machine.execMaxOp g d a b s
  | .minn g d a b => Sys2Proof.Machine.execMinn g d a b s
  | .maxn g d a b => Sys2Proof.Machine.execMaxn g d a b s
  | .cmpeq g k a b => Sys2Proof.Machine.execCmpeq g k a b s
  | .cmpne g k a b => Sys2Proof.Machine.execCmpne g k a b s
  | .cmplt g k a b => Sys2Proof.Machine.execCmplt g k a b s
  | .cmple g k a b => Sys2Proof.Machine.execCmple g k a b s
  | .cmpltn g k a b => Sys2Proof.Machine.execCmpltn g k a b s
  | .cmplen g k a b => Sys2Proof.Machine.execCmplen g k a b s
  | .cmpeqi g k a im => Sys2Proof.Machine.execCmpeqi g k a im s
  | .cmplti g k a im => Sys2Proof.Machine.execCmplti g k a im s
  | .sel g d a b k => Sys2Proof.Machine.execSel g d a b k s
  | .bfx g d a b => Sys2Proof.Machine.execBfx g d a b s
  | .bfxs g d a b => Sys2Proof.Machine.execBfxs g d a b s
  | .bfi g d a b m => Sys2Proof.Machine.execBfi g d a b m s
  | .clz g d a => Sys2Proof.Machine.execClz g d a s
  | .ctz g d a => Sys2Proof.Machine.execCtz g d a s
  | .popc g d a => Sys2Proof.Machine.execPopc g d a s
  | .bswap g d a => Sys2Proof.Machine.execBswap g d a s
  | .li g d im => Sys2Proof.Machine.execLi g d im s
  | .lih g d a im => Sys2Proof.Machine.execLih g d a im s
  | .mov g d a => Sys2Proof.Machine.execMov g d a s
  | .addx g d a b sc => Sys2Proof.Machine.execAddx g d a b sc s
  | .cand g k x y => Sys2Proof.Machine.execCand g k x y s
  | .cor g k x y => Sys2Proof.Machine.execCor g k x y s
  | .cxor g k x y => Sys2Proof.Machine.execCxor g k x y s
  | .cnot g k x => Sys2Proof.Machine.execCnot g k x s
  | .time g d => Sys2Proof.Machine.execTime g d s
  | .cyc g d => Sys2Proof.Machine.execCyc g d s
  | .csrr g d sc => Sys2Proof.Machine.execCsrr g d sc s
  | .csrw g d a sc => Sys2Proof.Machine.execCsrw g d a sc s
  | .csrs g d a sc => Sys2Proof.Machine.execCsrs g d a sc s
  | .csrc g d a sc => Sys2Proof.Machine.execCsrc g d a sc s
  | .fadr g d a f => Sys2Proof.Machine.execFadr g d a f s
  | .br g im => Sys2Proof.Machine.execBr g im s
  | .bri g a => Sys2Proof.Machine.execBri g a s
  | .call g im => Sys2Proof.Machine.execCall g im s
  | .calli g d a => Sys2Proof.Machine.execCalli g d a s
  | .loop g a r e => Sys2Proof.Machine.execLoop g a r e s
  | .loopi g k r e => Sys2Proof.Machine.execLoopi g k r e s
  | .lbreak g => Sys2Proof.Machine.execLbreak g s
  | .lidx g d l => Sys2Proof.Machine.execLidx g d l s
  | .trap g im => Sys2Proof.Machine.execTrap g im s
  | .syscall g im => Sys2Proof.Machine.execSyscall g im s
  | .eret g => Sys2Proof.Machine.execEret g s
  | .bkpt g => Sys2Proof.Machine.execBkpt g s
  | .done g => Sys2Proof.Machine.execDone g s
  | .pmark g => Sys2Proof.Machine.execPmark g s
  | .cropen g a o => Sys2Proof.Machine.execCropen g a o s
  | .crclose g => Sys2Proof.Machine.execCrclose g s
  | .chkerr g => Sys2Proof.Machine.execChkerr g s
  | .waitev g a => Sys2Proof.Machine.execWaitev g a s
  | .fencei g => Sys2Proof.Machine.execFencei g s
  | .halt g => Sys2Proof.Machine.execHalt g s
  | .ld g d a w sc t im => Sys2Proof.Machine.execLd g d a w sc t im s
  | .st g d a w t im => Sys2Proof.Machine.execSt g d a w t im s
  | .ldaq g d a w sc t im => Sys2Proof.Machine.execLdaq g d a w sc t im s
  | .strl g d a w t im => Sys2Proof.Machine.execStrl g d a w t im s
  | .ldv g v f a w => Sys2Proof.Machine.execLdv g v f a w s
  | .stv g v f a w => Sys2Proof.Machine.execStv g v f a w s
  | .ldvt g v f a w => Sys2Proof.Machine.execLdvt g v f a w s
  | .ldvr g v f a w => Sys2Proof.Machine.execLdvr g v f a w s
  | .stvr g v f a w => Sys2Proof.Machine.execStvr g v f a w s
  | .ldvb g v f a w => Sys2Proof.Machine.execLdvb g v f a w s
  | .ldvx g v f x => Sys2Proof.Machine.execLdvx g v f x s
  | .stvx g v f x => Sys2Proof.Machine.execStvx g v f x s
  | .atom g d a b o => Sys2Proof.Machine.execAtom g d a b o s
  | .cas g d a b => Sys2Proof.Machine.execCas g d a b s
  | .fence g k sc => Sys2Proof.Machine.execFence g k sc s
  | .ldp g v f a => Sys2Proof.Machine.execLdp g v f a s
  | .stp g v f a => Sys2Proof.Machine.execStp g v f a s
  | .falloc g f a b t => Sys2Proof.Machine.execFalloc g f a b t s
  | .ffree g f => Sys2Proof.Machine.execFfree g f s
  | .frenew g f a => Sys2Proof.Machine.execFrenew g f a s
  | .fstat g f t => Sys2Proof.Machine.execFstat g f t s
  | .fsetx g f a b t => Sys2Proof.Machine.execFsetx g f a b t s
  | .xsve g tgt src wi => Sys2Proof.Machine.execXsve g tgt src wi s
  | .xsvr g tgt src wi => Sys2Proof.Machine.execXsvr g tgt src wi s
  | .xsva g tgt src wi => Sys2Proof.Machine.execXsva g tgt src wi s
  | .xspr g tgt src wi => Sys2Proof.Machine.execXspr g tgt src wi s
  | .xsn g tgt src wi => Sys2Proof.Machine.execXsn g tgt src wi s
  | .xvse g vsrc ri => Sys2Proof.Machine.execXvse g vsrc ri s
  | .xpsa g vsrc ri => Sys2Proof.Machine.execXpsa g vsrc ri s
  | .xpsc g vsrc ri => Sys2Proof.Machine.execXpsc g vsrc ri s
  | .xpsr g vsrc ri => Sys2Proof.Machine.execXpsr g vsrc ri s
  | .xns g vsrc ri => Sys2Proof.Machine.execXns g vsrc ri s
  | .vadd g d a b h m => Sys2Proof.Machine.execVadd g d a b h m s
  | .vsub g d a b h m => Sys2Proof.Machine.execVsub g d a b h m s
  | .vmul g d a b h m => Sys2Proof.Machine.execVmul g d a b h m s
  | .vfma g d a b h m => Sys2Proof.Machine.execVfma g d a b h m s
  | .vfms g d a b h m => Sys2Proof.Machine.execVfms g d a b h m s
  | .vmin g d a b h m => Sys2Proof.Machine.execVmin g d a b h m s
  | .vmax g d a b h m => Sys2Proof.Machine.execVmax g d a b h m s
  | .vabs g d a h m => Sys2Proof.Machine.execVabs g d a h m s
  | .vneg g d a h m => Sys2Proof.Machine.execVneg g d a h m s
  | .vcmp g d c a b m => Sys2Proof.Machine.execVcmp g d c a b m s
  | .vsel g d a b h m => Sys2Proof.Machine.execVsel g d a b h m s
  | .viadd g d a b h m => Sys2Proof.Machine.execViadd g d a b h m s
  | .visub g d a b h m => Sys2Proof.Machine.execVisub g d a b h m s
  | .vimul g d a b h m => Sys2Proof.Machine.execVimul g d a b h m s
  | .vaddw g d a b h m => Sys2Proof.Machine.execVaddw g d a b h m s
  | .viadds g d a b h m => Sys2Proof.Machine.execViadds g d a b h m s
  | .vand g d a b h m => Sys2Proof.Machine.execVand g d a b h m s
  | .vor g d a b h m => Sys2Proof.Machine.execVor g d a b h m s
  | .vxor g d a b h m => Sys2Proof.Machine.execVxor g d a b h m s
  | .vshl g d a b h m => Sys2Proof.Machine.execVshl g d a b h m s
  | .vshr g d a b h m => Sys2Proof.Machine.execVshr g d a b h m s
  | .vsar g d a b h m => Sys2Proof.Machine.execVsar g d a b h m s
  | .vimin g d a b h m => Sys2Proof.Machine.execVimin g d a b h m s
  | .vimax g d a b h m => Sys2Proof.Machine.execVimax g d a b h m s
  | .vicmp g d c a b m => Sys2Proof.Machine.execVicmp g d c a b m s
  | .vcvt g d a f t o => Sys2Proof.Machine.execVcvt g d a f t o s
  | .vpack g d a b h m => Sys2Proof.Machine.execVpack g d a b h m s
  | .vunpk g d a b h m => Sys2Proof.Machine.execVunpk g d a b h m s
  | .vmov g d a h m => Sys2Proof.Machine.execVmov g d a h m s
  | .vli g d im => Sys2Proof.Machine.execVli g d im s
  | .vliF g d im => Sys2Proof.Machine.execVliF g d im s
  | .vacc g v a c sc m => Sys2Proof.Machine.execVacc g v a c sc m s
  | .vdrain g v a c sc m => Sys2Proof.Machine.execVdrain g v a c sc m s
  | .vperm g d a b h m => Sys2Proof.Machine.execVperm g d a b h m s
  | .viota g d m => Sys2Proof.Machine.execViota g d m s
  | .vpand g d a b => Sys2Proof.Machine.execVpand g d a b s
  | .vpor g d a b => Sys2Proof.Machine.execVpor g d a b s
  | .vpxor g d a b => Sys2Proof.Machine.execVpxor g d a b s
  | .vpnot g d a => Sys2Proof.Machine.execVpnot g d a s
  | .dfromv g d x => Sys2Proof.Machine.execDfromv g d x s
  | .dtov g a x => Sys2Proof.Machine.execDtov g a x s
  | .dtovN g a x => Sys2Proof.Machine.execDtovN g a x s
  | .dadd g d a b => Sys2Proof.Machine.execDadd g d a b s
  | .dscale g d x => Sys2Proof.Machine.execDscale g d x s
  | .ddot g a b x => Sys2Proof.Machine.execDdot g a b x s
  | .ddotB g a b x k => Sys2Proof.Machine.execDdotB g a b x k s
  | .dmov g d a => Sys2Proof.Machine.execDmov g d a s
  | .dneg g d a => Sys2Proof.Machine.execDneg g d a s
  | .dwsum g d a b x => Sys2Proof.Machine.execDwsum g d a b x s
  | .fexp2 g d a h m => Sys2Proof.Machine.execFexp2 g d a h m s
  | .flog2 g d a h m => Sys2Proof.Machine.execFlog2 g d a h m s
  | .frcp g d a h m => Sys2Proof.Machine.execFrcp g d a h m s
  | .frsq g d a h m => Sys2Proof.Machine.execFrsq g d a h m s
  | .fsqrt g d a h m => Sys2Proof.Machine.execFsqrt g d a h m s
  | .ftanh g d a h m => Sys2Proof.Machine.execFtanh g d a h m s
  | .fsigm g d a h m => Sys2Proof.Machine.execFsigm g d a h m s
  | .ferf g d a h m => Sys2Proof.Machine.execFerf g d a h m s
  | .fsin g d a h m => Sys2Proof.Machine.execFsin g d a h m s
  | .fcos g d a h m => Sys2Proof.Machine.execFcos g d a h m s
  | .vrotr g d a k m => Sys2Proof.Machine.execVrotr g d a k m s
  | .vrotc g d a k m => Sys2Proof.Machine.execVrotc g d a k m s
  | .vbcr g d a k m => Sys2Proof.Machine.execVbcr g d a k m s
  | .vbcc g d a k m => Sys2Proof.Machine.execVbcc g d a k m s
  | .vredr g d a o m => Sys2Proof.Machine.execVredr g d a o m s
  | .vredc g d a o m => Sys2Proof.Machine.execVredc g d a o m s
  | .vscanr g d a x o m => Sys2Proof.Machine.execVscanr g d a x o m s
  | .vscanc g d a x o m => Sys2Proof.Machine.execVscanc g d a x o m s
  | .vtrn g d a m => Sys2Proof.Machine.execVtrn g d a m s
  | .vshfr g d a k m => Sys2Proof.Machine.execVshfr g d a k m s
  | .vshfc g d a k m => Sys2Proof.Machine.execVshfc g d a k m s
  | .cset g gr a b => Sys2Proof.Machine.execCset g gr a b s
  | .cfmt g gr a => Sys2Proof.Machine.execCfmt g gr a s
  | .cbld g sc l a b => Sys2Proof.Machine.execCbld g sc l a b s
  | .cbldf g sc l a b => Sys2Proof.Machine.execCbldf g sc l a b s
  | .cmma g c a b l x h e => Sys2Proof.Machine.execCmma g c a b l x h e s
  | .cmmat g c a b l x h e => Sys2Proof.Machine.execCmmat g c a b l x h e s
  | .czero g c x => Sys2Proof.Machine.execCzero g c x s
  | .cchain g c b l x e => Sys2Proof.Machine.execCchain g c b l x e s
  | .cwait g c => Sys2Proof.Machine.execCwait g c s
  | .cprog g c => Sys2Proof.Machine.execCprog g c s
  | .cabort g c => Sys2Proof.Machine.execCabort g c s
  | .cbnd g c a => Sys2Proof.Machine.execCbnd g c a s
  | .cmmah g c a b l x e => Sys2Proof.Machine.execCmmah g c a b l x e s
  | .kwait g k a im => Sys2Proof.Machine.execKwait g k a im s
  | .kpost g k a im => Sys2Proof.Machine.execKpost g k a im s
  | .kpostr g k a b sc => Sys2Proof.Machine.execKpostr g k a b sc s
  | .kset g k a im => Sys2Proof.Machine.execKset g k a im s
  | .krd g k => Sys2Proof.Machine.execKrd g k s
  | .copyin g f a b u gr => Sys2Proof.Machine.execCopyin g f a b u gr s
  | .copyout g f a b u gr => Sys2Proof.Machine.execCopyout g f a b u gr s
  | .gather g f a b u gr => Sys2Proof.Machine.execGather g f a b u gr s
  | .scatter g f a b u gr => Sys2Proof.Machine.execScatter g f a b u gr s
  | .atomg g f a b u gr => Sys2Proof.Machine.execAtomg g f a b u gr s
  | .msend g a b sc => Sys2Proof.Machine.execMsend g a b sc s
  | .defer g v c m t => Sys2Proof.Machine.execDefer g v c m t s
  | .drain g v c m t => Sys2Proof.Machine.execDrain g v c m t s
  | .jraise g a b => Sys2Proof.Machine.execJraise g a b s
  | .jpost g a b => Sys2Proof.Machine.execJpost g a b s
  | .dsync g l => Sys2Proof.Machine.execDsync g l s
  | .wswin g => Sys2Proof.Machine.execWswin g s
  | .fwait g f h => Sys2Proof.Machine.execFwait g f h s
  | .ecancel g => Sys2Proof.Machine.execEcancel g s
  | .ecancelK g k => Sys2Proof.Machine.execEcancelK g k s
  | .ecancelF g a => Sys2Proof.Machine.execEcancelF g a s
  | .resultLanding => Sys2Proof.Machine.execResultLanding s
  | .icacheFill => Sys2Proof.Machine.execIcacheFill s
  | .nopkt => Sys2Proof.Machine.execNopkt s
  | .launch => Sys2Proof.Machine.execLaunch s
  | .wload => Sys2Proof.Machine.execWload s
  | .wloadComplete => Sys2Proof.Machine.execWloadComplete s
  | .tdef => Sys2Proof.Machine.execTdef s
  | .jwait => Sys2Proof.Machine.execJwait s
  | .jwaitSatisfied => Sys2Proof.Machine.execJwaitSatisfied s
  | .jsignalPost => Sys2Proof.Machine.execJsignalPost s
  | .jsignalRaise => Sys2Proof.Machine.execJsignalRaise s
  | .copy => Sys2Proof.Machine.execCopy s
  | .copyComplete => Sys2Proof.Machine.execCopyComplete s
  | .marker => Sys2Proof.Machine.execMarker s
  | .packetChoice => Sys2Proof.Machine.execPacketChoice s
  | .notifyWidxWrite => Sys2Proof.Machine.execNotifyWidxWrite s
  | .queueEnable => Sys2Proof.Machine.execQueueEnable s
  | .queueDisable => Sys2Proof.Machine.execQueueDisable s
  | .resumeQueue => Sys2Proof.Machine.execResumeQueue s
  | .skipPacket => Sys2Proof.Machine.execSkipPacket s
  | .abortQueue => Sys2Proof.Machine.execAbortQueue s
  | .abortDrained => Sys2Proof.Machine.execAbortDrained s
  | .placeIteration => Sys2Proof.Machine.execPlaceIteration s
  | .stackClear => Sys2Proof.Machine.execStackClear s
  | .chunkRequest => Sys2Proof.Machine.execChunkRequest s
  | .chunkGrant => Sys2Proof.Machine.execChunkGrant s
  | .grantLogEntry => Sys2Proof.Machine.execGrantLogEntry s
  | .heartbeat => Sys2Proof.Machine.execHeartbeat s
  | .heartbeatReceive => Sys2Proof.Machine.execHeartbeatReceive s
  | .participantFailed => Sys2Proof.Machine.execParticipantFailed s
  | .logTransfer => Sys2Proof.Machine.execLogTransfer s
  | .gangReport => Sys2Proof.Machine.execGangReport s
  | .gangGrant => Sys2Proof.Machine.execGangGrant s
  | .iterationRetire => Sys2Proof.Machine.execIterationRetire s
  | .engineSectorTransaction => Sys2Proof.Machine.execEngineSectorTransaction s
  | .engineComplete => Sys2Proof.Machine.execEngineComplete s
  | .fallocZeroDone => Sys2Proof.Machine.execFallocZeroDone s
  | .cubeOpStart => Sys2Proof.Machine.execCubeOpStart s
  | .cubeWaveStart => Sys2Proof.Machine.execCubeWaveStart s
  | .cubeWaveLand => Sys2Proof.Machine.execCubeWaveLand s
  | .cubeOpComplete => Sys2Proof.Machine.execCubeOpComplete s
  | .chainBlockArrive => Sys2Proof.Machine.execChainBlockArrive s
  | .kpostrArrive => Sys2Proof.Machine.execKpostrArrive s
  | .msendDeliver => Sys2Proof.Machine.execMsendDeliver s
  | .creditReturn => Sys2Proof.Machine.execCreditReturn s
  | .dsyncComplete => Sys2Proof.Machine.execDsyncComplete s
  | .jcbStep => Sys2Proof.Machine.execJcbStep s
  | .trayDelivery => Sys2Proof.Machine.execTrayDelivery s
  | .wdog => Sys2Proof.Machine.execWdog s
  | .gangTimeout => Sys2Proof.Machine.execGangTimeout s
  | .ue => Sys2Proof.Machine.execUe s
  | .preemptRequest => Sys2Proof.Machine.execPreemptRequest s
  | .preemptStop => Sys2Proof.Machine.execPreemptStop s
  | .contextSave => Sys2Proof.Machine.execContextSave s
  | .preemptKill => Sys2Proof.Machine.execPreemptKill s
  | .restore => Sys2Proof.Machine.execRestore s
  | .tlbInvalidate => Sys2Proof.Machine.execTlbInvalidate s
  | .fadeTick => Sys2Proof.Machine.execFadeTick s
  | .frameExpire => Sys2Proof.Machine.execFrameExpire s
  | .backgroundRenew => Sys2Proof.Machine.execBackgroundRenew s
  | .renewalOverdue => Sys2Proof.Machine.execRenewalOverdue s
  | .sensorSample => Sys2Proof.Machine.execSensorSample s
  | .thermalShutdown => Sys2Proof.Machine.execThermalShutdown s
  | .tokenHop => Sys2Proof.Machine.execTokenHop s
  | .permitRefill => Sys2Proof.Machine.execPermitRefill s
  | .droopAlarm => Sys2Proof.Machine.execDroopAlarm s
  | .testAlarm => Sys2Proof.Machine.execTestAlarm s
  | .droopHalvingEnd => Sys2Proof.Machine.execDroopHalvingEnd s
  | .voltageStep => Sys2Proof.Machine.execVoltageStep s
  | .wsRefreshWindow => Sys2Proof.Machine.execWsRefreshWindow s
  | .hbmSelfRefreshEnter => Sys2Proof.Machine.execHbmSelfRefreshEnter s
  | .hbmSelfRefreshExit => Sys2Proof.Machine.execHbmSelfRefreshExit s
  | .thermalHold => Sys2Proof.Machine.execThermalHold s
  | .errinjApply => Sys2Proof.Machine.execErrinjApply s
  | .govthWrite => Sys2Proof.Machine.execGovthWrite s
  | .pkgbudWrite => Sys2Proof.Machine.execPkgbudWrite s
  | .hkVerdict => Sys2Proof.Machine.execHkVerdict s
  | .fnmodeApply => Sys2Proof.Machine.execFnmodeApply s
  | .scrub => Sys2Proof.Machine.execScrub s
  | .lifetimeCount => Sys2Proof.Machine.execLifetimeCount s
  | .counterPersist => Sys2Proof.Machine.execCounterPersist s
  | .hostMemAccess => Sys2Proof.Machine.execHostMemAccess s
  | .attestRequest => Sys2Proof.Machine.execAttestRequest s
  | .mgmtRegisterWrite => Sys2Proof.Machine.execMgmtRegisterWrite s
  | .packageReset => Sys2Proof.Machine.execPackageReset s
  | .wsRefreshWindowEnd => Sys2Proof.Machine.execWsRefreshWindowEnd s
  | .hkrWrite => Sys2Proof.Machine.execHkrWrite s

end Sys2Proof.Machine
end

