-- ==== Sys2Proof/Machine/Port.lean ====
section
/-! DEFINITION. The issue port of a pillar: which sequencer is ready (R154, R155), what a long word that may not run
raises (R151, R329), and the issue of a long word as a whole (R128). -/

namespace Sys2Proof.Machine

/-- The long word at an address, when its line is in the instruction cache (R152). -/
def Pillar.fetched (P : Pillar) (pc : W64) : Option LongWord :=
  (P.icache.find? fun l => l.line = pc.toNat / 128).map fun l =>
    (List.range 8).map fun k => at0 l.words (8 * (pc.toNat / 32 % 4) + k)

/-- What the port finds of one sequencer. -/
inductive Ready where
  /-- Nothing to grant. -/
  | no
  /-- A grant that raises a cause, no slot of its long word having effect. -/
  | raises (r : Raise)
  /-- A long word to run. -/
  | runs (lw : LongWord)
deriving DecidableEq, Repr

/-- EINFO of ILLEGAL for the syllables that fail at decode: the lowest slot's, MULTI when there are several (R150). -/
def decodeInfo (fails : List (Nat × Nat × W32)) : W64 :=
  match fails with
  | [] => 0
  | (slot, reason, syl) :: rest =>
    field slot 0 3 ||| asBit (!rest.isEmpty) 3 ||| field reason 4 4 ||| field syl.toNat 32 32

/-- The package with a sequencer's next long word as the current one. -/
def State.focus (s : State) (p q : Nat) : State :=
  { s with cur := {
    p := p, q := q, slot := 0, addr := (s.seq p q).pc, syl := 0, mq := none, trap := none, found := [] } }

/-- A GANG condition 10 µs old, delivered at the next long word issued or held (R361). -/
def State.gangDue (s : State) : Bool := s.me.gang.any Prod.snd

/-- Whether the current sequencer's fetch of its next long word waits for the host (R349, R393). -/
def State.fetchWaits (s : State) : Bool :=
  s.hostWaiting s.cur.p s.cur.q fetchOwner (s.me.fetchAddress (s.me.pc.toNat / 128))

/-- What the port finds of the current sequencer (R151, R153-R155, R194, R332, R334). A long word with a slot that
fails at decode is raised at once, and SLOT and MULTI count decode failures only, whatever ILLEGAL another slot
would meet at issue (R149, R150; log 105). The watchdog runs while a fetch waits for the host (R393); the row its
`EINFO` then shows is free (log 73). -/
def State.readiness (s : State) : Ready :=
  let x := s.me
  match x.run with
  | .running =>
    if s.mine.ic < x.notBefore then .no else
    match x.fetchFault.filter fun f => f.line = x.pc.toNat / 128 with
    | some f => .raises (cause f.cause f.einfo)
    | none =>
      match s.mine.fetched x.pc with
      | none =>
        if x.wdog && s.fetchWaits then .raises (cause cWdog (BitVec.ofNat 64 (s.choose.1 % 16))) else .no
      | some lw =>
        match longWordFailures lw with
        | f :: fs => .raises (cause cIllegal (decodeInfo (f :: fs)))
        | [] =>
          match s.holdRows (longWordInstrs lw) with
          | [] => .runs lw
          | row :: _ =>
            if s.heldByFault (longWordInstrs lw) then
              match x.dueFault with
              | some r => .raises r.asRaise
              | none => .no
            else if s.gangDue then .raises (cause cGang 0)
            else if x.wdog then .raises (cause cWdog (BitVec.ofNat 64 row))
            else .no
  | .atDone _ =>
    match x.doneFault with
    | some r => .raises r.asRaise
    | none =>
      if s.gangDue then .raises (cause cGang 0) else if x.wdog then .raises (cause cWdog 15) else .no
  | _ => .no

/-- Whether the next long word is fetched and held, or its fetch waits for the host, or a DONE waits (R334, R393). -/
def State.isHeld (s : State) : Bool :=
  match s.me.run with
  | .running =>
    (s.me.notBefore ≤ s.mine.ic) && (match s.mine.fetched s.me.pc with
      | some lw => (longWordFailures lw).isEmpty && !(s.holdRows (longWordInstrs lw)).isEmpty
      | none => s.fetchWaits)
  | .atDone _ => true
  | _ => false

/-- The time since which a sequencer is held, kept or begun or ended by what this ic finds (R334). -/
def State.noteHeld (s : State) (p q : Nat) : State :=
  let held := (s.focus p q).isHeld
  s.onSeq p q fun x =>
    if held then { x with heldSince := some (x.heldSince.getD s.time) } else { x with heldSince := none, wdog := false }

/-- The rank of a cause among those one long word meets (R151, R329). -/
def Raise.rank (r : Raise) : Nat :=
  if r.cause = cIllegal then 0
  else if r.cause = cIllseq then 1
  else if r.cause = cPriv then 2
  else if r.record.isSome then 3
  else if r.cause = cLayer then 4
  else 5

/-- The raise taken among those of a long word's slots (R329), with MULTI set when ILLEGAL or PRIV was met in another
slot too (R150). -/
def pickRaise : List (Nat × Raise) → Option Raise
  | [] => none
  | x :: xs =>
    let best := xs.foldl (fun b y =>
      if y.2.rank < b.2.rank || (y.2.rank = b.2.rank && y.1 < b.1) then y else b) x
    let others := (x :: xs).filter fun y => y.2.cause = best.2.cause && y.1 ≠ best.1
    some (if (best.2.cause = cIllegal || best.2.cause = cPriv) && !others.isEmpty then
      { best.2 with einfo := best.2.einfo ||| asBit true 3 } else best.2)

/-- Whether the current long word is the first of its iteration: the one at the launch's entry, before any other of
the iteration has run (R73, R74). -/
def State.atEntry (s : State) : Bool :=
  !s.me.mode && ((s.launchOf s.cur.p s.cur.q).any fun l => s.cur.addr = addrBits l.entry)

/-- Whether a long word reads failed state: registers by a slot whose guard is on (R156, R356). -/
def State.wordReads (s : State) (is : List (Nat × Instr)) (e : Failed) : Bool :=
  is.any fun si => s.readsFailed e si.2 &&
    (s.guardOn (guardOfInstr si.2) || decide (bits e.word 0 4 < 5 ∨ 7 < bits e.word 0 4))

/-- What a long word raises as a whole: FSTATE for an iteration placed without its f0, at its first long word (R74);
an error in state that it reads, of several the earliest (R356); poison an operation consumed (R355); a GANG
condition (R361). -/
def State.wordRaises (s : State) (is : List (Nat × Instr)) : List (Nat × Raise) :=
  let x := s.me
  (match x.firstFault with
    | some why => if s.atEntry then [(0, cause cFstate (fstateInfo 0 (s.frame s.cur.p 0).state why))] else []
    | none => []) ++
  ((x.ueDue.find? (s.wordReads is)).toList.map fun e => (0, cause cUe e.word)) ++
  (if x.poisonDue && (x.regionFor (cause cPoison 0)).isSome then [(0, cause cPoison 0)] else []) ++
  (if s.gangDue then [(0, cause cGang 0)] else [])

/-- The S0 syllables that change the flow, the mode, the loop stack or the regions. -/
def changesFlow : Instr → Bool
  | .br .. | .bri .. | .call .. | .calli .. | .loop .. | .loopi .. | .lbreak .. | .eret .. | .done .. | .halt ..
  | .cropen .. | .crclose .. => true
  | _ => false

/-- The order in which a long word's slots take effect in the model: slot order, S0's flow-changing syllables last,
so that every slot sees the mode, the loop stack and the regions from before its long word (R128). An event that
another slot of WAITEV's long word causes at its issue outlasts WAITEV's clearing of the latch, which stands in S0:
R199 does not say (log 94). -/
def slotOrder (is : List (Nat × Instr)) : List (Nat × Instr) :=
  is.filter (fun si => !changesFlow si.2) ++ is.filter fun si => changesFlow si.2

/-- The pillar's frames as the C and Y slots of the long word find them: as they stood, and after its M slot with the
change it has made to the table (R128). -/
def State.noteFound (s : State) (slot : Nat) : State :=
  if slot = 2 then
    { s with cur := { s.cur with found := List.zipWith (fun (new old : Frame) =>
      { new with data := old.data, poison := old.poison }) s.mine.frames s.cur.found } }
  else s

/-- The slots' effects, one after another; a slot that raises adds its cause and no effect. -/
def runSlots (lw : LongWord) : List (Nat × Instr) → State → List (Nat × Raise) → Outcome × List (Nat × Raise)
  | [], s, rs => (.next s, rs)
  | (slot, i) :: is, s, rs =>
    match exec i { s with cur := { s.cur with slot := slot, syl := at0 lw slot } } with
    | .next t =>
      match t.cur.trap with
      | some r => runSlots lw is s (rs ++ [(slot, r)])
      | none => runSlots lw is (t.noteFound slot) rs
    | other => (other, rs)

/-- The point after a long word (R107, R188): a branch is followed by its delay long word, a delay long word by the
branch's target, other long words by what end_check chooses; at a boundary of user mode with a pre-emption pending the
sequencer stops. s0 is the state before the long word. -/
def State.afterWord (s0 s : State) (is : List Instr) : State :=
  let m := s0.me
  let x := s0.cur.addr
  let on := fun i => s0.guardOn (guardOfInstr i)
  let s1 :=
    if is.any isBranch then
      if s.me.delay.isSome then s
      else s.onMe fun y => { y with pc := addrBits (x + 32), delay := some (addrBits (x + 64)) }
    else if is.any fun i => movesPc m i && on i then s
    else
      match m.delay with
      | some t => s.onMe fun y => { y with pc := t, delay := none }
      | none => s.endCheck x
  let boundary := s1.me.delay.isNone && (is.any (fun i => marksPoint m i && on i) || (m.delay.isNone && m.endsLoop x &&
    !is.any fun i => movesPc m i && on i))
  if boundary && s1.myStack.req && !s1.me.mode && s1.me.run = .running then
    { s1 with agenda := .event .preemptStop { p := s0.cur.p, q := s0.cur.q } :: s1.agenda }
  else s1

/-- A permit of each class the long word needs is taken (R379). -/
def State.takePermits (s : State) (is : List (Nat × Instr)) : State :=
  s.onMine fun P => { P with permits := (permitsOf is).foldl (fun l c => upd l c (· - 1)) P.permits }

/-- A cause raised by the long word as a whole. A DSYNC that holds it is withdrawn by WDOG (R334); what the cause
reports is used up (R74, R356, R361), as is a free choice that WDOG's `EINFO` shows (R393). -/
def State.raiseWord (s : State) (r : Raise) : State :=
  let s := if r.cause = cWdog then
    (s.me.recs.filter fun k => (match k.op with
      | .dsync _ _ => true
      | _ => false) && !s.me.imageOnly k.order).foldl (fun s k => s.cancelRec s.cur.p s.cur.q k) s else s
  let s := s.onMe fun x =>
    { x with
      firstFault := if r.cause = cFstate ∧ !x.mode then none else x.firstFault
      ueDue := if r.cause = cUe ∧ r.record.isNone then x.ueDue.eraseP (fun e => e.word == r.einfo) else x.ueDue
      gang := if r.cause = cGang then x.gang.tail else x.gang }
  let s := if r.cause = cWdog then { s with nonce := s.nonce + 1 } else s
  s.raise r

/-- After a long word of user mode no first long word is to come (R74); between long words nothing is found. -/
def State.leaveWord (s0 s : State) : State :=
  let s := if s0.me.mode then s else s.onMe fun x => { x with firstFault := none }
  { s with cur := { s.cur with found := [] } }

/-- A long word runs: its slots take effect, or the first cause in R329's order is taken and none of them has. -/
def State.runWord (s : State) (lw : LongWord) : Outcome :=
  let is := longWordInstrs lw
  let seqErr := if s.me.illseq s.cur.addr (is.map Prod.snd) then [(0, cause cIllseq 0)] else []
  match runSlots lw (slotOrder is) { s with cur := { s.cur with found := s.mine.frames } } (seqErr ++ s.wordRaises is) with
  | (.next t, rs) =>
    match pickRaise rs with
    | some r => .next (s.raiseWord r)
    | none => .next (s.afterWord (s.leaveWord (t.takePermits is)) (is.map Prod.snd))
  | (other, _) => other

/-- The instruction cache with a line made the most recently used (R400). -/
def touchLine (ls : List ICLine) (k : Nat) : List ICLine :=
  ls.filter (fun l => l.line = k) ++ ls.filter fun l => l.line ≠ k

/-- The line of a sequencer's next long word. -/
def Pillar.nextLine (P : Pillar) (q : Nat) : Nat := (P.seqs.getD q Seq.reset).pc.toNat / 128

/-- A grant is noted: the port's alternation, the pillar's issue count, the sequencer's issue order (R154, R332). -/
def State.grant (s : State) (p q : Nat) : State :=
  ((s.onPillar p fun P =>
    { P with last := q, issues := P.issues + 1, icache := touchLine P.icache (P.nextLine q) }).onSeq p q fun x =>
    { x with order := x.order + 1, heldSince := none, wdog := false }).focus p q

/-- The sequencer the port grants: the one that is ready; of two, the one that did not issue last (R154). -/
def State.portChoice (s : State) (p : Nat) : Option (Nat × Ready) :=
  let a := (s.focus p 0).readiness
  let b := (s.focus p 1).readiness
  match a, b with
  | .no, .no => none
  | a, .no => some (0, a)
  | .no, b => some (1, b)
  | a, b => if (s.pillar p).last = 0 then some (1, b) else some (0, a)

/-- One ic of a pillar's issue port (R154). -/
def State.portStep (s : State) (p : Nat) : Outcome :=
  let s := (s.noteHeld p 0).noteHeld p 1
  match s.portChoice p with
  | none => .next s
  | some (q, .runs lw) => (s.grant p q).runWord lw
  | some (q, .raises r) => .next ((s.grant p q).raiseWord r)
  | some (_, .no) => .next s

/-- The instruction-cache line of address 0 with a long word in its first place. -/
def firstLine (lw : LongWord) : ICLine := ⟨0, lw ++ List.replicate 24 0⟩

/-- The pillar with sequencer 0 running at address 0, where the line holds a long word, and its port not yet used. -/
def Pillar.withWord (P : Pillar) (lw : LongWord) : Pillar :=
  { P with
    icache := [firstLine lw]
    seqs := upd P.seqs 0 fun x => { x with pc := 0, run := .running } }

end Sys2Proof.Machine
end

