-- ==== Sys2Proof/Machine/Step.lean ====
section
/-! DEFINITION. The step: one action of the agenda, or the next half-ns slot when it is empty; and the state that
fetches a given table word next. -/

namespace Sys2Proof.Machine

/-- One event as the next action of the part. -/
def State.happen (s : State) (i : Instr) (w : Who) : Host.Outcome State Fault Refusal := exec i { s with who := w }

/-- One step of the package. -/
def step (s : State) : Host.Outcome State Fault Refusal :=
  match s.agenda with
  | [] => .next s.nextTick
  | .clock :: rest => .next { s with agenda := rest }.runClock
  | .icStart p g :: rest => .next (({ s with agenda := .icRun p g :: rest } : State).icBegin p)
  | .icRun p g :: rest =>
    match s.icNext p with
    | some (i, w) => .next { s with agenda := .event i w :: s.agenda }
    | none => .next { s with agenda := if g then .issue p :: rest else rest }
  | .issue p :: rest => { s with agenda := rest }.portStep p
  | .renewal p :: rest => .next ({ s with agenda := rest }.renewPort p)
  | .event i w :: rest => { s with agenda := rest }.happen i w
  | .async :: rest => .next ({ s with agenda := rest }.freely)

/-- The state in which the next step issues a table word: it stands in its slot's syllable of the long word at address
0, whose line pillar 0's instruction cache holds, sequencer 0 of that pillar runs at address 0, and its issue port is
the next to act (log 5). -/
def State.withFetchWord (s : State) (_nbits w : Nat) : State :=
  { s.onPillar 0 fun P => P.withWord (tableLongWord (BitVec.ofNat 32 w)) with agenda := [.issue 0] }

end Sys2Proof.Machine
end

