-- ==== Sys2Proof/Safety.lean ====
section
/-! DEFINITION. What claims call safe, and the terms they are stated in: the invariants of the package's plain data,
when a syllable takes effect and in which state its sources are read, and what two states have in common. -/

namespace Sys2Proof.Machine

/-- The package has its four stacks and 128 pillars, each pillar its two sequencers (R10, R15). -/
def State.shape (s : State) : Prop :=
  s.stks.length = 4 ∧ s.pillars.length = 128 ∧ ∀ P ∈ s.pillars, P.seqs.length = 2

/-- The byte store is in its canonical form. -/
def State.memWf (s : State) : Prop := Mem.wf s.mem = true

/-- The sequencer of the long word being issued is one of the package's. -/
def State.placed (s : State) : Prop := s.cur.p < s.pillars.length ∧ s.cur.q < s.mine.seqs.length

/-- A syllable with these scalar sources takes effect: its guard is on, and a message is there when one of them
names mq (R93, R155, R156). -/
def State.enabled (s : State) (g : Guard) (srcs : List (BitVec 5)) : Prop :=
  s.guardOn g = true ∧ (srcs.contains 31 = true → s.cur.mq.isSome = true ∨ s.mine.mq ≠ [])

/-- The state a syllable's sources are read in: the message popped when one of them names mq (R93). -/
def State.sourced (s : State) (srcs : List (BitVec 5)) : State := if srcs.contains 31 then s.popMq else s

/-- A frame of the current pillar. -/
def State.myFrame (s : State) (f : Nat) : Frame := s.frame s.cur.p f

/-- A frame takes an access of n bytes at an offset: wholly inside it and aligned (R251, R258). -/
def Frame.holds (F : Frame) (off n align : Nat) : Prop := off + n ≤ F.bytes ∧ off % align = 0

/-- Poison met by a synchronous read raises nothing here: no region of the current mode unwinds on it, and
supervisor mode has a region open (R355). -/
def State.poisonQuiet (s : State) : Prop :=
  (∀ r ∈ s.me.regions, r.sup = s.me.mode → r.pol.getLsbD 0 = false) ∧
    (s.me.mode = true → ∃ r ∈ s.me.regions, r.sup = true)

/-- A read of one of the current pillar's frames that raises nothing (R258, R355). -/
def State.readable (s : State) (f off n align : Nat) : Prop :=
  (s.myFrame f).holds off n align ∧ (s.myFrame f).xp = false ∧
    ((s.myFrame f).isPoisoned off n = true → s.poisonQuiet)

/-- The state a read goes on in: with `CHKINT.POIS` set for the M slot's unit when it met poison (R353, R355). -/
def State.afterRead (s : State) (f off n : Nat) : State :=
  if (s.myFrame f).isPoisoned off n then s.onMe fun x => x.setPois 2 else s

/-- A frame address's cause with its EINFO: the frame address itself (R258). -/
def atFrame (c f off : Nat) : Raise := ⟨c, BitVec.ofNat 64 (off % 2 ^ 22 + f % 64 * 2 ^ 22), none, none, false⟩

/-- FSTATE's raise for a frame of the current pillar (R258): FRAME, STATE and WHY. -/
def State.fstateOf (s : State) (f why : Nat) : Raise :=
  ⟨cFstate, BitVec.ofNat 64 (f % 64 + (s.myFrame f).state.code * 64 + why % 16 * 256), none, none, false⟩

/-- The same memory, poison marks, stacks, launches, iterations away, host interface and clock, and every pillar but
the current one as it was. -/
def State.sameOutside (s t : State) : Prop :=
  t.mem = s.mem ∧ t.poison = s.poison ∧ t.stks = s.stks ∧ t.launches = s.launches ∧ t.away = s.away ∧
    t.tick = s.tick ∧ t.fnmode = s.fnmode ∧ t.hkreqs = s.hkreqs ∧ t.selfRefresh = s.selfRefresh ∧ t.agenda = s.agenda ∧
    t.pillars.length = s.pillars.length ∧ ∀ p, p ≠ s.cur.p → t.pillar p = s.pillar p

/-- A pillar without its sequencers and its message queue. -/
def Pillar.shared (P : Pillar) : Pillar := { P with seqs := [], mq := [] }

/-- The current pillar's shared state as it was, but for its message queue, and its other sequencer untouched. -/
def State.samePillar (s t : State) : Prop :=
  t.mine.shared = s.mine.shared ∧ ∀ q, q ≠ s.cur.q → t.seq s.cur.p q = s.seq s.cur.p q

/-- A sequencer without its results in flight, its CSR changes not yet in effect, its hold latches and its crossing
positions: every register, flag, mode and trap register, and every operation in progress. -/
def Seq.settled (x : Seq) : Seq := { x with inflight := [], csrws := [], vHold := none, fHold := none, wpos := 0, rpos := 0 }

/-- A sequencer without its asynchronous records and what belongs to them: every register, flag, mode and trap
register, the tiles' elements and every result in flight. -/
def Seq.program (x : Seq) : Seq :=
  { x with
    recs := [], fences := [], flagq := [], aborts := [], syncing := none, axes := [], latch := false
    delivered := x.delivered.map fun _ => none
    accs := x.accs.map fun a => { a with busy := false, park := false, prog := 0, nw := 0 } }

/-- Every frame's contents are in canonical form. -/
def State.framesWf (s : State) : Prop := ∀ P ∈ s.pillars, ∀ F ∈ P.frames, Mem.wf F.data = true

/-- Every byte of a frame outside n bytes from an offset reads the same in two states of it, and everything else of
its entry but the poison marks is the same. -/
def Frame.sameOutside (F G : Frame) (off n : Nat) : Prop :=
  { G with data := F.data, poison := F.poison } = F ∧ ∀ b, b < off ∨ off + n ≤ b → Mem.read G.data b = Mem.read F.data b

/-- A syllable's guard; an event has none. -/
def guardOfSyllable : Instr → Option Guard
  | .nop g | .add g _ _ _ | .sub g _ _ _ | .addi g _ _ _ | .mul g _ _ _ | .mulh g _ _ _ | .mulhn g _ _ _
  | .div g _ _ _ | .divn g _ _ _ | .rem g _ _ _ | .remn g _ _ _ | .andOp g _ _ _ | .orOp g _ _ _
  | .xorOp g _ _ _ | .andi g _ _ _ | .ori g _ _ _ | .xori g _ _ _ | .shl g _ _ _ | .shr g _ _ _ | .sar g _ _ _
  | .shli g _ _ _ | .shri g _ _ _ | .sari g _ _ _ | .rotl g _ _ _ | .minOp g _ _ _ | .maxOp g _ _ _
  | .minn g _ _ _ | .maxn g _ _ _ | .cmpeq g _ _ _ | .cmpne g _ _ _ | .cmplt g _ _ _ | .cmple g _ _ _
  | .cmpltn g _ _ _ | .cmplen g _ _ _ | .cmpeqi g _ _ _ | .cmplti g _ _ _ | .sel g _ _ _ _ | .bfx g _ _ _
  | .bfxs g _ _ _ | .bfi g _ _ _ _ | .clz g _ _ | .ctz g _ _ | .popc g _ _ | .bswap g _ _ | .li g _ _
  | .lih g _ _ _ | .mov g _ _ | .addx g _ _ _ _ | .cand g _ _ _ | .cor g _ _ _ | .cxor g _ _ _ | .cnot g _ _
  | .time g _ | .cyc g _ | .csrr g _ _ | .csrw g _ _ _ | .csrs g _ _ _ | .csrc g _ _ _ | .fadr g _ _ _
  | .br g _ | .bri g _ | .call g _ | .calli g _ _ | .loop g _ _ _ | .loopi g _ _ _ | .lbreak g | .lidx g _ _
  | .trap g _ | .syscall g _ | .eret g | .bkpt g | .done g | .pmark g | .cropen g _ _ | .crclose g | .chkerr g
  | .waitev g _ | .fencei g | .halt g | .ld g _ _ _ _ _ _ | .st g _ _ _ _ _ | .ldaq g _ _ _ _ _ _
  | .strl g _ _ _ _ _ | .ldv g _ _ _ _ | .stv g _ _ _ _ | .ldvt g _ _ _ _ | .ldvr g _ _ _ _ | .stvr g _ _ _ _
  | .ldvb g _ _ _ _ | .ldvx g _ _ _ | .stvx g _ _ _ | .atom g _ _ _ _ | .cas g _ _ _ | .fence g _ _
  | .ldp g _ _ _ | .stp g _ _ _ | .falloc g _ _ _ _ | .ffree g _ | .frenew g _ _ | .fstat g _ _
  | .fsetx g _ _ _ _ | .xsve g _ _ _ | .xsvr g _ _ _ | .xsva g _ _ _ | .xspr g _ _ _ | .xsn g _ _ _
  | .xvse g _ _ | .xpsa g _ _ | .xpsc g _ _ | .xpsr g _ _ | .xns g _ _ | .vadd g _ _ _ _ _ | .vsub g _ _ _ _ _
  | .vmul g _ _ _ _ _ | .vfma g _ _ _ _ _ | .vfms g _ _ _ _ _ | .vmin g _ _ _ _ _ | .vmax g _ _ _ _ _
  | .vabs g _ _ _ _ | .vneg g _ _ _ _ | .vcmp g _ _ _ _ _ | .vsel g _ _ _ _ _ | .viadd g _ _ _ _ _
  | .visub g _ _ _ _ _ | .vimul g _ _ _ _ _ | .vaddw g _ _ _ _ _ | .viadds g _ _ _ _ _ | .vand g _ _ _ _ _
  | .vor g _ _ _ _ _ | .vxor g _ _ _ _ _ | .vshl g _ _ _ _ _ | .vshr g _ _ _ _ _ | .vsar g _ _ _ _ _
  | .vimin g _ _ _ _ _ | .vimax g _ _ _ _ _ | .vicmp g _ _ _ _ _ | .vcvt g _ _ _ _ _ | .vpack g _ _ _ _ _
  | .vunpk g _ _ _ _ _ | .vmov g _ _ _ _ | .vli g _ _ | .vliF g _ _ | .vacc g _ _ _ _ _ | .vdrain g _ _ _ _ _
  | .vperm g _ _ _ _ _ | .viota g _ _ | .vpand g _ _ _ | .vpor g _ _ _ | .vpxor g _ _ _ | .vpnot g _ _
  | .dfromv g _ _ | .dtov g _ _ | .dtovN g _ _ | .dadd g _ _ _ | .dscale g _ _ | .ddot g _ _ _
  | .ddotB g _ _ _ _ | .dmov g _ _ | .dneg g _ _ | .dwsum g _ _ _ _ | .fexp2 g _ _ _ _ | .flog2 g _ _ _ _
  | .frcp g _ _ _ _ | .frsq g _ _ _ _ | .fsqrt g _ _ _ _ | .ftanh g _ _ _ _ | .fsigm g _ _ _ _
  | .ferf g _ _ _ _ | .fsin g _ _ _ _ | .fcos g _ _ _ _ | .vrotr g _ _ _ _ | .vrotc g _ _ _ _ | .vbcr g _ _ _ _
  | .vbcc g _ _ _ _ | .vredr g _ _ _ _ | .vredc g _ _ _ _ | .vscanr g _ _ _ _ _ | .vscanc g _ _ _ _ _
  | .vtrn g _ _ _ | .vshfr g _ _ _ _ | .vshfc g _ _ _ _ | .cset g _ _ _ | .cfmt g _ _ | .cbld g _ _ _ _
  | .cbldf g _ _ _ _ | .cmma g _ _ _ _ _ _ _ | .cmmat g _ _ _ _ _ _ _ | .czero g _ _ | .cchain g _ _ _ _ _
  | .cwait g _ | .cprog g _ | .cabort g _ | .cbnd g _ _ | .cmmah g _ _ _ _ _ _ | .kwait g _ _ _
  | .kpost g _ _ _ | .kpostr g _ _ _ _ | .kset g _ _ _ | .krd g _ | .copyin g _ _ _ _ _ | .copyout g _ _ _ _ _
  | .gather g _ _ _ _ _ | .scatter g _ _ _ _ _ | .atomg g _ _ _ _ _ | .msend g _ _ _ | .defer g _ _ _ _
  | .drain g _ _ _ _ | .jraise g _ _ | .jpost g _ _ | .dsync g _ | .wswin g | .fwait g _ _ | .ecancel g
  | .ecancelK g _ | .ecancelF g _ => some g
  | _ => none

/-- The syllables whose whole effect is results in flight, CSR changes noted and their own hold latch or crossing
position. -/
def resultsOnly : Instr → Bool
  | .nop .. | .add .. | .sub .. | .addi .. | .mul .. | .mulh .. | .mulhn .. | .div .. | .divn .. | .rem ..
  | .remn .. | .andOp .. | .orOp .. | .xorOp .. | .andi .. | .ori .. | .xori .. | .shl .. | .shr .. | .sar ..
  | .shli .. | .shri .. | .sari .. | .rotl .. | .minOp .. | .maxOp .. | .minn .. | .maxn .. | .cmpeq ..
  | .cmpne .. | .cmplt .. | .cmple .. | .cmpltn .. | .cmplen .. | .cmpeqi .. | .cmplti .. | .sel .. | .bfx ..
  | .bfxs .. | .bfi .. | .clz .. | .ctz .. | .popc .. | .bswap .. | .li .. | .lih .. | .mov .. | .addx ..
  | .cand .. | .cor .. | .cxor .. | .cnot .. | .time .. | .cyc .. | .csrr .. | .csrw .. | .csrs .. | .csrc ..
  | .fadr .. | .lidx .. | .pmark .. | .fstat .. | .xsve .. | .xsvr .. | .xspr .. | .xsn .. | .xvse ..
  | .xpsa .. | .xpsc .. | .xpsr .. | .xns .. | .vadd .. | .vsub .. | .vmul .. | .vfma .. | .vfms .. | .vmin ..
  | .vmax .. | .vabs .. | .vneg .. | .vcmp .. | .vsel .. | .viadd .. | .visub .. | .vimul .. | .vaddw ..
  | .viadds .. | .vand .. | .vor .. | .vxor .. | .vshl .. | .vshr .. | .vsar .. | .vimin .. | .vimax ..
  | .vicmp .. | .vcvt .. | .vmov .. | .vli .. | .vliF .. | .vperm .. | .viota .. | .vpand .. | .vpor ..
  | .vpxor .. | .vpnot .. | .dfromv .. | .dtov .. | .dtovN .. | .dadd .. | .dscale .. | .ddot .. | .ddotB ..
  | .dmov .. | .dneg .. | .dwsum .. | .fexp2 .. | .flog2 .. | .frcp .. | .frsq .. | .fsqrt .. | .ftanh ..
  | .fsigm .. | .ferf .. | .fsin .. | .fcos .. | .vrotr .. | .vrotc .. | .vbcr .. | .vbcc .. | .vredr ..
  | .vredc .. | .vscanr .. | .vscanc .. | .vtrn .. | .vshfr .. | .vshfc .. | .cwait .. | .cprog .. | .kwait ..
  | .krd .. | .wswin .. | .fwait .. => true
  | _ => false

/-- A run that neither faults nor is refused within n steps. -/
def safeFor : Nat → State → Prop
  | 0, _ => True
  | n + 1, s => match step s with
    | .next t => safeFor n t
    | _ => False

end Sys2Proof.Machine
end

