-- ==== Sys2Proof/Certificates/Slice0/Obligations.lean ====
section
/-! DEFINITION. The statements for the provers, each with the rule of spec/ it formalises. -/

open Sys2Proof Sys2Proof.Machine

/-! ### The scalar slots -/

/-- R176: the two-source and one-source integer instructions and their immediate forms, at the latencies of R159.
R177: division truncates and never traps; by 0 it gives −1, all ones or the dividend. -/
def Obligations.IntegerArithmetic : Prop :=
  (∀ (s : State) (g : Guard) (d a : BitVec 5),
    (∀ b : BitVec 5, s.enabled g [a, b] →
      let u := s.sourced [a, b]
      let x := u.src a
      let y := u.src b
      let n := y.toNat % 64
      exec (.add g d a b) s = .next (u.toDest 1 d (x + y)) ∧
      exec (.sub g d a b) s = .next (u.toDest 1 d (x - y)) ∧
      exec (.mul g d a b) s = .next (u.toDest 3 d (BitVec.ofNat 64 (x.toNat * y.toNat))) ∧
      exec (.mulh g d a b) s = .next (u.toDest 3 d (BitVec.ofInt 64 (x.toInt * y.toInt / 2 ^ 64))) ∧
      exec (.mulhn g d a b) s = .next (u.toDest 3 d (BitVec.ofNat 64 (x.toNat * y.toNat / 2 ^ 64))) ∧
      exec (.andOp g d a b) s = .next (u.toDest 1 d (x &&& y)) ∧
      exec (.orOp g d a b) s = .next (u.toDest 1 d (x ||| y)) ∧
      exec (.xorOp g d a b) s = .next (u.toDest 1 d (x ^^^ y)) ∧
      exec (.shl g d a b) s = .next (u.toDest 1 d (BitVec.ofNat 64 (x.toNat * 2 ^ n))) ∧
      exec (.shr g d a b) s = .next (u.toDest 1 d (BitVec.ofNat 64 (x.toNat / 2 ^ n))) ∧
      exec (.sar g d a b) s = .next (u.toDest 1 d (BitVec.ofInt 64 (x.toInt / 2 ^ n))) ∧
      exec (.rotl g d a b) s = .next (u.toDest 1 d (x <<< n ||| x >>> ((64 - n) % 64))) ∧
      exec (.minOp g d a b) s = .next (u.toDest 1 d (if x.toInt ≤ y.toInt then x else y)) ∧
      exec (.maxOp g d a b) s = .next (u.toDest 1 d (if x.toInt ≤ y.toInt then y else x)) ∧
      exec (.minn g d a b) s = .next (u.toDest 1 d (if x.toNat ≤ y.toNat then x else y)) ∧
      exec (.maxn g d a b) s = .next (u.toDest 1 d (if x.toNat ≤ y.toNat then y else x)) ∧
      ∀ m : BitVec 3, exec (.addx g d a b m) s = .next (u.toDest 1 d (x + y <<< m.toNat))) ∧
    (s.enabled g [a] →
      let u := s.sourced [a]
      let x := u.src a
      (∃ n : Nat, exec (.clz g d a) s = .next (u.toDest 1 d (BitVec.ofNat 64 n)) ∧ n ≤ 64 ∧
        (∀ i < n, x.getLsbD (63 - i) = false) ∧ (n < 64 → x.getLsbD (63 - n) = true)) ∧
      (∃ n : Nat, exec (.ctz g d a) s = .next (u.toDest 1 d (BitVec.ofNat 64 n)) ∧ n ≤ 64 ∧
        (∀ i < n, x.getLsbD i = false) ∧ (n < 64 → x.getLsbD n = true)) ∧
      exec (.popc g d a) s = .next (u.toDest 1 d (BitVec.ofNat 64 ((List.range 64).countP fun i => x.getLsbD i))) ∧
      (∃ v : W64, exec (.bswap g d a) s = .next (u.toDest 1 d v) ∧
        ∀ i < 8, v.extractLsb' (8 * i) 8 = x.extractLsb' (56 - 8 * i) 8) ∧
      exec (.mov g d a) s = .next (u.toDest 1 d x) ∧
      (∀ i : BitVec 10,
        exec (.addi g d a i) s = .next (u.toDest 1 d (x + i.signExtend 64)) ∧
        exec (.andi g d a i) s = .next (u.toDest 1 d (x &&& i.signExtend 64)) ∧
        exec (.ori g d a i) s = .next (u.toDest 1 d (x ||| i.signExtend 64)) ∧
        exec (.xori g d a i) s = .next (u.toDest 1 d (x ^^^ i.signExtend 64))) ∧
      ∀ i : BitVec 6,
        exec (.shli g d a i) s = .next (u.toDest 1 d (BitVec.ofNat 64 (x.toNat * 2 ^ i.toNat))) ∧
        exec (.shri g d a i) s = .next (u.toDest 1 d (BitVec.ofNat 64 (x.toNat / 2 ^ i.toNat))) ∧
        exec (.sari g d a i) s = .next (u.toDest 1 d (BitVec.ofInt 64 (x.toInt / 2 ^ i.toNat))))) ∧
  (∀ (s : State) (g : Guard) (d a b : BitVec 5), s.enabled g [a, b] →
    let u := s.sourced [a, b]
    let x := u.src a
    let y := u.src b
    exec (.div g d a b) s = .next (u.toDest 18 d (if y = 0 then -1 else BitVec.ofInt 64 (x.toInt.tdiv y.toInt))) ∧
    exec (.rem g d a b) s = .next (u.toDest 18 d (if y = 0 then x else BitVec.ofInt 64 (x.toInt.tmod y.toInt))) ∧
    exec (.divn g d a b) s = .next (u.toDest 18 d (if y = 0 then -1 else BitVec.ofNat 64 (x.toNat / y.toNat))) ∧
    exec (.remn g d a b) s = .next (u.toDest 18 d (if y = 0 then x else BitVec.ofNat 64 (x.toNat % y.toNat))))

/-- R178: bit-field extracts and insert, whatever the control holds. R179: constants, frame addresses and selection.
-/
def Obligations.BitFieldsAndImmediates : Prop :=
  (∀ (s : State) (g : Guard) (d a b : BitVec 5),
    let off := fun c : W64 => if c.toNat < 2 ^ 14 then c.toNat % 64 else 64
    let wid := fun c : W64 => if c.toNat < 2 ^ 14 then min (min (c.toNat / 64) 64) (64 - off c) else 0
    (s.enabled g [a, b] →
      let u := s.sourced [a, b]
      let v := (u.src a).toNat / 2 ^ off (u.src b) % 2 ^ wid (u.src b)
      exec (.bfx g d a b) s = .next (u.toDest 1 d (BitVec.ofNat 64 v)) ∧
      exec (.bfxs g d a b) s = .next (u.toDest 1 d (BitVec.ofInt 64 ((v : Int).bmod (2 ^ wid (u.src b)))))) ∧
    ∀ m : BitVec 5, s.enabled g [a, b, m] →
      let u := s.sourced [a, b, m]
      ∃ v : W64, exec (.bfi g d a b m) s = .next (u.toDest 1 d v) ∧
        ∀ i < 64, v.getLsbD i = if off (u.src m) ≤ i ∧ i < off (u.src m) + wid (u.src m) then
          (u.src b).getLsbD (i - off (u.src m)) else (u.src a).getLsbD i) ∧
  (∀ (s : State) (g : Guard) (d a : BitVec 5),
    (s.enabled g [] → ∀ i : BitVec 15, exec (.li g d i) s = .next (s.toDest 1 d (i.signExtend 64))) ∧
    (s.enabled g [a] →
      let u := s.sourced [a]
      (∀ i : BitVec 10, exec (.lih g d a i) s = .next (u.toDest 1 d (u.src a <<< 10 ||| i.zeroExtend 64))) ∧
      ∀ f : BitVec 6, exec (.fadr g d a f) s = .next (u.toDest 1 d
        (BitVec.ofNat 64 (f.toNat * 2 ^ 22 + (u.src a).toNat % 2 ^ 22)))) ∧
    ∀ b : BitVec 5, s.enabled g [a, b] →
      let u := s.sourced [a, b]
      ∀ k : BitVec 4, exec (.sel g d a b k) s = .next (u.toDest 1 d (if u.cpred k then u.src a else u.src b)))

/-- R180: every compare writes its destination predicate after 1 ic. R181, with R94 and R95: predicate logic; every
name maps through RBASE and c0 reads true. -/
def Obligations.ComparesAndPredicates : Prop :=
  (∀ (s : State) (g : Guard) (k : BitVec 4) (a : BitVec 5),
    (∀ b : BitVec 5, s.enabled g [a, b] →
      let u := s.sourced [a, b]
      let x := u.src a
      let y := u.src b
      exec (.cmpeq g k a b) s = .next (u.toPred 1 k (x = y)) ∧
      exec (.cmpne g k a b) s = .next (u.toPred 1 k (x ≠ y)) ∧
      exec (.cmplt g k a b) s = .next (u.toPred 1 k (x.toInt < y.toInt)) ∧
      exec (.cmple g k a b) s = .next (u.toPred 1 k (x.toInt ≤ y.toInt)) ∧
      exec (.cmpltn g k a b) s = .next (u.toPred 1 k (x.toNat < y.toNat)) ∧
      exec (.cmplen g k a b) s = .next (u.toPred 1 k (x.toNat ≤ y.toNat))) ∧
    (s.enabled g [a] →
      let u := s.sourced [a]
      ∀ i : BitVec 10,
        exec (.cmpeqi g k a i) s = .next (u.toPred 1 k (u.src a = i.signExtend 64)) ∧
        exec (.cmplti g k a i) s = .next (u.toPred 1 k ((u.src a).toInt < i.toInt)))) ∧
  (∀ (s : State) (g : Guard) (k x y : BitVec 4), s.enabled g [] →
    let read := fun c : BitVec 4 => if c = 0 then true else
      s.me.preds.getD (if c.toNat < 8 then c.toNat else 8 + (c.toNat - 8 + s.me.rbase.toNat) % 8) false
    exec (.cand g k x y) s = .next (s.toPred 1 k (read x && read y)) ∧
    exec (.cor g k x y) s = .next (s.toPred 1 k (read x || read y)) ∧
    exec (.cxor g k x y) s = .next (s.toPred 1 k (read x ^^ read y)) ∧
    exec (.cnot g k x) s = .next (s.toPred 1 k (!read x)))

/-- R182: TIME and CYC as sampled in the issue ic, 2 ic later. R284, R285: WSWIN pushes, after 2 ic, the start of the
refresh window of its stack in force at its TIME, or of the next one. -/
def Obligations.ClocksAndWindows : Prop :=
  (∀ (s : State) (g : Guard) (d : BitVec 5), s.enabled g [] →
    exec (.time g d) s = .next (s.toDest 2 d (BitVec.ofNat 64 (s.tick / 2))) ∧
    exec (.cyc g d) s = .next (s.toDest 2 d (BitVec.ofNat 64 s.mine.ic))) ∧
  (∀ (s : State) (g : Guard), s.enabled g [] →
    ∃ w k : Nat, exec (.wswin g) s = .next (s.result 2 (.push (BitVec.ofNat 64 w))) ∧
      w = 32000 * k + 8000 * (s.cur.p / 32) ∧ s.tick / 2 < w + 1600 ∧
      ∀ j, s.tick / 2 < 32000 * j + 8000 * (s.cur.p / 32) + 1600 → k ≤ j)

/-- R101, R183: outside the supervisor range, or in supervisor mode, a CSR instruction returns the old value after 2
ic and notes its change for 2 ic after its issue. -/
def Obligations.CsrAccess : Prop :=
  ∀ (s : State) (g : Guard) (d a : BitVec 5) (n : BitVec 10), n.toNat < 0x100 ∨ s.me.mode = true →
    (s.enabled g [] → exec (.csrr g d n) s = .next (s.toDest 2 d (s.csrRead s.cur.p s.cur.q n.toNat))) ∧
    (s.enabled g [a] →
      let u := s.sourced [a]
      let note := fun c => u.onMe fun x => { x with csrws := x.csrws ++ [⟨u.mine.ic + 2, u.cur.slot, n.toNat, c, u.src a⟩] }
      exec (.csrw g d a n) s = .next ((note .write).toDest 2 d (u.csrRead s.cur.p s.cur.q n.toNat)) ∧
      exec (.csrs g d a n) s = .next ((note .set).toDest 2 d (u.csrRead s.cur.p s.cur.q n.toNat)) ∧
      exec (.csrc g d a n) s = .next ((note .clear).toDest 2 d (u.csrRead s.cur.p s.cur.q n.toNat)))

/-- R101: in user mode a CSR instruction that names a supervisor register raises PRIV, and so do ERET and HALT;
nothing of the syllable's own effect happens. R101, R105: in user mode no syllable puts a change of a supervisor CSR
on its way. R101, R102, R192: no syllable that takes effect changes the mode, but ERET in supervisor mode; what user
mode may do leaves every trap register, TVEC and the scratch registers as they are. -/
def Obligations.Privilege : Prop :=
  (∀ (s : State) (g : Guard) (d a : BitVec 5) (n : BitVec 10), s.me.mode = false → 0x100 ≤ n.toNat →
    (s.enabled g [] →
      exec (.csrr g d n) s = .next (s.raise ⟨cPriv, s.sylInfo 0, none, none, false⟩) ∧
      exec (.eret g) s = .next (s.raise ⟨cPriv, s.sylInfo 0, none, none, false⟩) ∧
      exec (.halt g) s = .next (s.raise ⟨cPriv, s.sylInfo 0, none, none, false⟩)) ∧
    (s.enabled g [a] →
      let u := s.sourced [a]
      let trapped := u.raise ⟨cPriv, u.sylInfo 0, none, none, false⟩
      exec (.csrw g d a n) s = .next trapped ∧ exec (.csrs g d a n) s = .next trapped ∧
      exec (.csrc g d a n) s = .next trapped)) ∧
  (∀ (s t : State) (i : Instr) (g : Guard), guardOfSyllable i = some g → s.me.mode = false → s.cur.trap = none →
    exec i s = .next t → t.cur.trap = none → ∀ w ∈ t.me.csrws, w ∈ s.me.csrws ∨ w.num < 0x100) ∧
  (∀ (s t : State) (i : Instr) (g : Guard), guardOfSyllable i = some g → s.cur.trap = none → exec i s = .next t →
      t.cur.trap = none →
      (t.me.mode ≠ s.me.mode → i = .eret g ∧ s.me.mode = true) ∧
      (s.me.mode = false → t.me.mode = false ∧ t.me.tvec = s.me.tvec ∧ t.me.epc = s.me.epc ∧ t.me.ebt = s.me.ebt ∧
        t.me.ecause = s.me.ecause ∧ t.me.einfo = s.me.einfo ∧ t.me.sscr0 = s.me.sscr0 ∧ t.me.sscr1 = s.me.sscr1 ∧
        t.me.pmode = s.me.pmode ∧ t.me.bd = s.me.bd))

/-! ### Control flow -/

/-- R163, R185: a taken branch or call: the delay long word at the branch's address + 32 next, then the target; a
call's return address is the branch's address + 64 after 1 ic. -/
def Obligations.Branches : Prop :=
  ∀ (s : State) (g : Guard) (d a : BitVec 5) (i : BitVec 20),
    let go := fun (u : State) (target : W64) => u.onMe fun x => { x with
      pc := (u.cur.addr + 32) &&& 0x000FFFFFFFFFFFE0
      delay := some (target &&& 0x000FFFFFFFFFFFE0) }
    (s.enabled g [] →
      let target := (s.cur.addr + 32 * i.signExtend 64) &&& 0x000FFFFFFFFFFFE0
      exec (.br g i) s = .next (go s target) ∧
      exec (.call g i) s = .next ((go s target).result 1 (.push (s.cur.addr + 64)))) ∧
    (s.enabled g [a] →
      let u := s.sourced [a]
      exec (.bri g a) s = .next (go u (u.src a)) ∧
      exec (.calli g d a) s = .next ((go u (u.src a)).toDest 1 d (s.cur.addr + 64)))

/-- R187: a loop is entered with its count, index 0, the pitch then in force and its body's bounds, or skipped with
count 0. R149, R187: with six entries held LOOP and LOOPI raise ILLEGAL, reason 9. -/
def Obligations.LoopsBegin : Prop :=
  (∀ (s : State) (g : Guard) (a : BitVec 5) (k : BitVec 10) (r : BitVec 1) (e : BitVec 9), s.me.loops.length < 6 →
    let bend := (s.cur.addr + 32 * e.zeroExtend 64) &&& 0x000FFFFFFFFFFFE0
    let enter := fun (u : State) (n : W32) => u.onMe fun x =>
      if n = 0 then { x with pc := (bend + 32) &&& 0x000FFFFFFFFFFFE0 }
      else { x with
        loops := ⟨n, 0, x.lpitch, (s.cur.addr + 32) &&& 0x000FFFFFFFFFFFE0, bend, r = 1⟩ :: x.loops
        pc := (s.cur.addr + 32) &&& 0x000FFFFFFFFFFFE0 }
    (s.enabled g [a] → exec (.loop g a r e) s =
      .next (enter (s.sourced [a]) (((s.sourced [a]).src a).extractLsb' 0 32))) ∧
    (s.enabled g [] → exec (.loopi g k r e) s = .next (enter s (k.zeroExtend 32)))) ∧
  (∀ (s : State) (g : Guard) (a : BitVec 5) (k : BitVec 10) (r : BitVec 1) (e : BitVec 9), 6 ≤ s.me.loops.length →
    exec (.loop g a r e) s = .next (s.raise ⟨cIllegal, s.sylInfo 9, none, none, false⟩) ∧
    exec (.loopi g k r e) s = .next (s.raise ⟨cIllegal, s.sylInfo 9, none, none, false⟩))

/-- R188: the first n − 1 ends of a loop's body go back to its start, each adding the pitch to the index and taking
one from the count; the n-th leaves the loop and fetches on. R188, R189, R190: LBREAK leaves the innermost loop as at
the end of its last pass and has no effect outside a loop; LIDX reads the index of a level, 0 where none is held. -/
def Obligations.LoopPasses : Prop :=
  (∀ (n : Nat) (p : BitVec 16) (b x : W64) (rot : Bool) (rest : List LoopEntry), 0 < n → n < 2 ^ 32 →
    (∀ e, rest.head? = some e → e.bend ≠ x) →
    let at_ := fun (k : Nat) => (⟨BitVec.ofNat 32 (n - k), BitVec.ofNat 32 k * p.signExtend 32, p, b, x, rot⟩ : LoopEntry)
    (∀ k, k + 1 < n → loopEnd (at_ k :: rest) x = (at_ (k + 1) :: rest, some (b, rot))) ∧
    loopEnd (at_ (n - 1) :: rest) x = (rest, none)) ∧
  (∀ (s : State) (g : Guard) (d : BitVec 5) (l : BitVec 3), s.enabled g [] →
    (s.me.loops = [] → exec (.lbreak g) s = .next s) ∧
    (∀ e rest, s.me.loops = e :: rest →
      exec (.lbreak g) s = .next ((s.onMe fun x => { x with loops := rest }).endCheck e.bend)) ∧
    exec (.lidx g d l) s = .next (s.toDest 1 d ((s.me.loops[l.toNat]?.map fun e => e.index.signExtend 64).getD 0)))

/-- R191: TRAP, SYSCALL and BKPT raise their causes with the EINFO of R191. R193, R194, R195, R130: HALT stops the
sequencer; DONE of user mode with no fault recorded before its long word waits at its address, and delivers one that
is; PMARK and NOP have no effect of their own. R352: DONE in supervisor mode outside context mode ends every
operation, region and loop of its sequencer and delivers no fault; in context mode it waits as in user mode,
whatever fault an operation of the image holds. R198, R199, R200: CHKERR with nothing recorded has no effect; WAITEV
clears the latch at its issue; FENCEI empties the pillar's instruction cache. That the lowest SEQNO is delivered
first, that DONE in context mode waits so with no fault of the image's delivered, and that supervisor DONE cancels
every operation at its issue are the model's readings (log 13, 14). -/
def Obligations.TrapsAndWaits : Prop :=
  (∀ (s : State) (g : Guard) (i : BitVec 15), s.enabled g [] →
    exec (.trap g i) s = .next (s.raise ⟨cSyscall, BitVec.ofNat 64 (i.toNat + 32768), none, none, false⟩) ∧
    exec (.syscall g i) s = .next (s.raise ⟨cSyscall, BitVec.ofNat 64 i.toNat, none, none, false⟩) ∧
    exec (.bkpt g) s = .next (s.raise ⟨cBkpt, 0, none, none, false⟩)) ∧
  (∀ (s : State) (g : Guard), s.enabled g [] →
    (s.me.mode = true → exec (.halt g) s = .next (s.onMe fun x => { x with run := .halted })) ∧
    (s.me.mode = false → (∀ r ∈ s.me.faults, s.me.order ≤ r.order) →
      exec (.done g) s = .next (s.onMe fun x => { x with run := .atDone s.cur.addr })) ∧
    (s.me.mode = false → ∀ r, s.me.faults = [r] → r.order < s.me.order →
      exec (.done g) s = .next (s.raise ⟨r.cause, 0, some r.idx, none, false⟩)) ∧
    (s.me.contextMode = true → (∀ r ∈ s.me.faults, r.order ≤ s.me.ctxOrder ∨ s.me.order ≤ r.order) →
      exec (.done g) s = .next (s.onMe fun x => { x with run := .atDone s.cur.addr })) ∧
    (s.me.mode = true → s.me.contextMode = false → s.placed → ∃ t, exec (.done g) s = .next t ∧ t.mem = s.mem ∧
      t.me.run = .atDone s.cur.addr ∧ t.me.recs = [] ∧ t.me.regions = [] ∧ t.me.loops = [] ∧ t.me.mode = true) ∧
    exec (.pmark g) s = .next s ∧ exec (.nop g) s = .next s) ∧
  (∀ (s : State) (g : Guard) (a : BitVec 5),
    (s.enabled g [] → s.me.dueFault = none → s.me.chkint.getLsbD 0 = false → exec (.chkerr g) s = .next s) ∧
    (s.enabled g [a] → exec (.waitev g a) s = .next ((s.sourced [a]).onMe fun x => { x with latch := false })) ∧
    (s.enabled g [] → s.placed → ∃ t, exec (.fencei g) s = .next t ∧ t.mine.icache = [] ∧ t.mem = s.mem ∧
      t.me = { s.me with fetchFault := none }))

/-- R335, R404: taking a cause with no region open. The sequencer is in supervisor mode at TVEC, fetching no earlier
than 4 ic on; EPC is the long word, PMODE the mode it was in, ECAUSE and EINFO the cause's; BD and EBT say whether it
was a delay long word; nothing is in flight and both hold latches are empty. R192, R337: ERET in supervisor mode, no
fault having been delivered: the mode and the long word at EPC are taken up again, as a delay long word with EBT after
it when BD is 1, and what the bank of the mode returned to holds is replayed from the next ic on. BD 0 outside a delay
long word and the emptied bank are the model's choices (log 12, 8). -/
def Obligations.EntryAndReturn : Prop :=
  (∀ (s : State) (c : Nat) (info : W64), s.placed → s.me.regions = [] → s.me.csrws = [] → c < 256 →
    let t := s.raise ⟨c, info, none, none, false⟩
    t.cur.trap = some ⟨c, info, none, none, false⟩ ∧ t.mem = s.mem ∧ t.stks = s.stks ∧
    t.me.mode = true ∧ t.me.pmode = s.me.mode ∧ t.me.pc = s.me.tvec ∧ t.me.tvec = s.me.tvec ∧
    t.me.ecause = BitVec.ofNat 64 c ∧ t.me.einfo = info ∧ t.me.epc = s.cur.addr &&& 0x000FFFFFFFFFFFE0 ∧
    t.me.bd = s.me.delay.isSome ∧ (∀ b, s.me.delay = some b → t.me.ebt = b &&& 0x000FFFFFFFFFFFE0) ∧
    t.me.delay = none ∧ t.me.run = .running ∧ t.me.notBefore = s.mine.ic + 4 ∧
    t.me.inflight = [] ∧ t.me.vHold = none ∧ t.me.fHold = none ∧ t.me.loops = s.me.loops ∧ t.me.recs = s.me.recs ∧
    (s.me.mode = false → t.me.userBank.entries =
      (s.me.inflight.filter fun l => s.mine.ic < l.land).map fun l => { l with land := l.land - s.mine.ic })) ∧
  (∀ (s : State) (g : Guard), s.placed → s.enabled g [] → s.me.mode = true →
    (∀ i rest, s.me.delivered ≠ some i :: rest) →
    let bank := if s.me.pmode then s.me.supBank else s.me.userBank
    ∃ t, exec (.eret g) s = .next t ∧ t.mem = s.mem ∧
      t.me.mode = s.me.pmode ∧ t.me.pc = s.me.epc ∧ t.me.bd = false ∧
      t.me.delay = (if s.me.bd then some s.me.ebt else none) ∧ t.me.run = .running ∧
      t.me.inflight = s.me.inflight ++ bank.entries.map (fun l => { l with land := s.mine.ic + 1 + l.land }) ∧
      t.me.vHold = bank.vHold ∧ t.me.fHold = bank.fHold ∧ t.me.named = s.me.named ∧ t.me.loops = s.me.loops)

/-- R196, R197: CROPEN with fewer than four regions opens one with the snapshot of R196; with four open it unwinds
the innermost one opened in the current mode with the cause ILLEGAL, whose EINFO is the model's reading (log 11);
CRCLOSE closes the innermost region opened in the current mode and no other. R197: an unwind with no operation
issued since its CROPEN: the snapshot back, q0 the cause and q1 to q15 zero, nothing in flight but what a DRAIN that
has taken its items delivers (R357), the region and those inside it closed, the fetch at its handler, the mode
unchanged. R358: a vector result that landed in the unwind's own ic is discarded. That the regions inside close with
it, and that changes of RBASE on their way are dropped, is the model's reading (log 106, 10). -/
def Obligations.ContainmentRegions : Prop :=
  (∀ (s : State) (g : Guard) (a : BitVec 5) (o : BitVec 2),
    (s.enabled g [a] → s.me.regions.length < 4 →
      let u := s.sourced [a]
      exec (.cropen g a o) s = .next (u.onMe fun x => { x with
        regions := ⟨u.src a &&& 0x000FFFFFFFFFFFE0, o, x.mode, x.order, x.named, x.preds, x.rbase, x.loops⟩ :: x.regions })) ∧
    (s.enabled g [a] → 4 ≤ s.me.regions.length → s.placed → ∀ before r after, s.me.regions = before ++ r :: after →
      r.sup = s.me.mode → (∀ h ∈ before, h.sup ≠ s.me.mode) → (∀ e ∈ s.me.recs, e.order ≤ r.order) →
      ∃ t, exec (.cropen g a o) s = .next t ∧ t.cur.trap = some ⟨cIllegal, (s.sourced [a]).sylInfo 0, none, none, true⟩ ∧
        t.me.pc = r.handler ∧ t.me.mode = s.me.mode ∧ t.me.queue = BitVec.ofNat 64 cIllegal :: List.replicate 15 0 ∧
        t.me.named = r.named ∧ ∀ h, h ∈ t.me.regions ↔ h ∈ s.me.regions ∧ ¬ (h.sup = r.sup ∧ r.order ≤ h.order)) ∧
    (s.enabled g [] → ∀ before r after, s.me.regions = before ++ r :: after → r.sup = s.me.mode →
      (∀ h ∈ before, h.sup ≠ s.me.mode) → s.placed →
      ∃ t, exec (.crclose g) s = .next t ∧ t.me = { s.me with regions := before ++ after })) ∧
  (∀ (s : State) (p q : Nat) (r : Region) (c : Nat), p < s.pillars.length → q < (s.pillar p).seqs.length →
    (∀ e ∈ (s.seq p q).recs, e.order ≤ r.order) →
    let x := s.seq p q
    let y := (s.unwind p q r c).seq p q
    y.named = r.named ∧ y.preds = r.preds ∧ y.rbase = r.rbase ∧ y.loops = r.loops ∧
    y.queue = BitVec.ofNat 64 c :: List.replicate 15 0 ∧ y.vHold = none ∧ y.fHold = none ∧
    (∀ l, l ∈ y.inflight ↔ l ∈ x.inflight ∧ l.slot = 7 ∧
      ((∃ k v m, l.what = .vec k v m) ∨ ∃ k v m, l.what = .vpred k v m)) ∧
    y.pc = r.handler ∧ y.mode = x.mode ∧ y.delay = none ∧ y.run = .running ∧ y.recs = x.recs ∧
    (x.undo = [] → y.vregs = x.vregs) ∧
    ∀ h, h ∈ y.regions ↔ h ∈ x.regions ∧ ¬ (h.sup = r.sup ∧ r.order ≤ h.order)) ∧
  (∀ (s : State) (p q : Nat) (r : Region) (c : Nat) (l : Landing) (k : Nat) (v : VReg) (m : PReg),
    p < s.pillars.length → q < (s.pillar p).seqs.length → (∀ e ∈ (s.seq p q).recs, e.order ≤ r.order) →
    (s.seq p q).undo = [] → (s.seq p q).inflight = [l] → l.what = .vec k v m → l.land ≤ (s.pillar p).ic → l.slot < 7 →
    let landed := s.onSeq p q fun x => x.landNoted (s.pillar p).ic
    ∀ e < 1024, at0 (((landed.unwind p q r c).seq p q).vregs.getD k []) e = at0 ((s.seq p q).vregs.getD k []) e)

/-! ### The M slot -/

/-- R259, R260, R159: LD and LDAQ: the bytes at the effective frame address, extended to 64 bits, after 4 ic, at width
q both doublewords; with post-increment the new base after 1 ic. R259, R260: ST and STRL: the low bytes of the data
source, at width q two doublewords, into the frame at the effective frame address; with post-increment the new base
after 1 ic. -/
def Obligations.ScalarLoadsAndStores : Prop :=
  (∀ (s : State) (g : Guard) (d a : BitVec 5) (w : BitVec 3) (x t : BitVec 1) (i : BitVec 5),
    s.enabled g [a] → w.toNat ≤ 4 →
    let u := s.sourced [a]
    let n : Nat := 2 ^ w.toNat
    let moved := u.src a + BitVec.ofInt 64 (i.toInt * n)
    let ea := if t = 1 then u.src a else moved
    let f := (ea.extractLsb' 22 6).toNat
    let off := (ea.extractLsb' 0 22).toNat
    ea.extractLsb' 28 36 = 0 → u.readable f off n n →
    let v := u.afterRead f off n
    let y := if t = 1 then v.result 1 (.named (a.toNat - 16) moved) else v
    let z := (u.myFrame f).nat off n
    (w ≠ 4 →
      let r := if x = 1 then BitVec.ofInt 64 ((z : Int).bmod (2 ^ (8 * n))) else BitVec.ofNat 64 z
      exec (.ld g d a w x t i) s = .next (y.toDest 4 d r) ∧ exec (.ldaq g d a w x t i) s = .next (y.toDest 4 d r)) ∧
    (w = 4 →
      let lo := BitVec.ofNat 64 ((u.myFrame f).nat off 8)
      let hi := BitVec.ofNat 64 ((u.myFrame f).nat (off + 8) 8)
      let r := if d = 0 then (y.result 4 (.push lo)).result 4 (.push hi) else (y.toDest 4 d lo).toDest 4 (d + 1) hi
      exec (.ld g d a w x t i) s = .next r ∧ exec (.ldaq g d a w x t i) s = .next r)) ∧
  (∀ (s : State) (g : Guard) (d a : BitVec 5) (w : BitVec 3) (t : BitVec 1) (i : BitVec 5),
    s.enabled g [d, a] → w.toNat ≤ 4 →
    let u := s.sourced [d, a]
    let n : Nat := 2 ^ w.toNat
    let moved := u.src a + BitVec.ofInt 64 (i.toInt * n)
    let ea := if t = 1 then u.src a else moved
    let f := (ea.extractLsb' 22 6).toNat
    let off := (ea.extractLsb' 0 22).toNat
    ea.extractLsb' 28 36 = 0 → (u.myFrame f).holds off n n →
    let y := if t = 1 then u.result 1 (.named (a.toNat - 16) moved) else u
    let data :=
      if w = 4 then
        if d = 0 then leBytes 8 (u.src 1).toNat ++ leBytes 8 (u.src 0).toNat
        else leBytes 8 (u.src d).toNat ++ leBytes 8 (u.src (d + 1)).toNat
      else leBytes n (u.src d).toNat
    let r := y.onFrame u.cur.p f fun F => F.writeN off data
    exec (.st g d a w t i) s = .next r ∧ exec (.strl g d a w t i) s = .next r)

/-- R251, R258, R260: a scalar access outside every frame, past its frame's end or misaligned raises ADDR, a load of
an expired frame STALE, each with the address as EINFO, and has no other effect. -/
def Obligations.ScalarAccessFaults : Prop :=
  ∀ (s : State) (g : Guard) (d a : BitVec 5) (w : BitVec 3) (x t : BitVec 1) (i : BitVec 5), w.toNat ≤ 4 →
    let n : Nat := 2 ^ w.toNat
    let at_ := fun (u : State) => if t = 1 then u.src a else u.src a + BitVec.ofInt 64 (i.toInt * n)
    let f := fun (u : State) => ((at_ u).extractLsb' 22 6).toNat
    let off := fun (u : State) => ((at_ u).extractLsb' 0 22).toNat
    (s.enabled g [a] →
      let u := s.sourced [a]
      let both := fun (r : Raise) => exec (.ld g d a w x t i) s = .next (u.raise r) ∧
        exec (.ldaq g d a w x t i) s = .next (u.raise r)
      ((at_ u).extractLsb' 28 36 ≠ 0 → both ⟨cAddr, at_ u, none, none, false⟩) ∧
      ((at_ u).extractLsb' 28 36 = 0 → ¬ (u.myFrame (f u)).holds (off u) n n → both (atFrame cAddr (f u) (off u))) ∧
      ((at_ u).extractLsb' 28 36 = 0 → (u.myFrame (f u)).holds (off u) n n → (u.myFrame (f u)).xp = true →
        both (atFrame cStale (f u) (off u)))) ∧
    (s.enabled g [d, a] →
      let u := s.sourced [d, a]
      let both := fun (r : Raise) => exec (.st g d a w t i) s = .next (u.raise r) ∧
        exec (.strl g d a w t i) s = .next (u.raise r)
      ((at_ u).extractLsb' 28 36 ≠ 0 → both ⟨cAddr, at_ u, none, none, false⟩) ∧
      ((at_ u).extractLsb' 28 36 = 0 → ¬ (u.myFrame (f u)).holds (off u) n n → both (atFrame cAddr (f u) (off u))))

/-- R261, R159: the vector loads. Image element i of a view of n-byte elements is the zero-extended number at offset n
× i. R261: the vector stores: every element of the register, one row of it, or a predicate's rows, each at the view's
width. -/
def Obligations.VectorLoadsAndStores : Prop :=
  (∀ (s : State) (g : Guard) (v : BitVec 5) (f : BitVec 6) (a : BitVec 5) (w : BitVec 2), s.enabled g [a] →
    let u := s.sourced [a]
    let A := u.src a
    let off := (A.extractLsb' 0 22).toNat
    let n : Nat := if w = 0 then 4 else if w = 1 then 2 else 1
    let elem := fun (i : Nat) => BitVec.ofNat 32 ((u.myFrame f.toNat).nat (off + n * i) n)
    (A.extractLsb' 22 42 = 0 → u.readable f.toNat off (1024 * n) 64 →
      let y := u.afterRead f.toNat off (1024 * n)
      exec (.ldv g v f a w) s = .next (y.toVec 6 v (VReg.of elem) pOnes) ∧
      exec (.ldvt g v f a w) s = .next (y.toVec 10 v (VReg.of fun e => elem (16 * (e % 64) + e / 64)) pOnes)) ∧
    (A.extractLsb' 26 38 = 0 → u.readable f.toNat off (64 * n) 64 →
      exec (.ldvr g v f a w) s = .next ((u.afterRead f.toNat off (64 * n)).toVec 6 v
        (VReg.of fun e => elem (e % 64)) (oneRow (A.extractLsb' 22 4).toNat))) ∧
    (A.extractLsb' 22 42 = 0 → u.readable f.toNat off n n →
      exec (.ldvb g v f a w) s = .next ((u.afterRead f.toNat off n).toVec 6 v (vfill (elem 0)) pOnes)) ∧
    (A.extractLsb' 22 42 = 0 → u.readable f.toNat off 128 8 →
      exec (.ldp g v f a) s = .next ((u.afterRead f.toNat off 128).result 6 (.vpred v.toNat
        ((List.range 16).map fun r => BitVec.ofNat 64 ((u.myFrame f.toNat).nat (off + 8 * r) 8)) pOnes)))) ∧
  (∀ (s : State) (g : Guard) (v : BitVec 5) (f : BitVec 6) (a : BitVec 5) (w : BitVec 2), s.enabled g [a] →
    let u := s.sourced [a]
    let A := u.src a
    let off := (A.extractLsb' 0 22).toNat
    let n : Nat := if w = 0 then 4 else if w = 1 then 2 else 1
    let into := fun (bs : List Byte) => u.onFrame u.cur.p f.toNat fun F => F.writeN off bs
    let image := fun (xs : List W32) => xs.flatMap fun x => leBytes n x.toNat
    (A.extractLsb' 22 42 = 0 → (u.myFrame f.toNat).holds off (1024 * n) 64 →
      exec (.stv g v f a w) s = .next (into (image (u.vreg v)))) ∧
    (A.extractLsb' 26 38 = 0 → (u.myFrame f.toNat).holds off (64 * n) 64 →
      let k := (A.extractLsb' 22 4).toNat
      exec (.stvr g v f a w) s = .next (into (image (((u.vreg v).drop (64 * k)).take 64)))) ∧
    (A.extractLsb' 22 42 = 0 → (u.myFrame f.toNat).holds off 128 8 →
      let p := v.extractLsb' 0 3
      let rows := if p = 0 then List.replicate 16 (BitVec.allOnes 64) else u.me.vpreds.getD p.toNat pZero
      exec (.stp g v f a) s = .next (into (rows.flatMap fun x => leBytes 8 x.toNat))))

/-- R258, R262: the indexed load and store, every offset a legal word of the frame: each element from or to its own
offset, a later element of one offset winning; the first offset that is not raises ADDR and nothing is read or
stored. -/
def Obligations.IndexedAccess : Prop :=
  ∀ (s : State) (g : Guard) (v : BitVec 5) (f : BitVec 6) (x : BitVec 5), s.enabled g [] →
    let F := s.myFrame f.toNat
    let ix := s.vreg x
    let good := fun (o : W32) => o.toNat % 4 = 0 ∧ o.toNat < 2 ^ 22 ∧ o.toNat + 4 ≤ F.bytes
    ((∀ o ∈ ix, good o) →
      (F.xp = false → (∀ o ∈ ix, F.isPoisoned o.toNat 4 = false) →
        exec (.ldvx g v f x) s = .next (s.toVec 8 v (ix.map fun o => BitVec.ofNat 32 (F.nat o.toNat 4)) pOnes)) ∧
      exec (.stvx g v f x) s = .next (s.onFrame s.cur.p f.toNat fun F =>
        (ix.zip (s.vreg v)).foldl (fun F ov => F.writeN ov.1.toNat (leBytes 4 ov.2.toNat)) F)) ∧
    ∀ before o after, ix = before ++ o :: after → (∀ b ∈ before, good b) → ¬ good o →
      exec (.ldvx g v f x) s = .next (s.raise (atFrame cAddr f.toNat (o.toNat % 2 ^ 22))) ∧
      exec (.stvx g v f x) s = .next (s.raise (atFrame cAddr f.toNat (o.toNat % 2 ^ 22)))

/-- R136, R263: the frame atomics: the new doubleword stored, the old one to D after 6 ic. -/
def Obligations.FrameAtomics : Prop :=
  ∀ (s : State) (g : Guard) (d a b : BitVec 5) (o : BitVec 4),
    let run := fun (u : State) (i : Instr) (new : W64 → W64) =>
      let f := ((u.src a).extractLsb' 22 6).toNat
      let off := ((u.src a).extractLsb' 0 22).toNat
      (u.src a).extractLsb' 28 36 = 0 → u.readable f off 8 8 →
      let old := BitVec.ofNat 64 ((u.myFrame f).nat off 8)
      exec i s = .next (((u.afterRead f off 8).onFrame u.cur.p f fun F =>
        F.writeN off (leBytes 8 (new old).toNat)).toDest 6 d old)
    (s.enabled g [a, b] → o.toNat ≤ 8 →
      let u := s.sourced [a, b]
      let y := u.src b
      run u (.atom g d a b o) fun old => match o.toNat with
        | 0 => old + y
        | 1 => if y.toInt < old.toInt then y else old
        | 2 => if old.toInt < y.toInt then y else old
        | 3 => if y.toNat < old.toNat then y else old
        | 4 => if old.toNat < y.toNat then y else old
        | 5 => old &&& y
        | 6 => old ||| y
        | 7 => old ^^^ y
        | _ => y) ∧
    (s.enabled g [d, a, b] →
      let u := s.sourced [d, a, b]
      run u (.cas g d a b) fun old => if old = u.src d then u.src b else old)

/-- R253, R266: FALLOC of an EMPTY frame with operands in their limits and units to spare: FILLING, PH 1, the sizes
and LIFE of its operands; one that nothing is to fill ends its zeroing an ic for every 4 KiB later. R253, R256,
R267-R269: FFREE empties a READY frame and leaves an EMPTY one; FRENEW of A sets the expiry min(A, 1800) ticks on,
or LIFE ticks when A is 0, each of 4096 counts of the fade clock; FSETX changes AUTO and LIFE and with a byte count
makes the frame FILLING again; in other states they raise FSTATE. R252, R253: of the frame that FFREE empties every
field is 0 and no rewrite goes on; the other frames stay. A request for the renewal of a frame that is freed,
renewed or to be filled again is asked no more, and an answer on it acts on nothing. The offset 0 in the EINFO of
the STALE of FRENEW and the dropped answer are the model's choices (log 102, 96). -/
def Obligations.FrameTable : Prop :=
  (∀ (s : State) (g : Guard) (f : BitVec 6) (a b : BitVec 5) (t : BitVec 1), s.enabled g [a, b] →
    let u := s.sourced [a, b]
    let size := (u.src a).toNat
    let expb := ((u.src b).extractLsb' 0 23).toNat
    let life := ((u.src b).extractLsb' 32 11).toNat
    let inLimits := size % 4096 = 0 ∧ 4096 ≤ size ∧ size ≤ 4194304 ∧ expb ≤ size ∧ 1 ≤ life ∧ life ≤ 1800 ∧
      (u.src b).extractLsb' 23 9 = 0 ∧ (u.src b).extractLsb' 43 21 = 0
    let fits := (u.mine.frames.map Frame.size).sum + size / 4096 ≤ 4096
    ((u.myFrame f.toNat).state = .empty → inLimits → fits →
      exec (.falloc g f a b t) s = .next (u.onFrame u.cur.p f.toNat fun _ =>
        { state := .filling, ph := true, auto := t = 1, size := size / 4096, expb := expb, land := 0, life := life
          expiry := 0, drn := 0, xp := false
          zeroEnd := if expb = 0 then some (u.mine.ic + size / 4096) else none, data := [], poison := [] })) ∧
    ((u.myFrame f.toNat).state ≠ .empty →
      exec (.falloc g f a b t) s = .next (u.raise (u.fstateOf f.toNat 1))) ∧
    ((u.myFrame f.toNat).state = .empty → ¬ inLimits →
      exec (.falloc g f a b t) s = .next (u.raise (u.fstateOf f.toNat 2))) ∧
    ((u.myFrame f.toNat).state = .empty → inLimits → ¬ fits →
      exec (.falloc g f a b t) s = .next (u.raise (u.fstateOf f.toNat 3)))) ∧
  (∀ (s : State) (g : Guard) (f : BitVec 6) (a b : BitVec 5) (t : BitVec 1),
    (s.enabled g [] →
      let st := (s.myFrame f.toNat).state
      (st = .empty → exec (.ffree g f) s = .next s) ∧
      (st = .ready → ∃ t, exec (.ffree g f) s = .next t ∧ t = s.clearFrame s.cur.p f.toNat ∧
        (let F := t.myFrame f.toNat
        F.state = .empty ∧ F.ph = false ∧ F.auto = false ∧ F.size = 0 ∧ F.expb = 0 ∧ F.land = 0 ∧ F.life = 0 ∧
          F.expiry = 0 ∧ F.drn = 0 ∧ F.xp = false ∧ F.zeroEnd = none ∧ F.data = [] ∧ F.poison = []) ∧
        (∀ n c, t.mine.rewrite ≠ some (f.toNat, n, c)) ∧ ∀ k, k ≠ f.toNat → t.myFrame k = s.myFrame k) ∧
      (st ≠ .empty → st ≠ .ready → exec (.ffree g f) s = .next (s.raise (s.fstateOf f.toNat 4)))) ∧
    (s.enabled g [a] →
      let u := s.sourced [a]
      let F := u.myFrame f.toNat
      let ticks := if u.src a = 0 then F.life else min (u.src a).toNat 1800
      (F.state = .empty ∨ F.state = .filling →
        exec (.frenew g f a) s = .next (u.raise (u.fstateOf f.toNat 5))) ∧
      (F.state = .ready ∨ F.state = .draining → F.xp = true →
        exec (.frenew g f a) s = .next (u.raise (atFrame cStale f.toNat 0))) ∧
      (F.state = .ready ∨ F.state = .draining → F.xp = false →
        exec (.frenew g f a) s = .next ((u.onFrame u.cur.p f.toNat fun F =>
          { F with expiry := u.mine.fadeCount + BitVec.ofNat 48 (ticks * 4096) }).noRenewal u.cur.p f.toNat))) ∧
    (s.enabled g [a, b] →
      let u := s.sourced [a, b]
      let F := u.myFrame f.toNat
      let n := (u.src a).toNat
      let life := (u.src b).toNat
      (F.state ≠ .ready → exec (.fsetx g f a b t) s = .next (u.raise (u.fstateOf f.toNat 6))) ∧
      (F.state = .ready → F.bytes < n ∨ 1800 < life →
        exec (.fsetx g f a b t) s = .next (u.raise (u.fstateOf f.toNat 2))) ∧
      (F.state = .ready → n ≤ F.bytes → life ≤ 1800 →
        let w := u.onFrame u.cur.p f.toNat fun F =>
          { F with
            auto := t = 1
            life := if life = 0 then F.life else life
            state := if n = 0 then F.state else .filling
            expb := if n = 0 then F.expb else n
            land := if n = 0 then F.land else 0 }
        exec (.fsetx g f a b t) s = .next (if n = 0 then w else w.noRenewal u.cur.p f.toNat)))) ∧
  (∀ (s : State) (p f : Nat),
    let mine := fun (r : HkReq) => (r.word0.extractLsb' 0 8).toNat = 3 ∧ r.pillar = p ∧ r.owner = (p, f)
    { s.noRenewal p f with hkreqs := s.hkreqs } = s ∧
      ∀ r, r ∈ (s.noRenewal p f).hkreqs ↔ ∃ x ∈ s.hkreqs, (¬ mine x ∧ r = x) ∨
        (mine x ∧ x.answered = none ∧ r = { x with owner := (512, 512) }))

/-- R264, R246: FENCE is in force behind its own long word and changes nothing else, but that of the earlier fences
it keeps those with an operation or a flag post issued before them still under way. R252, R270: FSTAT pushes the
frame's fields, its expiry or its LIFE after 4 ic. -/
def Obligations.FencesAndFrameStatus : Prop :=
  (∀ (s : State) (g : Guard) (k : BitVec 7) (sc : BitVec 3), s.enabled g [] →
    let orders := fun (f : FenceRec) => (∃ r ∈ s.me.recs, r.order ≤ f.order) ∨
      ∃ n ∈ s.posts, n.fromP = s.cur.p ∧ n.fromQ = s.cur.q ∧ n.order ≤ f.order
    exec (.fence g k sc) s = .next (s.onMe fun x =>
      { x with fences := x.fences.filter (fun f => decide (orders f)) ++ [⟨k, sc.toNat, x.order, none⟩] })) ∧
  (∀ (s : State) (g : Guard) (f : BitVec 6), s.enabled g [] →
    let F := s.myFrame f.toNat
    (∃ v : W64, exec (.fstat g f 0) s = .next (s.result 4 (.push v)) ∧
      (v.extractLsb' 0 2).toNat = F.state.code ∧ v.getLsbD 2 = F.ph ∧ v.getLsbD 3 = F.auto ∧ v.getLsbD 4 = F.xp ∧
      (v.extractLsb' 5 11).toNat = F.size % 2 ^ 11 ∧ (v.extractLsb' 16 23).toNat = F.expb % 2 ^ 23 ∧
      (v.extractLsb' 39 23).toNat = F.land % 2 ^ 23 ∧ v.extractLsb' 62 2 = 0) ∧
    exec (.fstat g f 1) s = .next (s.result 4 (.push (F.expiry.zeroExtend 64))) ∧
    exec (.fstat g f 2) s = .next (s.result 4 (.push (BitVec.ofNat 64 F.life))))

/-! ### The X, V and F slots -/

/-- R100, R216, R217, R157: the crossings: values between scalar sources and the element, row or entry of the W or R
position, landing after 3 ic; with the increment bit the position moves on by one element, from the last to the first.
An X syllable of two halves makes two instructions by the model's reading (log 61). -/
def Obligations.Crossings : Prop :=
  ∀ (s : State) (g : Guard) (t a : BitVec 5) (inc : BitVec 1),
    let w := s.me.wpos.toNat
    let r := s.me.rpos.toNat
    let moveW := fun (u : State) => if inc = 1 then u.onMe fun q => { q with wpos := q.wpos + 1 } else u
    let moveR := fun (u : State) => if inc = 1 then u.onMe fun q => { q with rpos := q.rpos + 1 } else u
    let elem := PReg.of fun e => e = w
    let row := (List.range 16).map fun k => if k = w / 64 then BitVec.allOnes 64 else 0#64
    (s.enabled g [a] →
      let u := s.sourced [a]
      let low := (u.src a).extractLsb' 0 32
      exec (.xsve g t a inc) s = .next (moveW (u.toVec 3 t (vfill low) elem)) ∧
      exec (.xsvr g t a inc) s = .next (moveW (u.toVec 3 t (vfill low) row)) ∧
      exec (.xsva g t a inc) s = .next (moveW ((u.onMe fun q => { q with
        accs := upd q.accs (t.toNat % 8) fun x => { x with busy := true } }).result 3
          (.acc (t.toNat % 8) (vfill low) elem))) ∧
      exec (.xspr g t a inc) s = .next (moveW (u.result 3
        (.vpred (t.toNat % 8) (List.replicate 16 (u.src a)) row))) ∧
      exec (.xsn g t a inc) s = .next (moveW (u.result 3
        (.norm (t.toNat % 8) (List.replicate 16 ((u.src a).extractLsb' 0 16)) (BitVec.ofNat 16 (2 ^ (w / 64))))))) ∧
    (s.enabled g [] →
      let p := t.extractLsb' 0 3
      exec (.xvse g t inc) s = .next (moveR (s.result 3 (.push (((s.vreg t).getD r 0).zeroExtend 64)))) ∧
      exec (.xpsa g t inc) s = .next (moveR (s.result 3 (.push (if ∃ x ∈ s.vpred p, x ≠ 0 then 1 else 0)))) ∧
      exec (.xpsc g t inc) s = .next (moveR (s.result 3 (.push (BitVec.ofNat 64
        ((s.vpred p).map fun x => (List.range 64).countP fun i => x.getLsbD i).sum)))) ∧
      exec (.xpsr g t inc) s = .next (moveR (s.result 3 (.push ((s.vpred p).getD (r / 64) 0)))) ∧
      exec (.xns g t inc) s = .next (moveR (s.result 3 (.push (((s.norms p).getD (r / 64) 0).signExtend 64)))))

/-- R203, R204, R206, R159: floating-point arithmetic: one rounding of the exact result of each enabled element;
operand A under H, the latch as H leaves it. -/
def Obligations.VectorFloat : Prop :=
  ∀ (s : State) (g : Guard) (d a b : BitVec 5) (h : BitVec 2) (m : BitVec 3), s.enabled g [] →
    let A := s.holdV h a
    let B := s.vreg b
    let D := s.vreg d
    let k := s.keepV h a
    let put := fun (lat : Nat) (v : VReg) => (.next (k.toVec lat d v (s.vpred m)) : Outcome)
    exec (.vadd g d a b h m) s = put 4 (List.zipWith (fun x y => to32 ((val32 x).add (val32 y))) A B) ∧
    exec (.vsub g d a b h m) s = put 4 (List.zipWith (fun x y => to32 ((val32 x).add (val32 y).neg)) A B) ∧
    exec (.vmul g d a b h m) s = put 4 (List.zipWith (fun x y => to32 ((val32 x).mul (val32 y))) A B) ∧
    (A.length = 1024 → B.length = 1024 → D.length = 1024 →
      exec (.vfma g d a b h m) s = put 5 (VReg.of fun e =>
        to32 ((val32 (at0 D e)).add ((val32 (at0 A e)).mul (val32 (at0 B e))))) ∧
      exec (.vfms g d a b h m) s = put 5 (VReg.of fun e =>
        to32 ((val32 (at0 D e)).add ((val32 (at0 A e)).mul (val32 (at0 B e))).neg))) ∧
    exec (.vmin g d a b h m) s = put 4 (List.zipWith fmin32 A B) ∧
    exec (.vmax g d a b h m) s = put 4 (List.zipWith fmax32 A B) ∧
    exec (.vabs g d a h m) s = put 4 (A.map fun x => if isNan32 x then 0x7FC00000 else x &&& 0x7FFFFFFF) ∧
    exec (.vneg g d a h m) s = put 4 (A.map fun x => if isNan32 x then 0x7FC00000 else x ^^^ 0x80000000)

/-- R112, R120: an element that is no NaN is the rounding of its own value, and rounding a quotient takes the
nearest integer, the even one of two; the rounding to FP32 is the conversion to it, overflow going to infinity.
R206, R228: the smaller and the larger of two elements that are no NaNs are one of them, in the order of the values
with −0 below +0; a NaN gives the canonical NaN. -/
def Obligations.RoundingAndMinMax : Prop :=
  ((∀ x : W32, isNan32 x = false → to32 (val32 x) = x) ∧ (∀ x : W32, isNan32 x = true → to32 (val32 x) = 0x7FC00000) ∧
  ∀ n d : Nat, 0 < d →
    2 * (n - d * divRne n d) ≤ d ∧ 2 * (d * divRne n d - n) ≤ d ∧
    (2 * (n - d * divRne n d) = d ∨ 2 * (d * divRne n d - n) = d → divRne n d % 2 = 0)) ∧
  (∀ v : Val, convert v 0 1 = some (to32 v).toNat) ∧
  (∀ a b : W32,
    ((isNan32 a || isNan32 b) = true → fmin32 a b = 0x7FC00000 ∧ fmax32 a b = 0x7FC00000) ∧
    ((isNan32 a || isNan32 b) = false →
      let below := fun (x y : W32) =>
        if x.msb then (if y.msb then y.toNat ≤ x.toNat else True) else (if y.msb then False else x.toNat ≤ y.toNat)
      (fmin32 a b = a ∨ fmin32 a b = b) ∧ below (fmin32 a b) a ∧ below (fmin32 a b) b ∧
      (fmax32 a b = a ∨ fmax32 a b = b) ∧ below a (fmax32 a b) ∧ below b (fmax32 a b)))

/-- R203, R204, R207, R208, R159: integer arithmetic of each enabled element modulo 2^32, the saturating and the
widening addition. -/
def Obligations.VectorInteger : Prop :=
  ∀ (s : State) (g : Guard) (d a b : BitVec 5) (h : BitVec 2) (m : BitVec 3), s.enabled g [] →
    let A := s.holdV h a
    let B := s.vreg b
    let D := s.vreg d
    let k := s.keepV h a
    let put := fun (f : W32 → W32 → W32) => (.next (k.toVec 4 d (List.zipWith f A B) (s.vpred m)) : Outcome)
    exec (.viadd g d a b h m) s = put (fun x y => BitVec.ofNat 32 (x.toNat + y.toNat)) ∧
    exec (.visub g d a b h m) s = put (fun x y => BitVec.ofInt 32 (x.toNat - y.toNat)) ∧
    exec (.vimul g d a b h m) s = put (fun x y => BitVec.ofNat 32 (x.toNat * y.toNat)) ∧
    exec (.viadds g d a b h m) s = put (fun x y =>
      BitVec.ofInt 32 (max (-2147483648) (min 2147483647 (x.toInt + y.toInt)))) ∧
    exec (.vand g d a b h m) s = put (fun x y => x &&& y) ∧
    exec (.vor g d a b h m) s = put (fun x y => x ||| y) ∧
    exec (.vxor g d a b h m) s = put (fun x y => x ^^^ y) ∧
    exec (.vshl g d a b h m) s = put (fun x y => BitVec.ofNat 32 (x.toNat * 2 ^ (y.toNat % 32))) ∧
    exec (.vshr g d a b h m) s = put (fun x y => BitVec.ofNat 32 (x.toNat / 2 ^ (y.toNat % 32))) ∧
    exec (.vsar g d a b h m) s = put (fun x y => BitVec.ofInt 32 (x.toInt / 2 ^ (y.toNat % 32))) ∧
    exec (.vimin g d a b h m) s = put (fun x y => if x.toInt ≤ y.toInt then x else y) ∧
    exec (.vimax g d a b h m) s = put (fun x y => if x.toInt ≤ y.toInt then y else x) ∧
    (bits b 0 2 < 3 →
      let n := if bits b 0 2 = 0 then 32 else if bits b 0 2 = 1 then 16 else 8
      let sub := fun (x : W32) => x.toNat / 2 ^ (n * bits b 3 2) % 2 ^ n
      let wide := fun (x : W32) => if bits b 0 2 = 0 then x.toInt else
        if b.getLsbD 2 then (sub x : Int).bmod (2 ^ n) else sub x
      exec (.vaddw g d a b h m) s = .next (k.toVec 4 d
        (List.zipWith (fun x y => BitVec.ofInt 32 (x.toInt + wide y)) D A) (s.vpred m)))

/-- R94, R202, R203, R211, R159: moves, selection, permutation and constants. R209, R210, R159: the compares into a
predicate on its mask's bits, and predicate logic with p0 reading ones. -/
def Obligations.VectorMovesAndPredicates : Prop :=
  (∀ (s : State) (g : Guard) (d a b : BitVec 5) (h : BitVec 2) (m : BitVec 3) (i : BitVec 13), s.enabled g [] →
    let A := s.holdV h a
    let B := s.vreg b
    let k := s.keepV h a
    exec (.vmov g d a h m) s = .next (k.toVec 2 d A (s.vpred m)) ∧
    exec (.vsel g d a b h m) s = .next (k.toVec 2 d
      (VReg.of fun e => if (s.vpred m).on e then at0 A e else at0 B e) pOnes) ∧
    exec (.vperm g d a b h m) s = .next (k.toVec 6 d (B.map fun x => at0 A (x.toNat % 1024)) (s.vpred m)) ∧
    exec (.viota g d m) s = .next (s.toVec 2 d (VReg.of fun e => BitVec.ofNat 32 e) (s.vpred m)) ∧
    exec (.vli g d i) s = .next (s.toVec 2 d (vfill (i.signExtend 32)) pOnes) ∧
    exec (.vliF g d i) s = .next (s.toVec 2 d (vfill (BitVec.ofNat 32 (i.toNat * 2 ^ 19))) pOnes)) ∧
  (∀ (s : State) (g : Guard) (d p q c : BitVec 3) (a b : BitVec 5) (m : BitVec 3), s.enabled g [] →
    let put := fun (f : W32 → W32 → Bool) => (.next (s.result 3 (.vpred d.toNat
      (PReg.of fun e => f (at0 (s.vreg a) e) (at0 (s.vreg b) e)) (s.vpred m))) : Outcome)
    let read := fun (p : BitVec 3) => if p = 0 then List.replicate 16 (BitVec.allOnes 64) else s.me.vpreds.getD p.toNat pZero
    let logic := fun (f : W64 → W64 → W64) =>
      (.next (s.result 2 (.vpred d.toNat (List.zipWith f (read p) (read q)) pOnes)) : Outcome)
    exec (.vcmp g d c a b m) s = put (fun x y =>
      let un := isNan32 x || isNan32 y
      match c.toNat with
      | 0 => !un && decide (num32 x = num32 y)
      | 1 => un || decide (num32 x ≠ num32 y)
      | 2 => !un && decide (num32 x < num32 y)
      | 3 => !un && decide (num32 x ≤ num32 y)
      | 4 => !un && decide (num32 y < num32 x)
      | 5 => !un && decide (num32 y ≤ num32 x)
      | 6 => !un
      | _ => un) ∧
    (c.toNat ≤ 5 → exec (.vicmp g d c a b m) s = put (fun x y =>
      match c.toNat with
      | 0 => decide (x = y)
      | 1 => decide (x ≠ y)
      | 2 => decide (x.toInt < y.toInt)
      | 3 => decide (x.toInt ≤ y.toInt)
      | 4 => decide (y.toInt < x.toInt)
      | _ => decide (y.toInt ≤ x.toInt))) ∧
    exec (.vpand g d p q) s = logic (fun x y => x &&& y) ∧
    exec (.vpor g d p q) s = logic (fun x y => x ||| y) ∧
    exec (.vpxor g d p q) s = logic (fun x y => x ^^^ y) ∧
    exec (.vpnot g d p) s = .next (s.result 2 (.vpred d.toNat ((read p).map fun x => ~~~x) pOnes)))

/-- R212, R124: VCVT writes every converted element after 4 ic, or under TRAP raises FMTOVF with the first element
that overflows. R122, R123: the conversion of one element: a NaN, an infinity, a value beyond the target and one
within it, for floating-point, LG6, integer, Q14 and LN16 targets under each policy; what is within range becomes
the code nearest to it, the even one of two. R212: FROM equal to TO leaves an element as it is, but that a NaN
becomes the canonical one. R123: a target that holds every source value is exact. -/
def Obligations.Conversion : Prop :=
  (∀ (s : State) (g : Guard) (d a : BitVec 5) (f t : BitVec 4) (o : BitVec 2), s.enabled g [] →
    let y := fun (x : W32) => convert (fmtVal f.toNat x.toNat) t.toNat o.toNat
    ((∀ x ∈ s.vreg a, o = 3 → y x ≠ none) →
      exec (.vcvt g d a f t o) s = .next (s.toVec 4 d ((s.vreg a).map fun x => BitVec.ofNat 32 ((y x).getD 0)) pOnes)) ∧
    (o ≠ 3 → ∀ x, y x ≠ none) ∧
    ∀ before x after, s.vreg a = before ++ x :: after → (∀ z ∈ before, y z ≠ none) → y x = none →
      exec (.vcvt g d a f t o) s = .next (s.raise ⟨cFmtovf, BitVec.ofNat 64 before.length, none, none, false⟩)) ∧
  (∀ (t nan inf top sign limit frac unit o : Nat), o < 4 → (t, nan, inf, top, sign, limit, frac, unit) ∈
      [(0, 0x7FC00000, 0x7F800000, 0x7F7FFFFF, 0x80000000, (2 ^ 25 - 1) * 2 ^ 103, 23, 149),
       (1, 0x7FC0, 0x7F80, 0x7F7F, 0x8000, (2 ^ 9 - 1) * 2 ^ 119, 7, 133),
       (2, 0x7E00, 0x7C00, 0x7BFF, 0x8000, 65520, 10, 24)] →
    let signed := fun (neg : Bool) (c : Nat) => if neg then sign + c else c
    convert .nan t o = some nan ∧ (∀ neg, convert (.inf neg) t o = some (signed neg inf)) ∧
    ∀ (neg : Bool) (m : Nat) (e : Int),
      (limit * 2 ^ (-e).toNat ≤ m * 2 ^ e.toNat → convert (.fin neg m e) t o =
        if o = 0 then some (signed neg top) else if o = 1 then some (signed neg inf) else if o = 2 then some nan
          else none) ∧
      let size := fun (c : Nat) =>
        if c / 2 ^ frac = 0 then c else (2 ^ frac + c % 2 ^ frac) * 2 ^ (c / 2 ^ frac - 1)
      let x : Int := m * 2 ^ (e + unit).toNat
      let one : Int := 2 ^ (-(e + unit)).toNat
      (m * 2 ^ e.toNat < limit * 2 ^ (-e).toNat → ∃ c ≤ top, convert (.fin neg m e) t o = some (signed neg c) ∧
        ∀ d ≤ top, (x - size c * one).natAbs ≤ (x - size d * one).natAbs ∧
          (d ≠ c → (x - size c * one).natAbs = (x - size d * one).natAbs → c % 2 = 0))) ∧
  (∀ o : Nat, o < 4 →
    let beyond := fun (neg : Bool) =>
      if o = 0 then some (if neg then 63 else 31) else if o = 3 then none else some (32 : Nat)
    let size := fun (c : Nat) => if c = 0 then 0 else [0x8000, 0x9838, 0xB505, 0xD745].getD (c % 4) 0 * 2 ^ (c / 4)
    convert .nan 7 o = some 32 ∧ (∀ neg, convert (.inf neg) 7 o = beyond neg) ∧
    ∀ (neg : Bool) (m : Nat) (e : Int),
      let x : Int := m * 2 ^ (e + 19).toNat
      let one : Int := 2 ^ (-(e + 19)).toNat
      (size 31 * one < x → convert (.fin neg m e) 7 o = beyond neg) ∧
      (x ≤ size 31 * one → ∃ c ≤ 31, convert (.fin neg m e) 7 o = some (if neg = true ∧ c ≠ 0 then 32 + c else c) ∧
        ∀ d ≤ 31, (x - size c * one).natAbs ≤ (x - size d * one).natAbs ∧
          (d ≠ c → (x - size c * one).natAbs = (x - size d * one).natAbs → c % 2 = 0))) ∧
  (∀ (t w sc o : Nat) (lo hi : Int), o = 0 ∨ o = 3 → (t, w, sc, lo, hi) ∈
      [(3, 32, 0, -2147483648, 2147483647), (4, 16, 0, -32768, 32767), (5, 8, 0, -128, 127), (6, 8, 0, 0, 255),
       (9, 16, 0, 0, 65535), (10, 32, 0, 0, 4294967295), (11, 16, 14, -32768, 32767), (12, 16, 8, -32767, 32767)] →
    let code := fun (k : Int) => (k % 2 ^ w).toNat
    let beyond := fun (neg : Bool) => if o = 3 then none else some (code (if neg then lo else hi))
    (t ≠ 12 → convert .nan t o = (if o = 3 then none else some 0) ∧ ∀ neg, convert (.inf neg) t o = beyond neg) ∧
    (t = 12 → convert .nan t o = some 0x8000 ∧ convert (.inf true) t o = some 0x8000 ∧
      convert (.inf false) t o = beyond false) ∧
    ∀ (neg : Bool) (m : Nat) (e : Int),
      let x : Int := (if neg then -(m : Int) else m) * 2 ^ (e + sc).toNat
      let one : Nat := 2 ^ (-(e + sc)).toNat
      ∃ k : Int, 2 * (x - k * one).natAbs ≤ one ∧ (2 * (x - k * one).natAbs = one → k % 2 = 0) ∧
        convert (.fin neg m e) t o = if k < lo ∨ hi < k then beyond neg else some (code k)) ∧
  (∀ (f w o x : Nat), (f, w) ∈ [(0, 32), (1, 16), (2, 16), (3, 32), (4, 16), (5, 8), (6, 8), (7, 6), (9, 16), (10, 32),
      (11, 16), (12, 16)] → o < 4 → (fmtVal f x ≠ .nan → convert (fmtVal f x) f o = some (x % 2 ^ w)) ∧
    (fmtVal f x = .nan → f = 0 ∧ 0x7F800000 < x % 2 ^ 31 ∨ f = 1 ∧ 0x7F80 < x % 2 ^ 15 ∨ f = 2 ∧ 0x7C00 < x % 2 ^ 15 ∨
      f = 7 ∧ x % 64 = 32)) ∧
  (∀ (x o : Nat), o < 4 → (fmtVal 1 x ≠ .nan → convert (fmtVal 1 x) 0 o = some (x % 2 ^ 16 * 2 ^ 16)) ∧
    convert (fmtVal 5 x) 3 o = some (if x % 256 < 128 then x % 256 else 2 ^ 32 - 256 + x % 256) ∧
    convert (fmtVal 6 x) 4 o = some (x % 256))

/-- R117, R202, R203, R213, R353, R159: VUNPK and VPACK move one sub-element out and in; a reserved TRN code in an
enabled element sets CHKINT.FMT. R117: five trits survive their byte, and every byte below 243 is one of five trits.
-/
def Obligations.PackingAndTrits : Prop :=
  (∀ (s : State) (g : Guard) (d a b : BitVec 5) (h : BitVec 2) (m : BitVec 3), s.enabled g [] →
    let A := s.holdV h a
    let D := s.vreg d
    let j := (b.extractLsb' 2 3).toNat
    let k := s.keepV h a
    (b.extractLsb' 0 2 = 1 → j < 2 →
      exec (.vunpk g d a b h m) s = .next (k.toVec 4 d (A.map fun x => BitVec.ofNat 32 (x.toNat / 2 ^ (16 * j) % 2 ^ 16))
        (s.vpred m)) ∧
      exec (.vpack g d a b h m) s = .next (k.toVec 4 d (List.zipWith (fun r x => setBits r (16 * j) 16 x.toNat) D A)
        (s.vpred m))) ∧
    (b.extractLsb' 0 2 = 2 → j < 4 →
      exec (.vunpk g d a b h m) s = .next (k.toVec 4 d (A.map fun x => BitVec.ofNat 32 (x.toNat / 2 ^ (8 * j) % 2 ^ 8))
        (s.vpred m)) ∧
      exec (.vpack g d a b h m) s = .next (k.toVec 4 d (List.zipWith (fun r x => setBits r (8 * j) 8 x.toNat) D A)
        (s.vpred m))) ∧
    (b.extractLsb' 0 2 = 3 → j < 5 →
      let bad := fun (v : VReg) => (List.range 1024).any fun e => (s.vpred m).on e && decide (243 ≤ (at0 v e).toNat % 256)
      let flag := fun (v : VReg) (u : State) => if bad v then s.onMe (fun x => x.setFmt) else u
      exec (.vunpk g d a b h m) s = .next (((flag A s).keepV h a).toVec 4 d
        (A.map fun x => BitVec.ofInt 32 ((trnDecode (x.toNat % 256)).getD j 0)) (s.vpred m)) ∧
      exec (.vpack g d a b h m) s = .next (((flag D s).keepV h a).toVec 4 d
        (List.zipWith (fun r x => BitVec.ofNat 32 (trnEncode (upd (trnDecode (r.toNat % 256)) j fun _ => x.toInt.sign))) D A)
        (s.vpred m)))) ∧
  ((∀ t : List Int, t.length = 5 → (∀ x ∈ t, x = -1 ∨ x = 0 ∨ x = 1) → trnEncode t < 243 ∧ trnDecode (trnEncode t) = t) ∧
  ∀ b < 243, trnEncode (trnDecode b) = b ∧ (trnDecode b).length = 5 ∧ ∀ x ∈ trnDecode b, x = -1 ∨ x = 0 ∨ x = 1)

/-- R157, R214, R215, R159: VACC writes or adds under its mask after 4 ic, the tile busy until then; VDRAIN reads the
tile, or the side-area with zeros behind it, after 6 ic and with CLR clears what it reads at once. -/
def Obligations.AccumulatorAccess : Prop :=
  ∀ (s : State) (g : Guard) (v : BitVec 5) (a : BitVec 3) (c : BitVec 1) (m : BitVec 3), s.enabled g [] →
    let T := s.acc a
    let put := fun (old new : W32) => if c = 1 then new else to32 ((val32 old).add (val32 new))
    let busy := s.onMe fun q => { q with accs := upd q.accs a.toNat fun t => { t with busy := true } }
    let on := fun (T : Acc) => s.onMe fun q => { q with accs := upd q.accs a.toNat fun _ => T }
    exec (.vacc g v a c 0 m) s = .next (busy.result 4 (.acc a.toNat (List.zipWith put T.elems (s.vreg v)) (s.vpred m))) ∧
    (∃ vs, exec (.vacc g v a c 1 m) s = .next (busy.result 4 (.side a.toNat vs)) ∧
      ∀ k x, (k, x) ∈ vs ↔ k < 80 ∧ (s.vpred m).on k = true ∧ x = put (at0 T.side k) (at0 (s.vreg v) k)) ∧
    (∃ T', exec (.vdrain g v a c 0 m) s = .next ((on T').toVec 6 v T.elems (s.vpred m)) ∧ T'.side = T.side ∧
      T'.busy = T.busy ∧ T'.prog = T.prog ∧ T'.bound = T.bound ∧ (c = 0 → T' = T) ∧
      (c = 1 → ∀ e < 1024, at0 T'.elems e = if (s.vpred m).on e then 0 else at0 T.elems e)) ∧
    (∃ T', exec (.vdrain g v a c 1 m) s = .next ((on T').toVec 6 v (T.side ++ List.replicate 944 0) (s.vpred m)) ∧
      T'.elems = T.elems ∧ T'.busy = T.busy ∧ T'.prog = T.prog ∧ T'.bound = T.bound ∧ (c = 0 → T' = T) ∧
      (c = 1 → ∀ e < 80, at0 T'.side e = if (s.vpred m).on e then 0 else at0 T.side e))

/-- R203, R219-R225, R159: the ten special functions of each enabled element after 8 ic, with the values the manual
gives their special operands. R225: FRCP, FRSQ and FSQRT are the FP32 code nearest the exact 1/x, 1/√x and √x, the
even one of two. R221: FEXP2, FSIGM and FTANH follow from the exponential core, whose table T holds the integers
nearest 2^30 × 2^(j/32), and are rounded once; R222-R224 beyond the ends of their tables. What FLOG2, FSIN, FCOS and
FERF give between is not stated here; the bits of 1/(2 pi) and the sign of FERF of a zero are the model's readings
(log 21, 22). -/
def Obligations.SpecialFunctions : Prop :=
  (∀ (s : State) (g : Guard) (d a : BitVec 5) (h : BitVec 2) (m : BitVec 3), s.enabled g [] →
    let put := fun (f : W32 → W32) => (.next ((s.keepF h a).toVec 8 d ((s.holdF h a).map f) (s.vpred m)) : Outcome)
    exec (.fexp2 g d a h m) s = put fexp2 ∧ exec (.flog2 g d a h m) s = put flog2 ∧
    exec (.frcp g d a h m) s = put frcp ∧ exec (.frsq g d a h m) s = put frsq ∧
    exec (.fsqrt g d a h m) s = put fsqrt ∧ exec (.ftanh g d a h m) s = put ftanh ∧
    exec (.fsigm g d a h m) s = put fsigm ∧ exec (.ferf g d a h m) s = put ferf ∧
    exec (.fsin g d a h m) s = put fsin ∧ exec (.fcos g d a h m) s = put fcos) ∧
  (∀ x : W32, isNan32 x = true →
    ∀ f ∈ [fexp2, flog2, frcp, frsq, fsqrt, ftanh, fsigm, ferf, fsin, fcos], f x = 0x7FC00000) ∧
  (fexp2 0x7F800000 = 0x7F800000 ∧ fexp2 0xFF800000 = 0 ∧ frcp 0 = 0x7F800000 ∧ frcp 0x80000000 = 0xFF800000 ∧
    flog2 0 = 0xFF800000 ∧ flog2 0x80000000 = 0xFF800000 ∧ frsq 0 = 0x7F800000 ∧ fsqrt 0x80000000 = 0x80000000 ∧
    ftanh 0x7F800000 = 0x3F800000 ∧ fsigm 0xFF800000 = 0 ∧ ferf 0xFF800000 = 0xBF800000 ∧ fsin 0x7F800000 = 0x7FC00000 ∧
    fcos 0xFF800000 = 0x7FC00000 ∧ frcp 0x7F800000 = 0 ∧ frcp 0xFF800000 = 0x80000000 ∧ frsq 0x80000000 = 0xFF800000 ∧
    frsq 0x7F800000 = 0 ∧ fsqrt 0 = 0 ∧ fsqrt 0x7F800000 = 0x7F800000 ∧ flog2 0x7F800000 = 0x7F800000 ∧
    flog2 0x3F800000 = 0) ∧
  (let size := fun (c : Nat) => if c / 2 ^ 23 = 0 then c else (2 ^ 23 + c % 2 ^ 23) * 2 ^ (c / 2 ^ 23 - 1)
  let near := fun (r n d : Nat) => r ≤ 0x7F800000 ∧
    (r ≠ 0x7F800000 → 2 * n ≤ (size r + size (r + 1)) * d ∧ (2 * n = (size r + size (r + 1)) * d → r % 2 = 0)) ∧
    (0 < r → (size (r - 1) + size r) * d ≤ 2 * n ∧ ((size (r - 1) + size r) * d = 2 * n → r % 2 = 0))
  let nearSq := fun (r n d : Nat) => r < 0x7F800000 ∧
    4 * n ≤ (size r + size (r + 1)) ^ 2 * d ∧ (4 * n = (size r + size (r + 1)) ^ 2 * d → r % 2 = 0) ∧
    (0 < r → (size (r - 1) + size r) ^ 2 * d ≤ 4 * n ∧ ((size (r - 1) + size r) ^ 2 * d = 4 * n → r % 2 = 0))
  let whole := fun (v : Int) (d : Nat) (n : Int) =>
    2 * (v - n * d).natAbs ≤ d ∧ (2 * (v - n * d).natAbs = d → n % 2 = 0)
  let core := fun (X : Int) (m : Nat) (k : Int) => ∃ T : Nat,
    let f := X % 2 ^ 30
    let j := (f / 2 ^ 25).toNat
    let h := f % 2 ^ 25
    (2 * T - 1) ^ 32 ≤ 2 ^ (j + 992) ∧ 2 ^ (j + 992) ≤ (2 * T + 1) ^ 32 ∧ k = X / 2 ^ 30 - 30 ∧
      (m : Int) = T * (1073741824 + (744261118 + (257941248 + (59597083 + 10327387 * h / 2 ^ 30) * h / 2 ^ 30) * h / 2 ^ 30)
        * h / 2 ^ 30) / 2 ^ 30
  ∀ x : W32,
    let c := x.toNat % 2 ^ 31
    let X := size c
    let sign := fun (n : Int) => if x.msb then -n else n
    (0 < c → c < 0x7F800000 →
      ((frcp x).msb = x.msb ∧ near ((frcp x).toNat % 2 ^ 31) (2 ^ 298) X) ∧
      (x.msb = true → frsq x = 0x7FC00000 ∧ fsqrt x = 0x7FC00000 ∧ flog2 x = 0x7FC00000) ∧
      (x.msb = false → nearSq (frsq x).toNat (2 ^ 447) X ∧ nearSq (fsqrt x).toNat (X * 2 ^ 149) 1)) ∧
    (c < 0x7F800000 →
      (x.msb = false → 0x43000000 ≤ c → fexp2 x = 0x7F800000) ∧ (x.msb = true → 0x43180000 < c → fexp2 x = 0) ∧
      ((x.msb = false ∧ c < 0x43000000) ∨ (x.msb = true ∧ c ≤ 0x43180000) → ∃ n m k,
        whole (sign X) (2 ^ 119) n ∧ core n m k ∧ fexp2 x = to32 (.fin false m k)) ∧
      (x.msb = false → 0x42800000 ≤ c → fsigm x = 0x3F800000) ∧ (x.msb = true → 0x42D40000 ≤ c → fsigm x = 0) ∧
      ((x.msb = false ∧ c < 0x42800000) ∨ (x.msb = true ∧ c < 0x42D40000) → ∃ n m k,
        whole (-(sign X) * 1549082005) (2 ^ 149) n ∧ core n m k ∧
          near (fsigm x).toNat (2 ^ (-k).toNat * 2 ^ 149) (2 ^ (-k).toNat + m * 2 ^ k.toNat)) ∧
      (0x41200000 ≤ c → ftanh x = if x.msb then 0xBF800000 else 0x3F800000) ∧ (c < 0x39800000 → ftanh x = x) ∧
      (0x39800000 ≤ c → c < 0x41200000 → ∃ n m k, whole (-(2 * X) * 1549082005) (2 ^ 149) n ∧ core n m k ∧
        m * 2 ^ k.toNat < 2 ^ (-k).toNat ∧ (ftanh x).msb = x.msb ∧
          near ((ftanh x).toNat % 2 ^ 31) ((2 ^ (-k).toNat - m * 2 ^ k.toNat) * 2 ^ 149) (2 ^ (-k).toNat + m * 2 ^ k.toNat)) ∧
      (0x40800000 ≤ c → ferf x = if x.msb then 0xBF800000 else 0x3F800000) ∧ (c < 0x39800000 → fsin x = x)))

/-- R226, R227, R159: rotations, broadcasts, exchanges and the block transpose; element r:c of the result is the
named element of A. R227, R228, R159: reductions and scans over rows and columns: every element of a row or column
holds its reduction, a scan's element the reduction of those before it, itself too unless exclusive. R228: FSUM: a
NaN or infinities of both signs give the canonical NaN, an infinity itself; else the exact sum, a number of units of
2^-149, is rounded once, and a sum of 0 is −0 only when every one of its terms is. -/
def Obligations.LaneMovesAndReductions : Prop :=
  (∀ (s : State) (g : Guard) (d a : BitVec 5) (k : BitVec 6) (m : BitVec 3), s.enabled g [] →
    let at_ := fun (r c : Nat) => at0 (s.vreg a) (64 * r + c)
    let put := fun (lat : Nat) (f : Nat → Nat → W32) =>
      (.next (s.toVec lat d (VReg.of fun e => f (e / 64) (e % 64)) (s.vpred m)) : Outcome)
    exec (.vrotr g d a k m) s = put 6 (fun r c => at_ r ((c + 64 - k.toNat) % 64)) ∧
    exec (.vrotc g d a k m) s = put 3 (fun r c => at_ ((r + 16 - k.toNat % 16) % 16) c) ∧
    exec (.vbcr g d a k m) s = put 6 (fun r _ => at_ r k.toNat) ∧
    exec (.vbcc g d a k m) s = put 3 (fun _ c => at_ (k.toNat % 16) c) ∧
    exec (.vshfr g d a k m) s = put 6 (fun r c => at_ r (c ^^^ k.toNat)) ∧
    exec (.vshfc g d a k m) s = put 3 (fun r c => at_ (r ^^^ k.toNat % 16) c) ∧
    exec (.vtrn g d a m) s = put 10 (fun r c => at_ (c % 16) (16 * (c / 16) + r))) ∧
  (∀ (s : State) (g : Guard) (d a : BitVec 5) (x : BitVec 1) (o : BitVec 2) (m : BitVec 3), s.enabled g [] →
    (s.vreg a).length = 1024 →
    let at_ := fun (r c : Nat) => at0 (s.vreg a) (64 * r + c)
    let red := fun (xs : List W32) => match o.toNat with
      | 0 => fsum xs
      | 1 => xs.foldl fmax32 0xFF800000
      | 2 => xs.foldl fmin32 0x7F800000
      | _ => BitVec.ofNat 32 (xs.map BitVec.toNat).sum
    let row := fun (r : Nat) => (List.range 64).map fun c => at_ r c
    let col := fun (c : Nat) => (List.range 16).map fun r => at_ r c
    let n := fun (i : Nat) => if x = 1 then i else i + 1
    let put := fun (lat : Nat) (f : Nat → Nat → W32) =>
      (.next (s.toVec lat d (VReg.of fun e => f (e / 64) (e % 64)) (s.vpred m)) : Outcome)
    exec (.vredr g d a o m) s = put 8 (fun r _ => red (row r)) ∧
    exec (.vredc g d a o m) s = put 3 (fun _ c => red (col c)) ∧
    exec (.vscanr g d a x o m) s = put 8 (fun r c => red ((row r).take (n c))) ∧
    exec (.vscanc g d a x o m) s = put 3 (fun r c => red ((col c).take (n r)))) ∧
  (∀ xs : List W32,
    let size := fun (c : Nat) => if c / 2 ^ 23 = 0 then c else (2 ^ 23 + c % 2 ^ 23) * 2 ^ (c / 2 ^ 23 - 1)
    let units := fun (x : W32) => if x.msb then -(size (x.toNat - 2 ^ 31) : Int) else size x.toNat
    let total := (xs.map units).sum
    let pinf := 0x7F800000 ∈ xs
    let ninf := 0xFF800000 ∈ xs
    ((∃ x ∈ xs, isNan32 x = true) ∨ pinf ∧ ninf → fsum xs = 0x7FC00000) ∧
    ((∀ x ∈ xs, isNan32 x = false) →
      (pinf → ¬ ninf → fsum xs = 0x7F800000) ∧ (ninf → ¬ pinf → fsum xs = 0xFF800000) ∧
      (¬ pinf → ¬ ninf →
        (total ≠ 0 → fsum xs = to32 (.fin (decide (total < 0)) total.natAbs (-149))) ∧
        (total = 0 → fsum xs = if xs ≠ [] ∧ ∀ x ∈ xs, x = 0x80000000 then 0x80000000 else 0))))

/-- R98, R229-R234, R159: the direction instructions: results of 16 rows, each direction part and norm at its own
latency, CHKINT.DIR with the direction part when a row sets it. R230: what a row is formed into: with S the exact sum
of squares, each component times 1/√S at 26 significant bits in Q14, and 128 log₂ S, all rounded to nearest. -/
def Obligations.Directions : Prop :=
  (∀ (s : State) (g : Guard) (d a b : BitVec 3) (x : BitVec 5) (k : BitVec 4), s.enabled g [] →
    let V := s.vreg x
    let put := fun (ld ln : Nat) (f : Nat → DirRow) =>
      let rows := (List.range 16).map f
      let t := (s.result ln (.norm d.toNat (rows.map DirRow.norm) 0xFFFF)).result ld
        (.dir d.toNat (rows.flatMap DirRow.comps) 0xFFFF)
      (.next (if rows.any DirRow.flag then t.result ld (.chk 4) else t) : Outcome)
    let stored := fun (e : BitVec 3) (r : Nat) => ((s.dir e).drop (64 * r)).take 64
    let norm := fun (e : BitVec 3) (r : Nat) => at0 (s.norms e) r
    let zero := fun (e : BitVec 3) (r : Nat) => norm e r = 0x8000 ∨ ∀ c ∈ stored e r, c = 0
    let read := fun (e : BitVec 3) (r : Nat) => if zero e r then List.replicate 64 0 else stored e r
    exec (.dfromv g d x) s = put 12 9 (fun r => renorm (((V.drop (64 * r)).take 64).map val32)) ∧
    exec (.dwsum g d a b x) s = put 14 11 (fun r =>
      let al := val32 (at0 V (64 * r))
      let be := val32 (at0 V (64 * r + 1))
      if al.isFin && be.isFin then renorm (weighted al be (read a r) (read b r)) else DirRow.zero true) ∧
    exec (.dadd g d a b) s = put 14 11 (addRows (s.dir a) (s.norms a) (s.dir b) (s.norms b)) ∧
    exec (.dscale g d x) s = .next (s.result 2 (.norm d.toNat ((List.range 16).map fun r =>
      if norm d r = 0x8000 then 0x8000 else satLn ((norm d r).toInt + (at0 V (64 * r)).toInt)) 0xFFFF)) ∧
    exec (.dmov g d a) s = put 2 2 (fun r => ⟨stored a r, norm a r, (0, 0), false⟩) ∧
    exec (.dneg g d a) s = put 2 2 (fun r =>
      ⟨if zero a r then stored a r else (stored a r).map fun c => if c = 0x8000 then 0x7FFF else -c, norm a r, (0, 0),
        false⟩) ∧
    exec (.dtov g a x) s = .next (s.toVec 6 x ((List.range 16).flatMap fun r =>
      (read a r).map fun c => to32 (q14Val c)) pOnes) ∧
    exec (.dtovN g a x) s = .next (s.toVec 6 x ((List.range 16).flatMap fun r =>
      (read a r).map (scaledComp (norm a r))) pOnes) ∧
    exec (.ddot g a b x) s = .next (s.toVec 8 x ((List.range 16).flatMap fun r =>
      List.replicate 64 (cosine (read a r) (read b r))) pOnes) ∧
    exec (.ddotB g a b x k) s = .next (s.toVec 8 x ((List.range 16).flatMap fun r =>
      List.replicate 64 (cosine (read a r) (read b k.toNat))) pOnes)) ∧
  (∀ xs : List Val, xs.length = 64 →
    let infinite := .inf false ∈ xs ∨ .inf true ∈ xs
    (.nan ∈ xs → renorm xs = ⟨List.replicate 64 0, 0x8000, (0, 0), true⟩) ∧
    (.nan ∉ xs → infinite →
      let y := renorm (xs.map fun x => match x with
        | .inf neg => .fin neg 1 0
        | _ => .fin false 0 0)
      renorm xs = { y with norm := if y.norm = 0x8000 then 0x8000 else 0x7FFF }) ∧
    ∀ (ks : List Int) (e : Int), ks.length = 64 →
      (∀ i < 64, ∃ neg m f, xs[i]? = some (.fin neg m f) ∧ e ≤ f ∧
        ks.getD i 0 = (if neg then -(m : Int) else m) * 2 ^ (f - e).toNat) →
      let S := (ks.map fun k => k.natAbs ^ 2).sum
      (S = 0 → renorm xs = ⟨List.replicate 64 0, 0x8000, (0, 0), false⟩) ∧
      (0 < S → ∃ (r : Nat) (t lg : Int) (cs : List Int), cs.length = 64 ∧
        (let N := S * 2 ^ (2 * (e + t)).toNat
        let one := 2 ^ (-(2 * (e + t))).toNat
        2 ^ 50 * N ≤ one ∧ one < 2 ^ 52 * N ∧ (2 * r - 1) ^ 2 * N ≤ 4 * one ∧ 4 * one ≤ (2 * r + 1) ^ 2 * N ∧
          ((2 * r - 1) ^ 2 * N = 4 * one ∨ 4 * one = (2 * r + 1) ^ 2 * N → r % 2 = 0)) ∧
        (∀ i < 64,
          let x := ks.getD i 0 * r * 2 ^ (e + t + 14).toNat
          let one : Nat := 2 ^ (-(e + t + 14)).toNat
          2 * (x - cs.getD i 0 * one).natAbs ≤ one ∧ (2 * (x - cs.getD i 0 * one).natAbs = one → cs.getD i 0 % 2 = 0)) ∧
        (let d := 2 * lg - 512 * e
        0 ≤ d + 1 ∧ 2 ^ (d - 1).toNat ≤ S ^ 256 ∧ S ^ 256 ≤ 2 ^ (d + 1).toNat) ∧
        (let off := ((cs.map fun c => c * c).sum - 2 ^ 28).natAbs
        (2 ^ 18 < off → renorm xs = ⟨List.replicate 64 0, 0x8000, (0, 0), true⟩) ∧
        (off ≤ 2 ^ 18 → (renorm xs).comps = cs.map (BitVec.ofInt 16) ∧ (renorm xs).flag = false ∧
          (renorm xs).norm = if 32767 < lg then 0x7FFF else if lg < -32767 then 0x8001 else BitVec.ofInt 16 lg))))

/-! ### The C slot -/

/-- R160, R332: a record: the lowest index no record of the sequencer holds, the long word, slot, operands and
syllable it came from, no fault, and the pillar's issue count. R291, R303, R305, R97: the other C-slot instructions:
CSET and CFMT set their register at once, an entry R31 does not allow reading as unset, and with CBLD, CBLDF, CZERO
and CBND take their place in the cube's queue with their ic of work; CWAIT has no effect, CPROG pushes the tile's
word after 4 ic, CABORT acts in the next ic. R303: CBLD and CBLDF raise the first of LAYER, FSTATE with WHY 2, and
for CBLDF ADDR, STALE and FSTATE with WHY 5. R305: a CABORT that acts takes its tile's operation and its record out,
the waves added before staying in the tile, which is busy no more, and its read role given up; without an operation
it does nothing. That CZERO sets busy alone and keeps PROG and NW, and that CBND changes none of them, are the
model's choices (log 92), and so is the EINFO 0 of LAYER (log 79). -/
def Obligations.CubeRecordsAndQueue : Prop :=
  (∀ (s : State) (a b : W64) (op : Op), s.placed → s.me.recs.length < 256 →
    ∃ r, (s.formRec a b op).me = { s.me with recs := s.me.recs ++ [r] } ∧
      r.idx < 256 ∧ (∀ x ∈ s.me.recs, x.idx ≠ r.idx) ∧ (∀ i < r.idx, ∃ x ∈ s.me.recs, x.idx = i) ∧
      r.lw = s.cur.addr &&& 0x000FFFFFFFFFFFE0 ∧ r.slot = s.cur.slot ∧ r.opa = a ∧ r.opb = b ∧ r.syl = s.cur.syl ∧
      r.rbase = s.me.rbase ∧ r.cause = 0 ∧ r.faulted = false ∧ r.parked = false ∧ r.cancelled = false ∧ r.finfo = 0 ∧
      r.progress = 0 ∧ r.seqno = s.mine.issues % 2 ^ 32 ∧ r.order = s.me.order ∧ r.op = op) ∧
  (∀ (s : State) (g : Guard) (c gr : BitVec 3) (e l : BitVec 4) (sl a b : BitVec 5) (x : BitVec 1),
    (s.enabled g [a, b] →
      let u := s.sourced [a, b]
      let A := u.src a
      let B := u.src b
      exec (.cset g gr a b) s = .next ((u.onMe fun q => { q with
        geos := upd q.geos gr.toNat fun _ => BitVec.ofNat 64 (A.toNat % 2 ^ 32 + B.toNat % 2 ^ 32 * 2 ^ 32) }).enqueueCube
          A B 1 fun _ => .idle) ∧
      (l.toNat &&& (u.myStack.layers.toNat % 16) = l.toNat → B.toNat < 3 →
        let size := if B = 0 then 8192 else if B = 1 then 4096 else 1024
        (A.toNat % 1024 = 0 → A.toNat + size ≤ 2147483648 →
          exec (.cbld g sl l a b) s = .next (u.enqueueCube A B 16 fun _ =>
            .load sl.toNat l B.toNat (some A.toNat) [] [])) ∧
        let f := (A.extractLsb' 22 6).toNat
        let off := (A.extractLsb' 0 22).toNat
        let F := (u.cur.found[f]?).getD (u.myFrame f)
        (A.extractLsb' 28 36 = 0 → F.holds off size 64 → F.xp = false → F.state = .ready ∨ F.state = .draining →
          exec (.cbldf g sl l a b) s = .next (u.enqueueCube A B 16 fun _ => .load sl.toNat l B.toNat none
            (F.readN off size) (((sectorsOf off size).filter F.poison.contains).map fun k => k - off / 32)))) ∧
      let present := l.toNat &&& (u.myStack.layers.toNat % 16) = l.toNat
      let size := if B = 0 then 8192 else if B = 1 then 4096 else 1024
      let f := (A.extractLsb' 22 6).toNat
      let off := (A.extractLsb' 0 22).toNat
      let F := (u.cur.found[f]?).getD (u.myFrame f)
      let load := fun (r : Raise) => exec (.cbld g sl l a b) s = .next (u.raise r)
      let loadF := fun (r : Raise) => exec (.cbldf g sl l a b) s = .next (u.raise r)
      (¬ present → load ⟨cLayer, 0, none, none, false⟩ ∧ loadF ⟨cLayer, 0, none, none, false⟩) ∧
      (present → 3 ≤ B.toNat → load (u.fstateOf 0 2) ∧ loadF (u.fstateOf 0 2)) ∧
      (present → B.toNat < 3 →
        (A.toNat % 1024 ≠ 0 ∨ 2147483648 < A.toNat + size → load (u.fstateOf 0 2)) ∧
        (A.extractLsb' 28 36 ≠ 0 → loadF ⟨cAddr, A, none, none, false⟩) ∧
        (A.extractLsb' 28 36 = 0 → ¬ F.holds off size 64 → loadF (atFrame cAddr f off)) ∧
        (A.extractLsb' 28 36 = 0 → F.holds off size 64 → F.xp = true → loadF (atFrame cStale f off)) ∧
        (A.extractLsb' 28 36 = 0 → F.holds off size 64 → F.xp = false → F.state = .empty ∨ F.state = .filling →
          loadF (u.fstateOf f 5)))) ∧
    (s.enabled g [a] →
      let u := s.sourced [a]
      let v := (u.src a).extractLsb' 0 32
      let legal := v.toNat % 16 ∈ [1, 2, 5, 6, 7, 8] ∧ v.toNat / 16 % 16 ∈ [1, 2, 4, 5, 6, 7, 8] ∧ v.toNat < 2 ^ 28
      exec (.cfmt g e a) s = .next ((u.onMe fun q => { q with
        fts := upd q.fts e.toNat fun _ => if legal then v else 0 }).enqueueCube (u.src a) 0 1 fun _ => .idle) ∧
      exec (.cbnd g c a) s = .next (u.enqueueCube (u.src a) 0 1 fun _ => .bind c.toNat (u.src a))) ∧
    (s.enabled g [] →
      exec (.czero g c x) s = .next ((s.onMe fun q => { q with
        accs := upd q.accs c.toNat fun t => { t with busy := true } }).enqueueCube 0 0 2 fun _ => .zero c.toNat (x = 1)) ∧
      exec (.cwait g c) s = .next s ∧
      (∃ v : W64, exec (.cprog g c) s = .next (s.result 4 (.push v)) ∧
        (v.extractLsb' 0 32).toNat = (s.acc c).prog % 2 ^ 32 ∧ v.getLsbD 32 = (s.acc c).busy ∧
        v.getLsbD 33 = (s.acc c).park ∧ (v.extractLsb' 34 8).toNat = (s.acc c).nw % 2 ^ 8 ∧ v.extractLsb' 42 22 = 0) ∧
      exec (.cabort g c) s = .next (s.onMe fun q => { q with aborts := q.aborts ++ [(s.mine.ic + 1, c.toNat)] }))) ∧
  (∀ (s : State) (p q at_ a : Nat), (s.seq p q).aborts = [(at_, a)] →
    ((s.pillar p).ic < at_ → s.runAborts p q = s) ∧
    (at_ ≤ (s.pillar p).ic → s.runAborts p q = (s.onSeq p q fun x => { x with aborts := [] }).abortAcc p q a)) ∧
  (∀ (s : State) (p q a : Nat) (before after : List CubeItem) (it : CubeItem), q < (s.pillar p).seqs.length →
    (s.pillar p).cube = before ++ it :: after →
    let writes := fun (c : CubeItem) => c.q = q ∧ ((∃ b, c.kind = .zero a b) ∨ ∃ o, c.kind = .op o ∧ o.acc = a)
    writes it → (∀ c ∈ before ++ after, ¬ writes c ∧ ¬ (c.q = q ∧ c.record = it.record)) →
    let t := s.abortAcc p q a
    t.mem = s.mem ∧ (t.pillar p).cube = before ++ after ∧ t.stks = s.stks ∧ t.launches = s.launches ∧
      (∀ r, r ∈ (t.seq p q).recs ↔ r ∈ (s.seq p q).recs ∧ r.idx ≠ it.record) ∧
      (t.seq p q).named = (s.seq p q).named ∧ (t.seq p q).queue = (s.seq p q).queue ∧
      (∀ x y, (s.seq p q).accs[a]? = some x → (t.seq p q).accs[a]? = some y →
        y.elems = x.elems ∧ y.side = x.side ∧ y.prog = x.prog ∧ y.nw = x.nw ∧ y.bound = x.bound ∧
          ((∀ l ∈ (s.seq p q).inflight ++ (s.seq p q).userBank.entries ++ (s.seq p q).supBank.entries,
            (∀ v m, l.what ≠ .acc a v m) ∧ ∀ vs, l.what ≠ .side a vs) → y.busy = false)) ∧
      ∀ o f off stride, it.kind = .op o → o.src = .frame f off stride → o.role = true → f < (s.pillar p).frames.length →
        (t.frame p f).drn = (s.frame p f).drn - 1) ∧
  (∀ (s : State) (p q a : Nat),
    (∀ c ∈ (s.pillar p).cube, ¬ (c.q = q ∧ ((∃ b, c.kind = .zero a b) ∨ ∃ o, c.kind = .op o ∧ o.acc = a))) →
    s.abortAcc p q a = s)

/-- R31, R97, R292, R295, R304: a cube operation that meets the checks is accepted: its tile busy with no progress,
for a frame form its frame's read role taken, and the operation behind every earlier item of the cube's queue, with
the geometry, format entry, bound, layers, slot base and A source it was issued with. The limits of geometry and
control words are those of R304. R13, R31, R149, R292, R304: an operation of any of the four instructions that does
not meet its checks raises, in their order: ILLEGAL with reason 8 for an unset format entry, whatever the guard;
LAYER for an absent layer; FSTATE with WHY 2 for control fields outside their limits, and for a handle whose width
is not its format's or a plane it has not; for a frame form ADDR outside every frame or past the frame's end, then
FSTATE with WHY 5 for a frame that cannot be read. The whole block in the ADDR check, the plane check, the bound of
a CBND still queued and the EINFO 0 of LAYER are the model's readings (log 39, 40, 37, 79). -/
def Obligations.CubeIssue : Prop :=
  (∀ (s : State) (g : Guard) (c : BitVec 3) (a b : BitVec 5) (l : BitVec 4) (x e : BitVec 1),
    let geo := fun (u : State) => u.me.geos.getD ((u.src b).toNat % 8) 0
    let direct := fun (u : State) => u.me.fts.getD ((geo u).extractLsb' 8 4).toNat 0
    let looped := fun (u : State) => u.me.fts.getD
      (((u.me.loops[((geo u).extractLsb' 12 3).toNat]?).map fun k => (k.index.extractLsb' 0 4).toNat).getD 0) 0
    let present := fun (u : State) => l.toNat &&& (u.myStack.layers.toNat % 16) = l.toNat
    let limits := fun (u : State) (k : Bool) => controlOk (geo u) (u.src b) k = true
    let op := fun (u : State) (fmt : W32) (src : ASource) (role : Bool) (i : Nat) =>
      ({ record := i, acc := c.toNat, geo := geo u, fmt := fmt, bound := u.boundFor fmt c.toNat, mask := l, src := src
         sb := ((u.src b).extractLsb' 3 5).toNat, xc := decide (x = 1)
         east := decide (e = 1) && decide (u.cur.p % 8 ≠ 7), sent := 0, next := 0
         waveAt := 0, waves := [], cols := List.replicate 64 Exact.zero, rows := List.replicate 16 Exact.zero
         fmtErr := false, park := false, role := role, waitSince := none } : CubeOp)
    let accept := fun (u : State) (opa : W64) (o : Nat → CubeOp) =>
      (.next ((u.onAcc u.cur.p u.cur.q c.toNat fun t =>
        { t with busy := true, prog := 0, park := false, nw := (o 0).nw }).enqueueCube opa (u.src b) 0 fun i => .op (o i))
          : Outcome)
    (s.enabled g [a, b] →
      let u := s.sourced [a, b]
      let A := u.src a
      let f := (A.extractLsb' 22 6).toNat
      let off := (A.extractLsb' 0 22).toNat
      let stride := ((geo u).extractLsb' 16 22).toNat
      let F := u.myFrame f
      let taken := u.onFrame u.cur.p f fun F => { F with state := .draining, drn := F.drn + 1 }
      present u → limits u false → A.extractLsb' 28 36 = 0 → F.state = .ready ∨ F.state = .draining →
      (∀ fmt, fmt = direct u → fmt.toNat % 16 ≠ 0 →
        off + stride * ((geo u).toNat % 64 - 1) + blockBytes (fmt.toNat % 16) ≤ F.bytes →
        exec (.cmma g c a b l x 0 e) s = accept taken A (op u fmt (.frame f off stride) true)) ∧
      (∀ fmt, fmt = looped u → fmt.toNat % 16 ≠ 0 →
        off + stride * ((geo u).toNat % 64 - 1) + blockBytes (fmt.toNat % 16) ≤ F.bytes →
        exec (.cmmat g c a b l x 0 e) s = accept taken A (op u fmt (.frame f off stride) true))) ∧
    (s.enabled g [b] →
      let u := s.sourced [b]
      present u → limits u false →
      ((direct u).toNat % 16 ≠ 0 →
        exec (.cmma g c a b l x 1 e) s = accept u 0 (op u (direct u) .rowBuffer false) ∧
        exec (.cchain g c b l x e) s = accept u 0 (op u (direct u) .chain false)) ∧
      ((looped u).toNat % 16 ≠ 0 →
        exec (.cmmat g c a b l x 1 e) s = accept u 0 (op u (looped u) .rowBuffer false))) ∧
    (s.enabled g [a, b] →
      let u := s.sourced [a, b]
      let h := u.handleOf (stackOf u.cur.p) (u.src a)
      let t0 := ((u.src b).extractLsb' 8 14).toNat
      let t1 := ((u.src b).extractLsb' 22 14).toNat
      let pl := ((u.src b).extractLsb' 36 8).toNat
      present u → limits u true → (direct u).toNat % 16 ≠ 0 →
      (∀ k, h = some k → k.width = fmtBytes ((direct u).toNat % 16) → pl = 0 ∨ 2 < k.nd →
        exec (.cmmah g c a b l x e) s = accept u (u.src a) (op u (direct u) (.handle k t0 t1 pl) false)) ∧
      (h = none → exec (.cmmah g c a b l x e) s = accept u (u.src a) (op u (direct u) .noHandle false)))) ∧
  (∀ (s : State) (g : Guard) (c : BitVec 3) (a b : BitVec 5) (l : BitVec 4) (x e : BitVec 1),
    let geo := fun (u : State) => u.me.geos.getD ((u.src b).toNat % 8) 0
    let direct := fun (u : State) => u.me.fts.getD ((geo u).extractLsb' 8 4).toNat 0
    let looped := fun (u : State) => u.me.fts.getD
      (((u.me.loops[((geo u).extractLsb' 12 3).toNat]?).map fun k => (k.index.extractLsb' 0 4).toNat).getD 0) 0
    let present := fun (u : State) => l.toNat &&& (u.myStack.layers.toNat % 16) = l.toNat
    let unset := fun (i : Instr) => exec i s = .next (s.raise ⟨cIllegal, s.sylInfo 8, none, none, false⟩)
    let first := fun (u : State) (i : Instr) (fmt : W32) (isHandle fits : Bool) =>
      (fmt.toNat % 16 ≠ 0 → ¬ present u → exec i s = .next (u.raise ⟨cLayer, 0, none, none, false⟩)) ∧
      (fmt.toNat % 16 ≠ 0 → present u → (controlOk (geo u) (u.src b) isHandle && fits) = false →
        exec i s = .next (u.raise (u.fstateOf 0 2)))
    ((direct s.peekMq).toNat % 16 = 0 → (∀ h, unset (.cmma g c a b l x h e)) ∧ unset (.cmmah g c a b l x e) ∧
      unset (.cchain g c b l x e)) ∧
    ((looped s.peekMq).toNat % 16 = 0 → ∀ h, unset (.cmmat g c a b l x h e)) ∧
    (s.enabled g [b] →
      let u := s.sourced [b]
      first u (.cmma g c a b l x 1 e) (direct u) false true ∧ first u (.cmmat g c a b l x 1 e) (looped u) false true ∧
      first u (.cchain g c b l x e) (direct u) false true) ∧
    (s.enabled g [a, b] →
      let u := s.sourced [a, b]
      let A := u.src a
      let f := (A.extractLsb' 22 6).toNat
      let off := (A.extractLsb' 0 22).toNat
      let pl := ((u.src b).extractLsb' 36 8).toNat
      let frame := fun (i : Instr) (fmt : W32) =>
        let last := off + ((geo u).extractLsb' 16 22).toNat * ((geo u).toNat % 64 - 1) + blockBytes (fmt.toNat % 16)
        first u i fmt false true ∧
        (fmt.toNat % 16 ≠ 0 → present u → controlOk (geo u) (u.src b) false = true →
          (A.extractLsb' 28 36 ≠ 0 → exec i s = .next (u.raise ⟨cAddr, A, none, none, false⟩)) ∧
          (A.extractLsb' 28 36 = 0 → (u.myFrame f).bytes < last →
            exec i s = .next (u.raise ⟨cAddr, A, none, none, false⟩)) ∧
          (A.extractLsb' 28 36 = 0 → last ≤ (u.myFrame f).bytes →
            (u.myFrame f).state = .empty ∨ (u.myFrame f).state = .filling →
            exec i s = .next (u.raise (u.fstateOf f 5))))
      frame (.cmma g c a b l x 0 e) (direct u) ∧ frame (.cmmat g c a b l x 0 e) (looped u) ∧
      first u (.cmmah g c a b l x e) (direct u) true
        ((u.handleOf (stackOf u.cur.p) (u.src a)).all fun k =>
          decide (k.width = fmtBytes ((direct u).toNat % 16)) && (decide (pl = 0) || decide (2 < k.nd))))) ∧
  (∀ (geo ctl : W64) (isHandle : Bool), controlOk geo ctl isHandle = true ↔
    1 ≤ bits geo 0 6 ∧ bits geo 0 6 ≤ 32 ∧ geo.getLsbD 7 = false ∧ geo.getLsbD 15 = false ∧ bits geo 38 26 = 0 ∧
      bits geo 12 3 < 6 ∧ bits geo 16 22 % 64 = 0 ∧ bits ctl 44 20 = 0 ∧ (isHandle = false → bits ctl 8 36 = 0))

/-! ### The Y slot -/

/-- R42, R245, R272-R274, R277, R279, R344: an engine command that passes its issue-time checks: its record with the
handle as it then was, its acquire, and the roles of its frames taken; nothing else changes at issue. R42, R277,
R279: a command that fails an issue-time check raises nothing at its long word: its record holds the fault of the
first check it fails: the handle operand, the limits of the command word, one frame named twice, the frames' states,
the place of tile, index list or cell in its frame; FINFO of an XLATE without an address is a free value (log 25).
R128: the states of the frames are those its long word found. R275: a GATHER or SCATTER keeps the index words. The
order of WHY 9 and the check of RF, that an M-slot store of the command's own long word is seen in the index words,
the mark an index word brings from a poisoned sector, and that no value of FP is refused, are the model's choices
(log 47, 80, 98, 97). -/
def Obligations.EngineIssue : Prop :=
  (∀ (s : State) (g : Guard) (f : BitVec 6) (a b : BitVec 5) (lu fl : BitVec 1) (h : Handle), s.enabled g [a, b] →
    let u := s.sourced [a, b]
    let A := u.src a
    let W := u.src b
    let i := u.me.freeRec
    let p := u.cur.p
    let F := u.myFrame f.toNat
    let cmd := fun (kind : EngineKind) (ctx : Bool) =>
      ({ kind := kind, frame := f.toNat, fl := decide (fl = 1), lu := decide (lu = 1), word := W, handle := h, ctx := ctx
         index := none, done := [], part := [], stage := [], held := [], roleW := false, roleF := false, roleX := false
         ready := false, reached := false, heldSince := none, told := false } : EngineOp)
    let issued := fun (e : EngineOp) =>
      let v := u.formRec A W (.engine e)
      if e.acq then v.onMe fun x => { x with fences := x.fences ++ [⟨0, e.scope, x.order, some (decide (e.kind = .atomg))⟩] }
      else v
    let reads := fun (n : Nat) (v : State) => v.onFrame p n fun F => { F with state := .draining, drn := F.drn + 1 }
    let roles := fun (v : State) (w x y : Bool) (ix : Option (List (Nat × Bool))) =>
      (.next (v.onEngine p u.cur.q i fun e =>
        { e with ready := true, roleW := w, roleF := x, roleX := y, index := ix }) : Outcome)
    let words := fun (e : EngineOp) => some ((List.range (2 ^ bits W 40 4)).map fun j =>
      let at_ := 256 * bits W 20 8 + 4 * j
      ((u.myFrame e.ixf).nat at_ 4, (u.myFrame e.ixf).isPoisoned at_ 4))
    let found := fun (n : Nat) => ((u.cur.found[n]?).getD (u.myFrame n)).state
    let open_ := fun (n : Nat) => found n = .ready ∨ found n = .draining
    let z := fun (e : EngineOp) => e.tileBytes
    s.me.recs.length < 256 → u.handleOf (stackOf p) A = some h → 0 < h.nd →
    (∀ e, e = cmd .copyin u.me.contextMode → e.fieldsOk = true → (e.ctx = true ∨ found f.toNat = .filling) →
      (e.fseg + 1) * z e ≤ F.bytes →
      exec (.copyin g f a b lu fl) s = roles (issued e) (!e.ctx) false false none) ∧
    (∀ e, e = cmd .copyout u.me.contextMode → e.fieldsOk = true → (e.ctx = true ∨ open_ f.toNat) →
      (e.fseg + 1) * z e ≤ F.bytes →
      exec (.copyout g f a b lu fl) s =
        roles (if e.ctx then issued e else reads f.toNat (issued e)) false (!e.ctx) false none) ∧
    (∀ e, e = cmd .gather false → e.fieldsOk = true → e.ixf ≠ f.toNat → found f.toNat = .filling → open_ e.ixf →
      (e.fseg + 1) * z e ≤ F.bytes → 256 * bits W 20 8 + 4 * 2 ^ bits W 40 4 ≤ (u.myFrame e.ixf).bytes →
      exec (.gather g f a b lu fl) s = roles (reads e.ixf (issued e)) true false true (words e)) ∧
    (∀ e, e = cmd .scatter false → e.fieldsOk = true → open_ f.toNat → open_ e.ixf →
      (e.fseg + 1) * z e ≤ F.bytes → 256 * bits W 20 8 + 4 * 2 ^ bits W 40 4 ≤ (u.myFrame e.ixf).bytes →
      exec (.scatter g f a b lu fl) s = roles (reads e.ixf (reads f.toNat (issued e))) false true true (words e)) ∧
    (∀ e, e = cmd .atomg false → e.fieldsOk = true → open_ f.toNat → 16 * (e.fseg + 1) ≤ F.bytes →
      (W.getLsbD 41 = false → e.rf ≠ f.toNat ∧ found e.rf = .filling ∧ 8 * (e.fseg + 1) ≤ (u.myFrame e.rf).bytes) →
      exec (.atomg g f a b lu fl) s = roles (reads f.toNat (issued e)) (!W.getLsbD 41) true false none)) ∧
  (∀ (s : State) (g : Guard) (f : BitVec 6) (a b : BitVec 5) (lu fl : BitVec 1) (kind : EngineKind),
    s.enabled g [a, b] →
    let u := s.sourced [a, b]
    let W := u.src b
    let p := u.cur.p
    let command := match kind with
      | .copyin => Instr.copyin g f a b lu fl
      | .copyout => .copyout g f a b lu fl
      | .gather => .gather g f a b lu fl
      | .scatter => .scatter g f a b lu fl
      | .atomg => .atomg g f a b lu fl
    let issued := fun (h : Handle) => ({
      kind := kind, frame := f.toNat, fl := decide (fl = 1), lu := decide (lu = 1), word := W, handle := h
      ctx := u.me.contextMode && decide (kind = .copyin ∨ kind = .copyout), index := none, done := [], part := []
      stage := [], held := [], roleW := false, roleF := false, roleX := false, ready := false, reached := false
      heldSince := none, told := false } : EngineOp)
    let after := fun (e : EngineOp) =>
      let v := u.formRec (u.src a) W (.engine e)
      if W.getLsbD 44 then
        v.onMe fun x => { x with fences := x.fences ++ [⟨0, bits W 46 3, x.order, some (decide (kind = .atomg))⟩] }
      else v
    (u.handleOf (stackOf p) (u.src a) = none → ∃ info, exec command s = .next
      (({ after (issued ⟨0, 0, false, 0, 0, [], []⟩) with nonce := u.nonce + 1 } : State).faultRec p u.cur.q u.me.freeRec
        cXlate info)) ∧
    ∀ h, u.handleOf (stackOf p) (u.src a) = some h → 0 < h.nd →
      let e := issued h
      let faults := fun (c : Nat) (info : W64) =>
        exec command s = .next ((after e).faultRec p u.cur.q u.me.freeRec c info)
      let state := fun (n : Nat) => ((u.cur.found[n]?).getD (u.myFrame n)).state
      let why := fun (n k : Nat) => BitVec.ofNat 64 (n + 64 * (state n).code + 256 * k)
      let fseg := bits W 61 3
      let z := 2 ^ bits W 36 4 * 2 ^ bits W 40 4 * h.width
      let ixf := bits W 14 6
      let rf := bits W 49 6
      let result := kind = .atomg ∧ bits W 41 1 = 0
      let legal := bits W 46 3 ≠ 7 ∧ (bits W 44 2 = 0 → bits W 46 3 = 0) ∧ (bits W 28 8 ≠ 0 → 2 < h.nd) ∧
        (fl = 0 → bits W 56 5 = 0) ∧ bits W 36 4 ≤ 10 ∧
        (kind ≠ .atomg → bits W 40 4 ≤ 10 ∧ z ≤ 4194304 ∧ (fl = 0 → bits W 49 7 = 0)) ∧
        (kind = .atomg → bits W 42 2 = 0 ∧ bits W 55 1 = 0 ∧ (bits W 41 1 = 1 → rf = 0) ∧
          (bits W 36 4 = 10 → (if bits W 40 1 = 1 then 8 else h.width) = 4))
      let needs : List (Nat × Bool) := match kind with
        | .copyin => if e.ctx then [] else [(f.toNat, true)]
        | .copyout => if e.ctx then [] else [(f.toNat, false)]
        | .gather => [(f.toNat, true), (ixf, false)]
        | .scatter => [(f.toNat, false), (ixf, false)]
        | .atomg => if bits W 41 1 = 0 then [(f.toNat, false), (rf, true)] else [(f.toNat, false)]
      let open_ := fun (n : Nat × Bool) =>
        if n.2 then state n.1 = .filling else state n.1 = .ready ∨ state n.1 = .draining
      let places : List (Nat × Nat × Nat) := match kind with
        | .copyin | .copyout => [(f.toNat, fseg * z, z)]
        | .gather | .scatter => [(f.toNat, fseg * z, z), (ixf, 256 * bits W 20 8, 4 * 2 ^ bits W 40 4)]
        | .atomg => if bits W 41 1 = 0 then [(f.toNat, 16 * fseg, 16), (rf, 8 * fseg, 8)] else [(f.toNat, 16 * fseg, 16)]
      let fits := fun (n : Nat × Nat × Nat) => n.2.1 + n.2.2 ≤ (u.myFrame n.1).bytes
      let twice := kind = .gather ∧ ixf = f.toNat ∨ result ∧ rf = f.toNat
      (¬ legal → faults cFstate (why f.toNat 2)) ∧
      (legal → twice → faults cFstate (why f.toNat 9)) ∧
      (legal → ¬ twice → ∀ before n after, needs = before ++ n :: after → (∀ m ∈ before, open_ m) → ¬ open_ n →
        faults cFstate (why n.1 (if n.2 then 7 else 5))) ∧
      (legal → ¬ twice → (∀ n ∈ needs, open_ n) → ∀ before n after, places = before ++ n :: after →
        (∀ m ∈ before, fits m) → ¬ fits n → faults cAddr (atFrame cAddr n.1 n.2.1).einfo))

/-- R326: the three ECANCELs end the sequencer's commands they select, and leave its other operations, its registers
and the memory; a frame number above 63 raises ADDR, with that operand in EINFO by the model's choice (log 107).
R327: no flag is posted; a frame that the one command selected was filling becomes EMPTY, of a frame it reads DRN
falls by its read roles and at 0 the frame is READY, the other frames stay. -/
def Obligations.EngineCancel : Prop :=
  ∀ (s : State) (g : Guard) (k a : BitVec 5), s.placed →
    let ends := fun (i : Instr) (sel : EngineOp → Prop) => ∃ t, exec i s = .next t ∧ t.mem = s.mem ∧
      (∀ r, r ∈ t.me.recs ↔ r ∈ s.me.recs ∧ ∀ x ∈ s.me.recs, ∀ e, x.op = .engine e → sel e → x.idx ≠ r.idx) ∧
      t.me.named = s.me.named ∧ t.me.queue = s.me.queue ∧ t.me.vregs = s.me.vregs ∧ t.me.accs = s.me.accs ∧
      t.me.inflight = s.me.inflight ∧ t.mine.flags = s.mine.flags ∧
      ∀ before r e after, s.me.recs = before ++ r :: after → r.op = .engine e → sel e →
        (∀ x ∈ before ++ after, ∀ d, x.op = .engine d → ¬ sel d) → ∀ n,
        let F := s.myFrame n
        let emptied := e.written = some n ∧ e.roleW = true ∧ F.state = .filling
        let roles := (if e.roleF = true ∧ e.frame = n then 1 else 0) + if e.roleX = true ∧ e.ixf = n then 1 else 0
        (emptied → t.myFrame n = Frame.cleared) ∧
        (¬ emptied → 0 < roles → t.myFrame n =
          { F with drn := F.drn - roles, state := if F.drn ≤ roles ∧ F.state = .draining then .ready else F.state }) ∧
        (¬ emptied → roles = 0 → t.myFrame n = F)
    (s.enabled g [] →
      ends (.ecancel g) (fun _ => True) ∧ ends (.ecancelK g k) (fun e => e.fl = true ∧ e.fk = k.toNat)) ∧
    (s.enabled g [a] →
      let u := s.sourced [a]
      ((u.src a).toNat < 64 → ends (.ecancelF g a) (fun e => e.names (u.src a).toNat = true)) ∧
      (64 ≤ (u.src a).toNat → exec (.ecancelF g a) s = .next (u.raise ⟨cAddr, u.src a, none, none, false⟩)))

/-- R308-R310, R312-R315, R361: the flag instructions with nothing latched from a failed gang: KWAIT and FWAIT do
nothing of their own; with no fence in force that orders it KPOST adds and KSET sets at once, what is posted to the
flag in that ic added to what it sets (R309); KRD pushes the flag after 2 ic; KPOSTR sends its post, or raises ADDR
for no pillar. R246, R312: behind a fence of effects with a command, a DRAIN or a message it reaches still to end,
and behind another change that waits, a KPOST or KSET waits in its order, and is made once nothing holds it. R314,
R361: with a failed gang latched every flag instruction raises GANG and does nothing else. R310: a flag has reached
a target when it is ahead of it by less than half the range, whatever wrapped on the way. -/
def Obligations.Flags : Prop :=
  (∀ (s : State) (g : Guard) (k a b : BitVec 5) (i : BitVec 5) (sc : BitVec 3) (f : BitVec 6) (h : BitVec 1),
    s.me.gang = [] →
    let sum := fun (u : State) => (u.src a).extractLsb' 0 32 + BitVec.ofNat 32 i.toNat
    exec (.fwait g f h) s = .next s ∧
    (s.enabled g [a] →
      let u := s.sourced [a]
      exec (.kwait g k a i) s = .next u ∧
      ((∀ f ∈ s.me.fences, f.acq ≠ none ∨ f.kinds.getLsbD 3 = false ∨ f.scope = 0 ∨ s.me.order ≤ f.order) →
        s.me.flagq = [] →
        exec (.kpost g k a i) s = .next (u.setFlag u.cur.p k.toNat (u.flag u.cur.p k.toNat + sum u)) ∧
        exec (.kset g k a i) s = .next (u.setFlag u.cur.p k.toNat (sum u +
          ((u.mine.newPosts.filter fun n => n.1 = u.mine.ic ∧ n.2.1 = k.toNat).map fun n => n.2.2).sum))) ∧
      let delayed := fun (set : Bool) => u.onMe fun x =>
        { x with flagq := x.flagq ++ [⟨k.toNat, set, sum u, x.order⟩] }
      let orders := fun (f : FenceRec) (r : Rec) => r.order < f.order ∧ ((∃ e, r.op = .engine e) ∨
        (∃ t l d xs, r.op = .drain t l d xs) ∨ ∃ t n v, r.op = .msend t n v ∧
          (t = s.cur.p ∨ t / 32 = s.cur.p / 32 ∧ 2 ≤ f.scope ∨ 3 ≤ f.scope))
      (s.me.flagq ≠ [] ∨ (∃ f ∈ s.me.fences, f.acq = none ∧ f.order < s.me.order ∧ f.kinds.getLsbD 3 = true ∧
          1 ≤ f.scope ∧ ∃ r ∈ s.me.recs, orders f r) →
        exec (.kpost g k a i) s = .next (delayed false) ∧ exec (.kset g k a i) s = .next (delayed true))) ∧
    (s.enabled g [] → exec (.krd g k) s = .next (s.result 2 (.push ((s.flag s.cur.p k.toNat).zeroExtend 64)))) ∧
    (s.enabled g [a, b] →
      let u := s.sourced [a, b]
      ((u.src a).toNat < 128 → exec (.kpostr g k a b sc) s = .next { u with posts := u.posts ++
        [⟨u.cur.p, u.cur.q, u.me.order, (u.src a).toNat, k.toNat, (u.src b).extractLsb' 0 32, sc.toNat⟩] }) ∧
      (128 ≤ (u.src a).toNat →
        exec (.kpostr g k a b sc) s = .next (u.raise ⟨cAddr, u.src a, none, none, false⟩)))) ∧
  (∀ (s : State) (g : Guard) (k a b : BitVec 5) (i : BitVec 5) (sc : BitVec 3), s.me.gang ≠ [] →
    let gang := fun (u : State) => u.raise ⟨cGang, 0, none, none, false⟩
    (s.enabled g [a] → ∀ e ∈ [Instr.kwait g k a i, .kpost g k a i, .kset g k a i],
      exec e s = .next (gang (s.sourced [a]))) ∧
    (s.enabled g [] → exec (.krd g k) s = .next (gang s)) ∧
    (s.enabled g [a, b] → exec (.kpostr g k a b sc) s = .next (gang (s.sourced [a, b])))) ∧
  (∀ (s : State) (p q : Nat) (c : FlagChange), (s.seq p q).flagq = [c] → (s.seq p q).fences = [] →
    (∀ n ∈ s.posts, n.fromP ≠ p ∨ n.fromQ ≠ q) →
    s.runFlagq p q = (s.setFlag p c.k (if c.set then c.amount + (((s.pillar p).newPosts.filter fun n =>
      n.1 = (s.pillar p).ic ∧ n.2.1 = c.k).map fun n => n.2.2).sum else s.flag p c.k + c.amount)).onSeq p q fun x =>
        { x with flagq := [] }) ∧
  (∀ k t : W32, flagReached k t = true ↔ (k.toNat + (2 ^ 32 - t.toNat)) % 2 ^ 32 < 2 ^ 31)

/-- R76-R78, R160, R317, R319-R321, R361: MSEND takes a credit and forms its record; DSYNC forms its with the level's
count and holds the long words behind it; JPOST and JRAISE form theirs with block and amount. R323-R325: DEFER appends
one item for each enabled element, in row-major order, while the tray holds at most 4,096; else its record faults
FSTATE with WHY 3 and nothing is appended; DRAIN joins its tray's queue. R361: with a failed gang latched DSYNC raises
GANG. That a level-1 DSYNC keeps the axis of its
issue, and that a tray serves its DRAINs at the issue of a DEFER or DRAIN, are the model's choices (log 44, 45). -/
def Obligations.SendingAndTrays : Prop :=
  (∀ (s : State) (g : Guard) (a b : BitVec 5) (sc l : BitVec 3),
    (s.enabled g [a, b] →
      let u := s.sourced [a, b]
      let A := u.src a
      let B := u.src b
      (A.toNat < 128 → exec (.msend g a b sc) s = .next ((u.onPillar A.toNat fun P => { P with
        pools := upd P.pools (u.cur.p / 32) fun n => n - 1 }).formRec A B (.msend A.toNat sc.toNat B))) ∧
      (128 ≤ A.toNat → exec (.msend g a b sc) s = .next (u.raise ⟨cAddr, A, none, none, false⟩)) ∧
      exec (.jpost g a b) s = .next (u.formRec A B (.jcb false)) ∧
      exec (.jraise g a b) s = .next (u.formRec A B (.jcb true))) ∧
    (s.enabled g [] →
      (s.me.gang = [] → exec (.dsync g l) s = .next ((s.formRec 0 0 (.dsync l.toNat
        (s.me.syncs.getD (l.toNat - 1) 0))).onMe fun x => { x with
          syncing := some l.toNat
          axes := if l.toNat = 1 then x.ax1 :: x.axes else x.axes })) ∧
      (s.me.gang ≠ [] → exec (.dsync g l) s = .next (s.raise ⟨cGang, 0, none, none, false⟩)))) ∧
  (∀ (s : State) (g : Guard) (v : BitVec 5) (c m : BitVec 3) (t : BitVec 2), s.enabled g [] →
    let names := (List.range c.toNat).map fun i => v + BitVec.ofNat 5 i
    let items := ((List.range 1024).filter fun e => (s.vpred m).on e).map fun e => names.map fun n => at0 (s.vreg n) e
    let tray := s.mine.trays.getD t.toNat []
    let phys := fun (r : BitVec 5) => if r.toNat < 16 then r.toNat else 16 + (r.toNat - 16 + s.me.rbase.toNat) % 16
    (tray.length + items.length ≤ 4096 → exec (.defer g v c m t) s = .next
      (((s.onMine fun _ => { s.mine with trays := upd s.mine.trays t.toNat fun l => l ++ items }).wakeSeq s.cur.p
        s.cur.q).serveTray s.cur.p t.toNat)) ∧
    (4096 < tray.length + items.length → exec (.defer g v c m t) s = .next
      ((s.formRec 0 0 (.defer t.toNat items)).faultRec s.cur.p s.cur.q s.me.freeRec cFstate 0x300)) ∧
    exec (.drain g v c m t) s = .next (((s.formRec 0 0 (.drain t.toNat (names.map phys) m.toNat none)).onMine fun P =>
      { P with drains := upd P.drains t.toNat fun l => l ++ [(s.cur.q, s.me.freeRec)] }).serveTray s.cur.p t.toNat))

/-! ### The events -/

/-- R91, R158, R162: of what a sequencer has in flight, exactly the results due by an ic land: pushes in the order
of ic, slot and issue, the last of them in q0; a named register, predicate, vector, vector predicate, accumulator
tile, side area, direction register or norm file takes the one result due for it, on the part of it the result has.
R353: a poison bit that comes with a result sets CHKINT, and PSITE with it when POIS was 0. R162: of two results due
for one destination the later one's value stands where both write, the earlier one's where it alone does. What is
not yet due stays in flight. -/
def Obligations.Landings : Prop :=
  ∀ (x : Seq) (t : Nat),
    let due := x.inflight.filter fun l => l.land ≤ t
    let first := fun (a b : Landing) => a.land < b.land ∨ (a.land = b.land ∧ (a.slot < b.slot ∨
      (a.slot = b.slot ∧ a.order < b.order)))
    let y := x.landUpTo t
    let z := { x with inflight := x.inflight.filter fun l => t < l.land }
    y.inflight = z.inflight ∧
    (∀ (ls : List Landing) (vs : List W64), ls.Perm due → ls.Pairwise first → ls.map Landing.what = vs.map Payload.push →
      x.queue.length = 16 → y = { z with queue := (vs.reverse ++ x.queue).take 16 }) ∧
    (∀ l, due = [l] →
      (∀ r v, l.what = Payload.named r v → y = { z with named := upd x.named r fun _ => v }) ∧
      (∀ c b, l.what = Payload.pred c b → y = { z with preds := upd x.preds c fun _ => b }) ∧
      (∀ r v m, l.what = Payload.vec r v m → y = { z with
        vregs := upd x.vregs r fun o => VReg.of fun e => if m.on e then at0 v e else at0 o e }) ∧
      (∀ r v m, l.what = Payload.vpred r v m → ∃ new, y = { z with vpreds := upd x.vpreds r fun _ => new } ∧
        ∀ e < 1024, new.on e = (if m.on e then v.on e else (x.vpreds.getD r pZero).on e)) ∧
      (∀ r v m, l.what = Payload.acc r v m → y = { z with
        accs := upd x.accs r fun a => { a with elems := VReg.of fun e => if m.on e then at0 v e else at0 a.elems e } }) ∧
      (∀ r vs, l.what = Payload.side r vs → y = { z with
        accs := upd x.accs r fun a => { a with
          side := vs.foldl (fun side kv => upd side kv.1 fun _ => kv.2) a.side } }) ∧
      (∀ r v rows, l.what = Payload.dir r v rows → y = { z with
        dirs := upd x.dirs r fun o => (List.range 1024).map fun i =>
          if rows.getLsbD (i / 64) then at0 v i else at0 o i }) ∧
      (∀ r v rows, l.what = Payload.norm r v rows → y = { z with
        norms := upd x.norms r fun o => (List.range 16).map fun i => if rows.getLsbD i then at0 v i else at0 o i }) ∧
      ∀ b, l.what = Payload.chk b → ∃ v now : W64, y = { z with chkint := v, chkNow := now } ∧
        now.extractLsb' 0 8 = x.chkNow.extractLsb' 0 8 ||| b.extractLsb' 0 8 ∧
        v.extractLsb' 0 8 = x.chkint.extractLsb' 0 8 ||| b.extractLsb' 0 8 ∧
        (b.getLsbD 0 = true →
          v.extractLsb' 8 4 = if x.chkint.getLsbD 0 then x.chkint.extractLsb' 8 4 else b.extractLsb' 8 4)) ∧
    ∀ a b, due.Perm [a, b] → first a b →
      (∀ r v w, a.what = Payload.named r v → b.what = Payload.named r w → y = { z with
        named := upd x.named r fun _ => w }) ∧
      (∀ c v w, a.what = Payload.pred c v → b.what = Payload.pred c w → y = { z with
        preds := upd x.preds c fun _ => w }) ∧
      (∀ r v w m n, a.what = Payload.vec r v m → b.what = Payload.vec r w n → y = { z with
        vregs := upd x.vregs r fun o => VReg.of fun e =>
          if n.on e then at0 w e else if m.on e then at0 v e else at0 o e }) ∧
      (∀ r v w m n, a.what = Payload.vpred r v m → b.what = Payload.vpred r w n → ∃ new,
        y = { z with vpreds := upd x.vpreds r fun _ => new } ∧ ∀ e < 1024, new.on e =
          (if n.on e then w.on e else if m.on e then v.on e else (x.vpreds.getD r pZero).on e)) ∧
      (∀ r v w m n, a.what = Payload.acc r v m → b.what = Payload.acc r w n → y = { z with
        accs := upd x.accs r fun t => { t with
          elems := VReg.of fun e => if n.on e then at0 w e else if m.on e then at0 v e else at0 t.elems e } }) ∧
      (∀ r v w m n, a.what = Payload.dir r v m → b.what = Payload.dir r w n → y = { z with
        dirs := upd x.dirs r fun o => (List.range 1024).map fun i =>
          if n.getLsbD (i / 64) then at0 w i else if m.getLsbD (i / 64) then at0 v i else at0 o i }) ∧
      ∀ r v w m n, a.what = Payload.norm r v m → b.what = Payload.norm r w n → y = { z with
        norms := upd x.norms r fun o => (List.range 16).map fun i =>
          if n.getLsbD i then at0 w i else if m.getLsbD i then at0 v i else at0 o i }

/-- R13, R152, R157, R158, R194, R253, R255-R257, R266, R334, R356, R361, R364, R400: what comes about in a pillar
by itself. A landing lands what is due, and a tile stays busy while a result for it is in flight or in a latch bank
or a cube item that writes it is in the queue. R257: the background renewer takes the AUTO frame, READY or DRAINING
and not expired, with the least time left, under 900 ticks. R361: a gang member that fails in another package gives
every member here a GANG condition, those held only in a context image among them. The instruction cache's index,
its refused renewals and what it wants of a prefetch are the model's readings (log 26, 48, 50). -/
def Obligations.PillarEvents : Prop :=
  ∀ s : State,
    let p := s.who.p
    let q := s.who.q
    let P := s.pillar p
    let F := s.frame p s.who.k
    let freed := fun (u : State) => ((u.onSeq p q fun x => { x with
      run := .idle, iter := none, loops := [], regions := [], chkint := 0, delay := none, gang := [], heldSince := none
      wdog := false, poisonDue := false, fetchFault := none, userBank := Bank.empty
      supBank := Bank.empty }).disown 1 p fun o => o = (q, 256)).settle p q
    (∃ y : Seq, exec .resultLanding s = .next (s.onSeq p q fun _ => y) ∧
      let x := s.seq p q
      let z := x.landUpTo P.ic
      { y with accs := z.accs, undo := z.undo, ueDue := z.ueDue } = z ∧ (x.ueDue = [] → y.ueDue = []) ∧
      y.accs.length = z.accs.length ∧
      ∀ a old new, z.accs[a]? = some old → y.accs[a]? = some new → { new with busy := old.busy } = old ∧
        (new.busy = true ↔ old.busy = true ∧
          ((∃ l ∈ z.inflight ++ z.userBank.entries ++ z.supBank.entries,
            (∃ v m, l.what = .acc a v m) ∨ ∃ vs, l.what = .side a vs) ∨
          ∃ c ∈ P.cube, c.q = q ∧ ((∃ b, c.kind = .zero a b) ∨ ∃ o, c.kind = .op o ∧ o.acc = a)))) ∧
    exec .fallocZeroDone s = .next (s.onFrame p s.who.k fun F => { F with
      state := .ready, ph := !F.ph, expiry := P.fadeCount + BitVec.ofNat 48 (F.life * 4096), xp := false
      zeroEnd := none }) ∧
    exec .fadeTick s = .next (s.onPillar p fun P =>
      { P with fadeCount := BitVec.ofNat 48 (P.fadeCount.toNat + P.fadeInc.toNat) }) ∧
    (F.state ≠ .empty → (P.fadeCount - F.expiry).toNat < 2 ^ 47 →
      exec .frameExpire s = .next (s.onFrame p s.who.k fun F => { F with xp := true })) ∧
    (F.state = .empty ∨ 2 ^ 47 ≤ (P.fadeCount - F.expiry).toNat → exec .frameExpire s = .next s) ∧
    (∀ f n start, P.rewrite = some (f, n, start) →
      let since := (P.fadeCount - start).toNat
      (819200 ≤ since → since < 819200 + P.fadeInc.toNat →
        exec .renewalOverdue s = .next (s.onFrame p f fun F => { F with xp := true })) ∧
      (since < 819200 ∨ 819200 + P.fadeInc.toNat ≤ since → exec .renewalOverdue s = .next s)) ∧
    (P.rewrite = none → exec .renewalOverdue s = .next s) ∧
    (s.fnmode.getLsbD 2 = false → s.hkreqs = [] →
      let left := fun (f : Nat) => ((s.frame p f).expiry - P.fadeCount).toNat
      let due := fun (f : Nat) => ((s.frame p f).state = .ready ∨ (s.frame p f).state = .draining) ∧
        (s.frame p f).auto = true ∧ (s.frame p f).xp = false ∧ left f < 900 * 4096
      (P.renewBudget = 0 → exec .backgroundRenew s = .next s) ∧
      (0 < P.renewBudget → (∀ f n start, P.rewrite = some (f, n, start) → exec .backgroundRenew s =
        .next (s.onPillar p fun P => { P with
          renewBudget := P.renewBudget - 1, rewrite := if n ≤ 1 then none else some (f, n - 1, start) })) ∧
        (P.rewrite = none → (∀ g < 64, ¬ due g) → exec .backgroundRenew s = .next s) ∧
        (∀ f < 64, P.rewrite = none → due f → (∀ g < 64, g ≠ f → due g → left f < left g) → exec .backgroundRenew s =
          .next ((s.onFrame p f fun F => { F with expiry := P.fadeCount + BitVec.ofNat 48 (F.life * 4096) }).onPillar p
            fun Q => { Q with
              renewBudget := Q.renewBudget - 1
              rewrite := if (s.frame p f).size ≤ 1 then none else some (f, (s.frame p f).size - 1, P.fadeCount) })))) ∧
    (let v := P.errinj
      let disarm := fun (u : State) => u.onPillar p fun P => { P with errinj := setBits P.errinj 21 1 0 }
      let flip := fun (a : Acc) =>
        { a with elems := upd a.elems (64 * bits v 6 4 + bits v 0 6) fun e => e ^^^ BitVec.ofNat 32 (2 ^ bits v 10 5) }
      (bits v 19 2 = 1 → exec .errinjApply s =
        .next (disarm (s.onSeq p (bits v 18 1) fun x => { x with accs := upd x.accs (bits v 15 3) flip }))) ∧
      (bits v 19 2 = 2 → (s.frame p (bits v 22 6)).state ≠ .empty → bits v 28 22 < (s.frame p (bits v 22 6)).bytes →
        exec .errinjApply s = .next (disarm (s.onFrame p (bits v 22 6) fun F =>
          { F with poison := mark F.poison (bits v 28 22 / 32) }))) ∧
      (bits v 19 2 = 0 → exec .errinjApply s = .next (disarm s))) ∧
    exec .wdog s = .next (s.onSeq p q fun x => { x with wdog := true }) ∧
    exec .gangTimeout s = .next (s.onSeq p q fun x =>
      { x with gang := x.gang.map fun g => (g.1, g.2 || decide (g.1 + 10000 ≤ s.tick / 2)) }) ∧
    (s.who.part = 0 → s.who.up = false →
      let v := BitVec.ofNat 64 s.who.v
      let due := fun (u : State) => u.onSeq p q fun x => { x with ueDue := x.ueDue ++ [⟨v, decide (s.who.k ≠ 0)⟩] }
      let phys := bits (s.stack (stackOf p)).layers (4 + 3 * bits v 4 2) 3
      (s.who.v % 16 ≠ 11 → exec .ue s = .next (due (s.sufferUe p v))) ∧
      (s.who.v % 16 = 11 → phys < 5 → exec .ue s = .next (due ((s.sufferUe p v).onStack (stackOf p)
        fun k => { k with lfail := k.lfail ||| BitVec.ofNat 5 (2 ^ phys) })))) ∧
    (s.who.part ≠ 0 → exec .ue s = .next { (s.membersOf s.who.l).foldl (fun u m => u.onSeq m.1 m.2 fun x =>
      { x with gang := x.gang ++ [(s.tick / 2, false)] }) s with
        away := s.away.map fun a => if a.iter.any fun i => i.launch = s.who.l then
          { a with seq := { a.seq with gang := a.seq.gang ++ [(s.tick / 2, false)] } } else a }) ∧
    ((s.seq p q).mode = false →
      let x := s.seq p q
      let t := (x.iter.map fun i => i.t).getD 0
      let id := (x.iter.map fun i => i.launch).getD 0
      let ended := if x.chkint.getLsbD 0 then s.postEnd p q (fun j => j.pois t) true else s.postEnd p q (fun j => j) false
      exec .iterationRetire s = .next ((freed ended).checkLaunch id)) ∧
    ((s.seq p q).mode = true → (s.seq p q).contextMode = false →
      let x := s.seq p q
      let t := (x.iter.map fun i => i.t).getD 0
      let id := (x.iter.map fun i => i.launch).getD 0
      let failed := fun (j : Jcb) => j.fail (bits x.ecause 0 8) t
      let ended := if x.chkint.getLsbD 0 then s.postEnd p q (fun j => failed { j with err := j.err ||| 16 }) true
        else s.postEnd p q failed true
      exec .iterationRetire s = .next ((freed ended).checkLaunch id)) ∧
    ((s.seq p q).contextMode = true → p < s.pillars.length → q < P.seqs.length →
      ∃ t, exec .iterationRetire s = .next t ∧ t.mem = s.mem ∧ t.launches = s.launches ∧ t.stks = s.stks ∧
        (t.pillar p).frames = P.frames ∧ (t.seq p q).run = .idle ∧ (t.seq p q).iter = none ∧ (t.seq p q).recs = []) ∧
    (∀ t pa leaf, s.translate (p / 32) (s.jobOf p q)
        (if (s.seq p q).pc.toNat / 128 = s.who.k then (s.seq p q).pc.toNat else 128 * s.who.k) .fetch = (t, .ok pa leaf) →
      exec .icacheFill s = .next (t.onPillar p fun P => { P with
        icache := fillLine P.icache ⟨s.who.k, lineWords (t.busRead (pa / 128 * 128) 128)⟩ })) ∧
    (∀ (ls : List ICLine) (x : ICLine), x ∈ fillLine ls x ∧ (∀ y ∈ fillLine ls x, y = x ∨ y ∈ ls) ∧
      ((ls.filter fun l => l.line % 128 = x.line % 128).length ≤ 4 → ls.Pairwise (fun a b => a.line ≠ b.line) →
        ((fillLine ls x).filter fun l => l.line % 128 = x.line % 128).length ≤ 4))

/-- R41, R45, R50, R56-R58, R60-R62, R75, R286, R394: the packets, each from the packet its queue holds: those that
act and complete, those that start, those that go on and those that complete later. RDIDX passes a COPY or WLOAD
once its first access is permitted, a JSIGNAL, MARKER or JWAIT when it completes. A JSIGNAL or MARKER with REL waits
for the packets before it. R59, R61, R64: a COPY or WLOAD that a fault stops keeps, where RDIDX has passed it, the
copy of its slot, else its slot is read again, as that of a packet that faults before it starts. R354: a WLOAD
writes every layer it names, and the marks of what it or a COPY reads go with its bytes. That a packet's accesses
are made at once, the wait of an atomic or a release while its HBM stack refreshes itself or behind what stands held
there, what a part-way WLOAD holds back, the order of the bytes and the report of a new mark are the model's
readings (log 53, 64, 71, 85, 90). -/
def Obligations.PacketEvents : Prop :=
  ∀ (s : State) (k : Packet),
    let st := s.who.st
    let q := s.who.q
    let job := (s.queue st q).job
    let at_ := fun (off n : Nat) => leNat ((k.bytes.drop off).take n)
    let hdr := BitVec.ofNat 64 (at_ 0 8)
    let begins := fun (u : State) => (u.onPacket st q k.idx fun k => { k with started := true }).onStack st fun y =>
      { y with lastStart := some (u.tick / 2), waiting := y.waiting.filter fun w => w ≠ (q, k.idx) }
    let starts := fun (u : State) => ((begins u).onPacket st q k.idx fun k => { k with passed := true }).advanceRdidx st q
    let runs := fun (u : State) => (if ((u.queue st q).packet? k.idx).any (fun k => k.started) then u else
      starts u).completePacket st q k.idx
    let stops := fun (u : State) (e : Nat) => (u.onStack st fun y =>
      { y with waiting := y.waiting.filter fun w => w ≠ (q, k.idx) }).haltPacket st q k.idx e hdr
    let noWload := fun (u : State) => u.onStack st fun y => { y with wloads := y.wloads.filter fun w => w ≠ (q, k.idx) }
    let partWay := fun (u : State) (e : Nat) =>
      if (u.queue st q).rdidx ≤ k.idx then u.haltPacket st q k.idx e hdr
      else (u.onPacket st q k.idx fun k => { k with started := false }).haltQueue st q e k.idx hdr
    let carried := fun (u : State) (bad : Bool) (a : Nat) => if bad then u.markMem a else u
    (s.queue st q).packet? s.who.k = some k →
    exec .nopkt s = .next (runs s) ∧
    (∀ t r, s.translate st job (at_ 8 8) .write = (t, r) →
      let acts := [Instr.jsignalPost, .jsignalRaise, .marker]
      (∀ pa leaf, r = .ok pa leaf → (leaf.extractLsb' 6 2).toNat = 0 →
        let rel := hdr.getLsbD 12 = true
        let held := (rel ∧ ∃ j ∈ (t.queue st q).packets, j.idx < k.idx ∧ j.done = false) ∨
          ((at_ 0 1 = 5 ∨ rel) ∧ t.atomicsHeld pa = true)
        (¬ held →
          exec .jsignalPost s = .next (runs (t.jcbStep pa fun j => j.addCount (at_ 0x18 8) (t.tick / 2))) ∧
          exec .jsignalRaise s = .next (runs (t.jcbStep pa fun j =>
            { j with expect := min (j.expect + at_ 0x18 8) (2 ^ 64 - 1) })) ∧
          exec .marker s = .next (runs (t.busWrite pa (leBytes 8 (at_ 0x10 8))))) ∧
        (held → ∀ e ∈ acts, exec e s = .next (if k.started then t else begins t))) ∧
      ((∀ pa leaf, r = .ok pa leaf → (leaf.extractLsb' 6 2).toNat ≠ 0) →
        ∀ e ∈ acts, exec e s = .next (t.haltPacket st q k.idx 8 hdr))) ∧
    (∀ t r, s.translate st job (at_ 8 8) .read = (t, r) →
      (∀ pa leaf, r = .ok pa leaf → (leaf.extractLsb' 6 2).toNat = 0 →
        let met := if at_ 0x10 1 = 0 then (t.readJcb pa).state % 2 = 1 else at_ 0x18 8 ≤ (t.readJcb pa).count
        exec .jwait s = .next (begins t) ∧
        (met → exec .jwaitSatisfied s = .next (t.completePacket st q k.idx)) ∧
        (¬ met → exec .jwaitSatisfied s = .next t)) ∧
      ((∀ pa leaf, r = .ok pa leaf → (leaf.extractLsb' 6 2).toNat ≠ 0) → ∀ e ∈ [Instr.jwait, .jwaitSatisfied],
        exec e s = .next (t.haltPacket st q k.idx 8 hdr))) ∧
    (at_ 0 1 = 3 → ∀ t r, (k.object = none ∧ s.readVirt st job (at_ 8 8) 64 = (t, r)) ∨ (k.object = r ∧ r ≠ none ∧ t = s) →
      (∀ bs, r = some bs → handleOk bs = true → exec .tdef s = .next (runs (t.onStack st fun y => { y with
        handles := (at_ 0x10 2, handleFrom bs) :: y.handles.filter fun h => h.1 ≠ at_ 0x10 2 }))) ∧
      ((∀ bs, r = some bs → handleOk bs = false) → exec .tdef s = .next (stops t 5))) ∧
    (k.started = false →
      (at_ 0x18 8 = 0 → exec .copy s = .next (starts s) ∧ exec .wload s = .next (starts s)) ∧
      (at_ 0x18 8 ≠ 0 → ∀ t r u w, s.translate st job (at_ 8 8) .read = (t, r) →
        t.translate st job (at_ 0x10 8) .write = (u, w) →
        let fine := fun (x : Xlate) => ∃ pa leaf, x = .ok pa leaf
        (fine r → exec .wload s = .next (starts t)) ∧
        (¬ fine r → exec .wload s = .next ((noWload t).haltPacket st q k.idx 6 hdr)) ∧
        (fine r ∧ fine w → exec .copy s = .next (starts u)) ∧
        (¬ (fine r ∧ fine w) → exec .copy s = .next (u.haltPacket st q k.idx 7 hdr)))) ∧
    (k.started = true →
      (let src := at_ 8 8 + k.progress
        let dst := at_ 0x10 8 + k.progress
        let n := min (min (32 - src % 32) (32 - dst % 32)) (min (at_ 0x18 8 - k.progress) (s.stack st).hdmaLeft)
        0 < n → (∀ t pa l1, s.translate st job src .read = (t, .ok pa l1) →
          (∀ u pd l2, t.translate st job dst .write = (u, .ok pd l2) → exec .copy s = .next ((carried (u.busWrite pd
            (u.busRead pa n)) (u.poison.contains (u.canonPa pa / 32)) pd).bulkDone st q k.idx n)) ∧
          ∀ u c info, t.translate st job dst .write = (u, .bad c info) → exec .copy s = .next (partWay u 7)) ∧
          ∀ t c info, s.translate st job src .read = (t, .bad c info) → exec .copy s = .next (partWay t 7)) ∧
      (let src := at_ 8 8 + k.progress
        let off := at_ 0x10 4 + k.progress
        let n := min (min (32 - src % 32) (32 - off % 32)) (min (at_ 0x18 8 - k.progress) (s.stack st).hdmaLeft)
        0 < n → (∀ t pa leaf, s.translate st job src .read = (t, .ok pa leaf) → exec .wload s =
          .next (((([3, 2, 1, 0] : List Nat).filter fun l => (at_ 0x14 1).testBit l).foldl (fun u l =>
            let a := 0x6000000000 + 0x200000000 * st + 0x80000000 * l + off
            carried (u.writeMem a (t.busRead pa n)) (t.poison.contains (t.canonPa pa / 32)) a) t).bulkDone st q k.idx n)) ∧
          ∀ t c info, s.translate st job src .read = (t, .bad c info) → exec .wload s = .next (partWay t 6)) ∧
      (k.progress = at_ 0x18 8 →
        exec .copyComplete s = .next (s.completePacket st q k.idx) ∧
        exec .wloadComplete s = .next ((noWload s).completePacket st q k.idx))) ∧
    (∀ (u : State) (i e : Nat), st < u.stks.length → q < (u.stack st).queues.length →
      let x := (u.haltPacket st q i e hdr).queue st q
      x.state = .halted ∧ x.errc = e ∧ (e < 9 → x.fault = some i) ∧ x.rdidx = (u.queue st q).rdidx ∧
        (∀ y, y ∈ x.packets ↔ y ∈ (u.queue st q).packets ∧ y.idx ≠ i) ∧
        (i ≤ (u.queue st q).next → x.next = i ∧ x.slot = [] ∧ x.slotBad = false) ∧
        ((u.queue st q).next < i → x.next = (u.queue st q).next)) ∧
    (∀ a : Nat, s.canonPa a / 32 ∈ (s.markMem a).poison ∧ (s.markMem a).mem = s.mem ∧
      ∀ n, n ∈ (s.markMem a).poison → n ∈ s.poison ∨ n = s.canonPa a / 32)

/-- R29, R33, R34, R60-R62, R65, R70-R76, R301, R316, R323: from a packet to a running iteration: the granules of a
slot read, the queue chosen; an accepted record in the walker, a rejected one reported; the iteration placed with
the registers R73 gives it; a stack cleared for another job. R29: the indices of iteration t: the level whose ORD is
the greatest varies fastest. A rejection that finds its HBM stack in self-refresh, or the bytes of its block behind
what stands held there, is reported when nothing holds it any more (R286, log 64). That f0 is refilled at once, that
an f0 which cannot be filled for want of room is reported only once no iteration of another launch runs there, and
that one packet's slot is read ahead, are the model's readings (log 51, 65, 84). -/
def Obligations.LaunchAndIndices : Prop :=
  (∀ s : State,
    let st := s.who.st
    let q := s.who.q
    let job := (s.queue st q).job
    (∀ k bs t0 t u pa jcb, s.thePacket = some k → leNat (k.bytes.take 1) ≠ 3 →
      (k.object = some bs ∧ t0 = s) ∨
        (k.object = none ∧ s.readVirt st job (leNat ((k.bytes.drop 8).take 8)) 128 = (t0, some bs)) →
      addressOk (leNat ((bs.drop 0x20).take 8), 64) = true →
      t0.soAddress st job (leNat ((bs.drop 0x20).take 8)) true = (t, some pa) → t.isDevice pa = true →
      t.soAddress st job (leNat ((bs.drop 0x20).take 8)) true = (u, some jcb) → u.isDevice jcb = true →
      (∀ v snap, u.checkRecord st job (bits (u.queue st q).qcfg 8 4) bs = (v, .ok snap) → 0 < recTotal bs →
        exec .launch s = .next (({ v with
          launches := v.launches ++ [v.newLaunch st q k.idx job bs jcb snap]
          nextLaunch := v.nextLaunch + 1 } : State).packetStarts st q k.idx)) ∧
      ∀ v n, u.checkRecord st job (bits (u.queue st q).qcfg 8 4) bs = (v, .error n) →
        exec .launch s = .next ((v.report jcb (.reject n)).packetRuns st q k.idx)) ∧
    (∀ (u : State) (a n : Nat),
      let waits := u.refreshing a = true ∨ ∃ x ∈ u.standing, x.meets (u.canonPa a) 64 = true
      (¬ waits → u.report a (.reject n) = u.jcbStep a fun j => j.reject n) ∧
      (waits → u.report a (.reject n) =
        { u with standing := u.standing ++ [.report (u.canonPa a) (.reject n)] })) ∧
    (s.who.up = true → s.who.k ∈ (s.queue st q).unread → ∀ t bs,
      s.readVirt st job ((s.queue st q).slotAt (s.queue st q).next + 8 * s.who.k) 8 = (t, some bs) →
      exec .packetChoice s = .next (t.onQueue st q fun x => { x with slot := x.slot ++ [(s.who.k, bs)] })) ∧
    (s.who.up = false → ∀ r, (s.noteReady st).readyQueues st = [r] →
      let u := s.noteReady st
      let x := u.queue st r
      x.aged = true ∨ s.tick / 2 ≤ x.waitStart + 200000 → x.level < 4 →
      exec .packetChoice s = .next (((u.onStack st fun k => { k with lastQ := upd k.lastQ x.level fun _ => r }).onQueue
        st r fun x => { x with aged := false, waitStart := s.tick / 2 }).takePacket st r)) ∧
    (∀ r, st < s.stks.length → r < (s.stack st).queues.length → r ∈ s.readyQueues st →
      (s.noteReady st).queue st r = if (s.queue st r).ready then s.queue st r else
        { s.queue st r with ready := true, waitStart := s.tick / 2 }) ∧
    (∀ id ms l, s.nextPlacement st = some (id, ms) → s.launch? id = some l → exec .placeIteration s =
      .next (((ms.map fun m => (m, (s.f0Check l m.1).join)).foldl (fun u x => u.placeNext id st x.1 x.2) s).onStack st
        fun k => { k with lastPlace := some (s.pillar (32 * st)).ic })) ∧
    (∀ (l : Launch) (p : Nat),
      let F := s.frame p 0
      let own := F.state = .ready ∧ (s.pillar p).f0Launch = some l.id
      (own → s.f0Check l p = some none) ∧
      (¬ own → F.state = .ready ∨ F.state = .empty → s.f0Check l p =
        if s.othersRun l.id p then none
        else if F.state = .empty ∧ 4096 ≤ (s.pillar p).unitsUsed then some (some 3) else some none) ∧
      (F.state = .filling ∨ F.state = .draining → ∀ t, (s.pillar p).f0Wait = some t → s.f0Check l p =
        if t + (s.stack (p / 32)).wdl < s.tick / 2 then some (some 4) else none)) ∧
    (∀ (x : Seq) (l : Launch) (p t : Nat) (f : Option Nat),
      let y := x.place l p t f
      y.pc = l.entry &&& 0x000FFFFFFFFFFFE0 ∧ y.run = .running ∧ y.iter = some ⟨l.id, t, false, false, []⟩ ∧ y.loops = [] ∧
      y.queue = List.replicate 16 0 ∧ y.preds = List.replicate 16 false ∧ y.rbase = 0 ∧ y.wpos = 0 ∧ y.rpos = 0 ∧
      y.lpitch = 1 ∧ y.chkint = 0 ∧ y.mode = false ∧ y.latch = true ∧ y.regions = [] ∧ y.firstFault = f ∧
      (∀ i < 9, at0 y.named i = 0) ∧ (∀ i < 6, at0 y.named (9 + i) = indexValue l.levels t i) ∧
      y.vregs = x.vregs ∧ y.accs = x.accs ∧ y.bnds = x.bnds ∧ y.tvec = x.tvec) ∧
    (∃ t, exec .stackClear s = .next t ∧ t = (s.clearStack st).onStack st (fun k => { k with job := some s.who.k }) ∧
      t.mem = s.mem ∧ (st < s.stks.length → (t.stack st).job = some s.who.k ∧ (t.stack st).handles = []) ∧
      ∀ p ∈ pillarsOf st, p < s.pillars.length →
        let P := t.pillar p
        P.frames = List.replicate 64 Frame.cleared ∧ P.flags = List.replicate 32 0 ∧ P.mq = [] ∧ P.chainQ = [] ∧
        P.trays = List.replicate 4 [] ∧ P.bslots = List.replicate 4 (List.replicate 32 BSlot.zero) ∧ P.icache = [] ∧
        P.newPosts = [] ∧ P.rowBad = List.replicate 32 0 ∧
        ((∀ m ∈ allSeqs, ∀ r ∈ (s.seq m.1 m.2).recs, ∀ n c v, r.op ≠ .msend n c v) →
          P.pools = [16, 16, 16, 16]) ∧
        ∀ m < (s.pillar p).seqs.length,
          let y := t.seq p m
          y.vregs = List.replicate 32 (vfill 0) ∧ y.vpreds = List.replicate 8 pZero ∧
          y.dirs = List.replicate 8 (List.replicate 1024 0) ∧ y.norms = List.replicate 8 (List.replicate 16 0) ∧
          y.geos = List.replicate 8 0 ∧ y.bnds = List.replicate 8 0 ∧ ∀ a ∈ y.accs, a = Acc.zero)) ∧
  (∀ (c0 c1 : Nat) (s0 s1 d0 d1 : Int) (i0 i1 : Nat), i0 < c0 → i1 < c1 →
    let inner := [(0, s0, c0, d0, 0), (1, s1, c1, d1, 1)]
    let outer := [(0, s0, c0, d0, 1), (1, s1, c1, d1, 0)]
    indexValue inner (i0 * c1 + i1) 0 = BitVec.ofInt 64 (s0 + i0 * d0) ∧
    indexValue inner (i0 * c1 + i1) 1 = BitVec.ofInt 64 (s1 + i1 * d1) ∧
    indexValue outer (i1 * c0 + i0) 0 = BitVec.ofInt 64 (s0 + i0 * d0) ∧
    indexValue outer (i1 * c0 + i0) 1 = BitVec.ofInt 64 (s1 + i1 * d1) ∧
    ∀ lv, 2 ≤ lv → ∀ t, indexValue inner t lv = 0)

/-- R50-R53, R61-R64, R286, R388: the notify registers of a user queue. RESUME restarts every COPY and WLOAD left
part-way and SKIP counts the packet of the last halt. An index write of a self-refreshing HBM stack, or behind what
stands held there, is itself kept in the order of its memory-side point, the queue going on: the model's reading of
R286 (log 64). What happens to ERRC, to failed index writes, to an ABORT or EN 0 of a disabled queue, to a COPY or
WLOAD left part-way, at a second halt and to a WIDX write before any descriptor are the model's readings (log 27,
52, 70, 71, 83, 87). -/
def Obligations.QueueEvents : Prop :=
  ∀ s : State,
    let st := s.who.st
    let q := s.who.q
    let v := s.who.v
    let x := s.queue st q
    let onQ := fun (u : State) (f : Queue → Queue) => u.onQueue st q f
    (v ≤ x.widx → exec .notifyWidxWrite s = .next s) ∧
    (x.widx < v → v ≤ x.rdidx + 2 ^ bits x.qcfg 0 5 →
      exec .notifyWidxWrite s = .next (onQ s fun x => { x with widx := v })) ∧
    (x.widx < v → x.rdidx + 2 ^ bits x.qcfg 0 5 < v → exec .notifyWidxWrite s =
      .next (if x.state = .running then s.haltQueue st q 9 x.firstUnstarted 0 else s)) ∧
    (bit (s.stack st).bootst 3 = true → x.state = .disabled →
      let bs := s.readMem ((s.stack st).qtbase.toNat + 64 * q) 64
      let read := onQ s fun y => { y with
        en := true, state := .running, widx := 0, rdidx := 0, doneidx := 0, ring := leNat (bs.take 8)
        qcfg := BitVec.ofNat 64 (leNat ((bs.drop 8).take 8)), idxwb := leNat ((bs.drop 0x10).take 8)
        errwb := leNat ((bs.drop 0x18).take 8), next := 0, slot := [], slotBad := false, packets := [], aged := false
        ready := false, failedWb := [], abortTo := none, fault := none, badDesc := !descriptorOk bs }
      exec .queueEnable s = .next (if descriptorOk bs then read else read.haltQueue st q 10 0 0)) ∧
    (bit (s.stack st).bootst 3 = true → x.state ≠ .disabled →
      exec .queueEnable s = .next (onQ s fun x => { x with en := true })) ∧
    (bit (s.stack st).bootst 3 = false → exec .queueEnable s = .next s) ∧
    (x.state = .disabled → exec .abortQueue s = .next s ∧ exec .queueDisable s = .next s) ∧
    (x.state ≠ .disabled → ∀ e ∈ [Instr.queueDisable, .abortQueue],
      let off := decide (e = .queueDisable)
      exec e s = .next ((onQ s fun y => { y with
        en := y.en && !off, state := .aborting, packets := y.packets.filter fun k => k.started
        slot := [], slotBad := false, ready := false, failedWb := []
        abortTo := some (off || y.abortTo.getD false) }).onStack st
          fun k => { k with
            waiting := k.waiting.filter fun w => w.1 ≠ q
            wloads := k.wloads.filter fun w => w.1 ≠ q || (k.queues.getD q Queue.reset).packets.any fun y => y.idx = w.2 })) ∧
    (let finished := x.state = .aborting ∧ ∀ k ∈ x.packets, k.done = true
      let off := x.abortTo.getD false
      let ended := onQ s fun y => { y with
        next := x.widx, slot := [], slotBad := false, ready := false, rdidx := x.widx, doneidx := x.widx, packets := []
        state := if off then .disabled else .running, abortTo := none }
      (¬ finished → exec .abortDrained s = .next s) ∧
      (finished → off = false → exec .abortDrained s =
        .next ((ended.writeIdx st q true x.widx).writeIdx st q false x.widx)) ∧
      let index := leBytes 8 x.widx
      let closed := if x.badDesc then ended else
        ((ended.postVirt st x.job x.idxwb index).1.postVirt st x.job (x.idxwb + 8) index).1
      (finished → off = true → x.en = false → exec .abortDrained s = .next closed) ∧
      (finished → off = true → x.en = true → exec .abortDrained s = .next (closed.enableQueue st q))) ∧
    (∀ (u t : State) (job va : Nat) (bs : List Byte) (r : Xlate), u.translate st job va .write = (t, r) →
      (∀ c info, r = .bad c info → u.postVirt st job va bs = (t, false)) ∧
      ∀ pa leaf, r = .ok pa leaf →
        let waits := t.refreshing pa = true ∨ ∃ x ∈ t.standing, x.meets (t.canonPa pa) bs.length = true
        (¬ waits → u.postVirt st job va bs = (t.busWrite pa bs, true)) ∧
        (waits → u.postVirt st job va bs =
          ({ t with standing := t.standing ++ [.report (t.canonPa pa) (.bytes bs)] }, true))) ∧
    (let plain := x.failedWb.foldl (fun u w => u.writeIdx st q w.1 w.2)
        (onQ s fun y => { y with state := if x.abortTo.isSome then .aborting else .running, failedWb := [] })
      let restarted := fun (but : Option Nat) => onQ plain fun y => { y with packets := y.packets.map fun k =>
        if k.passed = true ∧ k.started = false ∧ k.done = false ∧ (some k.idx) ≠ but then
          { k with progress := 0, started := true } else k }
      (x.state ≠ .halted ∨ x.errc = 10 → exec .resumeQueue s = .next s ∧ exec .skipPacket s = .next s) ∧
      (x.state = .halted → x.errc ≠ 10 → exec .resumeQueue s = .next (restarted none) ∧
        (x.fault = none → exec .skipPacket s = .next (restarted none)) ∧
        ∀ i, x.fault = some i →
          let u := restarted (some i)
          (((u.queue st q).packet? i).isSome = true → exec .skipPacket s = .next ((u.onStack st fun y =>
            { y with wloads := y.wloads.filter fun w => w ≠ (q, i) }).completePacket st q i)) ∧
          (((u.queue st q).packet? i).isSome = false → exec .skipPacket s = .next ((onQ u fun y =>
            let z := { y with packets := y.packets ++ [⟨i, [], none, true, false, false, 0⟩] }
            if i = y.next then z.goTo (z.freeFrom (i + 1)) else z).packetRuns st q i)))) ∧
    (∀ (u : State) (i : Nat), u.packetRuns st q i =
      (if ((u.queue st q).packet? i).any (fun k => k.started) then u
        else ((((u.onPacket st q i fun k => { k with started := true }).onStack st fun y => { y with
          lastStart := some (u.tick / 2), waiting := y.waiting.filter fun w => w ≠ (q, i) }).onPacket st q i
            fun k => { k with passed := true }).advanceRdidx st q)).completePacket st q i)

/-- R70, R79-R86: chunks, gangs, heartbeats and elections among the participants of a launch. A request waits for
those of its own time and is answered among them in participant order; a message of a participant declared failed,
or under an old epoch, is discarded. A participant silent for 30 us is declared failed and what was granted to it
and not posted is lost; its members fail their gang, those held only in a context image among them (R361); a
leader's or candidate's fall starts an election under the next epoch, which the candidate and every sender of a log
take up (R81), and a second fall within 30 us ends the launch. A stack shut or out of service sends nothing (R378,
R388). The rebuild after an election, the ELECT word, iterations already counted lost by a kill, the inclusive 30
us, that a heartbeat's count is not posted while the block's HBM stack refreshes itself, and a failed log holder
without a successor, are the model's readings (log 28, 29, 31, 51, 55, 64, 93). -/
def Obligations.ChunksAndGangs : Prop :=
  (∀ (r : Nat × Nat) (rs : List (Nat × Nat)),
    let before := fun (a b : Nat × Nat) => a.1 < b.1 ∨ (a.1 = b.1 ∧ a.2 ≤ b.2)
    (insertRequest r rs).Perm (r :: rs) ∧ (rs.Pairwise before → (insertRequest r rs).Pairwise before)) ∧
  ∀ (s : State) (l : Launch), s.launch? s.who.l = some l →
    let i := s.who.part
    let now := s.tick / 2
    let onL := fun (u : State) (f : Launch → Launch) => u.onLaunch s.who.l f
    let healthy := fun (m : Launch) (j : Nat) => (m.part? j).any fun x => x.failed.isNone
    let inEpoch := fun (m : Launch) (j e : Nat) => (m.part? j).any fun x => decide (x.epoch ≤ e)
    let heard := fun (m : Launch) (j k : Nat) =>
      { m with parts := upd m.parts j fun x => { x with heard := upd x.heard k fun _ => now } }
    let seen := fun (m : Launch) (j e : Nat) => { m with parts := upd m.parts j fun x => { x with epoch := max x.epoch e } }
    let told := fun (u : State) (id n : Nat) => { (u.membersOf id).foldl (fun v m => v.onSeq m.1 m.2 fun y =>
      { y with gang := y.gang ++ List.replicate n (u.tick / 2, false) }) u with
        away := u.away.map fun a => if a.iter.any fun t => t.launch = id then
          { a with seq := { a.seq with gang := a.seq.gang ++ List.replicate n (u.tick / 2, false) } } else a }
    exec .chunkRequest s = .next (onL s fun m => if healthy m i then
      heard { m with requests := insertRequest (s.tick, i) m.requests } m.leader i else m) ∧
    (∀ (m : Launch) (u : Nat), m.electing = false → m.requests = [(u, i)] → u < s.tick → m.nextT < m.total →
      let n := min (if bits m.hdr 16 16 = 0 then 64 else bits m.hdr 16 16) (m.total - m.nextT)
      m.answerBefore s.tick =
        { m with requests := [], nextT := m.nextT + n, grants := m.grants ++ [(i, m.nextT, n, m.holders i)] }) ∧
    (∀ m : Launch, m.electing = false → m.total ≤ m.nextT → m.answerBefore s.tick =
      { m with requests := m.requests.filter fun r => s.tick ≤ r.1 }) ∧
    (∀ m : Launch, m.electing = true → m.answerBefore s.tick = m) ∧
    exec .grantLogEntry s = .next (onL s fun m =>
      match m.grants.find? fun g => g.1 = i && g.2.1 = s.who.v with
      | none => m
      | some g => if inEpoch m s.who.k s.who.n && healthy m m.leader then
          heard (heard (seen { m with
            parts := upd m.parts s.who.k fun x => { x with log := x.log ++ [(i, s.who.v, g.2.2.1)] }
            grants := m.grants.map fun h =>
              if h.1 = i ∧ h.2.1 = s.who.v then (h.1, h.2.1, h.2.2.1, h.2.2.2.filter fun r => r ≠ s.who.k) else h }
            s.who.k s.who.n) s.who.k m.leader) m.leader s.who.k
        else m) ∧
    exec .chunkGrant s = .next (onL s fun m => if inEpoch m i s.who.k && healthy m i && healthy m m.leader then
      heard (seen { m with
        grants := m.grants.filter fun g => !(g.1 = i && g.2.1 = s.who.v)
        nextT := max m.nextT (s.who.v + s.who.n)
        parts := upd m.parts i fun x => { x with
          granted := x.granted ++ [(s.who.v, s.who.n)], unplaced := x.unplaced ++ [(s.who.v, s.who.n)] } } i s.who.k)
        i m.leader
      else m) ∧
    (∀ x, l.part? i = some x → x.failed = none → x.pkg = s.pkg → exec .gangReport s =
      .next (onL (s.onPart s.who.l i fun y => { y with
        held := allSeqs.filter fun m => y.held.contains m || (s.seats x.stack l).contains m }) fun m =>
          heard m m.leader i)) ∧
    (∃ t, exec .gangGrant s = .next t ∧ t.mem = s.mem ∧ t.pillars = s.pillars ∧
      ((s.launches.map fun m => m.id).Nodup →
        (healthy l l.leader = true → (∀ x ∈ l.parts, x.failed = none → x.epoch ≤ s.who.k) →
          ∀ m, t.launch? s.who.l = some m → m.nextT = l.total ∧ ∀ x ∈ m.parts, x.held.length ≤ x.left) ∧
        (healthy l l.leader = false ∨ (∃ x ∈ l.parts, x.failed = none ∧ s.who.k < x.epoch) →
          t.launch? s.who.l = some l))) ∧
    (∀ x, l.part? i = some x →
      let sends := x.pkg = s.pkg ∧ x.failed = none ∧ (s.stack x.stack).shut = false ∧
        (s.stack x.stack).bootst.getLsbD 3 = true ∧ x.mute = false
      (sends → exec .heartbeat s = .next { s with
        agenda := (((List.range l.parts.length).filter fun j => j ≠ i).map fun r =>
          Act.event .heartbeatReceive { l := s.who.l, part := r, k := i, v := x.epoch, n := x.retired }) ++ s.agenda }) ∧
      (¬ sends → exec .heartbeat s = .next s)) ∧
    (∀ r x, l.part? i = some r → l.part? s.who.k = some x → x.failed.isSome ∨ s.who.v < r.epoch →
      exec .heartbeatReceive s = .next s) ∧
    (∀ r x, l.part? i = some r → l.part? s.who.k = some x → x.failed = none → r.epoch ≤ s.who.v →
      let told := s.onPart s.who.l i fun r => { r with heard := upd r.heard s.who.k (fun _ => now), epoch := s.who.v }
      exec .heartbeatReceive s = .next (State.checkLaunch
        (if (l.holders s.who.k).head? = some i ∧ l.abandoned = false ∧ s.atomicsHeld l.jcb = false then
          (told.jcbStep l.jcb fun j => j.addCount (s.who.n - x.posted) now).onPart s.who.l s.who.k fun x =>
            { x with
              posted := max x.posted s.who.n, copied := max x.copied s.who.n, retired := max x.retired s.who.n }
        else told) s.who.l)) ∧
    (∀ x, l.part? i = some x → x.failed.isSome ∨ l.abandoned = true → exec .participantFailed s = .next s) ∧
    (∀ x, l.part? i = some x → x.failed = none → l.abandoned = false →
      let sees := fun (j : Nat) => j ≠ i ∧ ∃ y, l.part? j = some y ∧ y.pkg = s.pkg ∧ y.failed = none ∧
        y.heard.getD i 0 + 30000 ≤ now
      let tells := fun (j : Nat) => s.who.up = true ∧ j = s.who.k ∧ healthy l j = true ∨
        s.who.up = false ∧ sees j ∧ ∀ k < j, ¬ sees k
      let here := fun (u : State) => (u.membersOf l.id).filter fun m => decide (m.1 / 32 = x.stack)
      let granted := x.granted.foldl (fun n c => n + c.2) 0
      let onWay := l.grants.filter fun g => decide (g.1 = i) && (decide (l.leader ≠ i) && !l.electing ||
        (List.range l.parts.length).any fun j => decide (j ≠ i) && (l.part? j).any fun y =>
          y.failed.isNone && y.log.contains (g.1, g.2.1, g.2.2.1))
      let lost := granted + onWay.foldl (fun n g => n + g.2.2.1) 0 - x.posted - x.killed
      let ran := (here s).foldl (fun u m => u.failMember m.1 m.2) s
      let members := if x.pkg = s.pkg then
          if l.gang then (ran.away.filter fun a => (a.iter.any fun t => t.launch = l.id) && decide (a.p / 32 = x.stack) &&
            !a.iter.any fun t => t.failed).foldl (fun u a => u.failAway l.id a) ran
          else ran
        else if l.gang then told s l.id (granted - x.posted - x.killed)
        else s
      let posted := members.report l.jcb (.lost lost)
      let silenced := if x.pkg = s.pkg then (here posted).foldl (fun u m => u.onSeq m.1 m.2 fun y =>
          { y with iter := y.iter.map fun t => { t with lost := true } }) posted
        else posted
      let fallen := silenced.onLaunch l.id fun l => { l with
        lostN := l.lostN + lost
        requests := l.requests.filter fun r => r.2 ≠ i
        grants := (l.grants.filter fun g => g.1 ≠ i).map fun g => (g.1, g.2.1, g.2.2.1, g.2.2.2.filter fun h => h ≠ i)
        gathered := l.gathered.filter fun g => g ≠ i
        parts := upd l.parts i fun x => { x with failed := some now, unplaced := [], held := [] } }
      ((∀ j, ¬ tells j) → exec .participantFailed s = .next s) ∧
      ∀ j, tells j →
        let told := onL fallen fun m => { m with
          parts := m.parts.mapIdx fun k y => if k ≠ j ∧ y.failed.isNone then
            { y with heard := upd y.heard j fun _ => now } else y }
        let second := ∃ y ∈ l.parts, ∃ t, y.failed = some t ∧ now ≤ t + 30000
        let leads := l.leader = i ∨ (l.electing = true ∧ l.candidate = some i)
        (second → exec .participantFailed s = .next (told.abandonLaunch s.who.l)) ∧
        (¬ second → leads → exec .participantFailed s = .next ((told.elect s.who.l).checkLaunch s.who.l)) ∧
        (¬ second → ¬ leads →
          exec .participantFailed s = .next ((onL told Launch.endElection).checkLaunch s.who.l))) ∧
    (∀ (u : State) (p q : Nat) (m : Launch), u.launchOf p q = some m →
      let v := u.onSeq p q fun x => { x with iter := x.iter.map fun i => { i with failed := true } }
      (m.gang = false → u.failMember p q = u) ∧
      (m.gang = true → ((u.seq p q).iter.any fun i => i.failed) = false → u.failMember p q =
        { (v.membersOf m.id).foldl (fun w n => if n = (p, q) then w else w.onSeq n.1 n.2 fun x =>
          { x with gang := x.gang ++ [(u.tick / 2, false)] }) v with
            away := v.away.map fun a => if a.iter.any fun t => t.launch = m.id then
              { a with seq := { a.seq with gang := a.seq.gang ++ [(u.tick / 2, false)] } } else a })) ∧
    (∀ (u : State) (id : Nat) (a : Away),
      let it := fun (b : Away) => b.job = a.job ∧ b.p = a.p ∧ b.q = a.q
      let of := fun (b : Away) => (b.iter.any fun t => t.launch = id) = true
      let v := u.failAway id a
      v.mem = u.mem ∧ v.pillars = ((u.membersOf id).foldl (fun (w : State) n => w.onSeq n.1 n.2 fun x =>
        { x with gang := x.gang ++ [(u.tick / 2, false)] }) u).pillars ∧
        ∀ (k : Nat) (b : Away), u.away[k]? = some b → ∃ c, v.away[k]? = some c ∧
          (it b → c = { b with iter := b.iter.map fun i => { i with failed := true } }) ∧
          (¬ it b → of b → c = { b with seq := { b.seq with gang := b.seq.gang ++ [(u.tick / 2, false)] } }) ∧
          (¬ it b → ¬ of b → c = b)) ∧
    (∀ (u : State) (id : Nat) (m : Launch), u.launch? id = some m →
      (let lost := m.total - m.parts.foldl (fun n x => n + x.posted) 0 - m.lostN
      u.abandonLaunch id = ((u.report m.jcb (.lost lost)).onLaunch id fun l => { l with
        abandoned := true, nextT := l.total, requests := [], grants := [], lostN := l.lostN + lost
        parts := l.parts.map fun x => { x with unplaced := [], held := [] } }).checkLaunch id) ∧
      ∀ c, healthy m c = true → (∀ j < c, healthy m j = false) →
        (u.fnmode.getLsbD 1 = false → (u.elect id).mem = u.mem) ∧
        (u.elect id).launches = (u.onLaunch id fun l =>
          let e := { l with
            epoch := l.epoch + 1, electing := true, gathered := []
            candidate := if u.fnmode.getLsbD 1 then none else some c }
          if u.fnmode.getLsbD 1 then e else seen e c e.epoch).launches) ∧
    (∀ m : Launch, (m.candidate = none → m.endElection = m) ∧ ∀ c, m.candidate = some c →
      let all := m.electing = true ∧ ∀ j, healthy m j = true → j ∈ m.gathered
      (all → m.endElection = m.rebuild c) ∧ (¬ all → m.endElection = m)) ∧
    exec .logTransfer s = .next (onL s fun m => match m.candidate with
      | none => m
      | some c => if inEpoch m c s.who.k && healthy m i then
          (heard (seen (seen { m with gathered := mark m.gathered i } i s.who.k) c s.who.k) c i).endElection
        else m) ∧
    (∀ c, c < l.parts.length →
      let m := l.rebuild c
      let logs := l.parts.flatMap fun x => if x.failed.isNone then x.log else []
      m.leader = c ∧ m.epoch = l.epoch ∧ m.electing = false ∧ m.grants = [] ∧ m.requests = l.requests ∧
        (∀ g ∈ logs, g.2.1 + g.2.2 ≤ m.nextT) ∧ (m.nextT = 0 ∨ ∃ g ∈ logs, g.2.1 + g.2.2 = m.nextT) ∧
        ∀ g ∈ logs, healthy l g.1 = true → ∃ x, m.part? g.1 = some x ∧ (g.2.1, g.2.2) ∈ x.granted)

/-- R237, R238, R241, R248, R253, R275-R281, R286, R354: one access of a command: a sector of memory read or
written, a block of 32 bytes of a frame read or written, in the enumeration of R275; what one side has read is on
its way until the other takes it, marked where its source is. The last access that reads a frame gives the read role
up. A page may be translated before its access's turn. A command's completion, and the two edges of an HBM stack's
self-refresh: an access held at its memory-side point, or behind what stands held there, stands in its order, and so
do the part's own steps. On a host page one element at a time is performed; a write to a UN page of the device is
performed or held, and a held one reaches memory when it is drained. The freedom of the sector order, the register
window, STALE for an outside element of a COPYOUT of an expired frame, the moment the roles end, the order in which
what stands held goes on, what a poisoned index or operand marks and LG6 bytes written unchanged are the model's
readings (log 17, 42, 43, 46, 63, 64, 98, 99). -/
def Obligations.EngineEvents : Prop :=
  ∀ s : State,
    let p := s.who.p
    let q := s.who.q
    let i := s.who.rec_
    let k := s.who.k
    let mine := fun (r : Rec) (e : EngineOp) => s.rec? p q i = some r ∧ r.op = .engine e ∧ r.faulted = false
    let reads := fun (e : EngineOp) => e.kind = .copyin ∨ e.kind = .gather
    let writes := fun (e : EngineOp) => e.kind = .copyout ∨ e.kind = .scatter
    (∀ r e run, mine r e → e.begun = true → (s.undone p e).find? (fun x => x.1 = k) = some (k, run) → s.who.up = false →
      s.standing = [] → (∀ b ∈ s.selfRefresh, b = false) →
      let w := e.handle.width
      let n := run.length * w
      let F := s.frame p e.frame
      let memory := k < (s.sectors p e).length
      let steps := fun (u : State) => exec .engineSectorTransaction s = .next (u.endReads p q i)
      let faults := fun (u : State) (c : Nat) (info : W64) => steps (u.faultRec p q i c info)
      let staleIx := faults s cStale (faddr e.ixf (256 * bits e.word 20 8))
      let oneOf := fun (u : State) (off bytes : Nat) =>
        steps ((u.onEngine p q i fun e => { e with part := off :: e.part }).onRec p q i
          fun r => { r with progress := r.progress + bytes })
      let whole := fun (leaf : W64) => leafH leaf = false ∨ run.length = 1
      let refuses := fun (f m : Nat) (ctx : Bool) =>
        if ctx = true then (if (s.frame p f).state = .empty then some (cFstate, s.frameInfo p f 7) else none)
        else if (s.frame p f).state ≠ .filling then some (cFstate, s.frameInfo p f 7)
        else if (s.frame p f).expb < (s.frame p f).land + m then some (cFstate, s.frameInfo p f 8)
        else none
      (reads e → memory →
        (e.kind = .gather → (s.frame p e.ixf).xp = true → staleIx) ∧
        (e.kind = .copyin ∨ (s.frame p e.ixf).xp = false → ∀ off va, run.head? = some (off, some va) →
          (∀ t c info, s.translate (p / 32) (s.jobOf p q) va .read = (t, .bad c info) → t.fnmode.getLsbD 0 = false →
            faults t c info) ∧
          ∀ t pa leaf, s.translate (p / 32) (s.jobOf p q) va .read = (t, .ok pa leaf) →
            let element := fun (x : Elem) =>
              let a := x.2.getD 0
              (x.1, t.readFor p q r.order a (pa + a - va) w,
                t.readBad p q r.order a (pa + a - va) w || e.badIndex x.1)
            (whole leaf → steps ((t.stageBytes p q i (run.map element)).noteDone p q i k 0)) ∧
            (leafH leaf = true → 1 < run.length →
              (leafOrd leaf = 0 → oneOf (t.stageBytes p q i [element (off, some va)]) off 0) ∧
              (leafOrd leaf ≠ 0 → ∃ x ∈ run,
                oneOf (({ t with nonce := t.nonce + 1 } : State).stageBytes p q i [element x]) x.1 0)))) ∧
      (reads e → ¬ memory →
        (∀ c info, refuses e.frame n e.ctx = some (c, info) → faults s c info) ∧
        (refuses e.frame n e.ctx = none →
          let xs := run.map fun x => (x.1, (e.staged x.1).getD (e.handle.padBytes, e.badIndex x.1))
          steps ((s.fillFrame p q i e.frame e.ctx (xs.map fun x => (x.1, x.2.1)) n (xs.any fun x => x.2.2)).noteDone
            p q i k n))) ∧
      (writes e → ¬ memory →
        (F.xp = true → faults s cStale (faddr e.frame ((run.head?.map Prod.fst).getD 0))) ∧
        (F.xp = false → e.kind = .scatter → (s.frame p e.ixf).xp = true → staleIx) ∧
        (F.xp = false → e.kind = .copyout ∨ (s.frame p e.ixf).xp = false →
          (F.state = .empty → faults s cFstate (s.frameInfo p e.frame 5)) ∧
          (F.state ≠ .empty → steps ((s.stageBytes p q i (run.map fun x =>
            (x.1, F.readN x.1 w, F.isPoisoned x.1 w || e.badIndex x.1))).noteDone p q i k 0)))) ∧
      (writes e → memory →
        (∀ h, e.held.find? (fun h => h.k = k) = some h →
          steps (((s.writeSector (h.parts.map Prod.snd) h.bad).onEngine p q i fun e =>
            { e with held := e.held.filter fun x => x.k ≠ h.k }).noteDone p q i h.k
              ((h.parts.map fun x => x.2.2.length).foldl (fun a b => a + b) 0))) ∧
        ((∀ h ∈ e.held, h.k ≠ k) → ∀ off va, run.head? = some (off, some va) →
          (∀ t c info, s.translate (p / 32) (s.jobOf p q) va .write = (t, .bad c info) → t.fnmode.getLsbD 0 = false →
            faults t c info) ∧
          ∀ t pa leaf, s.translate (p / 32) (s.jobOf p q) va .write = (t, .ok pa leaf) →
            let way := fun (x : Elem) => (e.staged x.1).getD ([], false)
            let parts := run.map fun x => (x.2.getD 0, pa + x.2.getD 0 - va, (way x).1)
            let bad := run.any fun x => (way x).2
            let written := fun (u : State) => (u.writeSector (parts.map Prod.snd) bad).noteDone p q i k n
            (leafOrd leaf ≠ 2 → whole leaf → steps (written t)) ∧
            (leafOrd leaf = 2 → leafH leaf = false →
              let u := { t with nonce := t.nonce + 1 }
              steps (written u) ∨ steps (u.onEngine p q i fun e => { e with held := e.held ++ [⟨k, parts, bad⟩] })) ∧
            (leafH leaf = true → 1 < run.length → leafOrd leaf = 0 →
              oneOf (t.writeSector [(pa, (way (off, some va)).1)] (way (off, some va)).2) off w))) ∧
      (e.kind = .atomg →
        let v := e.atomWidth
        (k = 1 →
          (F.xp = true → faults s cStale (faddr e.frame (16 * e.fseg))) ∧
          (F.xp = false → ∀ va, e.atomVa = some va → va % v ≠ 0 → ∃ info,
            faults { s with nonce := s.nonce + 1 } cAddr info) ∧
          (F.xp = false → (∀ va, e.atomVa = some va → va % v = 0) → steps ((s.stageBytes p q i
            [(1, F.readN (16 * e.fseg) 16, F.isPoisoned (16 * e.fseg) 16)]).noteDone p q i 1 0))) ∧
        (k = 0 → e.atomVa = none → steps ((s.stageBytes p q i
          [(2, leBytes 8 (e.handle.pad.toNat % 2 ^ (8 * w)), false)]).noteDone p q i 0 v)) ∧
        (k = 0 → ∀ va ops bad, e.atomVa = some va → e.staged 1 = some (ops, bad) →
          (∀ t c info, s.translate (p / 32) (s.jobOf p q) va .write = (t, .bad c info) → t.fnmode.getLsbD 0 = false →
            faults t c info) ∧
          ∀ t pa leaf, s.translate (p / 32) (s.jobOf p q) va .write = (t, .ok pa leaf) →
            t.canonPa pa / 32 ∉ t.poison →
            let old := leNat (t.busRead pa v)
            let u := t.busWrite pa (leBytes v (atomgNew (bits e.word 36 4) v old (leNat (ops.take v))
              (leNat ((ops.drop 8).take v))))
            steps (((if bad then u.markMem pa else u).stageBytes p q i [(2, leBytes 8 old, false)]).noteDone p q i 0 v)) ∧
        (k = 2 →
          (∀ c info, refuses e.rf 8 false = some (c, info) → faults s c info) ∧
          (refuses e.rf 8 false = none → ∀ bs bad, e.staged 2 = some (bs, bad) →
            steps ((s.fillFrame p q i e.rf false [(8 * e.fseg, bs)] 8 false).noteDone p q i 2 0))))) ∧
    (∀ r e, s.rec? p q i = some r → r.op = .engine e →
      (r.faulted = true → exec .engineSectorTransaction s = .next s) ∧
      (r.faulted = false → e.ready = false → exec .engineSectorTransaction s = .next (s.admitEngine p q i e)) ∧
      (r.faulted = false → e.ready = true → e.begun = false → ∃ done, exec .engineSectorTransaction s =
        .next (s.onEngine p q i fun e => { e with index := some (s.indexNow p e), done := done }))) ∧
    (∀ r e run, mine r e → e.begun = true → (s.undone p e).find? (fun x => x.1 = k) = some (k, run) →
      let as := s.accessesOf p e (k, run)
      let touches := fun (a : MemAcc) (pa : Nat) => ∃ leaf, s.pageOf p q a = some (pa, leaf)
      (s.who.up = true → ∀ a, as.head? = some a →
        (∀ t pa leaf, s.translate (p / 32) (s.jobOf p q) a.va (if a.wr then .write else .read) = (t, .ok pa leaf) →
          exec .engineSectorTransaction s = .next t) ∧
        ∀ t c info, s.translate (p / 32) (s.jobOf p q) a.va (if a.wr then .write else .read) = (t, .bad c info) →
          t.fnmode.getLsbD 0 = false → exec .engineSectorTransaction s = .next (t.faultRec p q i c info)) ∧
      (s.who.up = false → (∀ x ∈ s.standing, ∀ rs, x ≠ .access p q i k rs) →
        (∃ a ∈ as, ∃ pa leaf, s.pageOf p q a = some (pa, leaf) ∧ s.refreshing pa = true ∧
          (leafC leaf = false ∨ e.kind = .atomg ∨ a.wr = true ∧ e.rel = true)) ∨
        (∃ a ∈ as, ∃ pa, touches a pa ∧ ∃ x ∈ s.standing, x.meets (s.canonPa pa) a.n = true) →
        exec .engineSectorTransaction s = .next { s with standing := s.standing ++ [.access p q i k
          (as.filterMap fun a => (s.pageOf p q a).map fun x => (s.canonPa x.1, a.n))] })) ∧
    (∀ e, e.kind ≠ .atomg →
      let inside := (s.elements p e).filter fun x => x.2.isSome
      let sector := fun (x : Elem) => x.2.map fun va => va / 32
      let cut := fun (ls : List (List Elem)) (l : List Elem) (same : Elem → Elem → Prop) =>
        ls.flatten = l ∧ (∀ t ∈ ls, t ≠ [] ∧ ∀ x ∈ t, ∀ y ∈ t, same x y) ∧
          ∀ before t u after, ls = before ++ t :: u :: after → ∀ x ∈ t, ∀ y ∈ u, ¬ same x y
      cut (s.sectors p e) inside (fun x y => sector x = sector y) ∧
      cut (s.blocks p e) (s.elements p e) (fun x y => x.1 / 32 = y.1 / 32) ∧
      (e.done = [] → e.part = [] → (s.undone p e).map Prod.snd = s.sectors p e ++ s.blocks p e) ∧
      let s0 := 2 ^ bits e.word 36 4
      let s1 := 2 ^ bits e.word 40 4
      (s.elements p e).length = s0 * s1 ∧ ∀ a < s0, ∀ b < s1, e.indexed = false →
        (s.elements p e)[b * s0 + a]? = some (e.fseg * e.tileBytes + (b * s0 + a) * e.handle.width,
          e.handle.at (bits e.word 0 14 * s0 + a) (bits e.word 14 14 * s1 + b) (bits e.word 28 8))) ∧
    (∀ (u : State) (f n : Nat) (ctx bad : Bool) (parts : List (Nat × List Byte)), p < u.pillars.length →
      f < (u.pillar p).frames.length →
      let H := u.frame p f
      let G := (u.fillFrame p q i f ctx parts n bad).frame p f
      { G with data := H.data, land := H.land, poison := H.poison } = H ∧ G.land = (if ctx then H.land else H.land + n) ∧
        G.data = parts.foldl (fun d x => Mem.writeN d x.1 x.2) H.data ∧
        (bad = true → ∀ x ∈ parts, ∀ o < x.2.length, (x.1 + o) / 32 ∈ G.poison)) ∧
    (∀ u r e, u.rec? p q i = some r → r.op = .engine e → e.ready = true →
      let drop := fun (b : Bool) (f : Nat) (u : State) => if b then u.onFrame p f fun F => { F with
        drn := F.drn - 1, state := if F.drn ≤ 1 ∧ F.state = .draining then .ready else F.state } else u
      let v := drop e.roleX e.ixf (drop e.roleF e.frame u)
      let left := ∃ kt ∈ u.undone p e, u.readsBlock p e kt.1 = true ∨ e.kind = .gather ∨
        ∃ a ∈ u.accessesOf p e kt, a.wr = true ∧ ∃ c info, u.peekXlate (p / 32) (u.jobOf p q) a.va true = .bad c info
      (¬ left → u.endReads p q i =
        if e.roleF || e.roleX then v.onEngine p q i fun e => { e with roleF := false, roleX := false } else v) ∧
      (left → u.endReads p q i = u)) ∧
    (∀ (u : State) (order va pa n : Nat), (∀ r ∈ (u.seq p q).recs, ∀ e, r.op = .engine e → e.held = []) →
      u.readFor p q order va pa n = u.busRead pa n ∧
      (u.readBad p q order va pa n = true ↔ ∃ j < n, u.canonPa (pa + j) / 32 ∈ u.poison)) ∧
    (∀ v old opd cmp : Nat, v = 4 ∨ v = 8 → old < 2 ^ (8 * v) → opd < 2 ^ (8 * v) →
      let sg := fun (x : Nat) => signedBits (8 * v) x
      let new := fun aop => atomgNew aop v old opd cmp
      new 0 = (old + opd) % 2 ^ (8 * v) ∧ sg (new 1) = min (sg old) (sg opd) ∧ sg (new 2) = max (sg old) (sg opd) ∧
        new 3 = min old opd ∧ new 4 = max old opd ∧ new 5 = old &&& opd ∧ new 6 = old ||| opd ∧ new 7 = old ^^^ opd ∧
        new 8 = opd ∧ new 9 = if old = cmp then opd else old) ∧
    (∀ r e, s.rec? p q i = some r → r.op = .engine e →
      let ends := fun (u : State) => exec .engineComplete s =
        .next ((if e.fl then u.postFlag (e.flagPillar p) e.fk 1 else u).endRec p q r.idx)
      let fills := fun (f : Nat) =>
        e.written = some f ∧ e.roleW = true ∧ e.reached = true ∧ (s.frame p f).state = .filling
      ((∀ f, ¬ fills f) → ends s) ∧
      ∀ f, fills f → ends (s.onFrame p f fun F => F.complete (s.pillar p).fadeCount)) ∧
    exec .thermalHold s = .next ((s.onEngine p q i fun e => { e with told := true }).wakeSeq p q) ∧
    exec .hbmSelfRefreshEnter s = .next { s with selfRefresh := upd s.selfRefresh k fun _ => true } ∧
    exec .hbmSelfRefreshExit s = .next (State.performReports { s with selfRefresh := upd s.selfRefresh k fun _ => false }) ∧
    (∀ (pa n a k : Nat) (r : Report) (rs : List (Nat × Nat)),
      let meets := fun (x y : Nat × Nat) => x.1 < y.1 + y.2 ∧ y.1 < x.1 + x.2
      let size := match r with
        | .bytes bs => bs.length
        | _ => 64
      ((Standing.report a r).meets pa n = true ↔ meets (a, size) (pa, n)) ∧
      ((Standing.access p q i k rs).meets pa n = true ↔ ∃ x ∈ rs, meets x (pa, n))) ∧
    (∀ (u : State) (pa : Nat) (r : Report),
      (u.standing = [.report pa r] →
        let v := { u with standing := [] }
        (u.refreshing pa = true → u.performReports = u) ∧
        (u.refreshing pa = false → u.performReports = match r with
          | .reject n => v.jcbStep pa fun j => j.reject n
          | .lost n => v.jcbStep pa fun j => j.addLost n (v.tick / 2)
          | .kill done cause n => v.jcbStep pa fun j => (j.addCount done (v.tick / 2)).kill cause n (v.tick / 2)
          | .bytes bs => v.busWrite pa bs)) ∧
      ∀ x : Standing, u.standing = [x, .report pa r] → x ≠ .report pa r →
        (∀ b t, x = .report b t → u.refreshing b = true) → x.meets (u.canonPa pa) r.size = true → u.performReports = u)

/-- R13, R157, R288, R292, R296-R301, R306, R354, R355, R360, R363, R369, R395: the cube engine's start, waves,
updates and completions; what the sums are CubeSums says. A wave reads the row buffer, its frame, its chain blocks
or, for CMMAH, the elements of its handle, and its slots; its update lands with the checksums and the ballast.
Poison it reads sets POIS and reads as zeros, the mark going with the block into the row buffer and to the east; a
fault of its reads, STALE and FSTATE of a frame among them, parks the operation. The model's choices and readings: a
chain block goes east as it came, and what it does not bring the row buffer keeps (log 24); the FINFO of a handle
that is not there is a free value (log 25); a wave of several layers takes and sends a chain block for each (log
104); a layer that has failed faults UE at the wave or the load that uses it, which names the highest one (log 91);
a BOUND trap ends its operation (log 37, 41); the row buffer and the chain queue are marked by groups of 8 bytes
(log 77). -/
def Obligations.CubeEvents : Prop :=
  ∀ s : State,
    let p := s.who.p
    let P := s.pillar p
    (P.cubeHead = none → exec .cubeOpStart s = .next s ∧ exec .cubeWaveStart s = .next s) ∧
    (∀ c, P.cubeHead = some c → exec .cubeOpStart s = .next (s.onCube p c.q c.record fun d => { d with
      started := true
      kind := match d.kind with
        | .op o => .op { o with waveAt := P.ic }
        | k => k })) ∧
    (∀ c o, P.cubeHead = some c → c.kind = .op o → s.waveInRefresh p c.q o = false →
      (∀ lj, (o.stepsAt o.next).find? (fun lj => (s.stack (p / 32)).layerFailed lj.1) = some lj →
        let info := BitVec.ofNat 64 (11 + 16 * (lj.1 % 4))
        exec .cubeWaveStart s = .next ((s.sufferUe p info).parkWave p c.q c.record o (cUe, info))) ∧
      ((o.stepsAt o.next).find? (fun lj => (s.stack (p / 32)).layerFailed lj.1) = none → o.src = .noHandle →
        ∃ info, exec .cubeWaveStart s =
          .next (({ s with nonce := s.nonce + 1 } : State).parkWave p c.q c.record o (cXlate, info)))) ∧
    (∀ c o, P.cubeHead = some c → c.kind = .op o → s.waveInRefresh p c.q o = false →
      (o.stepsAt o.next).find? (fun lj => (s.stack (p / 32)).layerFailed lj.1) = none →
      let js := (o.stepsAt o.next).map Prod.snd
      let n := o.readBytes
      let parks := fun (u : State) (f : WaveFault) => exec .cubeWaveStart s = .next (u.parkWave p c.q c.record o f)
      (o.src = .rowBuffer → exec .cubeWaveStart s =
        .next (s.runWave p c.q c.record o (js.map fun j => P.rowBlock j n))) ∧
      (∀ f off stride, o.src = .frame f off stride →
        let F := s.frame p f
        let bad := ∃ j ∈ js, F.isPoisoned (off + stride * j) n = true
        let runs := fun (u : State) => exec .cubeWaveStart s =
          .next (u.runWave p c.q c.record o (js.map fun j => F.markedBlock (off + stride * j) n))
        (F.unreadable = true → parks s (cFstate, fstateInfo f F.state 5)) ∧
        (F.unreadable = false → F.xp = true → parks s (cStale, faddr f (off + stride * js.headD 0))) ∧
        (F.unreadable = false → F.xp = false → (¬ bad → runs s) ∧
          (bad → runs (s.onSeq p c.q fun x => x.poisonAsync 2)))) ∧
      (o.src = .chain → exec .cubeWaveStart s = .next (s.runWave p c.q c.record o
        (List.zipWith (fun j (b : MarkedBlock) => b.over (P.rowBlock j n) n) js P.chainQ))) ∧
      (∀ h t0 t1 pl, o.src = .handle h t0 t1 pl →
        let read := js.foldl (fun (acc : State × List MarkedBlock × List (Nat × WaveFault)) j =>
          let r := acc.1.tensorBlock p c.q (acc.1.orderOf p c.q o.record) h (blockElems h o.afmt t0 t1 pl o.rows_ j)
          (r.1, acc.2.1 ++ [r.2.1], acc.2.2 ++ r.2.2)) (s, [], [])
        (read.2.2 = [] → exec .cubeWaveStart s = .next (read.1.runWave p c.q c.record o read.2.1)) ∧
        ∀ f, lowestFault read.2.2 = some f → read.1.fnmode.getLsbD 0 = false → parks read.1 f.2)) ∧
    (∀ (u : State) (m order : Nat) (h : Handle) (xs : List (Option Nat)) (x : Option Nat),
      let r := u.tensorBlock p m order h xs
      let w := h.width
      let block := fun (x : Option Nat) => u.tensorBlock p m order h (xs ++ [x])
      u.tensorBlock p m order h [] = (u, ([], 0), []) ∧
      block none = (r.1, (r.2.1.1 ++ leBytes w h.pad.toNat, r.2.1.2), r.2.2) ∧
      ∀ va t y, x = some va → r.1.translate (p / 32) (r.1.jobOf p m) va .read = (t, y) →
        (∀ c i, y = .bad c i → block x = (t, r.2.1, r.2.2 ++ [(va, c, i)])) ∧
        ∀ pa leaf, y = .ok pa leaf →
          let read := r.2.1.1 ++ t.readFor p m order va pa w
          (t.readBad p m order va pa w = false → block x = (t, (read, r.2.1.2), r.2.2)) ∧
          (t.readBad p m order va pa w = true → block x =
            (t.onSeq p m fun x => x.poisonAsync 1, (read, r.2.1.2 ||| 2 ^ (r.2.1.1.length / 8)), r.2.2))) ∧
    (∀ (F : Frame) (off n : Nat), (F.markedBlock off n).1 = F.readN off n ∧
      ∀ g, (F.markedBlock off n).2.testBit g = (decide (g < n / 8) && F.isPoisoned (off + 8 * g) 8)) ∧
    (∀ fs : List (Nat × WaveFault), (lowestFault fs = none ↔ fs = []) ∧
      ∀ g, lowestFault fs = some g → g ∈ fs ∧ ∀ f ∈ fs, g.1 ≤ f.1) ∧
    (∀ (new old : MarkedBlock) (n : Nat), n % 8 = 0 → new.1.length % 8 = 0 →
      (new.over old n).1 = new.1.take n ++ old.1.drop new.1.length ∧
      (∀ g, (new.over old n).2.testBit g = if 8 * g < n ∧ 8 * g < new.1.length then new.2.testBit g else old.2.testBit g) ∧
      ∀ i b, new.1[i]? = some b → new.clean[i]? = some (if new.2.testBit (i / 8) then 0 else b)) ∧
    (∀ (u : State) (m i : Nat) (o : CubeOp) (read : List MarkedBlock), p < u.pillars.length →
      m < (u.pillar p).seqs.length →
      let v := u.runWave p m i o read
      let n := (o.stepsAt o.next).length
      let sent := if o.src = .chain then (u.pillar p).chainQ.take n else read
      (v.pillar p).chainQ = (if o.src = .chain then (u.pillar p).chainQ.drop n else (u.pillar p).chainQ) ∧
      v.agenda = (if o.east = true ∧ o.sent ≤ o.next then
        (sent.map fun b => Act.event .chainBlockArrive { p := p + 1, bytes := b.1, v := b.2 }) ++ u.agenda
          else u.agenda) ∧
      (o.src = .rowBuffer ∨ o.src = .chain → (∃ b ∈ read, b.2 ≠ 0) → (v.seq p m).chkint.getLsbD 0 = true) ∧
      (o.src = .rowBuffer → (v.pillar p).rowBuf = (u.pillar p).rowBuf ∧ (v.pillar p).rowBad = (u.pillar p).rowBad) ∧
      (o.src ≠ .rowBuffer → ((o.stepsAt o.next).Pairwise fun x y => x.2 ≠ y.2) →
        ∀ x ∈ (o.stepsAt o.next).zip read, x.1.2 < (u.pillar p).rowBuf.length → x.1.2 < (u.pillar p).rowBad.length →
          x.2.1.length % 8 = 0 → Mem.wf ((u.pillar p).rowBuf.getD x.1.2 []) = true →
          (∀ k, Mem.read ((v.pillar p).rowBuf.getD x.1.2 []) k =
            if k < x.2.1.length then at0 x.2.1 k else Mem.read ((u.pillar p).rowBuf.getD x.1.2 []) k) ∧
          ∀ g, ((v.pillar p).rowBad.getD x.1.2 0).testBit g =
            if 8 * g < x.2.1.length then x.2.2.testBit g else ((u.pillar p).rowBad.getD x.1.2 0).testBit g) ∧
      let slots := (o.stepsAt o.next).map fun lj =>
        ((u.pillar p).bslots.getD lj.1 []).getD ((o.sb + lj.2) % 32) BSlot.zero
      let ks := o.kSteps (read.map MarkedBlock.clean) slots
      let rate := if o.afmt = 2 then 11 else if o.afmt = 7 then (if o.bfmt = 8 then 1 else 2) else if o.afmt = 8 then 1 else 8
      let ends := (u.pillar p).ic + (o.rows_ / 8 * rate + 1) / 2
      ((∃ b ∈ slots, b.badRows ≠ []) → (v.seq p m).chkint.getLsbD 0 = true) ∧
      ∀ c ∈ (u.pillar p).cube, c.q = m → c.record = i → c.kind = .op o → ∃ o' w, { c with kind := .op o' } ∈ (v.pillar p).cube ∧
        o'.next = o.next + 1 ∧ o'.waveAt = ends ∧ o'.waves = o.waves ++ [w] ∧
        (o'.fmtErr = true ↔ o.fmtErr = true ∨ ∃ b ∈ slots, b.tag ≠ tagOf o.bfmt) ∧
        w.w = o.next ∧ w.land = ends + 3 ∧ w.sums = o.waveSums ks ∧ w.cols = (o.checks ks).1 ∧ w.rows = (o.checks ks).2) ∧
    (P.landing = none → exec .cubeWaveLand s = .next s) ∧
    (∀ c o w, P.landing = some (c, o, w) → exec .cubeWaveLand s = .next (s.landWave p c.q c.record o w)) ∧
    (∀ (u : State) (m i : Nat) (o : CubeOp) (w : Wave), p < u.pillars.length → m < (u.pillar p).seqs.length →
      p / 32 < u.stks.length → o.acc < (u.seq p m).accs.length →
      let t := u.landWave p m i o w
      let x := (u.seq p m).accs.getD o.acc Acc.zero
      let y := (t.seq p m).accs.getD o.acc Acc.zero
      let work := (o.stepsAt w.w).map Prod.fst
      y.elems = o.addWave x.elems w.sums ∧ y.prog = w.w + 1 ∧
      y.side = (if o.xc = true ∧ o.nw ≤ w.w + 1 then (o.withChecks w).addSide x.side else x.side) ∧
      ∀ l < 4, let ran := fun (v : State) => ((v.stack (p / 32)).ballast.extractLsb' (16 * l) 16).toNat
        ran t = if l ∉ work ∧ (if l % 2 = 0 then l + 1 else l - 1) ∈ work ∧ (u.stack (p / 32)).layers.getLsbD l = true then
          (ran u + o.cycles) % 2 ^ 16 else ran u) ∧
    (∀ (o : CubeOp) (elems : VReg) (sums : List W32), sums.length ≤ elems.length → ∀ e,
      at0 (o.addWave elems sums) e =
        if e < sums.length then o.path.add (at0 elems e) (at0 sums e) else at0 elems e) ∧
    (s.cubeDone p = none → exec .cubeOpComplete s = .next s) ∧
    (∀ c, s.cubeDone p = some c → c ∈ P.cube ∧ c.complete = true ∧
      ∀ r, s.rec? p c.q c.record = some r → r.faulted = false) ∧
    (∀ c, s.cubeDone p = some c →
      (c.kind = .idle → exec .cubeOpComplete s = .next ((s.dropItem p c).endRec p c.q c.record)) ∧
      (∀ slot mask sw off image bad, c.kind = .load slot mask sw off image bad →
        (∀ l, (layersOf mask).find? (fun l => (s.stack (p / 32)).layerFailed l) = some l →
          let info := BitVec.ofNat 64 (11 + 16 * (l % 4))
          exec .cubeOpComplete s = .next ((s.sufferUe p info).faultRec p c.q c.record cUe info)) ∧
        ((layersOf mask).find? (fun l => (s.stack (p / 32)).layerFailed l) = none → off ≠ none ∨ image ≠ [] →
          exec .cubeOpComplete s =
            .next (((s.loadSlots p c.q slot mask sw off image bad).dropItem p c).endRec p c.q c.record))) ∧
      (∀ a x, c.kind = .zero a x → exec .cubeOpComplete s = .next (((((s.onAcc p c.q a fun t => { t with
        elems := vfill 0, side := if x then List.replicate 80 0 else t.side }).onSeq p c.q fun y => { y with
          ueDue := y.ueDue.filter fun e => !((e.word.extractLsb' 0 4).toNat = 6 && (e.word.extractLsb' 8 5).toNat = a) }).dropItem
            p c).settle p c.q).endRec p c.q c.record)) ∧
      (∀ a w, c.kind = .bind a w → exec .cubeOpComplete s = .next (((s.onAcc p c.q a fun t => { t with
        bound := if bit w 3 then some (bits w 0 3) else none }).dropItem p c).endRec p c.q c.record)) ∧
      (∀ o, c.kind = .op o → o.bound = none → exec .cubeOpComplete s =
        .next (((((s.onAcc p c.q o.acc fun t => { t with
          elems := ((s.seq p c.q).accs.getD o.acc Acc.zero).elems }).dropItem p c).settle p c.q).onSeq p c.q fun x =>
            x.setChk (if o.fmtErr then 2 else 0)).endRec p c.q c.record))) ∧
    (∀ (o : CubeOp) (elems : VReg) (n : Nat) (v : W64), o.bound = some (n, v) → o.path = .int → bit v 62 = true →
      64 * o.rows_ ≤ elems.length →
      let lo := (v.extractLsb' 0 30 ++ (0 : BitVec 2)).toInt
      let hi := (v.extractLsb' 30 30 ++ (0 : BitVec 2)).toInt
      let good := ∀ e < 64 * o.rows_, lo ≤ (at0 elems e).toInt ∧ (at0 elems e).toInt ≤ hi
      (bits v 60 2 = 0 → o.boundCheck elems = (elems, 0, none)) ∧
      (bits v 60 2 ≠ 0 → good → o.boundCheck elems = (elems, 0, none)) ∧
      (bits v 60 2 = 1 → ¬ good → o.boundCheck elems = (elems, 8, none)) ∧
      (bits v 60 2 = 2 → lo ≤ hi → ¬ good → ∃ y, o.boundCheck elems = (y, 16, none) ∧ ∀ e,
        (at0 y e).toInt = if e < 64 * o.rows_ then max lo (min hi (at0 elems e).toInt) else (at0 elems e).toInt) ∧
      (bits v 60 2 = 3 → ∀ e < 64 * o.rows_, (∀ d < e, lo ≤ (at0 elems d).toInt ∧ (at0 elems d).toInt ≤ hi) →
        ¬ (lo ≤ (at0 elems e).toInt ∧ (at0 elems e).toInt ≤ hi) →
        o.boundCheck elems = (elems, 0, some (BitVec.ofNat 64 (e % 1024 + n % 8 * 1024))))) ∧
    (∀ (o : CubeOp) (elems : VReg) (n : Nat) (v : W64), o.bound = some (n, v) → o.path ≠ .int → bit v 62 = false →
      bits v 60 2 = 1 → 64 * o.rows_ ≤ elems.length →
      let lo := v.extractLsb' 0 30 ++ (0 : BitVec 2)
      let hi := v.extractLsb' 30 30 ++ (0 : BitVec 2)
      let less := fun (x y : W32) => isNan32 x = false ∧ isNan32 y = false ∧ num32 x < num32 y
      let bad := ∃ e < 64 * o.rows_, isNan32 (at0 elems e) = true ∨ less (at0 elems e) lo ∨ less hi (at0 elems e)
      (bad → o.boundCheck elems = (elems, 8, none)) ∧ (¬ bad → o.boundCheck elems = (elems, 0, none))) ∧
    exec .chainBlockArrive s = .next (s.onPillar p fun P =>
      { P with chainQ := P.chainQ ++ [(s.who.bytes, s.who.v)] })

/-- R288, R289, R293-R296, R299, R115: what a cube operation computes: the layers' k-steps, the path of its formats,
the elements of its blocks and slots, the k-step sum of an element on the floating, the integer and the logarithmic
path, a wave's sum over its layers, the highest first, and the exact column and row sums that its checksums round
once. Each byte of a poisoned row reads as 0, and every element of a slot whose tag does not fit. -/
def Obligations.CubeSums : Prop :=
  ∀ o : CubeOp,
    let A := (o.fmt.extractLsb' 0 4).toNat
    let B := (o.fmt.extractLsb' 4 4).toNat
    let sc := (o.fmt.extractLsb' 8 8).toInt + (o.fmt.extractLsb' 16 8).toInt
    let rows := if o.geo.getLsbD 6 then 16 else 8
    let NK := (o.geo.extractLsb' 0 6).toNat
    let layers := [3, 2, 1, 0].filter fun l => o.mask.getLsbD l
    let n := layers.length
    (∃ cnt base : Nat → Nat, base 0 = 0 ∧
      (∀ i < n, cnt i = (NK - base i + (n - i - 1)) / (n - i) ∧ base (i + 1) = base i + cnt i) ∧
      (0 < n → o.nw = cnt 0) ∧
      ∀ w, o.stepsAt w = ((List.range n).filter fun i => w < cnt i).map fun i => (layers.getD i 0, base i + w)) ∧
    (o.path = .log ↔ A = 7 ∧ B = 7) ∧ (o.path = .int ↔ A ∈ [5, 6, 8] ∧ B ∈ [4, 5, 6, 8] ∧ sc = 0) ∧
    (∀ (block : List Byte) (m k : Nat), A ≠ 4 → m < rows → k < 64 →
      let byte := fun (i : Nat) => (at0 block i).toNat
      ((blockCodes A rows block).getD m []).getD k 0 = if A = 8 then byte (16 * m + k / 5)
        else if A = 1 ∨ A = 2 then byte (2 * (64 * m + k)) + 256 * byte (2 * (64 * m + k) + 1) else byte (64 * m + k)) ∧
    (∀ (b : BSlot) (k j : Nat), k < 64 → j < 64 →
      let byte := fun (i : Nat) => if k ∈ b.badRows then 0 else (Mem.read b.data i).toNat
      let code := ((b.columns B).getD j []).getD k 0
      (b.tag ≠ (if B = 8 then Tag.trn else if B ∈ [1, 2, 4] then .bits16 else .bits8) → code = if B = 8 then 1 else 0) ∧
      (B = 8 → b.tag = .trn → code =
        if 243 ≤ byte (16 * k + j / 5) then 1 else byte (16 * k + j / 5) / 3 ^ (j % 5) % 3) ∧
      (B ∈ [1, 2, 4] → b.tag = .bits16 → code = byte (2 * (64 * k + j)) + 256 * byte (2 * (64 * k + j) + 1)) ∧
      (B ∈ [5, 6, 7] → b.tag = .bits8 → code = byte (64 * k + j))) ∧
    (∀ (blocks : List (List Byte)) (slots : List BSlot), o.kSteps blocks slots =
      List.zipWith (fun x b => ⟨blockCodes A rows x, b.columns B⟩) blocks slots) ∧
    (∀ k : KStep, k.b.length = 64 → (o.stepSums k).length = 64 * k.a.length ∧
      ∀ m j, m < k.a.length → j < 64 →
        o.stepSums ⟨[k.a.getD m []], [k.b.getD j []]⟩ = [at0 (o.stepSums k) (64 * m + j)]) ∧
    (∀ (k : KStep) (ks : List KStep), o.waveSums [k] = o.stepSums k ∧
      (ks ≠ [] → o.waveSums (ks ++ [k]) = List.zipWith o.path.add (o.waveSums ks) (o.stepSums k))) ∧
    (∀ x y : W32, o.path.add x y = if o.path = .int then x + y else to32 ((val32 x).add (val32 y))) ∧
    let real := fun (v : Val) => match v with
      | .fin neg m e => (if neg then -(m : ℚ) else m) * (2 : ℚ) ^ e
      | _ => 0
    let fa := fun (k a : Nat) =>
      if A = 8 then valInt (if 243 ≤ a then 0 else ((a / 3 ^ (k % 5) % 3 : Nat) : Int) - 1) 0 else fmtVal A a
    let fb := fun (b : Nat) => if B = 8 then valInt ((b : Int) - 1) 0 else fmtVal B b
    let lg := fun (a b : Nat) =>
      let term := if a % 32 = 0 ∨ b % 32 = 0 then 0 else
        let qe := ((a % 32 : Nat) : Int) - 16 + (((b % 32 : Nat) : Int) - 16)
        [0x8000, 0x9838, 0xB505, 0xD745].getD (qe % 4).toNat 0 * 2 ^ (qe / 4 + 9).toNat
      if a % 64 = 32 ∨ b % 64 = 32 then Val.nan else .fin (decide (a / 32 % 2 ≠ b / 32 % 2)) term (-24)
    let prod := fun (ra cb : List Nat) (k : Nat) =>
      if A = 7 ∧ B = 7 then lg (ra.getD k 0) (cb.getD k 0) else (fa k (ra.getD k 0)).mul (fb (cb.getD k 0))
    (∀ x y : Val, let zero := fun (v : Val) => ∃ neg e, v = .fin neg 0 e
      let inf := fun (v : Val) => ∃ neg, v = .inf neg
      (x.mul y = .nan ↔ x = .nan ∨ y = .nan ∨ inf x ∧ zero y ∨ zero x ∧ inf y) ∧
      (x ≠ .nan → y ≠ .nan → inf x ∨ inf y → x.mul y ≠ .nan →
        let neg := fun (v : Val) => match v with
          | .inf s => s
          | .fin s _ _ => s
          | .nan => false
        x.mul y = .inf (neg x != neg y)) ∧
      (¬ inf x → ¬ inf y → real (x.mul y) = real x * real y)) ∧
    (∀ ra cb : List Nat, ra.length = 64 → cb.length = 64 →
      let p := prod ra cb
      let sum := o.stepSums ⟨[ra], [cb]⟩
      let total := fun (f : Nat → Int) => ((List.range 64).map f).sum
      let rounded := fun (S u : Int) => to32 (.fin (decide (S < 0)) S.natAbs u)
      (o.path = .log → ((∃ k < 64, p k = .nan) → sum = [0x7FC00000]) ∧
        ((∀ k < 64, p k ≠ .nan) → ∀ S : Int, (S : ℚ) = ((List.range 64).map fun k => real (p k) * 2 ^ 24).sum →
          sum = [rounded S (sc - 24)])) ∧
      (o.path = .int → ∀ S : Int, (S : ℚ) = ((List.range 64).map fun k => real (p k)).sum → sum = [BitVec.ofInt 32 S]) ∧
      (o.path = .float →
        ((∃ k < 64, p k = .nan) ∨ (∃ k < 64, p k = .inf false) ∧ (∃ k < 64, p k = .inf true) → sum = [0x7FC00000]) ∧
        ((∀ k < 64, p k ≠ .nan) → ∀ neg, (∃ k < 64, p k = .inf neg) → (∀ k < 64, p k ≠ .inf (!neg)) →
          sum = [if neg then 0xFF800000 else 0x7F800000]) ∧
        ((∀ k < 64, ∃ neg m e, p k = .fin neg m e) →
          let q := fun (k : Nat) => real (p k)
          ((∀ k < 64, q k = 0) → sum = [0]) ∧
          ∀ e : Int, (∃ k < 64, (2 : ℚ) ^ e ≤ |q k|) → (∀ k < 64, |q k| < (2 : ℚ) ^ (e + 1)) →
            let u := e - (if A = 1 ∧ B = 1 then 40 else 48)
            let trunc := fun (x : ℚ) => if x < 0 then ⌈x⌉ else ⌊x⌋
            sum = [rounded (total fun k => trunc (q k / (2 : ℚ) ^ u)) (u + sc)]))) ∧
    (∀ (ks : List KStep), o.xc = true →
      (∀ k ∈ ks, k.a.length = rows ∧ k.b.length = 64 ∧ (∀ r ∈ k.a, r.length = 64) ∧ ∀ c ∈ k.b, c.length = 64) →
      let p := fun (k : KStep) (m j i : Nat) => prod (k.a.getD m []) (k.b.getD j []) i
      let exactly := fun (x : Exact) (cells : List (Nat × Nat)) =>
        let meets := fun (v : Val) => ∃ k ∈ ks, ∃ c ∈ cells, ∃ i < 64, p k c.1 c.2 i = v
        (x.nan = true ↔ meets .nan) ∧ (x.pinf = true ↔ meets (.inf false)) ∧ (x.ninf = true ↔ meets (.inf true)) ∧
        (¬ meets .nan → ¬ meets (.inf false) → ¬ meets (.inf true) →
          (x.m : ℚ) * (2 : ℚ) ^ x.e = (ks.map fun k => (cells.map fun c =>
            ((List.range 64).map fun i => real (p k c.1 c.2 i) * (2 : ℚ) ^ sc).sum).sum).sum)
      let r := o.checks ks
      r.1.length = 64 ∧ r.2.length = 16 ∧
      (∀ j < 64, exactly (r.1.getD j Exact.zero) ((List.range rows).map fun m => (m, j))) ∧
      (∀ m < rows, exactly (r.2.getD m Exact.zero) ((List.range 64).map fun j => (m, j)))) ∧
    (∀ x y : Exact, let z := x.merge y
      z.nan = (x.nan || y.nan) ∧ z.pinf = (x.pinf || y.pinf) ∧ z.ninf = (x.ninf || y.ninf) ∧
      (z.m : ℚ) * (2 : ℚ) ^ z.e = (x.m : ℚ) * (2 : ℚ) ^ x.e + (y.m : ℚ) * (2 : ℚ) ^ y.e) ∧
    (∀ w : Wave, (o.withChecks w).cols = List.zipWith Exact.merge o.cols w.cols ∧
      (o.withChecks w).rows = List.zipWith Exact.merge o.rows w.rows ∧ (o.withChecks w).path = o.path) ∧
    ∀ side : List W32, let new := o.addSide side
      let round := fun (x : Exact) =>
        if o.path = .int then BitVec.ofInt 32 (x.m * 2 ^ x.e.toNat)
        else if x.nan = true ∨ x.pinf = true ∧ x.ninf = true then 0x7FC00000
        else if x.pinf = true then 0x7F800000 else if x.ninf = true then 0xFF800000
        else to32 (.fin (decide (x.m < 0)) x.m.natAbs x.e)
      new.length = side.length ∧ ∀ i < side.length, at0 new i =
        if i < 64 then o.path.add (at0 side i) (round (o.cols.getD i Exact.zero))
        else if i < 64 + rows then o.path.add (at0 side i) (round (o.rows.getD (i - 64) Exact.zero)) else at0 side i

/-- R44, R45: the atomic steps of a job control block: completions, lost iterations, errors and rejections. That only
a count above 0 makes a completion step is the model's reading (log 15). -/
def Obligations.JobControlBlock : Prop :=
  ∀ (j : Jcb) (n time : Nat), j.expect < 2 ^ 64 → j.count < 2 ^ 64 →
    (let k := j.addCount n time
    k.count = min (j.count + n) (2 ^ 64 - 1) ∧ k.expect = j.expect ∧ k.lostn = j.lostn ∧ k.firstit = j.firstit ∧
      (n = 0 → k = { j with count := j.count }) ∧
      (j.state % 2 = 1 → k.state = j.state ∧ k.tdone = j.tdone) ∧
      (0 < n → j.state % 2 = 0 → k.count < j.expect → k.state = j.state ∧ k.tdone = j.tdone) ∧
      (0 < n → j.state % 2 = 0 → j.expect ≤ k.count → k.state = j.state + 1 ∧ k.tdone = time) ∧
      (0 < n → k.err = if j.expect < k.count then j.err ||| 0x20 else j.err)) ∧
    (0 < n → let k := j.addLost n time
      k.count = min (j.count + n) (2 ^ 64 - 1) ∧ k.lostn = min (j.lostn + n) (2 ^ 64 - 1) ∧
        k.err = (if j.expect < k.count then j.err ||| 0x23 else j.err ||| 3) ∧ k.expect = j.expect ∧
        k.firstit = j.firstit ∧
        (j.state % 2 = 1 ∨ k.count < j.expect → k.state = j.state ∧ k.tdone = j.tdone) ∧
        (j.state % 2 = 0 → j.expect ≤ k.count → k.state = j.state + 1 ∧ k.tdone = time)) ∧
    (∀ c t : Nat, 0 < c → c < 256 →
      let k := j.fail c t
      k.err.getLsbD 0 = true ∧ k.count = j.count ∧ k.state = j.state ∧
        (j.err.extractLsb' 16 8 = 0 → (k.err.extractLsb' 16 8).toNat = c ∧ k.firstit = t) ∧
        (j.err.extractLsb' 16 8 ≠ 0 → k.err.extractLsb' 16 8 = j.err.extractLsb' 16 8 ∧ k.firstit = j.firstit)) ∧
    (∀ r : Nat, 0 < r → r < 256 →
      let k := j.reject r
      k.err.getLsbD 0 = true ∧ k.err.getLsbD 3 = true ∧ k.count = j.count ∧
        (k.err.extractLsb' 8 8).toNat = if j.err.extractLsb' 8 8 = 0 then r else (j.err.extractLsb' 8 8).toNat) ∧
    (j.raise n).expect = min (j.expect + n) (2 ^ 64 - 1) ∧ (j.raise n).count = j.count

/-- R78, R162, R309, R313, R317, R320-R325, R384, R385: what arrives and completes between sequencers: posts,
messages, credits, barriers, steps at a job control block, tray deliveries, which land in the pillar's next ic. Free
FINFO bits, blocks known by physical address, the axis kept and the time of a DRAIN are the model's choices (log 15,
25, 44, 45). -/
def Obligations.SyncEvents : Prop :=
  ∀ s : State,
    let p := s.who.p
    let q := s.who.q
    (∀ (before after : List Post) (n : Post), s.posts = before ++ n :: after → before.length = s.who.k →
      exec .kpostrArrive s = .next (({ s with posts := before ++ after } : State).postFlag n.toP n.k n.amount)) ∧
    (∀ (u : State) (f k : Nat) (v : W32), f < u.pillars.length → k < (u.pillar f).flags.length →
      let t := u.postFlag f k v
      let now := (u.pillar f).ic + 1
      t.flag f k = u.flag f k + v ∧ (∀ j, j ≠ k → t.flag f j = u.flag f j) ∧
      (now, k, v) ∈ (t.pillar f).newPosts ∧ ∀ n ∈ (u.pillar f).newPosts, (u.pillar f).ic ≤ n.1 →
        n ∈ (t.pillar f).newPosts) ∧
    (∀ (before after : List (Nat × Nat × Nat)) (dest st at_ : Nat), s.credits = before ++ (dest, st, at_) :: after →
      before.length = s.who.k → exec .creditReturn s =
        .next (({ s with credits := before ++ after } : State).onPillar dest fun P =>
          { P with pools := upd P.pools st fun n => n + 1 })) ∧
    (∀ r t sc v, s.rec? p q s.who.rec_ = some r → r.op = .msend t sc v → exec .msendDeliver s =
      .next (((s.onPillar t fun P => { P with mq := P.mq ++ [(v, p / 32)] }).wake t).endRec p q r.idx)) ∧
    (s.who.up = true → exec .dsyncComplete s = .next (s.onLaunch s.who.l fun l =>
      { l with fabric := (s.who.k, s.who.n) :: l.fabric.filter fun f => f.1 ≠ s.who.k })) ∧
    (s.who.up = false → ∀ r lv c, (s.seq p q).dsyncRec = some (r, lv, c) → exec .dsyncComplete s = .next ((s.onSeq p q fun x =>
      { x with syncing := none, syncs := upd x.syncs (lv - 1) fun n => n + 1 }).endRec p q r.idx)) ∧
    (s.who.up = false → (s.seq p q).dsyncRec = none → exec .dsyncComplete s = .next s) ∧
    (∀ r, s.rec? p q s.who.rec_ = some r →
      (∀ t pa leaf, r.op = .jcb false → s.jcbAddress p q r.opa = (t, .ok pa leaf) → exec .jcbStep s =
        .next (((t.jcbStep pa fun j => j.addCount r.opb.toNat (t.tick / 2)).onSeq p q fun x =>
          { x with iter := x.iter.map fun i => { i with posted := mark i.posted (t.canonPa pa) } }).endRec p q r.idx)) ∧
      (∀ t pa leaf, r.op = .jcb true → s.jcbAddress p q r.opa = (t, .ok pa leaf) →
        (((t.seq p q).iter.any fun i => i.posted.contains (t.canonPa pa)) = false → (t.readJcb pa).state % 2 = 0 →
          exec .jcbStep s = .next ((t.writeMem pa ((t.readJcb pa).raise r.opb.toNat).bytes).endRec p q r.idx)) ∧
        (((t.seq p q).iter.any fun i => i.posted.contains (t.canonPa pa)) = true ∨ (t.readJcb pa).state % 2 = 1 →
          exec .jcbStep s = .next ((t.jcbStep pa fun j => { j with err := j.err ||| 4 }).endRec p q r.idx))) ∧
      (∀ isRaise t c info, r.op = .jcb isRaise → s.jcbAddress p q r.opa = (t, .bad c info) →
        t.fnmode.getLsbD 0 = false → exec .jcbStep s = .next (t.faultRec p q r.idx c info))) ∧
    (∀ r tray regs d items, s.rec? p q s.who.rec_ = some r → r.op = .drain tray regs d (some items) →
      exec .trayDelivery s = .next ((((s.onSeq p q fun x => { x with
        inflight := x.inflight ++ (drainResults regs d items).map fun w => ⟨(s.pillar p).ic + 1, r.slot, r.order, w⟩
        }).onPillar p fun P =>
        { P with drains := upd P.drains tray fun l => l.filter fun e => e ≠ (q, r.idx) }).postFlag p (28 + tray)
          (BitVec.ofNat 32 items.length)).endRec p q r.idx)) ∧
    (∀ (x : Seq) (reg d t o : Nat) (items : List (List W32)), reg < 32 → 0 < d → d < x.vpreds.length →
      x.vregs.length = 32 → x.inflight = (drainResults [reg] d items).map (fun w => ⟨t, 7, o, w⟩) →
      let y := x.landUpTo t
      (∀ e < 1024, at0 (y.vregs.getD reg []) e =
        if e < items.length then (items.getD e []).getD 0 0 else at0 (x.vregs.getD reg []) e) ∧
      (∀ r, r ≠ reg → y.vregs.getD r [] = x.vregs.getD r []) ∧ y.inflight = [] ∧
      (∀ e < 1024, (y.vpreds.getD d pZero).on e = decide (e < items.length)) ∧ y.named = x.named ∧ y.queue = x.queue)

/-- R102, R107, R331, R335, R338-R345, R348: pre-emption from the request to the restore, and the invalidation of
translations. A request with nothing to stop sets STOPPED at once, by the model's reading (log 30). BD cleared
outside a delay long word (log 12), the stop ic of a restored sequencer (log 82), the order of the images and what
the part keeps beside them (log 20, 31, 32, 58) are the model's choices. -/
def Obligations.PreemptionEvents : Prop :=
  ∀ s : State,
    let st := s.who.st
    let p := s.who.p
    let q := s.who.q
    (let done := s.onStack st fun k => { k with stopped := true, restored := false }
    ((s.stack st).job = none → exec .preemptRequest s = .next done) ∧
    ∀ j, (s.stack st).job = some j →
      ((s.stack st).req = true → exec .preemptRequest s = .next s) ∧
      ((s.stack st).req = false → (s.stack st).holdsJob j = true → s.runsOn (s.ownedStacks st j) j = false →
        exec .preemptRequest s = .next done) ∧
      ((s.stack st).req = false → (s.stack st).holdsJob j = false ∨ s.runsOn [st] j = true → st < s.stks.length →
        s.ownedStacks st j = [st] → exec .preemptRequest s = .next ((s.onStack st fun k => { k with
          req := true, stopped := false, restored := false, reqAt := some (s.tick / 2, j)
          parked := mark k.parked j }).wakeStack st))) ∧
    (∃ t, exec .preemptStop s = .next t ∧ t.mem = s.mem ∧ (p < s.pillars.length → q < (s.pillar p).seqs.length →
      (s.seq p q).csrws = [] →
      let x := s.seq p q
      let y := t.seq p q
      y.run = .stopped ∧ y.pc = x.pc ∧ y.mode = x.mode ∧ y.recs = x.recs ∧ y.regions = x.regions ∧ y.ecause = x.ecause ∧
        y.epc = x.epc ∧ y.inflight = [] ∧
        (x.inflight = [] → y.accs.map Acc.elems = x.accs.map Acc.elems ∧ y.named = x.named ∧ y.queue = x.queue))) ∧
    (s.mayContextSave st = false → exec .contextSave s = .next s) ∧
    (s.mayContextSave st = true → s.preemptGroup st = [st] → exec .contextSave s = .next (s.saveStack st)) ∧
    (∀ (x : Seq) (resume : Bool) (ic : Nat),
      let y := x.enterPreempt resume ic
      (y.ecause.extractLsb' 0 8).toNat = cPreempt ∧ y.einfo.getLsbD 0 = resume ∧ y.einfo.getLsbD 1 = x.iter.isNone ∧
        y.epc = addrBits x.pc ∧ y.pc = x.tvec ∧ y.mode = true ∧ y.pmode = x.mode ∧ y.run = .running ∧ y.tvec = x.tvec ∧
        y.recs = x.recs ∧ y.regions = x.regions ∧ y.bd = (resume && x.bd) ∧
        y.notBefore = max x.notBefore (ic + if resume then 4 else 1)) ∧
    (∀ p q, p < s.pillars.length → q < (s.pillar p).seqs.length → (s.seq p q).csrws = [] → (s.seq p q).run = .idle →
      let y := (s.stopIdle p q).seq p q
      y.notBefore = (s.pillar p).ic + 4 ∧ y.inflight = [] ∧ y.run = .idle ∧ y.pc = (s.seq p q).pc) ∧
    ((s.stack st).reqAt = none → exec .preemptKill s = .next s) ∧
    (∀ at_ j, (s.stack st).reqAt = some (at_, j) → s.preemptGroup st = [st] →
      ((∃ p ∈ pillarsOf st, ∃ q < 2, (s.seq p q).hasStopped = false) →
        exec .preemptKill s = .next (s.killJob cPreempt j [st])) ∧
      ((∀ p ∈ pillarsOf st, ∀ q < 2, (s.seq p q).hasStopped = true) → exec .preemptKill s = .next s)) ∧
    (s.mayRestore st = false → exec .restore s = .next s) ∧
    (s.mayRestore st = true → s.imageFits st = false →
      exec .restore s = .next (s.killJob cPreempt (s.imageJob st) [st])) ∧
    (s.mayRestore st = true → s.imageFits st = true → ∃ t, exec .restore s = .next t ∧
      (st < 4 → s.shape → (t.stack st).restored = true ∧ (t.stack st).stopped = false ∧
        (s.imageJob st) ∉ (t.stack st).parked)) ∧
    exec .tlbInvalidate s = .next (s.onStack st fun k =>
      let gone := fun (e : TlbEntry) => e.job = (k.inval.extractLsb' 0 16).toNat ∧
        (k.inval.getLsbD 16 = true ∨ e.va ≤ k.iva.toNat ∧ k.iva.toNat < e.va + e.size)
      { k with inval := setBits k.inval 17 1 0, tlb := k.tlb.filter fun e => !decide (gone e) })

/-- R341-R343, R345, R332: the bytes of a context image: a sequencer's section, what its pillar's image holds of
flags and pools, the image in memory over an area of zeros, and a section that holds them loaded again: registers,
accumulators, loops and records come back as they were. R340: a kill writes a launch's iterations as lost, in one
step that sets CAUSE where none was recorded: all of those that have not ended where these stacks are its only
participants, else those running there, and its heartbeats stop. R317: a credit on its way to another stack goes
back. R345: a restore loads every sequencer of the stack from its section. Bytes that the layouts do not list are
the model's choice (log 75). -/
def Obligations.ContextImages : Prop :=
  (∀ (u : State) (p q : Nat),
    let x := u.seq p q
    let has := fun (off : Nat) (bs : List Byte) => (off, bs) ∈ u.sectionPieces p q
    let words := fun (l : List W32) => l.flatMap fun v => leBytes 4 v.toNat
    let dwords := fun (l : List W64) => l.flatMap fun v => leBytes 8 v.toNat
    let halves := fun (l : List W16) => l.flatMap fun v => leBytes 2 v.toNat
    has 0 (leBytes 8 (x.pc &&& 0x000FFFFFFFFFFFE0).toNat) ∧
    (∃ v : W64, has 8 (leBytes 8 v.toNat) ∧ v.getLsbD 0 = false ∧ (v.extractLsb' 4 3).toNat = x.regions.length % 8) ∧
    has 0x10 (leBytes 8 x.ebt.toNat) ∧ has 0x40 (dwords x.bnds) ∧
    (∃ v : W64, has 0x80 (leBytes 8 v.toNat) ∧ v.getLsbD 0 = x.latch ∧ v.getLsbD 1 = x.iter.isNone ∧
      (v.extractLsb' 2 3).toNat = x.loops.length % 8) ∧
    has 0x90 (dwords x.queue) ∧ has 0x110 (dwords ((x.named.drop 1).take 14)) ∧ has 0x210 (dwords x.geos) ∧
    has 0x250 (words x.fts) ∧ has 0x800 (x.norms.flatMap halves) ∧ has 0x900 ((x.vpreds.drop 1).flatMap dwords) ∧
    (∀ i a, x.accs[i]? = some a → ∃ w : W64, has (0x1000 + 0x1200 * i) (words a.elems ++ words a.side ++ leBytes 8 w.toNat) ∧
      (w.extractLsb' 0 32).toNat = a.prog % 2 ^ 32 ∧ w.getLsbD 32 = a.busy ∧ w.getLsbD 33 = a.park ∧
      (w.extractLsb' 34 8).toNat = a.nw % 2 ^ 8 ∧ w.getLsbD 45 = a.bound.isSome ∧
      ∀ b, a.bound = some b → (w.extractLsb' 42 3).toNat = b % 8) ∧
    (∀ i d, x.dirs[i]? = some d → has (0xA000 + 2048 * i) (halves d)) ∧
    (∀ i v, x.vregs[i]? = some v → has (0x10000 + 4096 * i) (words v)) ∧
    (∀ r ∈ x.recs, has (0x70000 + 64 * r.idx) r.toBytes) ∧
    (∃ v : W64, (0, leBytes 8 v.toNat) ∈ u.pillarPieces p ∧ (v.extractLsb' 0 16).toNat = 1 ∧
      (p < 128 → (v.extractLsb' 36 7).toNat = p) ∧
      ∀ j < 2 ^ 16, (u.stack (p / 32)).job = some j → (v.extractLsb' 16 16).toNat = j) ∧
    (0x40, words (u.pillar p).flags) ∈ u.pillarPieces p ∧
    (0x4C8, (u.pillar p).pools.flatMap fun n => leBytes 1 n) ∈ u.pillarPieces p) ∧
  (∀ (u : State) (p : Nat), u.memWf → u.imageMarks p = [] →
    let base := u.imageAt p
    let pieces := u.pillarPieces p ++ (u.sectionPieces p 0).map (fun x => (0x200000 + x.1, x.2)) ++
      (u.sectionPieces p 1).map fun x => (0x280000 + x.1, x.2)
    base % 32 = 0 → base + 0x300000 ≤ 0x6000000000 → (∀ x ∈ pieces, x.1 + x.2.length ≤ 0x300000) →
    (pieces.Pairwise fun x y => x.1 + x.2.length ≤ y.1 ∨ y.1 + y.2.length ≤ x.1) →
    let v := u.writeImage p
    (∀ x ∈ pieces, v.readMem (base + x.1) x.2.length = x.2) ∧
    (∀ a < 0x300000, (∀ x ∈ pieces, a < x.1 ∨ x.1 + x.2.length ≤ a) → v.readMem (base + a) 1 = [0]) ∧
    ∀ a, a < base ∨ base + 0x300000 ≤ a → Mem.read v.mem a = Mem.read u.mem a) ∧
  (∀ (u v : State) (p q a : Nat) (kept : Option Seq) (y : Seq),
    let x := u.seq p q
    (∀ z ∈ u.sectionPieces p q, v.readMem (a + z.1) z.2.length = z.2) →
    let z := v.loadSeq a kept y
    z.pc = x.pc &&& 0x000FFFFFFFFFFFE0 ∧ z.mode = false ∧ z.latch = x.latch ∧ z.rbase = x.rbase ∧ z.lpitch = x.lpitch ∧
    (x.named.length = 16 → ∀ i, 1 ≤ i → i ≤ 14 → at0 z.named i = at0 x.named i) ∧
    (x.queue.length = 16 → z.queue = x.queue) ∧ (x.geos.length = 8 → z.geos = x.geos) ∧
    (x.fts.length = 16 → z.fts = x.fts) ∧
    (x.preds.length = 16 → ∀ i, 1 ≤ i → i < 16 → z.preds.getD i false = x.preds.getD i false) ∧
    (x.norms.length = 8 → (∀ n ∈ x.norms, n.length = 16) → z.norms = x.norms) ∧
    (x.vpreds.length = 8 → (∀ n ∈ x.vpreds, n.length = 16) → z.vpreds.drop 1 = x.vpreds.drop 1) ∧
    (x.dirs.length = 8 → (∀ n ∈ x.dirs, n.length = 1024) → z.dirs = x.dirs) ∧
    (x.vregs.length = 32 → (∀ n ∈ x.vregs, n.length = 1024) → z.vregs = x.vregs) ∧
    (x.accs.length = 8 → (∀ c ∈ x.accs, c.elems.length = 1024 ∧ c.side.length = 80 ∧ c.prog < 2 ^ 32 ∧ c.nw < 2 ^ 8 ∧
      ∀ b ∈ c.bound, b < 8) → z.accs = x.accs) ∧
    (x.loops.length ≤ 6 → (∀ e ∈ x.loops, e.bstart = e.bstart &&& 0x000FFFFFFFFFFFE0 ∧
      e.bend = e.bend &&& 0x000FFFFFFFFFFFE0 ∧ (e.bend - e.bstart).toNat / 32 < 2 ^ 32) → z.loops = x.loops) ∧
    ∀ r ∈ x.recs, r.idx < 256 → r.syl ≠ 0 → r.lw = r.lw &&& 0x000FFFFFFFFFFFE0 → r.slot < 8 → r.cause < 256 →
      r.progress < 2 ^ 64 → r.seqno < 2 ^ 32 → { r with order := 0, op := .cube } ∈ v.loadRecs a) ∧
  (∀ (s : State) (st : Nat), st < 4 → s.shape → s.mayRestore st = true → s.imageFits st = true →
    ∃ t, exec .restore s = .next t ∧ t.mem = s.mem ∧ ∀ p q, p / 32 = st → q < 2 →
      let a := s.imageAt p + 0x200000 + 0x80000 * q
      let x := s.loadSeq a none Seq.reset
      let y := t.seq p q
      y.named = x.named ∧ y.queue = x.queue ∧ y.preds = x.preds ∧ y.vregs = x.vregs ∧ y.vpreds = x.vpreds ∧
        y.dirs = x.dirs ∧ y.norms = x.norms ∧ y.accs = x.accs ∧ y.geos = x.geos ∧ y.fts = x.fts ∧ y.loops = x.loops ∧
        y.rbase = x.rbase ∧ (t.pillar p).flags = s.words (s.imageAt p + 0x40) 32 ∧
        y.recs.map (fun r => (r.idx, r.toBytes)) = (s.loadRecs a).map (fun r => (r.idx, r.toBytes)) ∧
        ((s.seq p q).run ≠ .halted → (s.dword (a + 0x80)).getLsbD 1 = false →
          y.run = .running ∧ y.epc = x.pc ∧ (y.ecause.extractLsb' 0 8).toNat = cPreempt ∧ y.einfo.getLsbD 0 = true)) ∧
  (∀ (s : State) (cause st : Nat) (l : Launch), s.memWf → s.launches = [l] → s.standing = [] → l.jcb % 64 = 0 →
    l.jcb + 64 ≤ 0x6000000000 → s.tick < 2 ^ 64 → 0 < cause → cause < 256 →
    s.sectorBad l.jcb = false → s.sectorBad (l.jcb + 32) = false →
    let t := s.killLaunch cause l [st]
    let killed := fun (lost : Nat) =>
      (s.refreshing l.jcb = false → t.readJcb l.jcb = (s.readJcb l.jcb).kill cause lost (s.tick / 2)) ∧
      (s.refreshing l.jcb = true → t.mem = s.mem ∧ t.standing = [.report (s.canonPa l.jcb) (.kill 0 cause lost)])
    (∀ y, l.parts = [y] → y.pkg = s.pkg → y.stack = st → killed (l.total - l.endedN) ∧
      ∃ k, t.launches = [k] ∧ k.lostN = l.lostN + (l.total - l.endedN) ∧ k.abandoned = true) ∧
    (∀ y z, l.parts = [y, z] → y.pkg = s.pkg → y.stack = st → z.pkg ≠ s.pkg ∨ z.stack ≠ st → y.failed = none →
      y.mute = false →
      let n := (allSeqs.filter fun m => m.1 / 32 = st && (s.seq m.1 m.2).iter.any fun i => i.launch = l.id && !i.lost).length
      killed n ∧ ∃ k, t.launches = [k] ∧ k.parts = [{ y with mute := true, unplaced := [], held := [], killed := y.killed + n }, z])) ∧
  (∀ (j : Jcb) (cause n time : Nat), 0 < cause → cause < 256 →
    let k := j.addLost n time
    (n = 0 → j.kill cause n time = j) ∧
    (0 < n → k.err.extractLsb' 16 8 ≠ 0 → j.kill cause n time = k) ∧
    (0 < n → k.err.extractLsb' 16 8 = 0 → j.kill cause n time = { k with err := k.err ||| BitVec.ofNat 64 (2 ^ 16 * cause) })) ∧
  (∀ (s : State) (cause j st : Nat), s.shape → st < 4 →
    let t := s.killJob cause j [st]
    let k := t.stack st
    k.killed = true ∧ k.req = false ∧ k.reqAt = none ∧ j ∉ k.parked ∧ k.handles = [] ∧
    (∀ p, p / 32 = st → (t.pillar p).cube = [] ∧ (∀ n ∈ (t.pillar p).flags, n = 0) ∧ (t.pillar p).mq = [] ∧
      ∀ q < 2, let y := t.seq p q
        y.iter = none ∧ y.recs = [] ∧ y.regions = [] ∧ y.inflight = [] ∧
          y.run = if (s.seq p q).run = .halted then .halted else .idle) ∧
    ∀ l, s.launches = [l] → l.job = j → (∃ x ∈ l.parts, x.pkg = s.pkg ∧ x.stack = st) → s.standing = [] →
      s.refreshing l.jcb = true → l.onlyOn s.pkg [st] = true → l.parts.length < 2 →
      .report (s.canonPa l.jcb) (.kill 0 cause (l.total - l.endedN)) ∈ t.standing) ∧
  (∀ (u : State) (p t sc : Nat) (w : W64) (sts : List Nat) (x y : Seq) (r : Rec), (u.pillar p).seqs = [x, y] →
    x.recs = [r] → y.recs = [] → r.op = .msend t sc w →
      (t / 32 ∈ sts → u.returnCredits p sts = u) ∧
      (t / 32 ∉ sts → u.returnCredits p sts = u.onPillar t fun P => { P with pools := upd P.pools (p / 32) (· + 1) }))

/-- R255, R284, R370-R381: samples, the token, permits, droop, voltage, refresh windows and the power registers. A
sample sets SENS, STIME, the fade clocks' INC, TGOV, TSTOP and STOP, and at 125 °C shuts the stack down; the token
leaves the smallest stop its grains cover. Readings are free values; TGOV and INC without a sample, the block of
R370 at the default budget against its prose, the windows' phase and what a voltage change is (it goes on while 1 mV
follows another the same way within 2 µs) are the model's choices (log 3, 33, 34, 59, 101). -/
def Obligations.PowerEvents : Prop :=
  ∀ s : State,
    let st := s.who.st
    let k := s.stack st
    let onS := fun (f : Stack → Stack) => s.onStack st f
    (st < s.stks.length → ∃ t, exec .sensorSample s = .next t ∧ t.mem = s.mem ∧ t.launches = s.launches ∧
      (∀ p, p / 32 ≠ st → t.pillar p = s.pillar p) ∧
      let now := s.tick / 2
      let y := t.stack st
      let read := fun (d i : Nat) => Config.sensorReading st d i (now - 500)
      let die := fun (d : Nat) => ((List.range 16).map (read d)).filter (· ≠ 0x8000)
      let highest := fun (l : List (BitVec 16)) (x : BitVec 16) => x ∈ l ∧ ∀ z ∈ l, z.toInt ≤ x.toInt
      let powered := fun (d : Nat) => d = 0 ∨
        ∃ i < 4, k.layers.getLsbD i = true ∧ (k.layers.extractLsb' (4 + 3 * i) 3).toNat + 1 = d
      let want := max y.tstop k.pstop
      y.sens = (List.range 96).map (fun i => read (i / 16) (i % 16)) ∧ y.stime = now - 500 ∧
      (∀ p, p < s.pillars.length → p / 32 = st → st < 4 →
        let row := ((List.range 4).map fun i => read 0 (4 * (p % 32 / 8) + i)).filter (· ≠ 0x8000)
        let inc := (t.pillar p).fadeInc
        (∀ x, highest (if row = [] then die 0 else row) x → inc = BitVec.ofNat 16 (fadeIncrement x.toInt)) ∧
        (die 0 = [] → inc = (s.pillar p).fadeInc)) ∧
      (∀ x d, d < 6 → powered d → x ∈ die d → (∀ e < 6, powered e → ∀ z ∈ die e, z.toInt ≤ x.toInt) → y.tgov = x) ∧
      ((∃ d < 6, powered d ∧ die d = []) → y.tstop = 7) ∧
      ((∀ d < 6, powered d → die d ≠ []) →
        let T := y.tgov.toInt
        let TH := fun (j : Nat) => ((k.govth.extractLsb' (8 * (j - 1)) 8).toNat : Int)
        ∀ u ≤ 7, (u = 0 ∨ 8 * TH u ≤ T) → (∀ j ≤ 7, u < j → T < 8 * TH j) →
          (k.tstop < u → y.tstop = u) ∧
          (u ≤ k.tstop → k.tstop = 0 ∨ 8 * TH k.tstop - 16 < T → y.tstop = k.tstop) ∧
          (u ≤ k.tstop → T ≤ 8 * TH k.tstop - 16 → ∀ n < k.tstop, (n = 0 ∨ 8 * TH n - 16 < T) →
            (∀ j < k.tstop, n < j → T ≤ 8 * TH j - 16) → y.tstop = n)) ∧
      (y.stop, y.tchg) = (if want ≠ k.stop ∧ ∀ c ∈ k.tchg, c + 100000 ≤ now then (want, some now) else (k.stop, k.tchg)) ∧
      ((∃ x ∈ y.sens, x ≠ 0x8000 ∧ 1000 ≤ x.toInt) → k.shut = false →
        t.agenda = .event .thermalShutdown { st := st } :: s.agenda) ∧
      (k.shut = true ∨ (∀ x ∈ y.sens, x ≠ 0x8000 → x.toInt < 1000) → t.agenda = s.agenda)) ∧
    (∀ x : Int, fadeIncrement x = fadeIncrement (max 0 (min x 1040))) ∧
    (∀ (k : Stack) (now : Nat),
      let want := max k.tstop k.pstop
      k.govern now = if want ≠ k.stop ∧ ∀ c ∈ k.tchg, c + 100000 ≤ now then { k with stop := want, tchg := some now } else k) ∧
    (∀ x : Nat, x ≤ 1040 → let m := fadeIncrement (x : Int)
      0 < m ∧ (2 * m - 1) ^ 96 ≤ 2 ^ (x + 568) ∧ 2 ^ (x + 568) ≤ (2 * m + 1) ^ 96) ∧
    (k.job = none → exec .thermalShutdown s =
      .next (onS fun k => { k with shut := true, msix := mark k.msix 1024 })) ∧
    (∀ j, k.job = some j → exec .thermalShutdown s = .next ((onS fun k =>
      { k with shut := true, msix := mark k.msix 1024 }).killJob cUe j [st])) ∧
    (s.pkgbudDue = true → exec .tokenHop s = .next { s with
      pkgbudDue := false, tokenAt := 0, tokenF := (s.pkgbud - 640) % 4
      stks := s.stks.map fun k => { k with held := (s.pkgbud - 640) / 4 } }) ∧
    (∀ n, s.pkgbudDue = false → (s.tokenAt, n) ∈ [(0, 1), (1, 3), (3, 2), (2, 0)] →
      let x := (s.stack n).exchange (s.busy n) s.tokenF
      exec .tokenHop s = .next { s.onStack n fun _ => x.1 with tokenAt := n, tokenF := x.2 }) ∧
    (∀ (k : Stack) (busy : Bool) (f : Nat), k.tstop ≤ 7 →
      let x := k.exchange busy f
      let w := [1140, 998, 856, 714, 572, 430, 288, 146].getD (if busy then k.tstop else 7) 0
      x.1.held + x.2 = k.held + f ∧ (w ≤ k.held → x.1.held = w) ∧ (k.held < w → x.1.held = min w (k.held + f)) ∧
        x.1.token = x.2 ∧ x.1.tstop = k.tstop ∧
        let need := fun (j : Nat) => 1140 - 142 * j
        (x.1.held < need 7 → x.1.pstop = 7) ∧
        ∀ j ≤ 7, need j ≤ x.1.held → (∀ i < j, x.1.held < need i) → x.1.pstop = j) ∧
    (∀ n, s.busy n = true ↔ ∃ p, p / 32 = n ∧ ∃ q < 2, (s.seq p q).iter.isSome = true) ∧
    (let v := s.who.v % 8192
    exec .pkgbudWrite s = .next (if 1224 ≤ v ∧ v ≤ 5200 then { s with pkgbud := v, pkgbudDue := true } else s)) ∧
    (let v := BitVec.ofNat 64 s.who.v
    let th := fun (j : Nat) => (v.extractLsb' (8 * j) 8).toNat
    (60 ≤ th 0 → (∀ j < 6, th j < th (j + 1)) → th 6 ≤ 124 →
      exec .govthWrite s = .next (onS fun k => { k with govth := v &&& 0x00FFFFFFFFFFFFFF })) ∧
    (th 0 < 60 ∨ (∃ j < 6, th (j + 1) ≤ th j) ∨ 124 < th 6 → exec .govthWrite s = .next s)) ∧
    (let add := [[128, 96, 72, 56, 40, 28, 16, 8], [128, 104, 84, 64, 48, 32, 20, 12], [128, 96, 64, 48, 32, 24, 16, 8],
      [128, 112, 96, 80, 64, 48, 32, 16]].map fun l => l.getD k.stop 0
    k.stop ≤ 7 → exec .permitRefill s = .next (((List.range 32).map (32 * st + ·)).foldl (fun u p => u.onPillar p fun P =>
      { P with permits := List.zipWith (fun n a => min 128 (n + a)) P.permits add }) s)) ∧
    (exec .droopAlarm s = .next (onS fun k =>
      if k.alarm.getLsbD 48 = true ∨ s.who.v ≤ (k.drpth.extractLsb' 0 8).toNat then k else k.alarmed)) ∧
    (exec .testAlarm s = .next (onS fun k =>
      if k.alarm.getLsbD 48 = true then { k.alarmed with testing := true } else k)) ∧
    (∀ k : Stack, (0 < k.stretch ∨ k.half = true → k.alarmed = k) ∧ (k.stretch = 0 → k.half = false →
      k.alarmed.stretch = 3 ∧ k.alarmed.halve = none ∧ k.alarmed.drpth.getLsbD 32 = true ∧
        (k.alarmed.drpth.extractLsb' 16 16) = k.drpth.extractLsb' 16 16 + 1 ∧
        k.alarmed.drpth.extractLsb' 0 16 = k.drpth.extractLsb' 0 16 ∧ k.alarmed.fresh.droops = k.fresh.droops + 1)) ∧
    (exec .droopHalvingEnd s = .next (onS fun k => { k with
      halve := none, drpth := setBits k.drpth 32 1 0
      alarm := if k.testing then setBits k.alarm 48 1 0 else k.alarm, testing := false })) ∧
    (let d := s.who.k
    let up := s.who.up
    let now := s.tick / 2
    let began := k.voltAt.getD d 0
    let last := k.voltLast.getD d (0, false)
    let begins := began + 1000000 ≤ now ∧ last.1 + 1000 ≤ now
    let goesOn := 0 < last.1 ∧ last.1 + 1000 ≤ now ∧ now < last.1 + 2000 ∧ last.2 = up
    let moved := fun (at_ : Nat) => exec .voltageStep s = .next (onS fun k => { k with
      volts := upd k.volts d fun v => if up then v + 1 else v - 1
      voltAt := upd k.voltAt d fun _ => at_
      voltLast := upd k.voltLast d fun _ => (now, up) })
    (¬ begins → ¬ goesOn → exec .voltageStep s = .next s) ∧ (goesOn → moved began) ∧
    (begins → ¬ goesOn → moved now)) ∧
    exec .wsRefreshWindow s = .next (onS fun k => { k with refresh := true }) ∧
    exec .wsRefreshWindowEnd s = .next (onS fun k => { k with refresh := false })

/-- R13, R238, R354, R362, R365, R371, R382-R394: the host's and the firmware's side. A host write goes sector by
sector; without verified firmware only the configuration spaces answer. The reading back of FNMODE, the ring's
physical address, what memory holds after package reset, plain configuration spaces, the marks of row buffer and
chain queue by groups of 8 bytes, ID.PKG without a fabric, the time between a host write's sectors and the answer on
a renewal whose frame has gone (its owner (512, 512), dropped) are the model's choices (log 9, 18, 56, 57, 76, 77,
78, 81, 96). -/
def Obligations.HostEvents : Prop :=
  ∀ s : State,
    let st := s.who.st
    let v := BitVec.ofNat 64 s.who.v
    ((∀ r ∈ s.hkreqs, r.posted = true → r.answered = none → r.tag % 2 ^ 32 ≠ (v.extractLsb' 0 32).toNat) →
      exec .hkVerdict s = .next s) ∧
    (∀ r, s.hkreqs = [r] → r.posted = true → r.answered = none → r.tag % 2 ^ 32 = (v.extractLsb' 0 32).toNat →
      ((r.word0.extractLsb' 0 8).toNat = 1 → v.getLsbD 32 = true → exec .hkVerdict s = .next { s with hkreqs := [] }) ∧
      ((r.word0.extractLsb' 0 8).toNat = 1 → v.getLsbD 32 = false →
        exec .hkVerdict s = .next (({ s with hkreqs := [] } : State).refuse r)) ∧
      ((r.word0.extractLsb' 0 8).toNat = 3 → exec .hkVerdict s = .next { s with hkreqs :=
        if r.owner = (512, 512) then [] else [{ r with answered := some (v.getLsbD 32) }] }) ∧
      ((r.word0.extractLsb' 0 8).toNat = 2 → v.getLsbD 32 = false →
        exec .hkVerdict s = .next { s with hkreqs := [] }) ∧
      ((r.word0.extractLsb' 0 8).toNat = 2 → v.getLsbD 32 = true → exec .hkVerdict s =
        .next (({ s with hkreqs := [] } : State).grantElection r))) ∧
    (∀ (u : State) (r : HkReq),
      let p := 32 * (r.word0.extractLsb' 8 2).toNat + (r.word0.extractLsb' 10 5).toNat
      let q := r.owner.1
      let i := r.owner.2
      let line := r.word1.toNat / 128
      (i = 256 → u.refuse r = if (u.seq p q).pc.toNat / 128 = line then
        u.onSeq p q fun x => { x with fetchFault := some ⟨line, cXlate, r.info⟩ } else u) ∧
      (i ≠ 256 →
        ((∀ c, u.rec? p q i = some c → c.faulted = true) → u.refuse r = u) ∧
        ∀ c, u.rec? p q i = some c → c.faulted = false →
          ((∀ it, (u.pillar p).cubeItem? q i = some it → ∀ o, it.kind ≠ .op o) → u.refuse r = u.faultRec p q i cXlate r.info) ∧
          ∀ it o, (u.pillar p).cubeItem? q i = some it → it.kind = .op o → u.refuse r = u.parkWave p q i o (cXlate, r.info))) ∧
    (s.who.v ≤ s.hkr → exec .hkrWrite s = .next s) ∧
    (s.hkr < s.who.v → exec .hkrWrite s = .next (State.hkPump { s with hkr := s.who.v })) ∧
    exec .fnmodeApply s = .next { s with fnmode := s.fnmodeNext } ∧
    (∃ t, exec .mgmtRegisterWrite s = .next t ∧ t.mem = s.mem ∧ t.pillars = s.pillars ∧
      (s.who.k = 0x08 → t = s.onStack st fun k => { k with ctxbase := v &&& 0x000FFFFFFFFFF000 }) ∧
      (s.who.k = 0x10 → t = s.onStack st fun k => { k with troot := v &&& 0x000FFFFFFFF80000 }) ∧
      (s.who.k = 0x120 → t = s.onStack st fun k => { k with budget := v &&& 0x1FFFFFF }) ∧
      (s.who.k = 0x140 → t = { s with hkbase := v &&& 0x000FFFFFFFFFE000 })) ∧
    (s.who.q ≠ 0 → exec .hostMemAccess s = .next (if s.who.up then
      s.onStack st fun k => { k with cfg := Mem.writeN k.cfg s.who.k s.who.bytes } else s)) ∧
    (s.who.q = 0 →
      let n := if s.who.up then s.who.bytes.length else s.who.n
      let pa := s.who.k
      let m := 32 - pa % 32
      (spaceOf pa = none ∨ spaceOf (pa + (n - 1)) = none → exec .hostMemAccess s = .fault (.noSuchAddress pa)) ∧
      (spaceOf pa ≠ none → spaceOf (pa + (n - 1)) ≠ none →
        (s.who.up = false ∨ s.unbooted = true → exec .hostMemAccess s = .next s) ∧
        (s.who.up = true → s.unbooted = false →
          (n ≤ m ∨ (∃ st, spaceOf pa = some (.bar st)) → exec .hostMemAccess s = .next (s.busWrite pa s.who.bytes)) ∧
          (m < n → (∀ st, spaceOf pa ≠ some (.bar st)) → exec .hostMemAccess s =
            .next ((s.busWrite pa (s.who.bytes.take m)).putOff .hostMemAccess
              { k := pa + m, up := true, bytes := s.who.bytes.drop m }))))) ∧
    (∀ (u : State) (i : Instr) (w : Who) (evs : List (Instr × Who)) (rest : List Act),
      u.agenda = evs.map (fun e => .event e.1 e.2) ++ rest → (∀ j x, rest.head? ≠ some (.event j x)) →
      u.putOff i w = { u with agenda := rest, env := ((i, w) :: evs).map (fun e => (u.tick + 1, e)) ++ u.env }) ∧
    (let n := s.who.n
    let pillar := s.who.p % 32
    (s.who.q = 0 → (s.stack st).scrubLeft < 32 → exec .scrub s = .next s) ∧
    (s.who.q = 0 → 32 ≤ (s.stack st).scrubLeft → s.who.up = false →
      (∀ y l, spaceOf (32 * s.who.k) ≠ some (.weight y l)) →
      let u := s.onStack st fun k => { k with scrubLeft := k.scrubLeft - 32 }
      let word := poisonInfo 1 0 (32 * s.who.k / 256)
      (n = 0 → exec .scrub s = .next u) ∧
      (n = 1 → exec .scrub s = .next (u.logError st pillar 0 1 true word)) ∧
      (1 < n → exec .scrub s = .next (({ u with poison := mark u.poison s.who.k } : State).logError st pillar 0 1 false
        word))) ∧
    (s.who.q = 4 → 0 < n → ∃ word, exec .scrub s = .next ((s.onPillar s.who.p fun P => { P with
      bslots := upd P.bslots s.who.part fun l => upd l s.who.k fun b =>
        { b with badRows := mark b.badRows s.who.rec_ } }).logError st pillar 0 4 false word)) ∧
    (s.who.q = 8 → 0 < n → ∃ word, exec .scrub s = .next ((s.onPillar s.who.p fun P =>
      let g := s.who.rec_ % 256
      if s.who.up then { P with chainQ := upd P.chainQ s.who.k fun b => (b.1, b.2 ||| 2 ^ g) }
      else { P with rowBad := upd P.rowBad s.who.k fun m => m ||| 2 ^ g }).logError st pillar 0 8 false word)) ∧
    (∀ unit ∈ [5, 6, 7, 9, 10, 11], s.who.q = unit →
      (n = 1 → ∃ word, exec .scrub s = .next (s.logError st pillar 0 unit true word)) ∧
      (1 < n → exec .scrub s = .next s))) ∧
    (∃ t, exec .lifetimeCount s = .next t ∧ t.mem = s.mem ∧ t.pillars = s.pillars ∧
      ∀ (i : Nat) (k : Stack), s.stks[i]? = some k →
        t.stks[i]? = some (k.secondPasses (Config.supplyReading i (s.tick / 2)))) ∧
    (∀ (k : Stack) (v : Int),
      let x := k.secondPasses v
      x.fresh = Life.zero ∧ x.life.droops = min (k.life.droops + k.fresh.droops) (2 ^ 64 - 1) ∧
        ∀ (u a b : Nat), k.life.errors[u]? = some a → k.fresh.errors[u]? = some b →
          x.life.errors[u]? = some (min (a + b) (2 ^ 64 - 1))) ∧
    exec .counterPersist s = .next { s with stks := s.stks.map fun k => { k with nvlife := k.life } } ∧
    (s.unbooted = true → exec .attestRequest s = .next s) ∧
    (s.unbooted = false → s.signatures < 2 ^ 30 →
      let m := s.measurements
      exec .attestRequest s = .next { s.onStack 0 (fun k => { k with doe := some (.response m
        (Config.ecdsaSignature m s.signatures) (Config.lmsSignature m s.signatures)) }) with
          signatures := s.signatures + 1 }) ∧
    (s.unbooted = false → 2 ^ 30 ≤ s.signatures →
      exec .attestRequest s = .next (s.onStack 0 fun k => { k with doe := some .spdmError })) ∧
    (∃ t, exec .packageReset s = .next t ∧ t.pillars = State.reset.pillars ∧ t.launches = [] ∧ t.poison = [] ∧
      t.fnmode = 0 ∧ t.pkgbud = 5200 ∧ t.signatures = s.signatures ∧ t.stks.length = s.stks.length ∧
      (∀ c, c ∈ t.mem ↔ c ∈ s.mem ∧ s.outside c.1 = true) ∧
      (∀ (i : Nat) (k y : Stack), s.stks[i]? = some k → t.stks[i]? = some y → y.life = k.nvlife ∧ y.lfail = k.lfail ∧
        (Config.firmwareOk = false → y.bootst = 0x10) ∧
        ∀ l < 4, y.layers.getLsbD l = true → ∀ d < 5, (y.layers.extractLsb' (4 + 3 * l) 3).toNat = d →
          Config.firmwareOk = true → k.lfail.getLsbD d = false) ∧
      (Config.firmwareOk = false → t.pkg = 0 ∧ t.aligned = [] ∧ t.tick = 0) ∧
      (t.pkg = 0 ∧ t.aligned = [] ∧ t.tick = 0 ∨
        t.pkg = Config.podAddress % 1024 ∧ t.aligned = Config.podAligned ∧ t.tick = if
          (Config.podAligned.any fun a => a < Config.podAddress % 1024) then 2 * Config.alignedTime else 0))

/-! ### Whole-machine statements -/

/-- R149, R156: a syllable whose guard is off has no effect, but that a loop with the stack full and a cube
operation with an unset format entry raise ILLEGAL whatever their guard. -/
def Obligations.GuardOff : Prop :=
  ∀ (s : State) (i : Instr) (g : Guard), guardOfSyllable i = some g → s.guardOn g = false →
    (match i with
      | .loop .. | .loopi .. => s.me.loops.length < 6
      | .cmma _ _ _ b _ _ _ _ | .cmmah _ _ _ b _ _ _ | .cchain _ _ b _ _ _ =>
        (at0 s.me.fts (bits (at0 s.me.geos (bits (s.peekMq.src b) 0 3)) 8 4)).extractLsb' 0 4 ≠ 0
      | .cmmat _ _ _ b _ _ _ _ => (s.entryOf (s.geoOf (s.peekMq.src b)) true).extractLsb' 0 4 ≠ 0
      | _ => True) →
    exec i s = .next s

/-- R158, R162: the frame of the syllables whose effect is results in flight: nothing else of the machine changes. -/
def Obligations.ResultFrames : Prop :=
  ∀ (s t : State) (i : Instr), resultsOnly i = true → s.cur.trap = none → exec i s = .next t → t.cur.trap = none →
    s.sameOutside t ∧ s.samePillar t ∧ t.me.settled = s.me.settled ∧
      ∃ new, t.me.inflight = s.me.inflight ++ new ∧ ∀ l ∈ new,
        l.slot = s.cur.slot ∧ l.order = s.me.order ∧ s.mine.ic < l.land

/-- R259-R263: the frame of the memory slot: a load leaves all of memory and every frame; a store, all but the bytes
it stores, at the address the store itself computes. R253: an FFREE that empties its frame leaves every field of it
0. An FFREE, an FRENEW that renews and an FSETX that begins a fill end what the host answers on the frame's renewal,
all of them the model's choice (log 96). -/
def Obligations.MemoryFrames : Prop :=
  ∀ (s t : State) (i : Instr) (g : Guard), guardOfSyllable i = some g → s.cur.trap = none → exec i s = .next t →
    t.cur.trap = none → s.framesWf →
    let keptBut := fun (asks : List HkReq) =>
      s.sameOutside { t with hkreqs := asks } ∧
        { t.me.settled with chkint := s.me.chkint, chkNow := s.me.chkNow, latch := s.me.latch } = s.me.settled ∧
        (∀ q, q ≠ s.cur.q → (t.seq s.cur.p q).program = (s.seq s.cur.p q).program) ∧ t.mine.flags = s.mine.flags ∧
        t.mine.cube = s.mine.cube ∧ t.mine.trays = s.mine.trays
    let kept := keptBut t.hkreqs
    let others := fun (f : Nat) => ∀ k, k ≠ f → t.myFrame k = s.myFrame k
    let stored := fun (f off n : Nat) => others f ∧ (s.myFrame f).sameOutside (t.myFrame f) off n
    (match i with
      | .ld .. | .ldaq .. | .ldv .. | .ldvt .. | .ldvr .. | .ldvb .. | .ldp .. | .ldvx .. | .fstat .. =>
        kept ∧ ∀ k, t.myFrame k = s.myFrame k
      | .st _ d a w p o | .strl _ d a w p o =>
        let ea := (s.sourced [d, a]).eaOf a w p o
        kept ∧ stored (frameNo ea) (bits ea 0 22) (widthOf w)
      | .atom _ _ a b _ =>
        let ea := (s.sourced [a, b]).src a
        kept ∧ stored (frameNo ea) (bits ea 0 22) 8
      | .cas _ d a b =>
        let ea := (s.sourced [d, a, b]).src a
        kept ∧ stored (frameNo ea) (bits ea 0 22) 8
      | .stv _ v f a w =>
        kept ∧ stored f.toNat (bits ((s.sourced [a]).src a) 0 22) ((s.vreg v).length * viewBytes w)
      | .stvr _ _ f a w => kept ∧ stored f.toNat (bits ((s.sourced [a]).src a) 0 22) (64 * viewBytes w)
      | .stp _ v f a =>
        kept ∧ stored f.toNat (bits ((s.sourced [a]).src a) 0 22) (8 * (s.vpred (v.extractLsb' 0 3)).length)
      | .stvx _ _ f x => kept ∧ others f.toNat ∧ ∀ b, (∀ o ∈ s.vreg x, b < o.toNat ∨ o.toNat + 4 ≤ b) →
          Mem.read (t.myFrame f.toNat).data b = Mem.read (s.myFrame f.toNat).data b
      | .falloc _ f _ _ _ => kept ∧ others f.toNat
      | .frenew _ f _ =>
        keptBut s.hkreqs ∧ others f.toNat ∧ t.hkreqs =
          if s.guardOn g = true then (s.noRenewal s.cur.p f.toNat).hkreqs else s.hkreqs
      | .fsetx _ f a b _ =>
        keptBut s.hkreqs ∧ others f.toNat ∧ t.hkreqs =
          if s.guardOn g = true ∧ (s.sourced [a, b]).src a ≠ 0 then (s.noRenewal s.cur.p f.toNat).hkreqs else s.hkreqs
      | .ffree _ f =>
        let empties := s.guardOn g = true ∧ (s.myFrame f.toNat).state = .ready
        keptBut s.hkreqs ∧ others f.toNat ∧ (¬ empties → t.hkreqs = s.hkreqs ∧ t.myFrame f.toNat = s.myFrame f.toNat) ∧
          (empties → t.hkreqs = (s.noRenewal s.cur.p f.toNat).hkreqs ∧ t.myFrame f.toNat =
            { state := .empty, ph := false, auto := false, size := 0, expb := 0, land := 0, life := 0, expiry := 0
              drn := 0, xp := false, zeroEnd := none, data := [], poison := [] })
      | _ => True)

/-- R160, R185-R200, R272, R296, R312-R326: the frame of the flow, cube, engine and synchronisation syllables. -/
def Obligations.FlowAndCommandFrames : Prop :=
  ∀ (s t : State) (i : Instr) (g : Guard), guardOfSyllable i = some g → s.cur.trap = none → exec i s = .next t →
    t.cur.trap = none →
    let x := s.me
    let y := t.me
    let data := ∀ k, (t.myFrame k).data = (s.myFrame k).data
    let quiet := t.mem = s.mem ∧ t.poison = s.poison ∧ t.stks = s.stks ∧ t.launches = s.launches ∧
      (∀ p, p ≠ s.cur.p → (t.pillar p).seqs = (s.pillar p).seqs ∧ (t.pillar p).frames = (s.pillar p).frames ∧
        (t.pillar p).flags = (s.pillar p).flags)
    (match i with
      | .br .. | .bri .. | .call .. | .calli .. | .loop .. | .loopi .. | .lbreak .. | .pmark .. | .cropen .. | .crclose ..
      | .halt .. | .waitev .. | .chkerr .. =>
        s.sameOutside t ∧ s.samePillar t ∧ { y.settled with
          pc := x.pc, delay := x.delay, loops := x.loops, run := x.run, latch := x.latch, regions := x.regions } = x.settled
      | .copyin .. | .copyout .. | .gather .. | .scatter .. | .atomg .. | .cbld .. | .cbldf .. | .cmma .. | .cmmat ..
      | .cmmah .. | .cchain .. | .czero .. | .cabort .. | .cbnd .. | .kpost .. | .kset .. | .kpostr .. | .msend .. | .defer ..
      | .drain .. | .jraise .. | .jpost .. | .dsync .. =>
        quiet ∧ data ∧ y.program = x.program ∧ ∀ q, (t.seq s.cur.p q).program = (s.seq s.cur.p q).program
      | .ecancel .. | .ecancelK .. | .ecancelF .. =>
        quiet ∧ y.program = x.program ∧ ∀ q, (t.seq s.cur.p q).program = (s.seq s.cur.p q).program
      | _ => True)

/-- R127, R128, R149-R155, R188, R328, R329: the issue port's step: of the sequencers that are ready, the one that
did not issue last; its long word is the one its instruction cache holds at its pc; each slot runs the instructions
its own syllable decodes to, in slot order but for S0's flow-changing syllables, which come last (the model's order
among slots that see one another's state: R128 gives none). A long word some slot of which raises takes the first
cause in R329's order, from the state before any slot, so that no slot has an effect, a pop of the message queue
included (log 62). -/
def Obligations.StepRunsDecoded : Prop :=
  ∀ (s : State) (p : Nat) (rest : List Act), s.agenda = .issue p :: rest →
    let u := (({ s with agenda := rest } : State).noteHeld p 0).noteHeld p 1
    let ready := fun (q : Nat) => (u.focus p q).readiness
    (ready 0 = .no → ready 1 = .no → step s = .next u) ∧
    (∀ q lw, q < 2 → ready q = .runs lw → (ready (1 - q) = .no ∨ (u.pillar p).last = 1 - q) →
      let v := u.grant p q
      let is := longWordInstrs lw
      (∃ l ∈ (u.pillar p).icache, l.line = (u.seq p q).pc.toNat / 128 ∧ lw = (List.range 8).map fun k =>
        at0 l.words (8 * ((u.seq p q).pc.toNat / 32 % 4) + k)) ∧
      v.cur.addr = (u.seq p q).pc ∧ (v.pillar p).last = (if p < u.pillars.length then q else (v.pillar p).last) ∧
      (v.me.illseq v.cur.addr (is.map Prod.snd) = false → v.wordRaises is = [] → ∀ t,
        runSlots lw (slotOrder is) { v with cur := { v.cur with found := v.mine.frames } } [] = (.next t, []) →
        step s = .next (v.afterWord (v.leaveWord (t.takePermits is)) (is.map Prod.snd))) ∧
      (v.pillar p).mq = (u.pillar p).mq ∧ (v.pillar p).frames = (u.pillar p).frames ∧
      ∀ w rs r, runSlots lw (slotOrder is) { v with cur := { v.cur with found := v.mine.frames } }
          ((if v.me.illseq v.cur.addr (is.map Prod.snd) = true then [(0, cause cIllseq 0)] else []) ++ v.wordRaises is) =
          (.next w, rs) → pickRaise rs = some r → step s = .next (v.raiseWord r)) ∧
    (∀ q r, q < 2 → ready q = .raises r → (ready (1 - q) = .no ∨ (u.pillar p).last = 1 - q) →
      step s = .next ((u.grant p q).raiseWord r)) ∧
    (∀ rs : List (Nat × Raise), (pickRaise rs = none ↔ rs = []) ∧
      ∀ r, pickRaise rs = some r → ∃ e ∈ rs, r = { e.2 with einfo := r.einfo } ∧
        r.einfo = (if (r.cause = cIllegal ∨ r.cause = cPriv) ∧ (∃ f ∈ rs, f.1 ≠ e.1 ∧ f.2.cause = e.2.cause) then
          e.2.einfo ||| 8 else e.2.einfo) ∧
        ∀ f ∈ rs, e.2.rank < f.2.rank ∨ e.2.rank = f.2.rank ∧ e.1 ≤ f.1) ∧
    (∀ x : Raise, x.rank = if x.cause = cIllegal then 0 else if x.cause = cIllseq then 1 else if x.cause = cPriv then 2
      else if x.record.isSome = true then 3 else if x.cause = cLayer then 4 else 5) ∧
    (∀ lw : LongWord, lw.length = 8 → ∀ (k : Nat) (i : Instr), (k, i) ∈ longWordInstrs lw ↔
      ∃ sl ∈ Slot.all, sl.num = k ∧ ∃ is, decodeSyllable sl (at0 lw k) = .ok is ∧ i ∈ is) ∧
    (∀ lw : LongWord, ((longWordInstrs lw).map Prod.fst).Pairwise (· ≤ ·) ∧
      ∀ si ∈ longWordInstrs lw, changesFlow si.2 = true → si.1 = 0) ∧
    (∀ is : List (Nat × Instr),
      (slotOrder is).Pairwise (fun a b => changesFlow a.2 = true → changesFlow b.2 = true) ∧
        ∀ c, (slotOrder is).filter (fun si => changesFlow si.2 == c) = is.filter fun si => changesFlow si.2 == c) ∧
    (∀ (lw : LongWord) (slot : Nat) (i : Instr) (more : List (Nat × Instr)) (w t : State) (rs : List (Nat × Raise)),
      exec i { w with cur := { w.cur with slot := slot, syl := at0 lw slot } } = .next t →
      runSlots lw ((slot, i) :: more) w rs =
        match t.cur.trap with
        | none => runSlots lw more (t.noteFound slot) rs
        | some r => runSlots lw more w (rs ++ [(slot, r)])) ∧
    (∀ (lw : LongWord) (w : State) (rs : List (Nat × Raise)), runSlots lw [] w rs = (.next w, rs))

/-- The encoding: decoding the syllable of an instruction gives exactly it when it is well formed, and an ill-formed
one is refused; every syllable has its word and no event has one (R126-R149). What a decoder answers is well formed,
and it answers on every word or gives a reason of R149. -/
def Obligations.DecodeOfEncode : Prop :=
  ∀ i : Instr, (∀ w, encode i = some w → (i.wf = true ↔ decodeSyllable (slotOf i) w = .ok [i])) ∧
    ((encode i).isSome = (guardOfSyllable i).isSome) ∧
    (∀ (sl : Slot) (w : W32),
       (∀ is, decodeSyllable sl w = .ok is → ∀ i ∈ is, i.wf = true) ∧
       (∀ r, decodeSyllable sl w = .error r → 1 ≤ r ∧ r ≤ 7))

/-- R127-R149: one written-out syllable of each slot map and format family decodes to its instruction. -/
def Obligations.DecodedWords : Prop :=
  decodeSyllable .s0 0x02C88123 = .ok [.li .always 17 0x123] ∧
  decodeSyllable .s1 0x024D6602 = .ok [.sel .always 26 25 16 2] ∧
  decodeSyllable .s0 0x5C0FFFFC = .ok [.br ⟨5, 1⟩ 0xFFFFC] ∧
  decodeSyllable .m 0x00518B44 = .ok [.ldv .always 3 5 20 1] ∧
  decodeSyllable .m 0x00104501 = .ok [.ld .always 0 17 2 0 0 1] ∧
  decodeSyllable .x 0x00001020 = .ok [.xpsr .always 1 0] ∧
  decodeSyllable .v 0x00430CE8 = .ok [.vfma .always 6 3 7 1 0] ∧
  decodeSyllable .v 0x00A68220 = .ok [.vcmp .always 3 2 1 2 0] ∧
  decodeSyllable .f 0x01630830 = .ok [.vscanr .always 6 2 0 3 0] ∧
  decodeSyllable .f 0x00118402 = .ok [.fexp2 .always 3 1 0 2] ∧
  decodeSyllable .v 0x03C041D3 = .ok [.ddotB .always 1 0 7 3] ∧
  decodeSyllable .c 0x30535B78 = .ok [.cmma ⟨3, 0⟩ 1 21 22 15 0 0 0] ∧
  decodeSyllable .y 0x00616321 = .ok [.copyin .always 5 17 18 0 1] ∧
  decodeSyllable .y 0x0031C642 = .ok [.kpostr .always 3 17 18 2] ∧
  decodeSyllable .s1 0x5C0FFFFC = .error 3 ∧ decodeSyllable .v 0x07F00000 = .error 1

/-- Every step keeps the package's memory and every frame's contents in their canonical form. The byte an unlisted
address reads as is the model's choice (log 1). -/
def Obligations.MemoryStaysCanonical : Prop :=
  ∀ s t : State, s.memWf → s.framesWf → step s = .next t → t.memWf ∧ t.framesWf

/-- R19, R87, R102-R104, R253, R308, R317, R338, R370, R371, R379: the package at reset. Every value here is one the
manual states or, for HELD, one R370 and R371 give, but the empty memory (log 1) and a `CYC` of 0 (`P.ic`, log 2),
which are the model's choices. -/
def Obligations.ResetValues : Prop :=
  let s := State.reset
  s.memWf ∧ s.framesWf ∧ s.shape ∧ s.tick = 0 ∧ s.fnmode = 0 ∧ s.pkgbud = 5200 ∧ s.hkw = 0 ∧ s.hkr = 0 ∧ s.launches = [] ∧
    (∀ p < 128, let P := s.pillar p
      P.ic = 0 ∧ P.permits = [128, 128, 128, 128] ∧ (∀ k < 32, at0 P.flags k = 0) ∧ P.errinj = 0 ∧ P.pools = [16, 16, 16, 16] ∧
        (∀ f < 64, (s.frame p f).state = .empty) ∧
        ∀ q < 2, let x := s.seq p q
          x.pc = 0 ∧ x.loops = [] ∧ (∀ i < 16, at0 x.queue i = 0) ∧ (∀ i < 16, at0 x.named i = 0) ∧
            (∀ c < 16, x.preds.getD c true = false) ∧ (∀ v < 32, ∀ e < 1024, at0 (x.vregs.getD v []) e = 0) ∧
            (∀ d < 8, ∀ r < 16, at0 (x.norms.getD d []) r = 0x8000) ∧ (∀ a < 8, (x.accs.getD a Acc.zero).busy = false) ∧
            x.rbase = 0 ∧ x.lpitch = 1 ∧ x.chkint = 0 ∧ x.mode = false ∧ x.tvec = 0 ∧ x.sscr0 = 0 ∧ x.sscr1 = 0) ∧
    (∀ st < 4, let k := s.stack st
      k.stop = 0 ∧ k.held = 1140 ∧ (∀ i < 96, at0 k.sens i = 0x8000) ∧ k.stime = 0 ∧ (k.drpth.extractLsb' 0 8).toNat = 35 ∧
        (∀ j < 7, (k.govth.extractLsb' (8 * j) 8).toNat = 107 + 2 * j) ∧ k.shut = false ∧ k.req = false ∧
        (k.budget.extractLsb' 0 8).toNat = 64 ∧ (k.budget.extractLsb' 8 8).toNat = 16)
end

