-- ==== Sys2Proof/Laws/Lists.lean ====
section
/-! SUPPORT. Lists changed at one place, little-endian numbers, and words read back from their bytes. -/

namespace Sys2Proof.Machine

@[simp] theorem upd_length {α : Type} (l : List α) (n : Nat) (f : α → α) : (upd l n f).length = l.length := by
  induction l generalizing n with
  | nil => rfl
  | cons x xs ih => cases n <;> simp [upd, ih]

theorem upd_getElem? {α : Type} (l : List α) (n k : Nat) (f : α → α) :
    (upd l n f)[k]? = if k = n then l[k]?.map f else l[k]? := by
  induction l generalizing n k with
  | nil => simp [upd]
  | cons x xs ih => cases n <;> cases k <;> simp [upd, ih]

/-- The changed place of a list that has it. -/
theorem upd_getD_self {α : Type} (l : List α) (n : Nat) (f : α → α) (d : α) (h : n < l.length) :
    (upd l n f).getD n d = f (l.getD n d) := by
  rw [List.getD_eq_getElem?_getD, upd_getElem?, if_pos rfl, List.getElem?_eq_getElem h, List.getD_eq_getElem _ _ h]
  rfl

/-- Every other place is as it was. -/
theorem upd_getD_ne {α : Type} (l : List α) (n k : Nat) (f : α → α) (d : α) (h : k ≠ n) :
    (upd l n f).getD k d = l.getD k d := by
  simp [List.getD_eq_getElem?_getD, upd_getElem?, h]

/-- A place the list does not have changes nothing. -/
theorem upd_of_length_le {α : Type} (l : List α) (n : Nat) (f : α → α) (h : l.length ≤ n) : upd l n f = l := by
  induction l generalizing n with
  | nil => rfl
  | cons x xs ih =>
    cases n with
    | zero => simp at h
    | succ n => simp [upd, ih n (by simpa using h)]

@[simp] theorem upd_id {α : Type} (l : List α) (n : Nat) : upd l n (fun x => x) = l := by
  induction l generalizing n with
  | nil => rfl
  | cons x xs ih => cases n <;> simp [upd, ih]

theorem at0_upd_self {w : Nat} (l : List (BitVec w)) (n : Nat) (f : BitVec w → BitVec w) (h : n < l.length) :
    at0 (upd l n f) n = f (at0 l n) := upd_getD_self l n f 0 h

theorem at0_upd_ne {w : Nat} (l : List (BitVec w)) (n k : Nat) (f : BitVec w → BitVec w) (h : k ≠ n) :
    at0 (upd l n f) k = at0 l k := upd_getD_ne l n k f 0 h

@[simp] theorem leBytes_length (n v : Nat) : (leBytes n v).length = n := by
  induction n generalizing v with
  | zero => rfl
  | succ n ih => simp [leBytes, ih]

/-- The number of n bytes of v is v modulo 2^(8n). -/
theorem leNat_leBytes (n v : Nat) : leNat (leBytes n v) = v % 256 ^ n := by
  induction n generalizing v with
  | zero => simp [leBytes, leNat, Nat.mod_one]
  | succ n ih =>
    simp only [leBytes, leNat, ih, BitVec.toNat_ofNat]
    rw [Nat.pow_succ 256 n, Nat.mul_comm (256 ^ n) 256, Nat.mod_mul]

theorem leNat_lt (bs : List Byte) : leNat bs < 256 ^ bs.length := by
  induction bs with
  | nil => simp [leNat]
  | cons b bs ih =>
    have h := b.isLt
    simp only [leNat, List.length_cons, pow_succ]
    omega

/-- Storing a word's bytes and reading them back gives the word. -/
theorem leNat_word {w : Nat} (n : Nat) (x : BitVec w) (h : 2 ^ w ≤ 256 ^ n) : leNat (leBytes n x.toNat) = x.toNat := by
  rw [leNat_leBytes, Nat.mod_eq_of_lt (Nat.lt_of_lt_of_le x.isLt h)]

@[simp] theorem mergeMask_length (m : PReg) (a b : VReg) : (mergeMask m a b).length = 1024 := by simp [mergeMask]

@[simp] theorem vreg_of_length (f : Nat → W32) : (VReg.of f).length = 1024 := by simp [VReg.of]

theorem vreg_of_getD (f : Nat → W32) (e : Nat) (h : e < 1024) (d : W32) : (VReg.of f).getD e d = f e := by
  simp [VReg.of, List.getD_eq_getElem?_getD, h]

/-- What a masked write leaves in each element. -/
theorem mergeMask_getD (m : PReg) (a b : VReg) (e : Nat) (h : e < 1024) :
    (mergeMask m a b).getD e 0 = if m.on e then b.getD e 0 else a.getD e 0 := by
  simp only [mergeMask, List.getD_eq_getElem?_getD, List.getElem?_map, List.getElem?_range h]
  rfl

end Sys2Proof.Machine
end

