-- ==== Sys2Proof/Laws/Memory.lean ====
section
/-! SUPPORT. The sparse byte store: reading after writing, and the canonical form that every operation keeps. -/

namespace Sys2Proof.Machine

theorem above_mono {m : List Host.Cell} {lo hi : Nat} (h : hi ≤ lo) (w : Mem.above lo m = true) :
    Mem.above hi m = true := by
  cases m with
  | nil => rfl
  | cons c m =>
    simp only [Mem.above, Bool.and_eq_true, decide_eq_true_eq] at w ⊢
    exact ⟨⟨by omega, w.1.2⟩, w.2⟩

/-- An address below every listed one reads as the default. -/
theorem read_below {m : List Host.Cell} {lo a : Nat} (w : Mem.above lo m = true) (h : a < lo) :
    Mem.read m a = memDefault := by
  induction m generalizing lo with
  | nil => rfl
  | cons c m ih =>
    simp only [Mem.above, Bool.and_eq_true, decide_eq_true_eq] at w
    simp only [Mem.read]
    rw [if_neg (by omega)]
    exact ih w.2 (by omega)

theorem write_above {m : List Host.Cell} {lo a : Nat} (v : Byte) (w : Mem.above lo m = true) (h : lo ≤ a) :
    Mem.above lo (Mem.write m a v) = true := by
  induction m generalizing lo with
  | nil =>
    simp only [Mem.write]
    split <;> simp_all [Mem.above]
  | cons c m ih =>
    obtain ⟨b, x⟩ := c
    simp only [Mem.above, Bool.and_eq_true, decide_eq_true_eq] at w
    simp only [Mem.write]
    split
    · split
      · simp [Mem.above, w]
      · simp only [Mem.above, Bool.and_eq_true, decide_eq_true_eq]
        exact ⟨⟨h, ‹_›⟩, ⟨⟨by omega, w.1.2⟩, w.2⟩⟩
    · split
      · split
        · exact above_mono (by omega) w.2
        · simp only [Mem.above, Bool.and_eq_true, decide_eq_true_eq]
          exact ⟨⟨h, ‹_›⟩, above_mono (by omega) w.2⟩
      · simp only [Mem.above, Bool.and_eq_true, decide_eq_true_eq]
        exact ⟨w.1, ih w.2 (by omega)⟩

/-- A write keeps the canonical form. -/
theorem write_wf {m : List Host.Cell} (a : Nat) (v : Byte) (w : Mem.wf m = true) : Mem.wf (Mem.write m a v) = true :=
  write_above v w (Nat.zero_le a)

theorem writeN_wf {m : List Host.Cell} (a : Nat) (bs : List Byte) (w : Mem.wf m = true) :
    Mem.wf (Mem.writeN m a bs) = true := by
  induction bs generalizing m a with
  | nil => exact w
  | cons b bs ih => exact ih (a + 1) (write_wf a b w)

theorem filter_above {m : List Host.Cell} {lo : Nat} (f : Host.Cell → Bool) (w : Mem.above lo m = true) :
    Mem.above lo (m.filter f) = true := by
  induction m generalizing lo with
  | nil => rfl
  | cons c m ih =>
    simp only [Mem.above, Bool.and_eq_true, decide_eq_true_eq] at w
    simp only [List.filter_cons]
    split
    · simp only [Mem.above, Bool.and_eq_true, decide_eq_true_eq]
      exact ⟨w.1, ih w.2⟩
    · exact above_mono (by omega) (ih w.2)

/-- Forgetting listed bytes keeps the canonical form. -/
theorem filter_wf {m : List Host.Cell} (f : Host.Cell → Bool) (w : Mem.wf m = true) : Mem.wf (m.filter f) = true :=
  filter_above f w

/-- Reading the byte just written gives it. -/
theorem read_write_self {m : List Host.Cell} {lo : Nat} (a : Nat) (v : Byte) (w : Mem.above lo m = true) :
    Mem.read (Mem.write m a v) a = v := by
  induction m generalizing lo with
  | nil =>
    simp only [Mem.write]
    split <;> simp_all [Mem.read]
  | cons c m ih =>
    obtain ⟨b, x⟩ := c
    simp only [Mem.above, Bool.and_eq_true, decide_eq_true_eq] at w
    simp only [Mem.write]
    split
    · split
      · simp only [Mem.read]
        rw [if_neg (by omega), read_below w.2 (by omega)]
        exact (‹v = memDefault›).symm
      · simp [Mem.read]
    · split
      · subst b
        split
        · rw [read_below w.2 (by omega)]
          exact (‹v = memDefault›).symm
        · simp [Mem.read]
      · simp only [Mem.read]
        rw [if_neg (by omega)]
        exact ih w.2

/-- Every other byte reads as before. -/
theorem read_write_ne {m : List Host.Cell} {lo : Nat} (a b : Nat) (v : Byte) (w : Mem.above lo m = true) (h : b ≠ a) :
    Mem.read (Mem.write m a v) b = Mem.read m b := by
  induction m generalizing lo with
  | nil =>
    simp only [Mem.write]
    split <;> simp_all [Mem.read]
  | cons c m ih =>
    obtain ⟨k, x⟩ := c
    simp only [Mem.above, Bool.and_eq_true, decide_eq_true_eq] at w
    simp only [Mem.write]
    split
    · split <;> simp [Mem.read, h]
    · split
      · subst k
        split <;> simp [Mem.read, h]
      · simp only [Mem.read, ih w.2]

/-- A byte outside those written reads as before. -/
theorem read_writeN_outside {m : List Host.Cell} (a b : Nat) (bs : List Byte) (w : Mem.wf m = true)
    (h : b < a ∨ a + bs.length ≤ b) : Mem.read (Mem.writeN m a bs) b = Mem.read m b := by
  induction bs generalizing m a with
  | nil => rfl
  | cons x bs ih =>
    simp only [List.length_cons] at h
    simp only [Mem.writeN]
    rw [ih (a + 1) (write_wf a x w) (by omega), read_write_ne a b x w (by omega)]

/-- A byte written reads as written. -/
theorem read_writeN_inside {m : List Host.Cell} (a i : Nat) (bs : List Byte) (w : Mem.wf m = true) (h : i < bs.length) :
    Mem.read (Mem.writeN m a bs) (a + i) = bs.getD i 0 := by
  induction bs generalizing m a i with
  | nil => simp at h
  | cons x bs ih =>
    simp only [Mem.writeN]
    cases i with
    | zero =>
      rw [read_writeN_outside (a + 1) (a + 0) bs (write_wf a x w) (by omega)]
      simpa using read_write_self a x w
    | succ i =>
      have e : a + (i + 1) = (a + 1) + i := by omega
      rw [e, ih (a + 1) i (write_wf a x w) (by simpa using h)]
      rfl

@[simp] theorem readN_length (m : List Host.Cell) (a n : Nat) : (Mem.readN m a n).length = n := by
  induction n generalizing a with
  | zero => rfl
  | succ n ih => simp [Mem.readN, ih]

/-- Reading back bytes just written gives them. -/
theorem readN_writeN {m : List Host.Cell} (a : Nat) (bs : List Byte) (w : Mem.wf m = true) :
    Mem.readN (Mem.writeN m a bs) a bs.length = bs := by
  induction bs generalizing m a with
  | nil => rfl
  | cons x bs ih =>
    simp only [List.length_cons, Mem.readN, Mem.writeN]
    rw [ih (a + 1) (write_wf a x w), read_writeN_outside (a + 1) a bs (write_wf a x w) (by omega),
      read_write_self a x w]

end Sys2Proof.Machine
end

