-- ==== Sys2Proof/Laws/State.lean ====
section
/-! SUPPORT. What each update of the package leaves as it was, one lemma a field and update, and what each place holds
after an update of one place. -/

namespace Sys2Proof.Machine

@[simp] theorem onPillar_tick (s : State) (p : Nat) (f : Pillar → Pillar) : (s.onPillar p f).tick = s.tick := rfl
@[simp] theorem onPillar_mem (s : State) (p : Nat) (f : Pillar → Pillar) : (s.onPillar p f).mem = s.mem := rfl
@[simp] theorem onPillar_poison (s : State) (p : Nat) (f : Pillar → Pillar) :
    (s.onPillar p f).poison = s.poison := rfl
@[simp] theorem onPillar_stacks (s : State) (p : Nat) (f : Pillar → Pillar) :
    (s.onPillar p f).stks = s.stks := rfl
@[simp] theorem onPillar_launches (s : State) (p : Nat) (f : Pillar → Pillar) :
    (s.onPillar p f).launches = s.launches := rfl
@[simp] theorem onPillar_nextLaunch (s : State) (p : Nat) (f : Pillar → Pillar) :
    (s.onPillar p f).nextLaunch = s.nextLaunch := rfl
@[simp] theorem onPillar_away (s : State) (p : Nat) (f : Pillar → Pillar) : (s.onPillar p f).away = s.away := rfl
@[simp] theorem onPillar_posts (s : State) (p : Nat) (f : Pillar → Pillar) : (s.onPillar p f).posts = s.posts := rfl
@[simp] theorem onPillar_credits (s : State) (p : Nat) (f : Pillar → Pillar) :
    (s.onPillar p f).credits = s.credits := rfl
@[simp] theorem onPillar_selfRefresh (s : State) (p : Nat) (f : Pillar → Pillar) :
    (s.onPillar p f).selfRefresh = s.selfRefresh := rfl
@[simp] theorem onPillar_standing (s : State) (p : Nat) (f : Pillar → Pillar) :
    (s.onPillar p f).standing = s.standing := rfl
@[simp] theorem onPillar_pkgbud (s : State) (p : Nat) (f : Pillar → Pillar) :
    (s.onPillar p f).pkgbud = s.pkgbud := rfl
@[simp] theorem onPillar_pkgbudDue (s : State) (p : Nat) (f : Pillar → Pillar) :
    (s.onPillar p f).pkgbudDue = s.pkgbudDue := rfl
@[simp] theorem onPillar_tokenAt (s : State) (p : Nat) (f : Pillar → Pillar) :
    (s.onPillar p f).tokenAt = s.tokenAt := rfl
@[simp] theorem onPillar_tokenF (s : State) (p : Nat) (f : Pillar → Pillar) :
    (s.onPillar p f).tokenF = s.tokenF := rfl
@[simp] theorem onPillar_fnmode (s : State) (p : Nat) (f : Pillar → Pillar) :
    (s.onPillar p f).fnmode = s.fnmode := rfl
@[simp] theorem onPillar_fnmodeNext (s : State) (p : Nat) (f : Pillar → Pillar) :
    (s.onPillar p f).fnmodeNext = s.fnmodeNext := rfl
@[simp] theorem onPillar_hkbase (s : State) (p : Nat) (f : Pillar → Pillar) :
    (s.onPillar p f).hkbase = s.hkbase := rfl
@[simp] theorem onPillar_hkw (s : State) (p : Nat) (f : Pillar → Pillar) : (s.onPillar p f).hkw = s.hkw := rfl
@[simp] theorem onPillar_hkr (s : State) (p : Nat) (f : Pillar → Pillar) : (s.onPillar p f).hkr = s.hkr := rfl
@[simp] theorem onPillar_hkreqs (s : State) (p : Nat) (f : Pillar → Pillar) :
    (s.onPillar p f).hkreqs = s.hkreqs := rfl
@[simp] theorem onPillar_pkg (s : State) (p : Nat) (f : Pillar → Pillar) : (s.onPillar p f).pkg = s.pkg := rfl
@[simp] theorem onPillar_aligned (s : State) (p : Nat) (f : Pillar → Pillar) :
    (s.onPillar p f).aligned = s.aligned := rfl
@[simp] theorem onPillar_signatures (s : State) (p : Nat) (f : Pillar → Pillar) :
    (s.onPillar p f).signatures = s.signatures := rfl
@[simp] theorem onPillar_nonce (s : State) (p : Nat) (f : Pillar → Pillar) : (s.onPillar p f).nonce = s.nonce := rfl
@[simp] theorem onPillar_env (s : State) (p : Nat) (f : Pillar → Pillar) : (s.onPillar p f).env = s.env := rfl
@[simp] theorem onPillar_agenda (s : State) (p : Nat) (f : Pillar → Pillar) :
    (s.onPillar p f).agenda = s.agenda := rfl
@[simp] theorem onPillar_cur (s : State) (p : Nat) (f : Pillar → Pillar) : (s.onPillar p f).cur = s.cur := rfl
@[simp] theorem onPillar_who (s : State) (p : Nat) (f : Pillar → Pillar) : (s.onPillar p f).who = s.who := rfl
@[simp] theorem onStack_tick (s : State) (st : Nat) (f : Stack → Stack) : (s.onStack st f).tick = s.tick := rfl
@[simp] theorem onStack_mem (s : State) (st : Nat) (f : Stack → Stack) : (s.onStack st f).mem = s.mem := rfl
@[simp] theorem onStack_poison (s : State) (st : Nat) (f : Stack → Stack) : (s.onStack st f).poison = s.poison := rfl
@[simp] theorem onStack_pillars (s : State) (st : Nat) (f : Stack → Stack) :
    (s.onStack st f).pillars = s.pillars := rfl
@[simp] theorem onStack_launches (s : State) (st : Nat) (f : Stack → Stack) :
    (s.onStack st f).launches = s.launches := rfl
@[simp] theorem onStack_nextLaunch (s : State) (st : Nat) (f : Stack → Stack) :
    (s.onStack st f).nextLaunch = s.nextLaunch := rfl
@[simp] theorem onStack_away (s : State) (st : Nat) (f : Stack → Stack) : (s.onStack st f).away = s.away := rfl
@[simp] theorem onStack_posts (s : State) (st : Nat) (f : Stack → Stack) : (s.onStack st f).posts = s.posts := rfl
@[simp] theorem onStack_credits (s : State) (st : Nat) (f : Stack → Stack) :
    (s.onStack st f).credits = s.credits := rfl
@[simp] theorem onStack_selfRefresh (s : State) (st : Nat) (f : Stack → Stack) :
    (s.onStack st f).selfRefresh = s.selfRefresh := rfl
@[simp] theorem onStack_standing (s : State) (st : Nat) (f : Stack → Stack) :
    (s.onStack st f).standing = s.standing := rfl
@[simp] theorem onStack_pkgbud (s : State) (st : Nat) (f : Stack → Stack) : (s.onStack st f).pkgbud = s.pkgbud := rfl
@[simp] theorem onStack_pkgbudDue (s : State) (st : Nat) (f : Stack → Stack) :
    (s.onStack st f).pkgbudDue = s.pkgbudDue := rfl
@[simp] theorem onStack_tokenAt (s : State) (st : Nat) (f : Stack → Stack) :
    (s.onStack st f).tokenAt = s.tokenAt := rfl
@[simp] theorem onStack_tokenF (s : State) (st : Nat) (f : Stack → Stack) : (s.onStack st f).tokenF = s.tokenF := rfl
@[simp] theorem onStack_fnmode (s : State) (st : Nat) (f : Stack → Stack) : (s.onStack st f).fnmode = s.fnmode := rfl
@[simp] theorem onStack_fnmodeNext (s : State) (st : Nat) (f : Stack → Stack) :
    (s.onStack st f).fnmodeNext = s.fnmodeNext := rfl
@[simp] theorem onStack_hkbase (s : State) (st : Nat) (f : Stack → Stack) : (s.onStack st f).hkbase = s.hkbase := rfl
@[simp] theorem onStack_hkw (s : State) (st : Nat) (f : Stack → Stack) : (s.onStack st f).hkw = s.hkw := rfl
@[simp] theorem onStack_hkr (s : State) (st : Nat) (f : Stack → Stack) : (s.onStack st f).hkr = s.hkr := rfl
@[simp] theorem onStack_hkreqs (s : State) (st : Nat) (f : Stack → Stack) : (s.onStack st f).hkreqs = s.hkreqs := rfl
@[simp] theorem onStack_pkg (s : State) (st : Nat) (f : Stack → Stack) : (s.onStack st f).pkg = s.pkg := rfl
@[simp] theorem onStack_aligned (s : State) (st : Nat) (f : Stack → Stack) :
    (s.onStack st f).aligned = s.aligned := rfl
@[simp] theorem onStack_signatures (s : State) (st : Nat) (f : Stack → Stack) :
    (s.onStack st f).signatures = s.signatures := rfl
@[simp] theorem onStack_nonce (s : State) (st : Nat) (f : Stack → Stack) : (s.onStack st f).nonce = s.nonce := rfl
@[simp] theorem onStack_env (s : State) (st : Nat) (f : Stack → Stack) : (s.onStack st f).env = s.env := rfl
@[simp] theorem onStack_agenda (s : State) (st : Nat) (f : Stack → Stack) : (s.onStack st f).agenda = s.agenda := rfl
@[simp] theorem onStack_cur (s : State) (st : Nat) (f : Stack → Stack) : (s.onStack st f).cur = s.cur := rfl
@[simp] theorem onStack_who (s : State) (st : Nat) (f : Stack → Stack) : (s.onStack st f).who = s.who := rfl
@[simp] theorem onSeq_tick (s : State) (p q : Nat) (f : Seq → Seq) : (s.onSeq p q f).tick = s.tick := rfl
@[simp] theorem onSeq_mem (s : State) (p q : Nat) (f : Seq → Seq) : (s.onSeq p q f).mem = s.mem := rfl
@[simp] theorem onSeq_poison (s : State) (p q : Nat) (f : Seq → Seq) : (s.onSeq p q f).poison = s.poison := rfl
@[simp] theorem onSeq_stacks (s : State) (p q : Nat) (f : Seq → Seq) : (s.onSeq p q f).stks = s.stks := rfl
@[simp] theorem onSeq_launches (s : State) (p q : Nat) (f : Seq → Seq) : (s.onSeq p q f).launches = s.launches := rfl
@[simp] theorem onSeq_nextLaunch (s : State) (p q : Nat) (f : Seq → Seq) :
    (s.onSeq p q f).nextLaunch = s.nextLaunch := rfl
@[simp] theorem onSeq_away (s : State) (p q : Nat) (f : Seq → Seq) : (s.onSeq p q f).away = s.away := rfl
@[simp] theorem onSeq_posts (s : State) (p q : Nat) (f : Seq → Seq) : (s.onSeq p q f).posts = s.posts := rfl
@[simp] theorem onSeq_credits (s : State) (p q : Nat) (f : Seq → Seq) : (s.onSeq p q f).credits = s.credits := rfl
@[simp] theorem onSeq_selfRefresh (s : State) (p q : Nat) (f : Seq → Seq) :
    (s.onSeq p q f).selfRefresh = s.selfRefresh := rfl
@[simp] theorem onSeq_standing (s : State) (p q : Nat) (f : Seq → Seq) :
    (s.onSeq p q f).standing = s.standing := rfl
@[simp] theorem onSeq_pkgbud (s : State) (p q : Nat) (f : Seq → Seq) : (s.onSeq p q f).pkgbud = s.pkgbud := rfl
@[simp] theorem onSeq_pkgbudDue (s : State) (p q : Nat) (f : Seq → Seq) :
    (s.onSeq p q f).pkgbudDue = s.pkgbudDue := rfl
@[simp] theorem onSeq_tokenAt (s : State) (p q : Nat) (f : Seq → Seq) : (s.onSeq p q f).tokenAt = s.tokenAt := rfl
@[simp] theorem onSeq_tokenF (s : State) (p q : Nat) (f : Seq → Seq) : (s.onSeq p q f).tokenF = s.tokenF := rfl
@[simp] theorem onSeq_fnmode (s : State) (p q : Nat) (f : Seq → Seq) : (s.onSeq p q f).fnmode = s.fnmode := rfl
@[simp] theorem onSeq_fnmodeNext (s : State) (p q : Nat) (f : Seq → Seq) :
    (s.onSeq p q f).fnmodeNext = s.fnmodeNext := rfl
@[simp] theorem onSeq_hkbase (s : State) (p q : Nat) (f : Seq → Seq) : (s.onSeq p q f).hkbase = s.hkbase := rfl
@[simp] theorem onSeq_hkw (s : State) (p q : Nat) (f : Seq → Seq) : (s.onSeq p q f).hkw = s.hkw := rfl
@[simp] theorem onSeq_hkr (s : State) (p q : Nat) (f : Seq → Seq) : (s.onSeq p q f).hkr = s.hkr := rfl
@[simp] theorem onSeq_hkreqs (s : State) (p q : Nat) (f : Seq → Seq) : (s.onSeq p q f).hkreqs = s.hkreqs := rfl
@[simp] theorem onSeq_pkg (s : State) (p q : Nat) (f : Seq → Seq) : (s.onSeq p q f).pkg = s.pkg := rfl
@[simp] theorem onSeq_aligned (s : State) (p q : Nat) (f : Seq → Seq) : (s.onSeq p q f).aligned = s.aligned := rfl
@[simp] theorem onSeq_signatures (s : State) (p q : Nat) (f : Seq → Seq) :
    (s.onSeq p q f).signatures = s.signatures := rfl
@[simp] theorem onSeq_nonce (s : State) (p q : Nat) (f : Seq → Seq) : (s.onSeq p q f).nonce = s.nonce := rfl
@[simp] theorem onSeq_env (s : State) (p q : Nat) (f : Seq → Seq) : (s.onSeq p q f).env = s.env := rfl
@[simp] theorem onSeq_agenda (s : State) (p q : Nat) (f : Seq → Seq) : (s.onSeq p q f).agenda = s.agenda := rfl
@[simp] theorem onSeq_cur (s : State) (p q : Nat) (f : Seq → Seq) : (s.onSeq p q f).cur = s.cur := rfl
@[simp] theorem onSeq_who (s : State) (p q : Nat) (f : Seq → Seq) : (s.onSeq p q f).who = s.who := rfl
@[simp] theorem onMe_tick (s : State) (f : Seq → Seq) : (s.onMe f).tick = s.tick := rfl
@[simp] theorem onMe_mem (s : State) (f : Seq → Seq) : (s.onMe f).mem = s.mem := rfl
@[simp] theorem onMe_poison (s : State) (f : Seq → Seq) : (s.onMe f).poison = s.poison := rfl
@[simp] theorem onMe_stacks (s : State) (f : Seq → Seq) : (s.onMe f).stks = s.stks := rfl
@[simp] theorem onMe_launches (s : State) (f : Seq → Seq) : (s.onMe f).launches = s.launches := rfl
@[simp] theorem onMe_nextLaunch (s : State) (f : Seq → Seq) : (s.onMe f).nextLaunch = s.nextLaunch := rfl
@[simp] theorem onMe_away (s : State) (f : Seq → Seq) : (s.onMe f).away = s.away := rfl
@[simp] theorem onMe_posts (s : State) (f : Seq → Seq) : (s.onMe f).posts = s.posts := rfl
@[simp] theorem onMe_credits (s : State) (f : Seq → Seq) : (s.onMe f).credits = s.credits := rfl
@[simp] theorem onMe_selfRefresh (s : State) (f : Seq → Seq) : (s.onMe f).selfRefresh = s.selfRefresh := rfl
@[simp] theorem onMe_standing (s : State) (f : Seq → Seq) : (s.onMe f).standing = s.standing := rfl
@[simp] theorem onMe_pkgbud (s : State) (f : Seq → Seq) : (s.onMe f).pkgbud = s.pkgbud := rfl
@[simp] theorem onMe_pkgbudDue (s : State) (f : Seq → Seq) : (s.onMe f).pkgbudDue = s.pkgbudDue := rfl
@[simp] theorem onMe_tokenAt (s : State) (f : Seq → Seq) : (s.onMe f).tokenAt = s.tokenAt := rfl
@[simp] theorem onMe_tokenF (s : State) (f : Seq → Seq) : (s.onMe f).tokenF = s.tokenF := rfl
@[simp] theorem onMe_fnmode (s : State) (f : Seq → Seq) : (s.onMe f).fnmode = s.fnmode := rfl
@[simp] theorem onMe_fnmodeNext (s : State) (f : Seq → Seq) : (s.onMe f).fnmodeNext = s.fnmodeNext := rfl
@[simp] theorem onMe_hkbase (s : State) (f : Seq → Seq) : (s.onMe f).hkbase = s.hkbase := rfl
@[simp] theorem onMe_hkw (s : State) (f : Seq → Seq) : (s.onMe f).hkw = s.hkw := rfl
@[simp] theorem onMe_hkr (s : State) (f : Seq → Seq) : (s.onMe f).hkr = s.hkr := rfl
@[simp] theorem onMe_hkreqs (s : State) (f : Seq → Seq) : (s.onMe f).hkreqs = s.hkreqs := rfl
@[simp] theorem onMe_pkg (s : State) (f : Seq → Seq) : (s.onMe f).pkg = s.pkg := rfl
@[simp] theorem onMe_aligned (s : State) (f : Seq → Seq) : (s.onMe f).aligned = s.aligned := rfl
@[simp] theorem onMe_signatures (s : State) (f : Seq → Seq) : (s.onMe f).signatures = s.signatures := rfl
@[simp] theorem onMe_nonce (s : State) (f : Seq → Seq) : (s.onMe f).nonce = s.nonce := rfl
@[simp] theorem onMe_env (s : State) (f : Seq → Seq) : (s.onMe f).env = s.env := rfl
@[simp] theorem onMe_agenda (s : State) (f : Seq → Seq) : (s.onMe f).agenda = s.agenda := rfl
@[simp] theorem onMe_cur (s : State) (f : Seq → Seq) : (s.onMe f).cur = s.cur := rfl
@[simp] theorem onMe_who (s : State) (f : Seq → Seq) : (s.onMe f).who = s.who := rfl
@[simp] theorem onMine_tick (s : State) (f : Pillar → Pillar) : (s.onMine f).tick = s.tick := rfl
@[simp] theorem onMine_mem (s : State) (f : Pillar → Pillar) : (s.onMine f).mem = s.mem := rfl
@[simp] theorem onMine_poison (s : State) (f : Pillar → Pillar) : (s.onMine f).poison = s.poison := rfl
@[simp] theorem onMine_stacks (s : State) (f : Pillar → Pillar) : (s.onMine f).stks = s.stks := rfl
@[simp] theorem onMine_launches (s : State) (f : Pillar → Pillar) : (s.onMine f).launches = s.launches := rfl
@[simp] theorem onMine_nextLaunch (s : State) (f : Pillar → Pillar) : (s.onMine f).nextLaunch = s.nextLaunch := rfl
@[simp] theorem onMine_away (s : State) (f : Pillar → Pillar) : (s.onMine f).away = s.away := rfl
@[simp] theorem onMine_posts (s : State) (f : Pillar → Pillar) : (s.onMine f).posts = s.posts := rfl
@[simp] theorem onMine_credits (s : State) (f : Pillar → Pillar) : (s.onMine f).credits = s.credits := rfl
@[simp] theorem onMine_selfRefresh (s : State) (f : Pillar → Pillar) : (s.onMine f).selfRefresh = s.selfRefresh := rfl
@[simp] theorem onMine_standing (s : State) (f : Pillar → Pillar) : (s.onMine f).standing = s.standing := rfl
@[simp] theorem onMine_pkgbud (s : State) (f : Pillar → Pillar) : (s.onMine f).pkgbud = s.pkgbud := rfl
@[simp] theorem onMine_pkgbudDue (s : State) (f : Pillar → Pillar) : (s.onMine f).pkgbudDue = s.pkgbudDue := rfl
@[simp] theorem onMine_tokenAt (s : State) (f : Pillar → Pillar) : (s.onMine f).tokenAt = s.tokenAt := rfl
@[simp] theorem onMine_tokenF (s : State) (f : Pillar → Pillar) : (s.onMine f).tokenF = s.tokenF := rfl
@[simp] theorem onMine_fnmode (s : State) (f : Pillar → Pillar) : (s.onMine f).fnmode = s.fnmode := rfl
@[simp] theorem onMine_fnmodeNext (s : State) (f : Pillar → Pillar) : (s.onMine f).fnmodeNext = s.fnmodeNext := rfl
@[simp] theorem onMine_hkbase (s : State) (f : Pillar → Pillar) : (s.onMine f).hkbase = s.hkbase := rfl
@[simp] theorem onMine_hkw (s : State) (f : Pillar → Pillar) : (s.onMine f).hkw = s.hkw := rfl
@[simp] theorem onMine_hkr (s : State) (f : Pillar → Pillar) : (s.onMine f).hkr = s.hkr := rfl
@[simp] theorem onMine_hkreqs (s : State) (f : Pillar → Pillar) : (s.onMine f).hkreqs = s.hkreqs := rfl
@[simp] theorem onMine_pkg (s : State) (f : Pillar → Pillar) : (s.onMine f).pkg = s.pkg := rfl
@[simp] theorem onMine_aligned (s : State) (f : Pillar → Pillar) : (s.onMine f).aligned = s.aligned := rfl
@[simp] theorem onMine_signatures (s : State) (f : Pillar → Pillar) : (s.onMine f).signatures = s.signatures := rfl
@[simp] theorem onMine_nonce (s : State) (f : Pillar → Pillar) : (s.onMine f).nonce = s.nonce := rfl
@[simp] theorem onMine_env (s : State) (f : Pillar → Pillar) : (s.onMine f).env = s.env := rfl
@[simp] theorem onMine_agenda (s : State) (f : Pillar → Pillar) : (s.onMine f).agenda = s.agenda := rfl
@[simp] theorem onMine_cur (s : State) (f : Pillar → Pillar) : (s.onMine f).cur = s.cur := rfl
@[simp] theorem onMine_who (s : State) (f : Pillar → Pillar) : (s.onMine f).who = s.who := rfl
@[simp] theorem wakeSeq_tick (s : State) (p q : Nat) : (s.wakeSeq p q).tick = s.tick := rfl
@[simp] theorem wakeSeq_mem (s : State) (p q : Nat) : (s.wakeSeq p q).mem = s.mem := rfl
@[simp] theorem wakeSeq_poison (s : State) (p q : Nat) : (s.wakeSeq p q).poison = s.poison := rfl
@[simp] theorem wakeSeq_stacks (s : State) (p q : Nat) : (s.wakeSeq p q).stks = s.stks := rfl
@[simp] theorem wakeSeq_launches (s : State) (p q : Nat) : (s.wakeSeq p q).launches = s.launches := rfl
@[simp] theorem wakeSeq_nextLaunch (s : State) (p q : Nat) : (s.wakeSeq p q).nextLaunch = s.nextLaunch := rfl
@[simp] theorem wakeSeq_away (s : State) (p q : Nat) : (s.wakeSeq p q).away = s.away := rfl
@[simp] theorem wakeSeq_posts (s : State) (p q : Nat) : (s.wakeSeq p q).posts = s.posts := rfl
@[simp] theorem wakeSeq_credits (s : State) (p q : Nat) : (s.wakeSeq p q).credits = s.credits := rfl
@[simp] theorem wakeSeq_selfRefresh (s : State) (p q : Nat) : (s.wakeSeq p q).selfRefresh = s.selfRefresh := rfl
@[simp] theorem wakeSeq_standing (s : State) (p q : Nat) : (s.wakeSeq p q).standing = s.standing := rfl
@[simp] theorem wakeSeq_pkgbud (s : State) (p q : Nat) : (s.wakeSeq p q).pkgbud = s.pkgbud := rfl
@[simp] theorem wakeSeq_pkgbudDue (s : State) (p q : Nat) : (s.wakeSeq p q).pkgbudDue = s.pkgbudDue := rfl
@[simp] theorem wakeSeq_tokenAt (s : State) (p q : Nat) : (s.wakeSeq p q).tokenAt = s.tokenAt := rfl
@[simp] theorem wakeSeq_tokenF (s : State) (p q : Nat) : (s.wakeSeq p q).tokenF = s.tokenF := rfl
@[simp] theorem wakeSeq_fnmode (s : State) (p q : Nat) : (s.wakeSeq p q).fnmode = s.fnmode := rfl
@[simp] theorem wakeSeq_fnmodeNext (s : State) (p q : Nat) : (s.wakeSeq p q).fnmodeNext = s.fnmodeNext := rfl
@[simp] theorem wakeSeq_hkbase (s : State) (p q : Nat) : (s.wakeSeq p q).hkbase = s.hkbase := rfl
@[simp] theorem wakeSeq_hkw (s : State) (p q : Nat) : (s.wakeSeq p q).hkw = s.hkw := rfl
@[simp] theorem wakeSeq_hkr (s : State) (p q : Nat) : (s.wakeSeq p q).hkr = s.hkr := rfl
@[simp] theorem wakeSeq_hkreqs (s : State) (p q : Nat) : (s.wakeSeq p q).hkreqs = s.hkreqs := rfl
@[simp] theorem wakeSeq_pkg (s : State) (p q : Nat) : (s.wakeSeq p q).pkg = s.pkg := rfl
@[simp] theorem wakeSeq_aligned (s : State) (p q : Nat) : (s.wakeSeq p q).aligned = s.aligned := rfl
@[simp] theorem wakeSeq_signatures (s : State) (p q : Nat) : (s.wakeSeq p q).signatures = s.signatures := rfl
@[simp] theorem wakeSeq_nonce (s : State) (p q : Nat) : (s.wakeSeq p q).nonce = s.nonce := rfl
@[simp] theorem wakeSeq_env (s : State) (p q : Nat) : (s.wakeSeq p q).env = s.env := rfl
@[simp] theorem wakeSeq_agenda (s : State) (p q : Nat) : (s.wakeSeq p q).agenda = s.agenda := rfl
@[simp] theorem wakeSeq_cur (s : State) (p q : Nat) : (s.wakeSeq p q).cur = s.cur := rfl
@[simp] theorem wakeSeq_who (s : State) (p q : Nat) : (s.wakeSeq p q).who = s.who := rfl
@[simp] theorem wake_tick (s : State) (p : Nat) : (s.wake p).tick = s.tick := rfl
@[simp] theorem wake_mem (s : State) (p : Nat) : (s.wake p).mem = s.mem := rfl
@[simp] theorem wake_poison (s : State) (p : Nat) : (s.wake p).poison = s.poison := rfl
@[simp] theorem wake_stacks (s : State) (p : Nat) : (s.wake p).stks = s.stks := rfl
@[simp] theorem wake_launches (s : State) (p : Nat) : (s.wake p).launches = s.launches := rfl
@[simp] theorem wake_nextLaunch (s : State) (p : Nat) : (s.wake p).nextLaunch = s.nextLaunch := rfl
@[simp] theorem wake_away (s : State) (p : Nat) : (s.wake p).away = s.away := rfl
@[simp] theorem wake_posts (s : State) (p : Nat) : (s.wake p).posts = s.posts := rfl
@[simp] theorem wake_credits (s : State) (p : Nat) : (s.wake p).credits = s.credits := rfl
@[simp] theorem wake_selfRefresh (s : State) (p : Nat) : (s.wake p).selfRefresh = s.selfRefresh := rfl
@[simp] theorem wake_standing (s : State) (p : Nat) : (s.wake p).standing = s.standing := rfl
@[simp] theorem wake_pkgbud (s : State) (p : Nat) : (s.wake p).pkgbud = s.pkgbud := rfl
@[simp] theorem wake_pkgbudDue (s : State) (p : Nat) : (s.wake p).pkgbudDue = s.pkgbudDue := rfl
@[simp] theorem wake_tokenAt (s : State) (p : Nat) : (s.wake p).tokenAt = s.tokenAt := rfl
@[simp] theorem wake_tokenF (s : State) (p : Nat) : (s.wake p).tokenF = s.tokenF := rfl
@[simp] theorem wake_fnmode (s : State) (p : Nat) : (s.wake p).fnmode = s.fnmode := rfl
@[simp] theorem wake_fnmodeNext (s : State) (p : Nat) : (s.wake p).fnmodeNext = s.fnmodeNext := rfl
@[simp] theorem wake_hkbase (s : State) (p : Nat) : (s.wake p).hkbase = s.hkbase := rfl
@[simp] theorem wake_hkw (s : State) (p : Nat) : (s.wake p).hkw = s.hkw := rfl
@[simp] theorem wake_hkr (s : State) (p : Nat) : (s.wake p).hkr = s.hkr := rfl
@[simp] theorem wake_hkreqs (s : State) (p : Nat) : (s.wake p).hkreqs = s.hkreqs := rfl
@[simp] theorem wake_pkg (s : State) (p : Nat) : (s.wake p).pkg = s.pkg := rfl
@[simp] theorem wake_aligned (s : State) (p : Nat) : (s.wake p).aligned = s.aligned := rfl
@[simp] theorem wake_signatures (s : State) (p : Nat) : (s.wake p).signatures = s.signatures := rfl
@[simp] theorem wake_nonce (s : State) (p : Nat) : (s.wake p).nonce = s.nonce := rfl
@[simp] theorem wake_env (s : State) (p : Nat) : (s.wake p).env = s.env := rfl
@[simp] theorem wake_agenda (s : State) (p : Nat) : (s.wake p).agenda = s.agenda := rfl
@[simp] theorem wake_cur (s : State) (p : Nat) : (s.wake p).cur = s.cur := rfl
@[simp] theorem wake_who (s : State) (p : Nat) : (s.wake p).who = s.who := rfl
@[simp] theorem setFlag_tick (s : State) (p k : Nat) (v : W32) : (s.setFlag p k v).tick = s.tick := rfl
@[simp] theorem setFlag_mem (s : State) (p k : Nat) (v : W32) : (s.setFlag p k v).mem = s.mem := rfl
@[simp] theorem setFlag_poison (s : State) (p k : Nat) (v : W32) : (s.setFlag p k v).poison = s.poison := rfl
@[simp] theorem setFlag_stacks (s : State) (p k : Nat) (v : W32) : (s.setFlag p k v).stks = s.stks := rfl
@[simp] theorem setFlag_launches (s : State) (p k : Nat) (v : W32) : (s.setFlag p k v).launches = s.launches := rfl
@[simp] theorem setFlag_nextLaunch (s : State) (p k : Nat) (v : W32) :
    (s.setFlag p k v).nextLaunch = s.nextLaunch := rfl
@[simp] theorem setFlag_away (s : State) (p k : Nat) (v : W32) : (s.setFlag p k v).away = s.away := rfl
@[simp] theorem setFlag_posts (s : State) (p k : Nat) (v : W32) : (s.setFlag p k v).posts = s.posts := rfl
@[simp] theorem setFlag_credits (s : State) (p k : Nat) (v : W32) : (s.setFlag p k v).credits = s.credits := rfl
@[simp] theorem setFlag_selfRefresh (s : State) (p k : Nat) (v : W32) :
    (s.setFlag p k v).selfRefresh = s.selfRefresh := rfl
@[simp] theorem setFlag_standing (s : State) (p k : Nat) (v : W32) :
    (s.setFlag p k v).standing = s.standing := rfl
@[simp] theorem setFlag_pkgbud (s : State) (p k : Nat) (v : W32) : (s.setFlag p k v).pkgbud = s.pkgbud := rfl
@[simp] theorem setFlag_pkgbudDue (s : State) (p k : Nat) (v : W32) : (s.setFlag p k v).pkgbudDue = s.pkgbudDue := rfl
@[simp] theorem setFlag_tokenAt (s : State) (p k : Nat) (v : W32) : (s.setFlag p k v).tokenAt = s.tokenAt := rfl
@[simp] theorem setFlag_tokenF (s : State) (p k : Nat) (v : W32) : (s.setFlag p k v).tokenF = s.tokenF := rfl
@[simp] theorem setFlag_fnmode (s : State) (p k : Nat) (v : W32) : (s.setFlag p k v).fnmode = s.fnmode := rfl
@[simp] theorem setFlag_fnmodeNext (s : State) (p k : Nat) (v : W32) :
    (s.setFlag p k v).fnmodeNext = s.fnmodeNext := rfl
@[simp] theorem setFlag_hkbase (s : State) (p k : Nat) (v : W32) : (s.setFlag p k v).hkbase = s.hkbase := rfl
@[simp] theorem setFlag_hkw (s : State) (p k : Nat) (v : W32) : (s.setFlag p k v).hkw = s.hkw := rfl
@[simp] theorem setFlag_hkr (s : State) (p k : Nat) (v : W32) : (s.setFlag p k v).hkr = s.hkr := rfl
@[simp] theorem setFlag_hkreqs (s : State) (p k : Nat) (v : W32) : (s.setFlag p k v).hkreqs = s.hkreqs := rfl
@[simp] theorem setFlag_pkg (s : State) (p k : Nat) (v : W32) : (s.setFlag p k v).pkg = s.pkg := rfl
@[simp] theorem setFlag_aligned (s : State) (p k : Nat) (v : W32) : (s.setFlag p k v).aligned = s.aligned := rfl
@[simp] theorem setFlag_signatures (s : State) (p k : Nat) (v : W32) :
    (s.setFlag p k v).signatures = s.signatures := rfl
@[simp] theorem setFlag_nonce (s : State) (p k : Nat) (v : W32) : (s.setFlag p k v).nonce = s.nonce := rfl
@[simp] theorem setFlag_env (s : State) (p k : Nat) (v : W32) : (s.setFlag p k v).env = s.env := rfl
@[simp] theorem setFlag_agenda (s : State) (p k : Nat) (v : W32) : (s.setFlag p k v).agenda = s.agenda := rfl
@[simp] theorem setFlag_cur (s : State) (p k : Nat) (v : W32) : (s.setFlag p k v).cur = s.cur := rfl
@[simp] theorem setFlag_who (s : State) (p k : Nat) (v : W32) : (s.setFlag p k v).who = s.who := rfl
@[simp] theorem addFlag_tick (s : State) (p k : Nat) (v : W32) : (s.addFlag p k v).tick = s.tick := rfl
@[simp] theorem addFlag_mem (s : State) (p k : Nat) (v : W32) : (s.addFlag p k v).mem = s.mem := rfl
@[simp] theorem addFlag_poison (s : State) (p k : Nat) (v : W32) : (s.addFlag p k v).poison = s.poison := rfl
@[simp] theorem addFlag_stacks (s : State) (p k : Nat) (v : W32) : (s.addFlag p k v).stks = s.stks := rfl
@[simp] theorem addFlag_launches (s : State) (p k : Nat) (v : W32) : (s.addFlag p k v).launches = s.launches := rfl
@[simp] theorem addFlag_nextLaunch (s : State) (p k : Nat) (v : W32) :
    (s.addFlag p k v).nextLaunch = s.nextLaunch := rfl
@[simp] theorem addFlag_away (s : State) (p k : Nat) (v : W32) : (s.addFlag p k v).away = s.away := rfl
@[simp] theorem addFlag_posts (s : State) (p k : Nat) (v : W32) : (s.addFlag p k v).posts = s.posts := rfl
@[simp] theorem addFlag_credits (s : State) (p k : Nat) (v : W32) : (s.addFlag p k v).credits = s.credits := rfl
@[simp] theorem addFlag_selfRefresh (s : State) (p k : Nat) (v : W32) :
    (s.addFlag p k v).selfRefresh = s.selfRefresh := rfl
@[simp] theorem addFlag_standing (s : State) (p k : Nat) (v : W32) :
    (s.addFlag p k v).standing = s.standing := rfl
@[simp] theorem addFlag_pkgbud (s : State) (p k : Nat) (v : W32) : (s.addFlag p k v).pkgbud = s.pkgbud := rfl
@[simp] theorem addFlag_pkgbudDue (s : State) (p k : Nat) (v : W32) : (s.addFlag p k v).pkgbudDue = s.pkgbudDue := rfl
@[simp] theorem addFlag_tokenAt (s : State) (p k : Nat) (v : W32) : (s.addFlag p k v).tokenAt = s.tokenAt := rfl
@[simp] theorem addFlag_tokenF (s : State) (p k : Nat) (v : W32) : (s.addFlag p k v).tokenF = s.tokenF := rfl
@[simp] theorem addFlag_fnmode (s : State) (p k : Nat) (v : W32) : (s.addFlag p k v).fnmode = s.fnmode := rfl
@[simp] theorem addFlag_fnmodeNext (s : State) (p k : Nat) (v : W32) :
    (s.addFlag p k v).fnmodeNext = s.fnmodeNext := rfl
@[simp] theorem addFlag_hkbase (s : State) (p k : Nat) (v : W32) : (s.addFlag p k v).hkbase = s.hkbase := rfl
@[simp] theorem addFlag_hkw (s : State) (p k : Nat) (v : W32) : (s.addFlag p k v).hkw = s.hkw := rfl
@[simp] theorem addFlag_hkr (s : State) (p k : Nat) (v : W32) : (s.addFlag p k v).hkr = s.hkr := rfl
@[simp] theorem addFlag_hkreqs (s : State) (p k : Nat) (v : W32) : (s.addFlag p k v).hkreqs = s.hkreqs := rfl
@[simp] theorem addFlag_pkg (s : State) (p k : Nat) (v : W32) : (s.addFlag p k v).pkg = s.pkg := rfl
@[simp] theorem addFlag_aligned (s : State) (p k : Nat) (v : W32) : (s.addFlag p k v).aligned = s.aligned := rfl
@[simp] theorem addFlag_signatures (s : State) (p k : Nat) (v : W32) :
    (s.addFlag p k v).signatures = s.signatures := rfl
@[simp] theorem addFlag_nonce (s : State) (p k : Nat) (v : W32) : (s.addFlag p k v).nonce = s.nonce := rfl
@[simp] theorem addFlag_env (s : State) (p k : Nat) (v : W32) : (s.addFlag p k v).env = s.env := rfl
@[simp] theorem addFlag_agenda (s : State) (p k : Nat) (v : W32) : (s.addFlag p k v).agenda = s.agenda := rfl
@[simp] theorem addFlag_cur (s : State) (p k : Nat) (v : W32) : (s.addFlag p k v).cur = s.cur := rfl
@[simp] theorem addFlag_who (s : State) (p k : Nat) (v : W32) : (s.addFlag p k v).who = s.who := rfl
@[simp] theorem postFlag_tick (s : State) (p k : Nat) (v : W32) : (s.postFlag p k v).tick = s.tick := rfl
@[simp] theorem postFlag_mem (s : State) (p k : Nat) (v : W32) : (s.postFlag p k v).mem = s.mem := rfl
@[simp] theorem postFlag_poison (s : State) (p k : Nat) (v : W32) : (s.postFlag p k v).poison = s.poison := rfl
@[simp] theorem postFlag_stacks (s : State) (p k : Nat) (v : W32) : (s.postFlag p k v).stks = s.stks := rfl
@[simp] theorem postFlag_launches (s : State) (p k : Nat) (v : W32) : (s.postFlag p k v).launches = s.launches := rfl
@[simp] theorem postFlag_nextLaunch (s : State) (p k : Nat) (v : W32) :
    (s.postFlag p k v).nextLaunch = s.nextLaunch := rfl
@[simp] theorem postFlag_away (s : State) (p k : Nat) (v : W32) : (s.postFlag p k v).away = s.away := rfl
@[simp] theorem postFlag_posts (s : State) (p k : Nat) (v : W32) : (s.postFlag p k v).posts = s.posts := rfl
@[simp] theorem postFlag_credits (s : State) (p k : Nat) (v : W32) : (s.postFlag p k v).credits = s.credits := rfl
@[simp] theorem postFlag_selfRefresh (s : State) (p k : Nat) (v : W32) :
    (s.postFlag p k v).selfRefresh = s.selfRefresh := rfl
@[simp] theorem postFlag_standing (s : State) (p k : Nat) (v : W32) : (s.postFlag p k v).standing = s.standing := rfl
@[simp] theorem postFlag_pkgbud (s : State) (p k : Nat) (v : W32) : (s.postFlag p k v).pkgbud = s.pkgbud := rfl
@[simp] theorem postFlag_pkgbudDue (s : State) (p k : Nat) (v : W32) :
    (s.postFlag p k v).pkgbudDue = s.pkgbudDue := rfl
@[simp] theorem postFlag_tokenAt (s : State) (p k : Nat) (v : W32) : (s.postFlag p k v).tokenAt = s.tokenAt := rfl
@[simp] theorem postFlag_tokenF (s : State) (p k : Nat) (v : W32) : (s.postFlag p k v).tokenF = s.tokenF := rfl
@[simp] theorem postFlag_fnmode (s : State) (p k : Nat) (v : W32) : (s.postFlag p k v).fnmode = s.fnmode := rfl
@[simp] theorem postFlag_fnmodeNext (s : State) (p k : Nat) (v : W32) :
    (s.postFlag p k v).fnmodeNext = s.fnmodeNext := rfl
@[simp] theorem postFlag_hkbase (s : State) (p k : Nat) (v : W32) : (s.postFlag p k v).hkbase = s.hkbase := rfl
@[simp] theorem postFlag_hkw (s : State) (p k : Nat) (v : W32) : (s.postFlag p k v).hkw = s.hkw := rfl
@[simp] theorem postFlag_hkr (s : State) (p k : Nat) (v : W32) : (s.postFlag p k v).hkr = s.hkr := rfl
@[simp] theorem postFlag_pkg (s : State) (p k : Nat) (v : W32) : (s.postFlag p k v).pkg = s.pkg := rfl
@[simp] theorem postFlag_aligned (s : State) (p k : Nat) (v : W32) : (s.postFlag p k v).aligned = s.aligned := rfl
@[simp] theorem postFlag_signatures (s : State) (p k : Nat) (v : W32) :
    (s.postFlag p k v).signatures = s.signatures := rfl
@[simp] theorem postFlag_nonce (s : State) (p k : Nat) (v : W32) : (s.postFlag p k v).nonce = s.nonce := rfl
@[simp] theorem postFlag_env (s : State) (p k : Nat) (v : W32) : (s.postFlag p k v).env = s.env := rfl
@[simp] theorem postFlag_agenda (s : State) (p k : Nat) (v : W32) : (s.postFlag p k v).agenda = s.agenda := rfl
@[simp] theorem postFlag_cur (s : State) (p k : Nat) (v : W32) : (s.postFlag p k v).cur = s.cur := rfl
@[simp] theorem postFlag_who (s : State) (p k : Nat) (v : W32) : (s.postFlag p k v).who = s.who := rfl
@[simp] theorem onRec_tick (s : State) (p q i : Nat) (f : Rec → Rec) : (s.onRec p q i f).tick = s.tick := rfl
@[simp] theorem onRec_mem (s : State) (p q i : Nat) (f : Rec → Rec) : (s.onRec p q i f).mem = s.mem := rfl
@[simp] theorem onRec_poison (s : State) (p q i : Nat) (f : Rec → Rec) : (s.onRec p q i f).poison = s.poison := rfl
@[simp] theorem onRec_stacks (s : State) (p q i : Nat) (f : Rec → Rec) : (s.onRec p q i f).stks = s.stks := rfl
@[simp] theorem onRec_launches (s : State) (p q i : Nat) (f : Rec → Rec) :
    (s.onRec p q i f).launches = s.launches := rfl
@[simp] theorem onRec_nextLaunch (s : State) (p q i : Nat) (f : Rec → Rec) :
    (s.onRec p q i f).nextLaunch = s.nextLaunch := rfl
@[simp] theorem onRec_away (s : State) (p q i : Nat) (f : Rec → Rec) : (s.onRec p q i f).away = s.away := rfl
@[simp] theorem onRec_posts (s : State) (p q i : Nat) (f : Rec → Rec) : (s.onRec p q i f).posts = s.posts := rfl
@[simp] theorem onRec_credits (s : State) (p q i : Nat) (f : Rec → Rec) : (s.onRec p q i f).credits = s.credits := rfl
@[simp] theorem onRec_selfRefresh (s : State) (p q i : Nat) (f : Rec → Rec) :
    (s.onRec p q i f).selfRefresh = s.selfRefresh := rfl
@[simp] theorem onRec_standing (s : State) (p q i : Nat) (f : Rec → Rec) :
    (s.onRec p q i f).standing = s.standing := rfl
@[simp] theorem onRec_pkgbud (s : State) (p q i : Nat) (f : Rec → Rec) : (s.onRec p q i f).pkgbud = s.pkgbud := rfl
@[simp] theorem onRec_pkgbudDue (s : State) (p q i : Nat) (f : Rec → Rec) :
    (s.onRec p q i f).pkgbudDue = s.pkgbudDue := rfl
@[simp] theorem onRec_tokenAt (s : State) (p q i : Nat) (f : Rec → Rec) : (s.onRec p q i f).tokenAt = s.tokenAt := rfl
@[simp] theorem onRec_tokenF (s : State) (p q i : Nat) (f : Rec → Rec) : (s.onRec p q i f).tokenF = s.tokenF := rfl
@[simp] theorem onRec_fnmode (s : State) (p q i : Nat) (f : Rec → Rec) : (s.onRec p q i f).fnmode = s.fnmode := rfl
@[simp] theorem onRec_fnmodeNext (s : State) (p q i : Nat) (f : Rec → Rec) :
    (s.onRec p q i f).fnmodeNext = s.fnmodeNext := rfl
@[simp] theorem onRec_hkbase (s : State) (p q i : Nat) (f : Rec → Rec) : (s.onRec p q i f).hkbase = s.hkbase := rfl
@[simp] theorem onRec_hkw (s : State) (p q i : Nat) (f : Rec → Rec) : (s.onRec p q i f).hkw = s.hkw := rfl
@[simp] theorem onRec_hkr (s : State) (p q i : Nat) (f : Rec → Rec) : (s.onRec p q i f).hkr = s.hkr := rfl
@[simp] theorem onRec_hkreqs (s : State) (p q i : Nat) (f : Rec → Rec) : (s.onRec p q i f).hkreqs = s.hkreqs := rfl
@[simp] theorem onRec_pkg (s : State) (p q i : Nat) (f : Rec → Rec) : (s.onRec p q i f).pkg = s.pkg := rfl
@[simp] theorem onRec_aligned (s : State) (p q i : Nat) (f : Rec → Rec) : (s.onRec p q i f).aligned = s.aligned := rfl
@[simp] theorem onRec_signatures (s : State) (p q i : Nat) (f : Rec → Rec) :
    (s.onRec p q i f).signatures = s.signatures := rfl
@[simp] theorem onRec_nonce (s : State) (p q i : Nat) (f : Rec → Rec) : (s.onRec p q i f).nonce = s.nonce := rfl
@[simp] theorem onRec_env (s : State) (p q i : Nat) (f : Rec → Rec) : (s.onRec p q i f).env = s.env := rfl
@[simp] theorem onRec_agenda (s : State) (p q i : Nat) (f : Rec → Rec) : (s.onRec p q i f).agenda = s.agenda := rfl
@[simp] theorem onRec_cur (s : State) (p q i : Nat) (f : Rec → Rec) : (s.onRec p q i f).cur = s.cur := rfl
@[simp] theorem onRec_who (s : State) (p q i : Nat) (f : Rec → Rec) : (s.onRec p q i f).who = s.who := rfl
@[simp] theorem endRec_tick (s : State) (p q i : Nat) : (s.endRec p q i).tick = s.tick := rfl
@[simp] theorem endRec_mem (s : State) (p q i : Nat) : (s.endRec p q i).mem = s.mem := rfl
@[simp] theorem endRec_poison (s : State) (p q i : Nat) : (s.endRec p q i).poison = s.poison := rfl
@[simp] theorem endRec_stacks (s : State) (p q i : Nat) : (s.endRec p q i).stks = s.stks := rfl
@[simp] theorem endRec_launches (s : State) (p q i : Nat) : (s.endRec p q i).launches = s.launches := rfl
@[simp] theorem endRec_nextLaunch (s : State) (p q i : Nat) : (s.endRec p q i).nextLaunch = s.nextLaunch := rfl
@[simp] theorem endRec_away (s : State) (p q i : Nat) : (s.endRec p q i).away = s.away := rfl
@[simp] theorem endRec_posts (s : State) (p q i : Nat) : (s.endRec p q i).posts = s.posts := rfl
@[simp] theorem endRec_credits (s : State) (p q i : Nat) : (s.endRec p q i).credits = s.credits := rfl
@[simp] theorem endRec_selfRefresh (s : State) (p q i : Nat) : (s.endRec p q i).selfRefresh = s.selfRefresh := rfl
@[simp] theorem endRec_standing (s : State) (p q i : Nat) : (s.endRec p q i).standing = s.standing := rfl
@[simp] theorem endRec_pkgbud (s : State) (p q i : Nat) : (s.endRec p q i).pkgbud = s.pkgbud := rfl
@[simp] theorem endRec_pkgbudDue (s : State) (p q i : Nat) : (s.endRec p q i).pkgbudDue = s.pkgbudDue := rfl
@[simp] theorem endRec_tokenAt (s : State) (p q i : Nat) : (s.endRec p q i).tokenAt = s.tokenAt := rfl
@[simp] theorem endRec_tokenF (s : State) (p q i : Nat) : (s.endRec p q i).tokenF = s.tokenF := rfl
@[simp] theorem endRec_fnmode (s : State) (p q i : Nat) : (s.endRec p q i).fnmode = s.fnmode := rfl
@[simp] theorem endRec_fnmodeNext (s : State) (p q i : Nat) : (s.endRec p q i).fnmodeNext = s.fnmodeNext := rfl
@[simp] theorem endRec_hkbase (s : State) (p q i : Nat) : (s.endRec p q i).hkbase = s.hkbase := rfl
@[simp] theorem endRec_hkw (s : State) (p q i : Nat) : (s.endRec p q i).hkw = s.hkw := rfl
@[simp] theorem endRec_hkr (s : State) (p q i : Nat) : (s.endRec p q i).hkr = s.hkr := rfl
@[simp] theorem endRec_pkg (s : State) (p q i : Nat) : (s.endRec p q i).pkg = s.pkg := rfl
@[simp] theorem endRec_aligned (s : State) (p q i : Nat) : (s.endRec p q i).aligned = s.aligned := rfl
@[simp] theorem endRec_signatures (s : State) (p q i : Nat) : (s.endRec p q i).signatures = s.signatures := rfl
@[simp] theorem endRec_nonce (s : State) (p q i : Nat) : (s.endRec p q i).nonce = s.nonce := rfl
@[simp] theorem endRec_env (s : State) (p q i : Nat) : (s.endRec p q i).env = s.env := rfl
@[simp] theorem endRec_agenda (s : State) (p q i : Nat) : (s.endRec p q i).agenda = s.agenda := rfl
@[simp] theorem endRec_cur (s : State) (p q i : Nat) : (s.endRec p q i).cur = s.cur := rfl
@[simp] theorem endRec_who (s : State) (p q i : Nat) : (s.endRec p q i).who = s.who := rfl
@[simp] theorem faultRec_tick (s : State) (p q i c : Nat) (v : W64) : (s.faultRec p q i c v).tick = s.tick := rfl
@[simp] theorem faultRec_mem (s : State) (p q i c : Nat) (v : W64) : (s.faultRec p q i c v).mem = s.mem := rfl
@[simp] theorem faultRec_poison (s : State) (p q i c : Nat) (v : W64) :
    (s.faultRec p q i c v).poison = s.poison := rfl
@[simp] theorem faultRec_stacks (s : State) (p q i c : Nat) (v : W64) :
    (s.faultRec p q i c v).stks = s.stks := rfl
@[simp] theorem faultRec_launches (s : State) (p q i c : Nat) (v : W64) :
    (s.faultRec p q i c v).launches = s.launches := rfl
@[simp] theorem faultRec_nextLaunch (s : State) (p q i c : Nat) (v : W64) :
    (s.faultRec p q i c v).nextLaunch = s.nextLaunch := rfl
@[simp] theorem faultRec_away (s : State) (p q i c : Nat) (v : W64) : (s.faultRec p q i c v).away = s.away := rfl
@[simp] theorem faultRec_posts (s : State) (p q i c : Nat) (v : W64) : (s.faultRec p q i c v).posts = s.posts := rfl
@[simp] theorem faultRec_credits (s : State) (p q i c : Nat) (v : W64) :
    (s.faultRec p q i c v).credits = s.credits := rfl
@[simp] theorem faultRec_selfRefresh (s : State) (p q i c : Nat) (v : W64) :
    (s.faultRec p q i c v).selfRefresh = s.selfRefresh := rfl
@[simp] theorem faultRec_standing (s : State) (p q i c : Nat) (v : W64) :
    (s.faultRec p q i c v).standing = s.standing := rfl
@[simp] theorem faultRec_pkgbud (s : State) (p q i c : Nat) (v : W64) :
    (s.faultRec p q i c v).pkgbud = s.pkgbud := rfl
@[simp] theorem faultRec_pkgbudDue (s : State) (p q i c : Nat) (v : W64) :
    (s.faultRec p q i c v).pkgbudDue = s.pkgbudDue := rfl
@[simp] theorem faultRec_tokenAt (s : State) (p q i c : Nat) (v : W64) :
    (s.faultRec p q i c v).tokenAt = s.tokenAt := rfl
@[simp] theorem faultRec_tokenF (s : State) (p q i c : Nat) (v : W64) :
    (s.faultRec p q i c v).tokenF = s.tokenF := rfl
@[simp] theorem faultRec_fnmode (s : State) (p q i c : Nat) (v : W64) :
    (s.faultRec p q i c v).fnmode = s.fnmode := rfl
@[simp] theorem faultRec_fnmodeNext (s : State) (p q i c : Nat) (v : W64) :
    (s.faultRec p q i c v).fnmodeNext = s.fnmodeNext := rfl
@[simp] theorem faultRec_hkbase (s : State) (p q i c : Nat) (v : W64) :
    (s.faultRec p q i c v).hkbase = s.hkbase := rfl
@[simp] theorem faultRec_hkw (s : State) (p q i c : Nat) (v : W64) : (s.faultRec p q i c v).hkw = s.hkw := rfl
@[simp] theorem faultRec_hkr (s : State) (p q i c : Nat) (v : W64) : (s.faultRec p q i c v).hkr = s.hkr := rfl
@[simp] theorem faultRec_hkreqs (s : State) (p q i c : Nat) (v : W64) :
    (s.faultRec p q i c v).hkreqs = s.hkreqs := rfl
@[simp] theorem faultRec_pkg (s : State) (p q i c : Nat) (v : W64) : (s.faultRec p q i c v).pkg = s.pkg := rfl
@[simp] theorem faultRec_aligned (s : State) (p q i c : Nat) (v : W64) :
    (s.faultRec p q i c v).aligned = s.aligned := rfl
@[simp] theorem faultRec_signatures (s : State) (p q i c : Nat) (v : W64) :
    (s.faultRec p q i c v).signatures = s.signatures := rfl
@[simp] theorem faultRec_nonce (s : State) (p q i c : Nat) (v : W64) : (s.faultRec p q i c v).nonce = s.nonce := rfl
@[simp] theorem faultRec_env (s : State) (p q i c : Nat) (v : W64) : (s.faultRec p q i c v).env = s.env := rfl
@[simp] theorem faultRec_agenda (s : State) (p q i c : Nat) (v : W64) :
    (s.faultRec p q i c v).agenda = s.agenda := rfl
@[simp] theorem faultRec_cur (s : State) (p q i c : Nat) (v : W64) : (s.faultRec p q i c v).cur = s.cur := rfl
@[simp] theorem faultRec_who (s : State) (p q i c : Nat) (v : W64) : (s.faultRec p q i c v).who = s.who := rfl
@[simp] theorem result_tick (s : State) (lat : Nat) (x : Payload) : (s.result lat x).tick = s.tick := rfl
@[simp] theorem result_mem (s : State) (lat : Nat) (x : Payload) : (s.result lat x).mem = s.mem := rfl
@[simp] theorem result_poison (s : State) (lat : Nat) (x : Payload) : (s.result lat x).poison = s.poison := rfl
@[simp] theorem result_stacks (s : State) (lat : Nat) (x : Payload) : (s.result lat x).stks = s.stks := rfl
@[simp] theorem result_launches (s : State) (lat : Nat) (x : Payload) : (s.result lat x).launches = s.launches := rfl
@[simp] theorem result_nextLaunch (s : State) (lat : Nat) (x : Payload) :
    (s.result lat x).nextLaunch = s.nextLaunch := rfl
@[simp] theorem result_away (s : State) (lat : Nat) (x : Payload) : (s.result lat x).away = s.away := rfl
@[simp] theorem result_posts (s : State) (lat : Nat) (x : Payload) : (s.result lat x).posts = s.posts := rfl
@[simp] theorem result_credits (s : State) (lat : Nat) (x : Payload) : (s.result lat x).credits = s.credits := rfl
@[simp] theorem result_selfRefresh (s : State) (lat : Nat) (x : Payload) :
    (s.result lat x).selfRefresh = s.selfRefresh := rfl
@[simp] theorem result_standing (s : State) (lat : Nat) (x : Payload) :
    (s.result lat x).standing = s.standing := rfl
@[simp] theorem result_pkgbud (s : State) (lat : Nat) (x : Payload) : (s.result lat x).pkgbud = s.pkgbud := rfl
@[simp] theorem result_pkgbudDue (s : State) (lat : Nat) (x : Payload) :
    (s.result lat x).pkgbudDue = s.pkgbudDue := rfl
@[simp] theorem result_tokenAt (s : State) (lat : Nat) (x : Payload) : (s.result lat x).tokenAt = s.tokenAt := rfl
@[simp] theorem result_tokenF (s : State) (lat : Nat) (x : Payload) : (s.result lat x).tokenF = s.tokenF := rfl
@[simp] theorem result_fnmode (s : State) (lat : Nat) (x : Payload) : (s.result lat x).fnmode = s.fnmode := rfl
@[simp] theorem result_fnmodeNext (s : State) (lat : Nat) (x : Payload) :
    (s.result lat x).fnmodeNext = s.fnmodeNext := rfl
@[simp] theorem result_hkbase (s : State) (lat : Nat) (x : Payload) : (s.result lat x).hkbase = s.hkbase := rfl
@[simp] theorem result_hkw (s : State) (lat : Nat) (x : Payload) : (s.result lat x).hkw = s.hkw := rfl
@[simp] theorem result_hkr (s : State) (lat : Nat) (x : Payload) : (s.result lat x).hkr = s.hkr := rfl
@[simp] theorem result_hkreqs (s : State) (lat : Nat) (x : Payload) : (s.result lat x).hkreqs = s.hkreqs := rfl
@[simp] theorem result_pkg (s : State) (lat : Nat) (x : Payload) : (s.result lat x).pkg = s.pkg := rfl
@[simp] theorem result_aligned (s : State) (lat : Nat) (x : Payload) : (s.result lat x).aligned = s.aligned := rfl
@[simp] theorem result_signatures (s : State) (lat : Nat) (x : Payload) :
    (s.result lat x).signatures = s.signatures := rfl
@[simp] theorem result_nonce (s : State) (lat : Nat) (x : Payload) : (s.result lat x).nonce = s.nonce := rfl
@[simp] theorem result_env (s : State) (lat : Nat) (x : Payload) : (s.result lat x).env = s.env := rfl
@[simp] theorem result_agenda (s : State) (lat : Nat) (x : Payload) : (s.result lat x).agenda = s.agenda := rfl
@[simp] theorem result_cur (s : State) (lat : Nat) (x : Payload) : (s.result lat x).cur = s.cur := rfl
@[simp] theorem result_who (s : State) (lat : Nat) (x : Payload) : (s.result lat x).who = s.who := rfl
@[simp] theorem toPred_tick (s : State) (lat : Nat) (k : BitVec 4) (b : Bool) :
    (s.toPred lat k b).tick = s.tick := rfl
@[simp] theorem toPred_mem (s : State) (lat : Nat) (k : BitVec 4) (b : Bool) : (s.toPred lat k b).mem = s.mem := rfl
@[simp] theorem toPred_poison (s : State) (lat : Nat) (k : BitVec 4) (b : Bool) :
    (s.toPred lat k b).poison = s.poison := rfl
@[simp] theorem toPred_stacks (s : State) (lat : Nat) (k : BitVec 4) (b : Bool) :
    (s.toPred lat k b).stks = s.stks := rfl
@[simp] theorem toPred_launches (s : State) (lat : Nat) (k : BitVec 4) (b : Bool) :
    (s.toPred lat k b).launches = s.launches := rfl
@[simp] theorem toPred_nextLaunch (s : State) (lat : Nat) (k : BitVec 4) (b : Bool) :
    (s.toPred lat k b).nextLaunch = s.nextLaunch := rfl
@[simp] theorem toPred_away (s : State) (lat : Nat) (k : BitVec 4) (b : Bool) :
    (s.toPred lat k b).away = s.away := rfl
@[simp] theorem toPred_posts (s : State) (lat : Nat) (k : BitVec 4) (b : Bool) :
    (s.toPred lat k b).posts = s.posts := rfl
@[simp] theorem toPred_credits (s : State) (lat : Nat) (k : BitVec 4) (b : Bool) :
    (s.toPred lat k b).credits = s.credits := rfl
@[simp] theorem toPred_selfRefresh (s : State) (lat : Nat) (k : BitVec 4) (b : Bool) :
    (s.toPred lat k b).selfRefresh = s.selfRefresh := rfl
@[simp] theorem toPred_standing (s : State) (lat : Nat) (k : BitVec 4) (b : Bool) :
    (s.toPred lat k b).standing = s.standing := rfl
@[simp] theorem toPred_pkgbud (s : State) (lat : Nat) (k : BitVec 4) (b : Bool) :
    (s.toPred lat k b).pkgbud = s.pkgbud := rfl
@[simp] theorem toPred_pkgbudDue (s : State) (lat : Nat) (k : BitVec 4) (b : Bool) :
    (s.toPred lat k b).pkgbudDue = s.pkgbudDue := rfl
@[simp] theorem toPred_tokenAt (s : State) (lat : Nat) (k : BitVec 4) (b : Bool) :
    (s.toPred lat k b).tokenAt = s.tokenAt := rfl
@[simp] theorem toPred_tokenF (s : State) (lat : Nat) (k : BitVec 4) (b : Bool) :
    (s.toPred lat k b).tokenF = s.tokenF := rfl
@[simp] theorem toPred_fnmode (s : State) (lat : Nat) (k : BitVec 4) (b : Bool) :
    (s.toPred lat k b).fnmode = s.fnmode := rfl
@[simp] theorem toPred_fnmodeNext (s : State) (lat : Nat) (k : BitVec 4) (b : Bool) :
    (s.toPred lat k b).fnmodeNext = s.fnmodeNext := rfl
@[simp] theorem toPred_hkbase (s : State) (lat : Nat) (k : BitVec 4) (b : Bool) :
    (s.toPred lat k b).hkbase = s.hkbase := rfl
@[simp] theorem toPred_hkw (s : State) (lat : Nat) (k : BitVec 4) (b : Bool) : (s.toPred lat k b).hkw = s.hkw := rfl
@[simp] theorem toPred_hkr (s : State) (lat : Nat) (k : BitVec 4) (b : Bool) : (s.toPred lat k b).hkr = s.hkr := rfl
@[simp] theorem toPred_hkreqs (s : State) (lat : Nat) (k : BitVec 4) (b : Bool) :
    (s.toPred lat k b).hkreqs = s.hkreqs := rfl
@[simp] theorem toPred_pkg (s : State) (lat : Nat) (k : BitVec 4) (b : Bool) : (s.toPred lat k b).pkg = s.pkg := rfl
@[simp] theorem toPred_aligned (s : State) (lat : Nat) (k : BitVec 4) (b : Bool) :
    (s.toPred lat k b).aligned = s.aligned := rfl
@[simp] theorem toPred_signatures (s : State) (lat : Nat) (k : BitVec 4) (b : Bool) :
    (s.toPred lat k b).signatures = s.signatures := rfl
@[simp] theorem toPred_nonce (s : State) (lat : Nat) (k : BitVec 4) (b : Bool) :
    (s.toPred lat k b).nonce = s.nonce := rfl
@[simp] theorem toPred_env (s : State) (lat : Nat) (k : BitVec 4) (b : Bool) : (s.toPred lat k b).env = s.env := rfl
@[simp] theorem toPred_agenda (s : State) (lat : Nat) (k : BitVec 4) (b : Bool) :
    (s.toPred lat k b).agenda = s.agenda := rfl
@[simp] theorem toPred_cur (s : State) (lat : Nat) (k : BitVec 4) (b : Bool) : (s.toPred lat k b).cur = s.cur := rfl
@[simp] theorem toPred_who (s : State) (lat : Nat) (k : BitVec 4) (b : Bool) : (s.toPred lat k b).who = s.who := rfl
@[simp] theorem toVec_tick (s : State) (lat : Nat) (d : BitVec 5) (v : VReg) (m : PReg) :
    (s.toVec lat d v m).tick = s.tick := rfl
@[simp] theorem toVec_mem (s : State) (lat : Nat) (d : BitVec 5) (v : VReg) (m : PReg) :
    (s.toVec lat d v m).mem = s.mem := rfl
@[simp] theorem toVec_poison (s : State) (lat : Nat) (d : BitVec 5) (v : VReg) (m : PReg) :
    (s.toVec lat d v m).poison = s.poison := rfl
@[simp] theorem toVec_stacks (s : State) (lat : Nat) (d : BitVec 5) (v : VReg) (m : PReg) :
    (s.toVec lat d v m).stks = s.stks := rfl
@[simp] theorem toVec_launches (s : State) (lat : Nat) (d : BitVec 5) (v : VReg) (m : PReg) :
    (s.toVec lat d v m).launches = s.launches := rfl
@[simp] theorem toVec_nextLaunch (s : State) (lat : Nat) (d : BitVec 5) (v : VReg) (m : PReg) :
    (s.toVec lat d v m).nextLaunch = s.nextLaunch := rfl
@[simp] theorem toVec_away (s : State) (lat : Nat) (d : BitVec 5) (v : VReg) (m : PReg) :
    (s.toVec lat d v m).away = s.away := rfl
@[simp] theorem toVec_posts (s : State) (lat : Nat) (d : BitVec 5) (v : VReg) (m : PReg) :
    (s.toVec lat d v m).posts = s.posts := rfl
@[simp] theorem toVec_credits (s : State) (lat : Nat) (d : BitVec 5) (v : VReg) (m : PReg) :
    (s.toVec lat d v m).credits = s.credits := rfl
@[simp] theorem toVec_selfRefresh (s : State) (lat : Nat) (d : BitVec 5) (v : VReg) (m : PReg) :
    (s.toVec lat d v m).selfRefresh = s.selfRefresh := rfl
@[simp] theorem toVec_standing (s : State) (lat : Nat) (d : BitVec 5) (v : VReg) (m : PReg) :
    (s.toVec lat d v m).standing = s.standing := rfl
@[simp] theorem toVec_pkgbud (s : State) (lat : Nat) (d : BitVec 5) (v : VReg) (m : PReg) :
    (s.toVec lat d v m).pkgbud = s.pkgbud := rfl
@[simp] theorem toVec_pkgbudDue (s : State) (lat : Nat) (d : BitVec 5) (v : VReg) (m : PReg) :
    (s.toVec lat d v m).pkgbudDue = s.pkgbudDue := rfl
@[simp] theorem toVec_tokenAt (s : State) (lat : Nat) (d : BitVec 5) (v : VReg) (m : PReg) :
    (s.toVec lat d v m).tokenAt = s.tokenAt := rfl
@[simp] theorem toVec_tokenF (s : State) (lat : Nat) (d : BitVec 5) (v : VReg) (m : PReg) :
    (s.toVec lat d v m).tokenF = s.tokenF := rfl
@[simp] theorem toVec_fnmode (s : State) (lat : Nat) (d : BitVec 5) (v : VReg) (m : PReg) :
    (s.toVec lat d v m).fnmode = s.fnmode := rfl
@[simp] theorem toVec_fnmodeNext (s : State) (lat : Nat) (d : BitVec 5) (v : VReg) (m : PReg) :
    (s.toVec lat d v m).fnmodeNext = s.fnmodeNext := rfl
@[simp] theorem toVec_hkbase (s : State) (lat : Nat) (d : BitVec 5) (v : VReg) (m : PReg) :
    (s.toVec lat d v m).hkbase = s.hkbase := rfl
@[simp] theorem toVec_hkw (s : State) (lat : Nat) (d : BitVec 5) (v : VReg) (m : PReg) :
    (s.toVec lat d v m).hkw = s.hkw := rfl
@[simp] theorem toVec_hkr (s : State) (lat : Nat) (d : BitVec 5) (v : VReg) (m : PReg) :
    (s.toVec lat d v m).hkr = s.hkr := rfl
@[simp] theorem toVec_hkreqs (s : State) (lat : Nat) (d : BitVec 5) (v : VReg) (m : PReg) :
    (s.toVec lat d v m).hkreqs = s.hkreqs := rfl
@[simp] theorem toVec_pkg (s : State) (lat : Nat) (d : BitVec 5) (v : VReg) (m : PReg) :
    (s.toVec lat d v m).pkg = s.pkg := rfl
@[simp] theorem toVec_aligned (s : State) (lat : Nat) (d : BitVec 5) (v : VReg) (m : PReg) :
    (s.toVec lat d v m).aligned = s.aligned := rfl
@[simp] theorem toVec_signatures (s : State) (lat : Nat) (d : BitVec 5) (v : VReg) (m : PReg) :
    (s.toVec lat d v m).signatures = s.signatures := rfl
@[simp] theorem toVec_nonce (s : State) (lat : Nat) (d : BitVec 5) (v : VReg) (m : PReg) :
    (s.toVec lat d v m).nonce = s.nonce := rfl
@[simp] theorem toVec_env (s : State) (lat : Nat) (d : BitVec 5) (v : VReg) (m : PReg) :
    (s.toVec lat d v m).env = s.env := rfl
@[simp] theorem toVec_agenda (s : State) (lat : Nat) (d : BitVec 5) (v : VReg) (m : PReg) :
    (s.toVec lat d v m).agenda = s.agenda := rfl
@[simp] theorem toVec_cur (s : State) (lat : Nat) (d : BitVec 5) (v : VReg) (m : PReg) :
    (s.toVec lat d v m).cur = s.cur := rfl
@[simp] theorem toVec_who (s : State) (lat : Nat) (d : BitVec 5) (v : VReg) (m : PReg) :
    (s.toVec lat d v m).who = s.who := rfl
@[simp] theorem keepV_tick (s : State) (h : BitVec 2) (a : BitVec 5) : (s.keepV h a).tick = s.tick := rfl
@[simp] theorem keepV_mem (s : State) (h : BitVec 2) (a : BitVec 5) : (s.keepV h a).mem = s.mem := rfl
@[simp] theorem keepV_poison (s : State) (h : BitVec 2) (a : BitVec 5) : (s.keepV h a).poison = s.poison := rfl
@[simp] theorem keepV_stacks (s : State) (h : BitVec 2) (a : BitVec 5) : (s.keepV h a).stks = s.stks := rfl
@[simp] theorem keepV_launches (s : State) (h : BitVec 2) (a : BitVec 5) : (s.keepV h a).launches = s.launches := rfl
@[simp] theorem keepV_nextLaunch (s : State) (h : BitVec 2) (a : BitVec 5) :
    (s.keepV h a).nextLaunch = s.nextLaunch := rfl
@[simp] theorem keepV_away (s : State) (h : BitVec 2) (a : BitVec 5) : (s.keepV h a).away = s.away := rfl
@[simp] theorem keepV_posts (s : State) (h : BitVec 2) (a : BitVec 5) : (s.keepV h a).posts = s.posts := rfl
@[simp] theorem keepV_credits (s : State) (h : BitVec 2) (a : BitVec 5) : (s.keepV h a).credits = s.credits := rfl
@[simp] theorem keepV_selfRefresh (s : State) (h : BitVec 2) (a : BitVec 5) :
    (s.keepV h a).selfRefresh = s.selfRefresh := rfl
@[simp] theorem keepV_standing (s : State) (h : BitVec 2) (a : BitVec 5) :
    (s.keepV h a).standing = s.standing := rfl
@[simp] theorem keepV_pkgbud (s : State) (h : BitVec 2) (a : BitVec 5) : (s.keepV h a).pkgbud = s.pkgbud := rfl
@[simp] theorem keepV_pkgbudDue (s : State) (h : BitVec 2) (a : BitVec 5) :
    (s.keepV h a).pkgbudDue = s.pkgbudDue := rfl
@[simp] theorem keepV_tokenAt (s : State) (h : BitVec 2) (a : BitVec 5) : (s.keepV h a).tokenAt = s.tokenAt := rfl
@[simp] theorem keepV_tokenF (s : State) (h : BitVec 2) (a : BitVec 5) : (s.keepV h a).tokenF = s.tokenF := rfl
@[simp] theorem keepV_fnmode (s : State) (h : BitVec 2) (a : BitVec 5) : (s.keepV h a).fnmode = s.fnmode := rfl
@[simp] theorem keepV_fnmodeNext (s : State) (h : BitVec 2) (a : BitVec 5) :
    (s.keepV h a).fnmodeNext = s.fnmodeNext := rfl
@[simp] theorem keepV_hkbase (s : State) (h : BitVec 2) (a : BitVec 5) : (s.keepV h a).hkbase = s.hkbase := rfl
@[simp] theorem keepV_hkw (s : State) (h : BitVec 2) (a : BitVec 5) : (s.keepV h a).hkw = s.hkw := rfl
@[simp] theorem keepV_hkr (s : State) (h : BitVec 2) (a : BitVec 5) : (s.keepV h a).hkr = s.hkr := rfl
@[simp] theorem keepV_hkreqs (s : State) (h : BitVec 2) (a : BitVec 5) : (s.keepV h a).hkreqs = s.hkreqs := rfl
@[simp] theorem keepV_pkg (s : State) (h : BitVec 2) (a : BitVec 5) : (s.keepV h a).pkg = s.pkg := rfl
@[simp] theorem keepV_aligned (s : State) (h : BitVec 2) (a : BitVec 5) : (s.keepV h a).aligned = s.aligned := rfl
@[simp] theorem keepV_signatures (s : State) (h : BitVec 2) (a : BitVec 5) :
    (s.keepV h a).signatures = s.signatures := rfl
@[simp] theorem keepV_nonce (s : State) (h : BitVec 2) (a : BitVec 5) : (s.keepV h a).nonce = s.nonce := rfl
@[simp] theorem keepV_env (s : State) (h : BitVec 2) (a : BitVec 5) : (s.keepV h a).env = s.env := rfl
@[simp] theorem keepV_agenda (s : State) (h : BitVec 2) (a : BitVec 5) : (s.keepV h a).agenda = s.agenda := rfl
@[simp] theorem keepV_cur (s : State) (h : BitVec 2) (a : BitVec 5) : (s.keepV h a).cur = s.cur := rfl
@[simp] theorem keepV_who (s : State) (h : BitVec 2) (a : BitVec 5) : (s.keepV h a).who = s.who := rfl
@[simp] theorem keepF_tick (s : State) (h : BitVec 2) (a : BitVec 5) : (s.keepF h a).tick = s.tick := rfl
@[simp] theorem keepF_mem (s : State) (h : BitVec 2) (a : BitVec 5) : (s.keepF h a).mem = s.mem := rfl
@[simp] theorem keepF_poison (s : State) (h : BitVec 2) (a : BitVec 5) : (s.keepF h a).poison = s.poison := rfl
@[simp] theorem keepF_stacks (s : State) (h : BitVec 2) (a : BitVec 5) : (s.keepF h a).stks = s.stks := rfl
@[simp] theorem keepF_launches (s : State) (h : BitVec 2) (a : BitVec 5) : (s.keepF h a).launches = s.launches := rfl
@[simp] theorem keepF_nextLaunch (s : State) (h : BitVec 2) (a : BitVec 5) :
    (s.keepF h a).nextLaunch = s.nextLaunch := rfl
@[simp] theorem keepF_away (s : State) (h : BitVec 2) (a : BitVec 5) : (s.keepF h a).away = s.away := rfl
@[simp] theorem keepF_posts (s : State) (h : BitVec 2) (a : BitVec 5) : (s.keepF h a).posts = s.posts := rfl
@[simp] theorem keepF_credits (s : State) (h : BitVec 2) (a : BitVec 5) : (s.keepF h a).credits = s.credits := rfl
@[simp] theorem keepF_selfRefresh (s : State) (h : BitVec 2) (a : BitVec 5) :
    (s.keepF h a).selfRefresh = s.selfRefresh := rfl
@[simp] theorem keepF_standing (s : State) (h : BitVec 2) (a : BitVec 5) :
    (s.keepF h a).standing = s.standing := rfl
@[simp] theorem keepF_pkgbud (s : State) (h : BitVec 2) (a : BitVec 5) : (s.keepF h a).pkgbud = s.pkgbud := rfl
@[simp] theorem keepF_pkgbudDue (s : State) (h : BitVec 2) (a : BitVec 5) :
    (s.keepF h a).pkgbudDue = s.pkgbudDue := rfl
@[simp] theorem keepF_tokenAt (s : State) (h : BitVec 2) (a : BitVec 5) : (s.keepF h a).tokenAt = s.tokenAt := rfl
@[simp] theorem keepF_tokenF (s : State) (h : BitVec 2) (a : BitVec 5) : (s.keepF h a).tokenF = s.tokenF := rfl
@[simp] theorem keepF_fnmode (s : State) (h : BitVec 2) (a : BitVec 5) : (s.keepF h a).fnmode = s.fnmode := rfl
@[simp] theorem keepF_fnmodeNext (s : State) (h : BitVec 2) (a : BitVec 5) :
    (s.keepF h a).fnmodeNext = s.fnmodeNext := rfl
@[simp] theorem keepF_hkbase (s : State) (h : BitVec 2) (a : BitVec 5) : (s.keepF h a).hkbase = s.hkbase := rfl
@[simp] theorem keepF_hkw (s : State) (h : BitVec 2) (a : BitVec 5) : (s.keepF h a).hkw = s.hkw := rfl
@[simp] theorem keepF_hkr (s : State) (h : BitVec 2) (a : BitVec 5) : (s.keepF h a).hkr = s.hkr := rfl
@[simp] theorem keepF_hkreqs (s : State) (h : BitVec 2) (a : BitVec 5) : (s.keepF h a).hkreqs = s.hkreqs := rfl
@[simp] theorem keepF_pkg (s : State) (h : BitVec 2) (a : BitVec 5) : (s.keepF h a).pkg = s.pkg := rfl
@[simp] theorem keepF_aligned (s : State) (h : BitVec 2) (a : BitVec 5) : (s.keepF h a).aligned = s.aligned := rfl
@[simp] theorem keepF_signatures (s : State) (h : BitVec 2) (a : BitVec 5) :
    (s.keepF h a).signatures = s.signatures := rfl
@[simp] theorem keepF_nonce (s : State) (h : BitVec 2) (a : BitVec 5) : (s.keepF h a).nonce = s.nonce := rfl
@[simp] theorem keepF_env (s : State) (h : BitVec 2) (a : BitVec 5) : (s.keepF h a).env = s.env := rfl
@[simp] theorem keepF_agenda (s : State) (h : BitVec 2) (a : BitVec 5) : (s.keepF h a).agenda = s.agenda := rfl
@[simp] theorem keepF_cur (s : State) (h : BitVec 2) (a : BitVec 5) : (s.keepF h a).cur = s.cur := rfl
@[simp] theorem keepF_who (s : State) (h : BitVec 2) (a : BitVec 5) : (s.keepF h a).who = s.who := rfl
@[simp] theorem csrNote_tick (s : State) (n : Nat) (c : CsrChange) (v : W64) : (s.csrNote n c v).tick = s.tick := rfl
@[simp] theorem csrNote_mem (s : State) (n : Nat) (c : CsrChange) (v : W64) : (s.csrNote n c v).mem = s.mem := rfl
@[simp] theorem csrNote_poison (s : State) (n : Nat) (c : CsrChange) (v : W64) :
    (s.csrNote n c v).poison = s.poison := rfl
@[simp] theorem csrNote_stacks (s : State) (n : Nat) (c : CsrChange) (v : W64) :
    (s.csrNote n c v).stks = s.stks := rfl
@[simp] theorem csrNote_launches (s : State) (n : Nat) (c : CsrChange) (v : W64) :
    (s.csrNote n c v).launches = s.launches := rfl
@[simp] theorem csrNote_nextLaunch (s : State) (n : Nat) (c : CsrChange) (v : W64) :
    (s.csrNote n c v).nextLaunch = s.nextLaunch := rfl
@[simp] theorem csrNote_away (s : State) (n : Nat) (c : CsrChange) (v : W64) : (s.csrNote n c v).away = s.away := rfl
@[simp] theorem csrNote_posts (s : State) (n : Nat) (c : CsrChange) (v : W64) :
    (s.csrNote n c v).posts = s.posts := rfl
@[simp] theorem csrNote_credits (s : State) (n : Nat) (c : CsrChange) (v : W64) :
    (s.csrNote n c v).credits = s.credits := rfl
@[simp] theorem csrNote_selfRefresh (s : State) (n : Nat) (c : CsrChange) (v : W64) :
    (s.csrNote n c v).selfRefresh = s.selfRefresh := rfl
@[simp] theorem csrNote_standing (s : State) (n : Nat) (c : CsrChange) (v : W64) :
    (s.csrNote n c v).standing = s.standing := rfl
@[simp] theorem csrNote_pkgbud (s : State) (n : Nat) (c : CsrChange) (v : W64) :
    (s.csrNote n c v).pkgbud = s.pkgbud := rfl
@[simp] theorem csrNote_pkgbudDue (s : State) (n : Nat) (c : CsrChange) (v : W64) :
    (s.csrNote n c v).pkgbudDue = s.pkgbudDue := rfl
@[simp] theorem csrNote_tokenAt (s : State) (n : Nat) (c : CsrChange) (v : W64) :
    (s.csrNote n c v).tokenAt = s.tokenAt := rfl
@[simp] theorem csrNote_tokenF (s : State) (n : Nat) (c : CsrChange) (v : W64) :
    (s.csrNote n c v).tokenF = s.tokenF := rfl
@[simp] theorem csrNote_fnmode (s : State) (n : Nat) (c : CsrChange) (v : W64) :
    (s.csrNote n c v).fnmode = s.fnmode := rfl
@[simp] theorem csrNote_fnmodeNext (s : State) (n : Nat) (c : CsrChange) (v : W64) :
    (s.csrNote n c v).fnmodeNext = s.fnmodeNext := rfl
@[simp] theorem csrNote_hkbase (s : State) (n : Nat) (c : CsrChange) (v : W64) :
    (s.csrNote n c v).hkbase = s.hkbase := rfl
@[simp] theorem csrNote_hkw (s : State) (n : Nat) (c : CsrChange) (v : W64) : (s.csrNote n c v).hkw = s.hkw := rfl
@[simp] theorem csrNote_hkr (s : State) (n : Nat) (c : CsrChange) (v : W64) : (s.csrNote n c v).hkr = s.hkr := rfl
@[simp] theorem csrNote_hkreqs (s : State) (n : Nat) (c : CsrChange) (v : W64) :
    (s.csrNote n c v).hkreqs = s.hkreqs := rfl
@[simp] theorem csrNote_pkg (s : State) (n : Nat) (c : CsrChange) (v : W64) : (s.csrNote n c v).pkg = s.pkg := rfl
@[simp] theorem csrNote_aligned (s : State) (n : Nat) (c : CsrChange) (v : W64) :
    (s.csrNote n c v).aligned = s.aligned := rfl
@[simp] theorem csrNote_signatures (s : State) (n : Nat) (c : CsrChange) (v : W64) :
    (s.csrNote n c v).signatures = s.signatures := rfl
@[simp] theorem csrNote_nonce (s : State) (n : Nat) (c : CsrChange) (v : W64) :
    (s.csrNote n c v).nonce = s.nonce := rfl
@[simp] theorem csrNote_env (s : State) (n : Nat) (c : CsrChange) (v : W64) : (s.csrNote n c v).env = s.env := rfl
@[simp] theorem csrNote_agenda (s : State) (n : Nat) (c : CsrChange) (v : W64) :
    (s.csrNote n c v).agenda = s.agenda := rfl
@[simp] theorem csrNote_cur (s : State) (n : Nat) (c : CsrChange) (v : W64) : (s.csrNote n c v).cur = s.cur := rfl
@[simp] theorem csrNote_who (s : State) (n : Nat) (c : CsrChange) (v : W64) : (s.csrNote n c v).who = s.who := rfl
@[simp] theorem formRec_tick (s : State) (a b : W64) (op : Op) : (s.formRec a b op).tick = s.tick := rfl
@[simp] theorem formRec_mem (s : State) (a b : W64) (op : Op) : (s.formRec a b op).mem = s.mem := rfl
@[simp] theorem formRec_poison (s : State) (a b : W64) (op : Op) : (s.formRec a b op).poison = s.poison := rfl
@[simp] theorem formRec_stacks (s : State) (a b : W64) (op : Op) : (s.formRec a b op).stks = s.stks := rfl
@[simp] theorem formRec_launches (s : State) (a b : W64) (op : Op) : (s.formRec a b op).launches = s.launches := rfl
@[simp] theorem formRec_nextLaunch (s : State) (a b : W64) (op : Op) :
    (s.formRec a b op).nextLaunch = s.nextLaunch := rfl
@[simp] theorem formRec_away (s : State) (a b : W64) (op : Op) : (s.formRec a b op).away = s.away := rfl
@[simp] theorem formRec_posts (s : State) (a b : W64) (op : Op) : (s.formRec a b op).posts = s.posts := rfl
@[simp] theorem formRec_credits (s : State) (a b : W64) (op : Op) : (s.formRec a b op).credits = s.credits := rfl
@[simp] theorem formRec_selfRefresh (s : State) (a b : W64) (op : Op) :
    (s.formRec a b op).selfRefresh = s.selfRefresh := rfl
@[simp] theorem formRec_standing (s : State) (a b : W64) (op : Op) :
    (s.formRec a b op).standing = s.standing := rfl
@[simp] theorem formRec_pkgbud (s : State) (a b : W64) (op : Op) : (s.formRec a b op).pkgbud = s.pkgbud := rfl
@[simp] theorem formRec_pkgbudDue (s : State) (a b : W64) (op : Op) :
    (s.formRec a b op).pkgbudDue = s.pkgbudDue := rfl
@[simp] theorem formRec_tokenAt (s : State) (a b : W64) (op : Op) : (s.formRec a b op).tokenAt = s.tokenAt := rfl
@[simp] theorem formRec_tokenF (s : State) (a b : W64) (op : Op) : (s.formRec a b op).tokenF = s.tokenF := rfl
@[simp] theorem formRec_fnmode (s : State) (a b : W64) (op : Op) : (s.formRec a b op).fnmode = s.fnmode := rfl
@[simp] theorem formRec_fnmodeNext (s : State) (a b : W64) (op : Op) :
    (s.formRec a b op).fnmodeNext = s.fnmodeNext := rfl
@[simp] theorem formRec_hkbase (s : State) (a b : W64) (op : Op) : (s.formRec a b op).hkbase = s.hkbase := rfl
@[simp] theorem formRec_hkw (s : State) (a b : W64) (op : Op) : (s.formRec a b op).hkw = s.hkw := rfl
@[simp] theorem formRec_hkr (s : State) (a b : W64) (op : Op) : (s.formRec a b op).hkr = s.hkr := rfl
@[simp] theorem formRec_hkreqs (s : State) (a b : W64) (op : Op) : (s.formRec a b op).hkreqs = s.hkreqs := rfl
@[simp] theorem formRec_pkg (s : State) (a b : W64) (op : Op) : (s.formRec a b op).pkg = s.pkg := rfl
@[simp] theorem formRec_aligned (s : State) (a b : W64) (op : Op) : (s.formRec a b op).aligned = s.aligned := rfl
@[simp] theorem formRec_signatures (s : State) (a b : W64) (op : Op) :
    (s.formRec a b op).signatures = s.signatures := rfl
@[simp] theorem formRec_nonce (s : State) (a b : W64) (op : Op) : (s.formRec a b op).nonce = s.nonce := rfl
@[simp] theorem formRec_env (s : State) (a b : W64) (op : Op) : (s.formRec a b op).env = s.env := rfl
@[simp] theorem formRec_agenda (s : State) (a b : W64) (op : Op) : (s.formRec a b op).agenda = s.agenda := rfl
@[simp] theorem formRec_cur (s : State) (a b : W64) (op : Op) : (s.formRec a b op).cur = s.cur := rfl
@[simp] theorem formRec_who (s : State) (a b : W64) (op : Op) : (s.formRec a b op).who = s.who := rfl
@[simp] theorem onFrame_tick (s : State) (p f : Nat) (g : Frame → Frame) : (s.onFrame p f g).tick = s.tick := by
  simp only [State.onFrame]; split <;> rfl
@[simp] theorem onFrame_mem (s : State) (p f : Nat) (g : Frame → Frame) : (s.onFrame p f g).mem = s.mem := by
  simp only [State.onFrame]; split <;> rfl
@[simp] theorem onFrame_poison (s : State) (p f : Nat) (g : Frame → Frame) : (s.onFrame p f g).poison = s.poison := by
  simp only [State.onFrame]; split <;> rfl
@[simp] theorem onFrame_stacks (s : State) (p f : Nat) (g : Frame → Frame) : (s.onFrame p f g).stks = s.stks := by
  simp only [State.onFrame]; split <;> rfl
@[simp] theorem onFrame_launches (s : State) (p f : Nat) (g : Frame → Frame) :
    (s.onFrame p f g).launches = s.launches := by
  simp only [State.onFrame]; split <;> rfl
@[simp] theorem onFrame_nextLaunch (s : State) (p f : Nat) (g : Frame → Frame) :
    (s.onFrame p f g).nextLaunch = s.nextLaunch := by
  simp only [State.onFrame]; split <;> rfl
@[simp] theorem onFrame_away (s : State) (p f : Nat) (g : Frame → Frame) : (s.onFrame p f g).away = s.away := by
  simp only [State.onFrame]; split <;> rfl
@[simp] theorem onFrame_posts (s : State) (p f : Nat) (g : Frame → Frame) : (s.onFrame p f g).posts = s.posts := by
  simp only [State.onFrame]; split <;> rfl
@[simp] theorem onFrame_credits (s : State) (p f : Nat) (g : Frame → Frame) :
    (s.onFrame p f g).credits = s.credits := by
  simp only [State.onFrame]; split <;> rfl
@[simp] theorem onFrame_selfRefresh (s : State) (p f : Nat) (g : Frame → Frame) :
    (s.onFrame p f g).selfRefresh = s.selfRefresh := by
  simp only [State.onFrame]; split <;> rfl
@[simp] theorem onFrame_standing (s : State) (p f : Nat) (g : Frame → Frame) :
    (s.onFrame p f g).standing = s.standing := by
  simp only [State.onFrame]; split <;> rfl
@[simp] theorem onFrame_pkgbud (s : State) (p f : Nat) (g : Frame → Frame) : (s.onFrame p f g).pkgbud = s.pkgbud := by
  simp only [State.onFrame]; split <;> rfl
@[simp] theorem onFrame_pkgbudDue (s : State) (p f : Nat) (g : Frame → Frame) :
    (s.onFrame p f g).pkgbudDue = s.pkgbudDue := by
  simp only [State.onFrame]; split <;> rfl
@[simp] theorem onFrame_tokenAt (s : State) (p f : Nat) (g : Frame → Frame) :
    (s.onFrame p f g).tokenAt = s.tokenAt := by
  simp only [State.onFrame]; split <;> rfl
@[simp] theorem onFrame_tokenF (s : State) (p f : Nat) (g : Frame → Frame) : (s.onFrame p f g).tokenF = s.tokenF := by
  simp only [State.onFrame]; split <;> rfl
@[simp] theorem onFrame_fnmode (s : State) (p f : Nat) (g : Frame → Frame) : (s.onFrame p f g).fnmode = s.fnmode := by
  simp only [State.onFrame]; split <;> rfl
@[simp] theorem onFrame_fnmodeNext (s : State) (p f : Nat) (g : Frame → Frame) :
    (s.onFrame p f g).fnmodeNext = s.fnmodeNext := by
  simp only [State.onFrame]; split <;> rfl
@[simp] theorem onFrame_hkbase (s : State) (p f : Nat) (g : Frame → Frame) : (s.onFrame p f g).hkbase = s.hkbase := by
  simp only [State.onFrame]; split <;> rfl
@[simp] theorem onFrame_hkw (s : State) (p f : Nat) (g : Frame → Frame) : (s.onFrame p f g).hkw = s.hkw := by
  simp only [State.onFrame]; split <;> rfl
@[simp] theorem onFrame_hkr (s : State) (p f : Nat) (g : Frame → Frame) : (s.onFrame p f g).hkr = s.hkr := by
  simp only [State.onFrame]; split <;> rfl
@[simp] theorem onFrame_hkreqs (s : State) (p f : Nat) (g : Frame → Frame) : (s.onFrame p f g).hkreqs = s.hkreqs := by
  simp only [State.onFrame]; split <;> rfl
@[simp] theorem onFrame_pkg (s : State) (p f : Nat) (g : Frame → Frame) : (s.onFrame p f g).pkg = s.pkg := by
  simp only [State.onFrame]; split <;> rfl
@[simp] theorem onFrame_aligned (s : State) (p f : Nat) (g : Frame → Frame) :
    (s.onFrame p f g).aligned = s.aligned := by
  simp only [State.onFrame]; split <;> rfl
@[simp] theorem onFrame_signatures (s : State) (p f : Nat) (g : Frame → Frame) :
    (s.onFrame p f g).signatures = s.signatures := by
  simp only [State.onFrame]; split <;> rfl
@[simp] theorem onFrame_nonce (s : State) (p f : Nat) (g : Frame → Frame) : (s.onFrame p f g).nonce = s.nonce := by
  simp only [State.onFrame]; split <;> rfl
@[simp] theorem onFrame_env (s : State) (p f : Nat) (g : Frame → Frame) : (s.onFrame p f g).env = s.env := by
  simp only [State.onFrame]; split <;> rfl
@[simp] theorem onFrame_agenda (s : State) (p f : Nat) (g : Frame → Frame) : (s.onFrame p f g).agenda = s.agenda := by
  simp only [State.onFrame]; split <;> rfl
@[simp] theorem onFrame_cur (s : State) (p f : Nat) (g : Frame → Frame) : (s.onFrame p f g).cur = s.cur := by
  simp only [State.onFrame]; split <;> rfl
@[simp] theorem onFrame_who (s : State) (p f : Nat) (g : Frame → Frame) : (s.onFrame p f g).who = s.who := by
  simp only [State.onFrame]; split <;> rfl
@[simp] theorem disown_tick (s : State) (typ p : Nat) (sel : Nat × Nat → Bool) :
    (s.disown typ p sel).tick = s.tick := rfl
@[simp] theorem disown_mem (s : State) (typ p : Nat) (sel : Nat × Nat → Bool) :
    (s.disown typ p sel).mem = s.mem := rfl
@[simp] theorem disown_poison (s : State) (typ p : Nat) (sel : Nat × Nat → Bool) :
    (s.disown typ p sel).poison = s.poison := rfl
@[simp] theorem disown_stacks (s : State) (typ p : Nat) (sel : Nat × Nat → Bool) :
    (s.disown typ p sel).stks = s.stks := rfl
@[simp] theorem disown_pillars (s : State) (typ p : Nat) (sel : Nat × Nat → Bool) :
    (s.disown typ p sel).pillars = s.pillars := rfl
@[simp] theorem disown_launches (s : State) (typ p : Nat) (sel : Nat × Nat → Bool) :
    (s.disown typ p sel).launches = s.launches := rfl
@[simp] theorem disown_nextLaunch (s : State) (typ p : Nat) (sel : Nat × Nat → Bool) :
    (s.disown typ p sel).nextLaunch = s.nextLaunch := rfl
@[simp] theorem disown_away (s : State) (typ p : Nat) (sel : Nat × Nat → Bool) :
    (s.disown typ p sel).away = s.away := rfl
@[simp] theorem disown_posts (s : State) (typ p : Nat) (sel : Nat × Nat → Bool) :
    (s.disown typ p sel).posts = s.posts := rfl
@[simp] theorem disown_credits (s : State) (typ p : Nat) (sel : Nat × Nat → Bool) :
    (s.disown typ p sel).credits = s.credits := rfl
@[simp] theorem disown_selfRefresh (s : State) (typ p : Nat) (sel : Nat × Nat → Bool) :
    (s.disown typ p sel).selfRefresh = s.selfRefresh := rfl
@[simp] theorem disown_standing (s : State) (typ p : Nat) (sel : Nat × Nat → Bool) :
    (s.disown typ p sel).standing = s.standing := rfl
@[simp] theorem disown_pkgbud (s : State) (typ p : Nat) (sel : Nat × Nat → Bool) :
    (s.disown typ p sel).pkgbud = s.pkgbud := rfl
@[simp] theorem disown_pkgbudDue (s : State) (typ p : Nat) (sel : Nat × Nat → Bool) :
    (s.disown typ p sel).pkgbudDue = s.pkgbudDue := rfl
@[simp] theorem disown_tokenAt (s : State) (typ p : Nat) (sel : Nat × Nat → Bool) :
    (s.disown typ p sel).tokenAt = s.tokenAt := rfl
@[simp] theorem disown_tokenF (s : State) (typ p : Nat) (sel : Nat × Nat → Bool) :
    (s.disown typ p sel).tokenF = s.tokenF := rfl
@[simp] theorem disown_fnmode (s : State) (typ p : Nat) (sel : Nat × Nat → Bool) :
    (s.disown typ p sel).fnmode = s.fnmode := rfl
@[simp] theorem disown_fnmodeNext (s : State) (typ p : Nat) (sel : Nat × Nat → Bool) :
    (s.disown typ p sel).fnmodeNext = s.fnmodeNext := rfl
@[simp] theorem disown_hkbase (s : State) (typ p : Nat) (sel : Nat × Nat → Bool) :
    (s.disown typ p sel).hkbase = s.hkbase := rfl
@[simp] theorem disown_hkw (s : State) (typ p : Nat) (sel : Nat × Nat → Bool) :
    (s.disown typ p sel).hkw = s.hkw := rfl
@[simp] theorem disown_hkr (s : State) (typ p : Nat) (sel : Nat × Nat → Bool) :
    (s.disown typ p sel).hkr = s.hkr := rfl
@[simp] theorem disown_pkg (s : State) (typ p : Nat) (sel : Nat × Nat → Bool) :
    (s.disown typ p sel).pkg = s.pkg := rfl
@[simp] theorem disown_aligned (s : State) (typ p : Nat) (sel : Nat × Nat → Bool) :
    (s.disown typ p sel).aligned = s.aligned := rfl
@[simp] theorem disown_signatures (s : State) (typ p : Nat) (sel : Nat × Nat → Bool) :
    (s.disown typ p sel).signatures = s.signatures := rfl
@[simp] theorem disown_nonce (s : State) (typ p : Nat) (sel : Nat × Nat → Bool) :
    (s.disown typ p sel).nonce = s.nonce := rfl
@[simp] theorem disown_env (s : State) (typ p : Nat) (sel : Nat × Nat → Bool) :
    (s.disown typ p sel).env = s.env := rfl
@[simp] theorem disown_agenda (s : State) (typ p : Nat) (sel : Nat × Nat → Bool) :
    (s.disown typ p sel).agenda = s.agenda := rfl
@[simp] theorem disown_cur (s : State) (typ p : Nat) (sel : Nat × Nat → Bool) :
    (s.disown typ p sel).cur = s.cur := rfl
@[simp] theorem disown_who (s : State) (typ p : Nat) (sel : Nat × Nat → Bool) :
    (s.disown typ p sel).who = s.who := rfl
@[simp] theorem noRenewal_tick (s : State) (p f : Nat) : (s.noRenewal p f).tick = s.tick := rfl
@[simp] theorem noRenewal_mem (s : State) (p f : Nat) : (s.noRenewal p f).mem = s.mem := rfl
@[simp] theorem noRenewal_poison (s : State) (p f : Nat) : (s.noRenewal p f).poison = s.poison := rfl
@[simp] theorem noRenewal_stacks (s : State) (p f : Nat) : (s.noRenewal p f).stks = s.stks := rfl
@[simp] theorem noRenewal_pillars (s : State) (p f : Nat) : (s.noRenewal p f).pillars = s.pillars := rfl
@[simp] theorem noRenewal_launches (s : State) (p f : Nat) : (s.noRenewal p f).launches = s.launches := rfl
@[simp] theorem noRenewal_nextLaunch (s : State) (p f : Nat) : (s.noRenewal p f).nextLaunch = s.nextLaunch := rfl
@[simp] theorem noRenewal_away (s : State) (p f : Nat) : (s.noRenewal p f).away = s.away := rfl
@[simp] theorem noRenewal_posts (s : State) (p f : Nat) : (s.noRenewal p f).posts = s.posts := rfl
@[simp] theorem noRenewal_credits (s : State) (p f : Nat) : (s.noRenewal p f).credits = s.credits := rfl
@[simp] theorem noRenewal_selfRefresh (s : State) (p f : Nat) : (s.noRenewal p f).selfRefresh = s.selfRefresh := rfl
@[simp] theorem noRenewal_standing (s : State) (p f : Nat) : (s.noRenewal p f).standing = s.standing := rfl
@[simp] theorem noRenewal_pkgbud (s : State) (p f : Nat) : (s.noRenewal p f).pkgbud = s.pkgbud := rfl
@[simp] theorem noRenewal_pkgbudDue (s : State) (p f : Nat) : (s.noRenewal p f).pkgbudDue = s.pkgbudDue := rfl
@[simp] theorem noRenewal_tokenAt (s : State) (p f : Nat) : (s.noRenewal p f).tokenAt = s.tokenAt := rfl
@[simp] theorem noRenewal_tokenF (s : State) (p f : Nat) : (s.noRenewal p f).tokenF = s.tokenF := rfl
@[simp] theorem noRenewal_fnmode (s : State) (p f : Nat) : (s.noRenewal p f).fnmode = s.fnmode := rfl
@[simp] theorem noRenewal_fnmodeNext (s : State) (p f : Nat) : (s.noRenewal p f).fnmodeNext = s.fnmodeNext := rfl
@[simp] theorem noRenewal_hkbase (s : State) (p f : Nat) : (s.noRenewal p f).hkbase = s.hkbase := rfl
@[simp] theorem noRenewal_hkw (s : State) (p f : Nat) : (s.noRenewal p f).hkw = s.hkw := rfl
@[simp] theorem noRenewal_hkr (s : State) (p f : Nat) : (s.noRenewal p f).hkr = s.hkr := rfl
@[simp] theorem noRenewal_pkg (s : State) (p f : Nat) : (s.noRenewal p f).pkg = s.pkg := rfl
@[simp] theorem noRenewal_aligned (s : State) (p f : Nat) : (s.noRenewal p f).aligned = s.aligned := rfl
@[simp] theorem noRenewal_signatures (s : State) (p f : Nat) : (s.noRenewal p f).signatures = s.signatures := rfl
@[simp] theorem noRenewal_nonce (s : State) (p f : Nat) : (s.noRenewal p f).nonce = s.nonce := rfl
@[simp] theorem noRenewal_env (s : State) (p f : Nat) : (s.noRenewal p f).env = s.env := rfl
@[simp] theorem noRenewal_agenda (s : State) (p f : Nat) : (s.noRenewal p f).agenda = s.agenda := rfl
@[simp] theorem noRenewal_cur (s : State) (p f : Nat) : (s.noRenewal p f).cur = s.cur := rfl
@[simp] theorem noRenewal_who (s : State) (p f : Nat) : (s.noRenewal p f).who = s.who := rfl

@[simp] theorem clearFrame_tick (s : State) (p f : Nat) : (s.clearFrame p f).tick = s.tick := by
  simp [State.clearFrame]
@[simp] theorem clearFrame_mem (s : State) (p f : Nat) : (s.clearFrame p f).mem = s.mem := by
  simp [State.clearFrame]
@[simp] theorem clearFrame_poison (s : State) (p f : Nat) : (s.clearFrame p f).poison = s.poison := by
  simp [State.clearFrame]
@[simp] theorem clearFrame_stacks (s : State) (p f : Nat) : (s.clearFrame p f).stks = s.stks := by
  simp [State.clearFrame]
@[simp] theorem clearFrame_launches (s : State) (p f : Nat) : (s.clearFrame p f).launches = s.launches := by
  simp [State.clearFrame]
@[simp] theorem clearFrame_nextLaunch (s : State) (p f : Nat) : (s.clearFrame p f).nextLaunch = s.nextLaunch := by
  simp [State.clearFrame]
@[simp] theorem clearFrame_away (s : State) (p f : Nat) : (s.clearFrame p f).away = s.away := by
  simp [State.clearFrame]
@[simp] theorem clearFrame_posts (s : State) (p f : Nat) : (s.clearFrame p f).posts = s.posts := by
  simp [State.clearFrame]
@[simp] theorem clearFrame_credits (s : State) (p f : Nat) : (s.clearFrame p f).credits = s.credits := by
  simp [State.clearFrame]
@[simp] theorem clearFrame_selfRefresh (s : State) (p f : Nat) : (s.clearFrame p f).selfRefresh = s.selfRefresh := by
  simp [State.clearFrame]
@[simp] theorem clearFrame_standing (s : State) (p f : Nat) : (s.clearFrame p f).standing = s.standing := by
  simp [State.clearFrame]
@[simp] theorem clearFrame_pkgbud (s : State) (p f : Nat) : (s.clearFrame p f).pkgbud = s.pkgbud := by
  simp [State.clearFrame]
@[simp] theorem clearFrame_pkgbudDue (s : State) (p f : Nat) : (s.clearFrame p f).pkgbudDue = s.pkgbudDue := by
  simp [State.clearFrame]
@[simp] theorem clearFrame_tokenAt (s : State) (p f : Nat) : (s.clearFrame p f).tokenAt = s.tokenAt := by
  simp [State.clearFrame]
@[simp] theorem clearFrame_tokenF (s : State) (p f : Nat) : (s.clearFrame p f).tokenF = s.tokenF := by
  simp [State.clearFrame]
@[simp] theorem clearFrame_fnmode (s : State) (p f : Nat) : (s.clearFrame p f).fnmode = s.fnmode := by
  simp [State.clearFrame]
@[simp] theorem clearFrame_fnmodeNext (s : State) (p f : Nat) : (s.clearFrame p f).fnmodeNext = s.fnmodeNext := by
  simp [State.clearFrame]
@[simp] theorem clearFrame_hkbase (s : State) (p f : Nat) : (s.clearFrame p f).hkbase = s.hkbase := by
  simp [State.clearFrame]
@[simp] theorem clearFrame_hkw (s : State) (p f : Nat) : (s.clearFrame p f).hkw = s.hkw := by
  simp [State.clearFrame]
@[simp] theorem clearFrame_hkr (s : State) (p f : Nat) : (s.clearFrame p f).hkr = s.hkr := by
  simp [State.clearFrame]
@[simp] theorem clearFrame_pkg (s : State) (p f : Nat) : (s.clearFrame p f).pkg = s.pkg := by
  simp [State.clearFrame]
@[simp] theorem clearFrame_aligned (s : State) (p f : Nat) : (s.clearFrame p f).aligned = s.aligned := by
  simp [State.clearFrame]
@[simp] theorem clearFrame_signatures (s : State) (p f : Nat) : (s.clearFrame p f).signatures = s.signatures := by
  simp [State.clearFrame]
@[simp] theorem clearFrame_nonce (s : State) (p f : Nat) : (s.clearFrame p f).nonce = s.nonce := by
  simp [State.clearFrame]
@[simp] theorem clearFrame_env (s : State) (p f : Nat) : (s.clearFrame p f).env = s.env := by
  simp [State.clearFrame]
@[simp] theorem clearFrame_agenda (s : State) (p f : Nat) : (s.clearFrame p f).agenda = s.agenda := by
  simp [State.clearFrame]
@[simp] theorem clearFrame_cur (s : State) (p f : Nat) : (s.clearFrame p f).cur = s.cur := by
  simp [State.clearFrame]
@[simp] theorem clearFrame_who (s : State) (p f : Nat) : (s.clearFrame p f).who = s.who := by
  simp [State.clearFrame]
@[simp] theorem toDest_tick (s : State) (lat : Nat) (d : BitVec 5) (v : W64) : (s.toDest lat d v).tick = s.tick := by
  simp only [State.toDest]; split <;> [rfl; (split <;> rfl)]
@[simp] theorem toDest_mem (s : State) (lat : Nat) (d : BitVec 5) (v : W64) : (s.toDest lat d v).mem = s.mem := by
  simp only [State.toDest]; split <;> [rfl; (split <;> rfl)]
@[simp] theorem toDest_poison (s : State) (lat : Nat) (d : BitVec 5) (v : W64) :
    (s.toDest lat d v).poison = s.poison := by
  simp only [State.toDest]; split <;> [rfl; (split <;> rfl)]
@[simp] theorem toDest_stacks (s : State) (lat : Nat) (d : BitVec 5) (v : W64) :
    (s.toDest lat d v).stks = s.stks := by
  simp only [State.toDest]; split <;> [rfl; (split <;> rfl)]
@[simp] theorem toDest_launches (s : State) (lat : Nat) (d : BitVec 5) (v : W64) :
    (s.toDest lat d v).launches = s.launches := by
  simp only [State.toDest]; split <;> [rfl; (split <;> rfl)]
@[simp] theorem toDest_nextLaunch (s : State) (lat : Nat) (d : BitVec 5) (v : W64) :
    (s.toDest lat d v).nextLaunch = s.nextLaunch := by
  simp only [State.toDest]; split <;> [rfl; (split <;> rfl)]
@[simp] theorem toDest_away (s : State) (lat : Nat) (d : BitVec 5) (v : W64) : (s.toDest lat d v).away = s.away := by
  simp only [State.toDest]; split <;> [rfl; (split <;> rfl)]
@[simp] theorem toDest_posts (s : State) (lat : Nat) (d : BitVec 5) (v : W64) :
    (s.toDest lat d v).posts = s.posts := by
  simp only [State.toDest]; split <;> [rfl; (split <;> rfl)]
@[simp] theorem toDest_credits (s : State) (lat : Nat) (d : BitVec 5) (v : W64) :
    (s.toDest lat d v).credits = s.credits := by
  simp only [State.toDest]; split <;> [rfl; (split <;> rfl)]
@[simp] theorem toDest_selfRefresh (s : State) (lat : Nat) (d : BitVec 5) (v : W64) :
    (s.toDest lat d v).selfRefresh = s.selfRefresh := by
  simp only [State.toDest]; split <;> [rfl; (split <;> rfl)]
@[simp] theorem toDest_standing (s : State) (lat : Nat) (d : BitVec 5) (v : W64) :
    (s.toDest lat d v).standing = s.standing := by
  simp only [State.toDest]; split <;> [rfl; (split <;> rfl)]
@[simp] theorem toDest_pkgbud (s : State) (lat : Nat) (d : BitVec 5) (v : W64) :
    (s.toDest lat d v).pkgbud = s.pkgbud := by
  simp only [State.toDest]; split <;> [rfl; (split <;> rfl)]
@[simp] theorem toDest_pkgbudDue (s : State) (lat : Nat) (d : BitVec 5) (v : W64) :
    (s.toDest lat d v).pkgbudDue = s.pkgbudDue := by
  simp only [State.toDest]; split <;> [rfl; (split <;> rfl)]
@[simp] theorem toDest_tokenAt (s : State) (lat : Nat) (d : BitVec 5) (v : W64) :
    (s.toDest lat d v).tokenAt = s.tokenAt := by
  simp only [State.toDest]; split <;> [rfl; (split <;> rfl)]
@[simp] theorem toDest_tokenF (s : State) (lat : Nat) (d : BitVec 5) (v : W64) :
    (s.toDest lat d v).tokenF = s.tokenF := by
  simp only [State.toDest]; split <;> [rfl; (split <;> rfl)]
@[simp] theorem toDest_fnmode (s : State) (lat : Nat) (d : BitVec 5) (v : W64) :
    (s.toDest lat d v).fnmode = s.fnmode := by
  simp only [State.toDest]; split <;> [rfl; (split <;> rfl)]
@[simp] theorem toDest_fnmodeNext (s : State) (lat : Nat) (d : BitVec 5) (v : W64) :
    (s.toDest lat d v).fnmodeNext = s.fnmodeNext := by
  simp only [State.toDest]; split <;> [rfl; (split <;> rfl)]
@[simp] theorem toDest_hkbase (s : State) (lat : Nat) (d : BitVec 5) (v : W64) :
    (s.toDest lat d v).hkbase = s.hkbase := by
  simp only [State.toDest]; split <;> [rfl; (split <;> rfl)]
@[simp] theorem toDest_hkw (s : State) (lat : Nat) (d : BitVec 5) (v : W64) : (s.toDest lat d v).hkw = s.hkw := by
  simp only [State.toDest]; split <;> [rfl; (split <;> rfl)]
@[simp] theorem toDest_hkr (s : State) (lat : Nat) (d : BitVec 5) (v : W64) : (s.toDest lat d v).hkr = s.hkr := by
  simp only [State.toDest]; split <;> [rfl; (split <;> rfl)]
@[simp] theorem toDest_hkreqs (s : State) (lat : Nat) (d : BitVec 5) (v : W64) :
    (s.toDest lat d v).hkreqs = s.hkreqs := by
  simp only [State.toDest]; split <;> [rfl; (split <;> rfl)]
@[simp] theorem toDest_pkg (s : State) (lat : Nat) (d : BitVec 5) (v : W64) : (s.toDest lat d v).pkg = s.pkg := by
  simp only [State.toDest]; split <;> [rfl; (split <;> rfl)]
@[simp] theorem toDest_aligned (s : State) (lat : Nat) (d : BitVec 5) (v : W64) :
    (s.toDest lat d v).aligned = s.aligned := by
  simp only [State.toDest]; split <;> [rfl; (split <;> rfl)]
@[simp] theorem toDest_signatures (s : State) (lat : Nat) (d : BitVec 5) (v : W64) :
    (s.toDest lat d v).signatures = s.signatures := by
  simp only [State.toDest]; split <;> [rfl; (split <;> rfl)]
@[simp] theorem toDest_nonce (s : State) (lat : Nat) (d : BitVec 5) (v : W64) :
    (s.toDest lat d v).nonce = s.nonce := by
  simp only [State.toDest]; split <;> [rfl; (split <;> rfl)]
@[simp] theorem toDest_env (s : State) (lat : Nat) (d : BitVec 5) (v : W64) : (s.toDest lat d v).env = s.env := by
  simp only [State.toDest]; split <;> [rfl; (split <;> rfl)]
@[simp] theorem toDest_agenda (s : State) (lat : Nat) (d : BitVec 5) (v : W64) :
    (s.toDest lat d v).agenda = s.agenda := by
  simp only [State.toDest]; split <;> [rfl; (split <;> rfl)]
@[simp] theorem toDest_cur (s : State) (lat : Nat) (d : BitVec 5) (v : W64) : (s.toDest lat d v).cur = s.cur := by
  simp only [State.toDest]; split <;> [rfl; (split <;> rfl)]
@[simp] theorem toDest_who (s : State) (lat : Nat) (d : BitVec 5) (v : W64) : (s.toDest lat d v).who = s.who := by
  simp only [State.toDest]; split <;> [rfl; (split <;> rfl)]
@[simp] theorem writeMem_tick (s : State) (pa : Nat) (bs : List Byte) : (s.writeMem pa bs).tick = s.tick := rfl
@[simp] theorem writeMem_stacks (s : State) (pa : Nat) (bs : List Byte) : (s.writeMem pa bs).stks = s.stks := rfl
@[simp] theorem writeMem_pillars (s : State) (pa : Nat) (bs : List Byte) :
    (s.writeMem pa bs).pillars = s.pillars := rfl
@[simp] theorem writeMem_launches (s : State) (pa : Nat) (bs : List Byte) :
    (s.writeMem pa bs).launches = s.launches := rfl
@[simp] theorem writeMem_nextLaunch (s : State) (pa : Nat) (bs : List Byte) :
    (s.writeMem pa bs).nextLaunch = s.nextLaunch := rfl
@[simp] theorem writeMem_away (s : State) (pa : Nat) (bs : List Byte) : (s.writeMem pa bs).away = s.away := rfl
@[simp] theorem writeMem_posts (s : State) (pa : Nat) (bs : List Byte) : (s.writeMem pa bs).posts = s.posts := rfl
@[simp] theorem writeMem_credits (s : State) (pa : Nat) (bs : List Byte) :
    (s.writeMem pa bs).credits = s.credits := rfl
@[simp] theorem writeMem_selfRefresh (s : State) (pa : Nat) (bs : List Byte) :
    (s.writeMem pa bs).selfRefresh = s.selfRefresh := rfl
@[simp] theorem writeMem_standing (s : State) (pa : Nat) (bs : List Byte) :
    (s.writeMem pa bs).standing = s.standing := rfl
@[simp] theorem writeMem_pkgbud (s : State) (pa : Nat) (bs : List Byte) : (s.writeMem pa bs).pkgbud = s.pkgbud := rfl
@[simp] theorem writeMem_pkgbudDue (s : State) (pa : Nat) (bs : List Byte) :
    (s.writeMem pa bs).pkgbudDue = s.pkgbudDue := rfl
@[simp] theorem writeMem_tokenAt (s : State) (pa : Nat) (bs : List Byte) :
    (s.writeMem pa bs).tokenAt = s.tokenAt := rfl
@[simp] theorem writeMem_tokenF (s : State) (pa : Nat) (bs : List Byte) : (s.writeMem pa bs).tokenF = s.tokenF := rfl
@[simp] theorem writeMem_fnmode (s : State) (pa : Nat) (bs : List Byte) : (s.writeMem pa bs).fnmode = s.fnmode := rfl
@[simp] theorem writeMem_fnmodeNext (s : State) (pa : Nat) (bs : List Byte) :
    (s.writeMem pa bs).fnmodeNext = s.fnmodeNext := rfl
@[simp] theorem writeMem_hkbase (s : State) (pa : Nat) (bs : List Byte) : (s.writeMem pa bs).hkbase = s.hkbase := rfl
@[simp] theorem writeMem_hkw (s : State) (pa : Nat) (bs : List Byte) : (s.writeMem pa bs).hkw = s.hkw := rfl
@[simp] theorem writeMem_hkr (s : State) (pa : Nat) (bs : List Byte) : (s.writeMem pa bs).hkr = s.hkr := rfl
@[simp] theorem writeMem_hkreqs (s : State) (pa : Nat) (bs : List Byte) : (s.writeMem pa bs).hkreqs = s.hkreqs := rfl
@[simp] theorem writeMem_pkg (s : State) (pa : Nat) (bs : List Byte) : (s.writeMem pa bs).pkg = s.pkg := rfl
@[simp] theorem writeMem_aligned (s : State) (pa : Nat) (bs : List Byte) :
    (s.writeMem pa bs).aligned = s.aligned := rfl
@[simp] theorem writeMem_signatures (s : State) (pa : Nat) (bs : List Byte) :
    (s.writeMem pa bs).signatures = s.signatures := rfl
@[simp] theorem writeMem_nonce (s : State) (pa : Nat) (bs : List Byte) : (s.writeMem pa bs).nonce = s.nonce := rfl
@[simp] theorem writeMem_env (s : State) (pa : Nat) (bs : List Byte) : (s.writeMem pa bs).env = s.env := rfl
@[simp] theorem writeMem_agenda (s : State) (pa : Nat) (bs : List Byte) : (s.writeMem pa bs).agenda = s.agenda := rfl
@[simp] theorem writeMem_cur (s : State) (pa : Nat) (bs : List Byte) : (s.writeMem pa bs).cur = s.cur := rfl
@[simp] theorem writeMem_who (s : State) (pa : Nat) (bs : List Byte) : (s.writeMem pa bs).who = s.who := rfl
@[simp] theorem poisonMem_tick (s : State) (pa : Nat) : (s.poisonMem pa).tick = s.tick := rfl
@[simp] theorem poisonMem_mem (s : State) (pa : Nat) : (s.poisonMem pa).mem = s.mem := rfl
@[simp] theorem poisonMem_stacks (s : State) (pa : Nat) : (s.poisonMem pa).stks = s.stks := rfl
@[simp] theorem poisonMem_pillars (s : State) (pa : Nat) : (s.poisonMem pa).pillars = s.pillars := rfl
@[simp] theorem poisonMem_launches (s : State) (pa : Nat) : (s.poisonMem pa).launches = s.launches := rfl
@[simp] theorem poisonMem_nextLaunch (s : State) (pa : Nat) : (s.poisonMem pa).nextLaunch = s.nextLaunch := rfl
@[simp] theorem poisonMem_away (s : State) (pa : Nat) : (s.poisonMem pa).away = s.away := rfl
@[simp] theorem poisonMem_posts (s : State) (pa : Nat) : (s.poisonMem pa).posts = s.posts := rfl
@[simp] theorem poisonMem_credits (s : State) (pa : Nat) : (s.poisonMem pa).credits = s.credits := rfl
@[simp] theorem poisonMem_selfRefresh (s : State) (pa : Nat) : (s.poisonMem pa).selfRefresh = s.selfRefresh := rfl
@[simp] theorem poisonMem_standing (s : State) (pa : Nat) : (s.poisonMem pa).standing = s.standing := rfl
@[simp] theorem poisonMem_pkgbud (s : State) (pa : Nat) : (s.poisonMem pa).pkgbud = s.pkgbud := rfl
@[simp] theorem poisonMem_pkgbudDue (s : State) (pa : Nat) : (s.poisonMem pa).pkgbudDue = s.pkgbudDue := rfl
@[simp] theorem poisonMem_tokenAt (s : State) (pa : Nat) : (s.poisonMem pa).tokenAt = s.tokenAt := rfl
@[simp] theorem poisonMem_tokenF (s : State) (pa : Nat) : (s.poisonMem pa).tokenF = s.tokenF := rfl
@[simp] theorem poisonMem_fnmode (s : State) (pa : Nat) : (s.poisonMem pa).fnmode = s.fnmode := rfl
@[simp] theorem poisonMem_fnmodeNext (s : State) (pa : Nat) : (s.poisonMem pa).fnmodeNext = s.fnmodeNext := rfl
@[simp] theorem poisonMem_hkbase (s : State) (pa : Nat) : (s.poisonMem pa).hkbase = s.hkbase := rfl
@[simp] theorem poisonMem_hkw (s : State) (pa : Nat) : (s.poisonMem pa).hkw = s.hkw := rfl
@[simp] theorem poisonMem_hkr (s : State) (pa : Nat) : (s.poisonMem pa).hkr = s.hkr := rfl
@[simp] theorem poisonMem_hkreqs (s : State) (pa : Nat) : (s.poisonMem pa).hkreqs = s.hkreqs := rfl
@[simp] theorem poisonMem_pkg (s : State) (pa : Nat) : (s.poisonMem pa).pkg = s.pkg := rfl
@[simp] theorem poisonMem_aligned (s : State) (pa : Nat) : (s.poisonMem pa).aligned = s.aligned := rfl
@[simp] theorem poisonMem_signatures (s : State) (pa : Nat) : (s.poisonMem pa).signatures = s.signatures := rfl
@[simp] theorem poisonMem_nonce (s : State) (pa : Nat) : (s.poisonMem pa).nonce = s.nonce := rfl
@[simp] theorem poisonMem_env (s : State) (pa : Nat) : (s.poisonMem pa).env = s.env := rfl
@[simp] theorem poisonMem_agenda (s : State) (pa : Nat) : (s.poisonMem pa).agenda = s.agenda := rfl
@[simp] theorem poisonMem_cur (s : State) (pa : Nat) : (s.poisonMem pa).cur = s.cur := rfl
@[simp] theorem poisonMem_who (s : State) (pa : Nat) : (s.poisonMem pa).who = s.who := rfl

/-! ### Places -/

@[simp] theorem onPillar_length (s : State) (p : Nat) (f : Pillar → Pillar) :
    (s.onPillar p f).pillars.length = s.pillars.length := upd_length _ _ _

@[simp] theorem onStack_length (s : State) (st : Nat) (f : Stack → Stack) :
    (s.onStack st f).stks.length = s.stks.length := upd_length _ _ _

theorem onPillar_self (s : State) (p : Nat) (f : Pillar → Pillar) (h : p < s.pillars.length) :
    (s.onPillar p f).pillar p = f (s.pillar p) := upd_getD_self _ _ _ _ h

theorem onPillar_ne (s : State) (p p' : Nat) (f : Pillar → Pillar) (h : p' ≠ p) :
    (s.onPillar p f).pillar p' = s.pillar p' := upd_getD_ne _ _ _ _ _ h

theorem onStack_self (s : State) (st : Nat) (f : Stack → Stack) (h : st < s.stks.length) :
    (s.onStack st f).stack st = f (s.stack st) := upd_getD_self _ _ _ _ h

theorem onStack_ne (s : State) (st st' : Nat) (f : Stack → Stack) (h : st' ≠ st) :
    (s.onStack st f).stack st' = s.stack st' := upd_getD_ne _ _ _ _ _ h

@[simp] theorem onStack_pillar (s : State) (st : Nat) (f : Stack → Stack) (p : Nat) :
    (s.onStack st f).pillar p = s.pillar p := rfl

@[simp] theorem onPillar_stack (s : State) (p : Nat) (f : Pillar → Pillar) (st : Nat) :
    (s.onPillar p f).stack st = s.stack st := rfl

@[simp] theorem onSeq_length (s : State) (p q : Nat) (f : Seq → Seq) :
    (s.onSeq p q f).pillars.length = s.pillars.length := upd_length _ _ _

theorem onSeq_pillar_self (s : State) (p q : Nat) (f : Seq → Seq) (h : p < s.pillars.length) :
    (s.onSeq p q f).pillar p = { s.pillar p with seqs := upd (s.pillar p).seqs q f } := onPillar_self _ _ _ h

theorem onSeq_pillar_ne (s : State) (p q p' : Nat) (f : Seq → Seq) (h : p' ≠ p) :
    (s.onSeq p q f).pillar p' = s.pillar p' := onPillar_ne _ _ _ _ h

theorem onSeq_self (s : State) (p q : Nat) (f : Seq → Seq) (h : p < s.pillars.length)
    (k : q < (s.pillar p).seqs.length) : (s.onSeq p q f).seq p q = f (s.seq p q) := by
  simp only [State.seq, onSeq_pillar_self s p q f h]
  exact upd_getD_self _ _ _ _ k

theorem onSeq_other (s : State) (p q p' q' : Nat) (f : Seq → Seq) (h : p' ≠ p ∨ q' ≠ q) :
    (s.onSeq p q f).seq p' q' = s.seq p' q' := by
  by_cases e : p' = p
  · subst e
    by_cases l : p' < s.pillars.length
    · simp only [State.seq, onSeq_pillar_self s p' q f l]
      exact upd_getD_ne _ _ _ _ _ (by simpa using h)
    · rw [State.onSeq, State.onPillar, upd_of_length_le _ _ _ (by omega)]
  · simp only [State.seq, onSeq_pillar_ne s p q p' f e]

/-- The current sequencer after an update of it. -/
theorem onMe_me (s : State) (f : Seq → Seq) (h : s.cur.p < s.pillars.length ∧ s.cur.q < s.mine.seqs.length) :
    (s.onMe f).me = f s.me :=
  onSeq_self s s.cur.p s.cur.q f h.1 h.2

/-- The current pillar after an update of it. -/
theorem onMine_mine (s : State) (f : Pillar → Pillar) (h : s.cur.p < s.pillars.length) :
    (s.onMine f).mine = f s.mine := onPillar_self s s.cur.p f h

end Sys2Proof.Machine
end

