-- ==== Sys2Proof/Laws/Canonical.lean ====
section
/-! SUPPORT. The canonical form of memory and frames, and that each operation that writes either keeps it. -/

namespace Sys2Proof.Machine

/-- Memory and every frame's contents are in canonical form. -/
def State.canonical (s : State) : Prop := s.memWf ∧ s.framesWf

/-- A pillar's frames are in canonical form. -/
def Pillar.framesOk (P : Pillar) : Prop := ∀ F ∈ P.frames, Mem.wf F.data = true

theorem mem_upd {α : Type} {l : List α} {n : Nat} {f : α → α} {x : α} (h : x ∈ upd l n f) :
    x ∈ l ∨ ∃ y ∈ l, x = f y := by
  induction l generalizing n with
  | nil => simp [upd] at h
  | cons a l ih =>
    cases n with
    | zero =>
      rcases List.mem_cons.mp h with h | h
      · exact .inr ⟨a, List.mem_cons_self, h⟩
      · exact .inl (List.mem_cons_of_mem _ h)
    | succ n =>
      rcases List.mem_cons.mp h with h | h
      · exact .inl (h ▸ List.mem_cons_self)
      · rcases ih h with h | ⟨y, hy, e⟩
        · exact .inl (List.mem_cons_of_mem _ h)
        · exact .inr ⟨y, List.mem_cons_of_mem _ hy, e⟩

/-- Only memory and the pillars matter. -/
theorem canonical_of_eq {s t : State} (hm : t.mem = s.mem) (hp : t.pillars = s.pillars) (h : s.canonical) :
    t.canonical := by
  unfold State.canonical State.memWf State.framesWf at h ⊢
  rw [hm, hp]
  exact h

theorem canonical_onPillar {s : State} (p : Nat) (f : Pillar → Pillar) (hf : ∀ P, P.framesOk → (f P).framesOk)
    (h : s.canonical) : (s.onPillar p f).canonical := by
  refine ⟨h.1, fun P hP => ?_⟩
  rcases mem_upd hP with hP | ⟨Q, hQ, rfl⟩
  · exact h.2 P hP
  · exact hf Q (h.2 Q hQ)

theorem canonical_onSeq {s : State} (p q : Nat) (f : Seq → Seq) (h : s.canonical) : (s.onSeq p q f).canonical :=
  canonical_onPillar p _ (fun _ hP => hP) h

theorem canonical_onMe {s : State} (f : Seq → Seq) (h : s.canonical) : (s.onMe f).canonical := canonical_onSeq _ _ f h

theorem canonical_onStack {s : State} (st : Nat) (f : Stack → Stack) (h : s.canonical) :
    (s.onStack st f).canonical := h

theorem canonical_wake {s : State} (p : Nat) (h : s.canonical) : (s.wake p).canonical :=
  canonical_onSeq p 1 _ (canonical_onSeq p 0 _ h)

theorem canonical_setFlag {s : State} (p k : Nat) (v : W32) (h : s.canonical) : (s.setFlag p k v).canonical :=
  canonical_wake p (canonical_onPillar p _ (fun _ hP => hP) h)

theorem canonical_choose {s : State} (h : s.canonical) : s.choose.2.canonical := h

/-- A frame the pillar does not have reads as a cleared one. -/
theorem frame_wf {s : State} (p f : Nat) (h : s.canonical) : Mem.wf (s.frame p f).data = true := by
  unfold State.frame State.pillar
  rw [List.getD_eq_getElem?_getD]
  cases hf : (s.pillars.getD p Pillar.reset).frames[f]? with
  | none => rfl
  | some F =>
    have hF := List.mem_of_getElem? hf
    rw [List.getD_eq_getElem?_getD] at hF
    cases hp : s.pillars[p]? with
    | none =>
      rw [hp] at hF
      have e : F = Frame.cleared := List.eq_of_mem_replicate hF
      subst e
      rfl
    | some P =>
      rw [hp] at hF
      exact h.2 P (List.mem_of_getElem? hp) F hF

theorem canonical_onFrame {s : State} (p f : Nat) (g : Frame → Frame)
    (hg : Mem.wf (s.frame p f).data = true → Mem.wf (g (s.frame p f)).data = true) (h : s.canonical) :
    (s.onFrame p f g).canonical := by
  have k : (s.onPillar p fun P => { P with frames := upd P.frames f fun _ => g (s.frame p f) }).canonical := by
    refine canonical_onPillar p _ (fun P hP F hF => ?_) h
    rcases mem_upd hF with hF | ⟨_, _, rfl⟩
    · exact hP F hF
    · exact hg (frame_wf p f h)
  unfold State.onFrame
  dsimp only
  split
  · exact k
  · exact canonical_wake p k

theorem canonical_writeMem {s : State} (pa : Nat) (bs : List Byte) (h : s.canonical) : (s.writeMem pa bs).canonical :=
  ⟨writeN_wf _ bs h.1, h.2⟩

theorem canonical_zeroArea {s : State} (a n : Nat) (h : s.canonical) : (s.zeroArea a n).canonical :=
  ⟨filter_wf _ h.1, h.2⟩

theorem canonical_poisonMem {s : State} (pa : Nat) (h : s.canonical) : (s.poisonMem pa).canonical := h

theorem canonical_foldl {α : Type} (f : State → α → State) (hf : ∀ s a, s.canonical → (f s a).canonical)
    (l : List α) {s : State} (h : s.canonical) : (l.foldl f s).canonical := by
  induction l generalizing s with
  | nil => exact h
  | cons a l ih => exact ih (hf s a h)

theorem frame_writeN_wf {F : Frame} (off : Nat) (bs : List Byte) (h : Mem.wf F.data = true) :
    Mem.wf (F.writeN off bs).data = true := writeN_wf off bs h

theorem argFrame_wf (args : List Byte) (marks : List Nat) (count : BitVec 48) :
    Mem.wf (argFrame args marks count).data = true :=
  writeN_wf 0 args rfl

theorem canonical_clearFrame {s : State} (p f : Nat) (h : s.canonical) : (s.clearFrame p f).canonical :=
  canonical_onPillar (s := s.onFrame p f fun _ => Frame.cleared) p _ (fun _ hP => hP)
    (canonical_onFrame p f _ (fun _ => rfl) h)

theorem canonical_frameStore {s : State} (f off : Nat) (bs : List Byte) (h : s.canonical) :
    (s.frameStore f off bs).canonical :=
  canonical_onFrame _ f _ (frame_writeN_wf off bs) h

theorem canonical_result {s : State} (lat : Nat) (x : Payload) (h : s.canonical) : (s.result lat x).canonical :=
  canonical_onMe _ h

end Sys2Proof.Machine
end

