-- ==== Sys2Proof/Laws/Ops.lean ====
section
/-! SUPPORT. What the shared operations can do: a syllable under its guard, the message pop, results put in flight and
landing, traps and returns. -/

namespace Sys2Proof.Machine

/-- An enabled syllable has its effect in the state its sources are read in. -/
theorem guarded_on (s : State) (g : Guard) (srcs : List (BitVec 5)) (k : State → State) (h : s.enabled g srcs) :
    s.guarded g srcs k = .next (k (s.sourced srcs)) := by
  obtain ⟨hg, hm⟩ := h
  simp only [State.guarded, State.sourced, hg, if_true]
  by_cases c : srcs.contains 31 = true
  · simp only [c, if_true]
    rw [if_neg]
    rcases hm c with h1 | h1
    · cases e : s.cur.mq <;> simp_all
    · simp [h1]
  · simp only [c]
    rfl

/-- A syllable whose guard is off does nothing (R156). -/
theorem guarded_off (s : State) (g : Guard) (srcs : List (BitVec 5)) (k : State → State) (h : s.guardOn g = false) :
    s.guarded g srcs k = .next s := by
  simp [State.guarded, h]

/-- All a syllable under its guard can do: nothing, or its effect in the state its sources are read in. -/
theorem guarded_cases {s t : State} {g : Guard} {srcs : List (BitVec 5)} {k : State → State}
    (h : s.guarded g srcs k = .next t) : t = s ∨ (s.guardOn g = true ∧ t = k (s.sourced srcs)) := by
  simp only [State.guarded, State.sourced] at *
  split at h
  · split at h
    · split at h
      · exact .inl (by injection h with h; exact h.symm)
      · exact .inr ⟨‹_›, by injection h with h; rw [if_pos ‹_›]; exact h.symm⟩
    · exact .inr ⟨‹_›, by injection h with h; rw [if_neg ‹_›]; exact h.symm⟩
  · exact .inl (by injection h with h; exact h.symm)

/-- It never stops. -/
theorem guarded_next (s : State) (g : Guard) (srcs : List (BitVec 5)) (k : State → State) :
    ∃ t, s.guarded g srcs k = .next t := by
  simp only [State.guarded]
  split
  · split
    · split <;> exact ⟨_, rfl⟩
    · exact ⟨_, rfl⟩
  · exact ⟨_, rfl⟩

@[simp] theorem enabled_nil (s : State) (g : Guard) : s.enabled g [] ↔ s.guardOn g = true := by
  simp [State.enabled]

@[simp] theorem sourced_nil (s : State) : s.sourced [] = s := rfl

/-! ### The message pop -/

/-- All the pop can do: nothing, or the oldest entry out of the queue, its credit on the way. -/
theorem popMq_cases (s : State) : s.popMq = s ∨ ∃ v st rest, s.mine.mq = (v, st) :: rest ∧ s.cur.mq = none ∧
    s.popMq = { s.onMine (fun P => { P with mq := rest }) with
      credits := s.credits ++ [(s.cur.p, st, s.tick + 200)]
      cur := { s.cur with mq := some v } } := by
  simp only [State.popMq]
  split
  · exact .inr ⟨_, _, _, by assumption, by assumption, rfl⟩
  · exact .inl rfl

theorem sourced_cases (s : State) (srcs : List (BitVec 5)) : s.sourced srcs = s ∨ s.sourced srcs = s.popMq := by
  simp only [State.sourced]
  split
  · exact .inr rfl
  · exact .inl rfl

theorem popMq_mem (s : State) : s.popMq.mem = s.mem := by
  rcases popMq_cases s with h | ⟨_, _, _, _, _, h⟩ <;> rw [h] <;> rfl

theorem popMq_tick (s : State) : s.popMq.tick = s.tick := by
  rcases popMq_cases s with h | ⟨_, _, _, _, _, h⟩ <;> rw [h] <;> rfl

theorem popMq_cur_p (s : State) : s.popMq.cur.p = s.cur.p := by
  rcases popMq_cases s with h | ⟨_, _, _, _, _, h⟩ <;> rw [h]

theorem popMq_cur_q (s : State) : s.popMq.cur.q = s.cur.q := by
  rcases popMq_cases s with h | ⟨_, _, _, _, _, h⟩ <;> rw [h]

theorem popMq_stacks (s : State) : s.popMq.stks = s.stks := by
  rcases popMq_cases s with h | ⟨_, _, _, _, _, h⟩ <;> rw [h] <;> rfl

theorem popMq_length (s : State) : s.popMq.pillars.length = s.pillars.length := by
  rcases popMq_cases s with h | ⟨_, _, _, _, _, h⟩ <;> rw [h]
  exact upd_length _ _ _

/-- The pop leaves every sequencer as it was. -/
theorem popMq_seq (s : State) (p q : Nat) : s.popMq.seq p q = s.seq p q := by
  rcases popMq_cases s with h | ⟨v, st, rest, _, _, h⟩
  · rw [h]
  · rw [h]
    by_cases e : p = s.cur.p
    · subst e
      by_cases l : s.cur.p < s.pillars.length
      · have := onPillar_self s s.cur.p (fun P => { P with mq := rest }) l
        simp only [State.seq, State.pillar] at *
        rw [show ({ s.onMine (fun P => { P with mq := rest }) with
            credits := s.credits ++ [(s.cur.p, st, s.tick + 200)]
            cur := { s.cur with mq := some v } } : State).pillars = (s.onPillar s.cur.p fun P => { P with mq := rest }).pillars
          from rfl, this]
      · simp only [State.seq, State.pillar, State.onMine, State.onPillar]
        rw [upd_of_length_le _ _ _ (by omega)]
    · have := onPillar_ne s s.cur.p p (fun P => { P with mq := rest }) e
      simp only [State.seq, State.pillar] at *
      rw [show ({ s.onMine (fun P => { P with mq := rest }) with
          credits := s.credits ++ [(s.cur.p, st, s.tick + 200)]
          cur := { s.cur with mq := some v } } : State).pillars = (s.onPillar s.cur.p fun P => { P with mq := rest }).pillars
        from rfl, this]

theorem popMq_me (s : State) : s.popMq.me = s.me := by
  simp only [State.me, popMq_cur_p, popMq_cur_q, popMq_seq]

@[simp] theorem sourced_me (s : State) (srcs : List (BitVec 5)) : (s.sourced srcs).me = s.me := by
  rcases sourced_cases s srcs with h | h <;> rw [h]
  exact popMq_me s

@[simp] theorem sourced_mem (s : State) (srcs : List (BitVec 5)) : (s.sourced srcs).mem = s.mem := by
  rcases sourced_cases s srcs with h | h <;> rw [h]
  exact popMq_mem s

@[simp] theorem sourced_tick (s : State) (srcs : List (BitVec 5)) : (s.sourced srcs).tick = s.tick := by
  rcases sourced_cases s srcs with h | h <;> rw [h]
  exact popMq_tick s

@[simp] theorem sourced_stacks (s : State) (srcs : List (BitVec 5)) : (s.sourced srcs).stks = s.stks := by
  rcases sourced_cases s srcs with h | h <;> rw [h]
  exact popMq_stacks s

@[simp] theorem sourced_cur_p (s : State) (srcs : List (BitVec 5)) : (s.sourced srcs).cur.p = s.cur.p := by
  rcases sourced_cases s srcs with h | h <;> rw [h]
  exact popMq_cur_p s

@[simp] theorem sourced_cur_q (s : State) (srcs : List (BitVec 5)) : (s.sourced srcs).cur.q = s.cur.q := by
  rcases sourced_cases s srcs with h | h <;> rw [h]
  exact popMq_cur_q s

/-! ### Results in flight -/

/-- What a result adds to its sequencer, and nothing else of it. -/
theorem result_me (s : State) (lat : Nat) (x : Payload) (h : s.placed) :
    (s.result lat x).me = { s.me with
      inflight := s.me.inflight ++ [⟨s.mine.ic + lat, s.cur.slot, s.me.order, x⟩] } := onMe_me s _ h

theorem toDest_push (s : State) (lat : Nat) (v : W64) : s.toDest lat 0 v = s.result lat (.push v) := rfl

theorem toDest_s0 (s : State) (lat : Nat) (v : W64) : s.toDest lat 16 v = s := rfl

theorem toDest_named (s : State) (lat : Nat) (d : BitVec 5) (v : W64) (h : 17 ≤ d.toNat) :
    s.toDest lat d v = s.result lat (.named (d.toNat - 16) v) := by
  simp only [State.toDest]
  rw [if_neg (by intro e; subst e; simp at h), if_neg (by omega)]

end Sys2Proof.Machine
end

