-- ==== Sys2Proof/Laws/Effect.lean ====
section
/-! SUPPORT. What the shared operations of the register syllables do, said once: a result goes in flight, a latch or a
crossing position moves, and nothing else of the machine changes. -/

namespace Sys2Proof.Machine

/-- A state that differs only in results in flight from the current slot, in CSR changes noted, hold latches and
crossing positions, and in the message popped. -/
def State.adds (s t : State) : Prop :=
  t.cur.p = s.cur.p ∧ t.cur.q = s.cur.q ∧ t.cur.slot = s.cur.slot ∧ s.sameOutside t ∧ s.samePillar t ∧
    t.me.settled = s.me.settled ∧ ∃ new, t.me.inflight = s.me.inflight ++ new ∧ ∀ l ∈ new,
      l.slot = s.cur.slot ∧ l.order = s.me.order ∧ s.mine.ic < l.land

theorem sameOutside_refl (s : State) : s.sameOutside s :=
  ⟨rfl, rfl, rfl, rfl, rfl, rfl, rfl, rfl, rfl, rfl, rfl, fun _ _ => rfl⟩

theorem adds_refl (s : State) : s.adds s :=
  ⟨rfl, rfl, rfl, sameOutside_refl s, ⟨rfl, fun _ _ => rfl⟩, rfl, [], by simp, by simp⟩

theorem settled_order {x y : Seq} (h : x.settled = y.settled) : x.order = y.order :=
  show x.settled.order = y.settled.order by rw [h]

theorem shared_ic {P Q : Pillar} (h : P.shared = Q.shared) : P.ic = Q.ic :=
  show P.shared.ic = Q.shared.ic by rw [h]

theorem adds_trans {s t u : State} (a : s.adds t) (b : t.adds u) : s.adds u := by
  obtain ⟨a1, a2, a3, ⟨m1, m2, m3, m4, m5, m6, m7, m8, m9, ma, mb, mc⟩, ⟨p1, p2⟩, e, n1, i1, o1⟩ := a
  obtain ⟨b1, b2, b3, ⟨k1, k2, k3, k4, k5, k6, k7, k8, k9, ka, kb, kc⟩, ⟨q1, q2⟩, f, n2, i2, o2⟩ := b
  refine ⟨b1.trans a1, b2.trans a2, b3.trans a3, ⟨k1.trans m1, k2.trans m2, k3.trans m3, k4.trans m4, k5.trans m5,
    k6.trans m6, k7.trans m7, k8.trans m8, k9.trans m9, ka.trans ma, kb.trans mb,
    fun p h => (kc p (a1 ▸ h)).trans (mc p h)⟩, ⟨q1.trans p1, fun q h => ?_⟩, f.trans e, n1 ++ n2, by rw [i2, i1]; simp, ?_⟩
  · rw [← p2 q h, ← a1]
    exact q2 q (a2 ▸ h)
  · intro l hl
    rcases List.mem_append.mp hl with h | h
    · exact o1 l h
    · obtain ⟨x, y, z⟩ := o2 l h
      exact ⟨x.trans a3, y.trans (settled_order e), (shared_ic p1) ▸ z⟩

/-- A change of the current sequencer alone. -/
theorem onMe_outside (s : State) (f : Seq → Seq) : s.sameOutside (s.onMe f) := by
  refine ⟨rfl, rfl, rfl, rfl, rfl, rfl, rfl, rfl, rfl, rfl, upd_length _ _ _, fun p h => ?_⟩
  exact upd_getD_ne _ _ _ _ _ h

theorem onMe_pillar (s : State) (f : Seq → Seq) : s.samePillar (s.onMe f) := by
  constructor
  · simp only [State.mine, State.onMe, State.onSeq, State.onPillar, State.pillar]
    by_cases h : s.cur.p < s.pillars.length
    · rw [upd_getD_self _ _ _ _ h]
      rfl
    · rw [upd_of_length_le _ _ _ (by omega)]
  · intro q h
    simp only [State.onMe, State.onSeq, State.onPillar, State.seq, State.pillar]
    by_cases l : s.cur.p < s.pillars.length
    · rw [upd_getD_self _ _ _ _ l]
      exact upd_getD_ne _ _ _ _ _ h
    · rw [upd_of_length_le _ _ _ (by omega)]

theorem onMe_me_cases (s : State) (f : Seq → Seq) : (s.onMe f).me = f s.me ∨ (s.onMe f).me = s.me := by
  simp only [State.me, State.onMe, State.onSeq, State.onPillar, State.seq, State.pillar]
  by_cases l : s.cur.p < s.pillars.length
  · rw [upd_getD_self _ _ _ _ l]
    by_cases k : s.cur.q < (s.pillars.getD s.cur.p Pillar.reset).seqs.length
    · exact .inl (upd_getD_self _ _ _ _ k)
    · right
      rw [upd_of_length_le _ _ _ (by omega)]
  · right
    rw [upd_of_length_le _ _ _ (by omega)]

/-- What a change of the current sequencer that settles to nothing is. -/
theorem onMe_adds (s : State) (f : Seq → Seq) (hs : (f s.me).settled = s.me.settled)
    (hi : ∃ new, (f s.me).inflight = s.me.inflight ++ new ∧ ∀ l ∈ new,
      l.slot = s.cur.slot ∧ l.order = s.me.order ∧ s.mine.ic < l.land) : s.adds (s.onMe f) := by
  refine ⟨rfl, rfl, rfl, onMe_outside s f, onMe_pillar s f, ?_, ?_⟩
  · rcases onMe_me_cases s f with h | h <;> rw [h]
    exact hs
  · rcases onMe_me_cases s f with h | h <;> rw [h]
    · exact hi
    · exact ⟨[], by simp, by simp⟩

/-- A result (R158). -/
theorem result_adds (s : State) (lat : Nat) (x : Payload) (h : 0 < lat) : s.adds (s.result lat x) :=
  onMe_adds s _ rfl ⟨_, rfl, by simp; omega⟩

theorem toDest_adds (s : State) (lat : Nat) (d : BitVec 5) (v : W64) (h : 0 < lat) : s.adds (s.toDest lat d v) := by
  simp only [State.toDest]
  split
  · exact result_adds s _ _ h
  · split
    · exact adds_refl s
    · exact result_adds s _ _ h

theorem toPred_adds (s : State) (lat : Nat) (k : BitVec 4) (b : Bool) (h : 0 < lat) : s.adds (s.toPred lat k b) :=
  result_adds s _ _ h

theorem toVec_adds (s : State) (lat : Nat) (d : BitVec 5) (v : VReg) (m : PReg) (h : 0 < lat) : s.adds (s.toVec lat d v m) :=
  result_adds s _ _ h

theorem keepV_adds (s : State) (h : BitVec 2) (a : BitVec 5) : s.adds (s.keepV h a) :=
  onMe_adds s _ rfl ⟨[], by simp, by simp⟩

theorem keepF_adds (s : State) (h : BitVec 2) (a : BitVec 5) : s.adds (s.keepF h a) :=
  onMe_adds s _ rfl ⟨[], by simp, by simp⟩

theorem stepW_adds (s : State) (wi : BitVec 1) : s.adds (s.stepW wi) := by
  simp only [State.stepW]
  split
  · exact onMe_adds s _ rfl ⟨[], by simp, by simp⟩
  · exact adds_refl s

theorem stepR_adds (s : State) (ri : BitVec 1) : s.adds (s.stepR ri) := by
  simp only [State.stepR]
  split
  · exact onMe_adds s _ rfl ⟨[], by simp, by simp⟩
  · exact adds_refl s

theorem csrNote_adds (s : State) (n : Nat) (c : CsrChange) (v : W64) : s.adds (s.csrNote n c v) :=
  onMe_adds s _ rfl ⟨[], by simp, by simp⟩

/-- A direction row written (R232): its norms, its components, its flag. -/
theorem toDir_adds (s : State) (latD latN : Nat) (d : BitVec 3) (rows : List DirRow) (h : 0 < latD) (k : 0 < latN) :
    s.adds (s.toDir latD latN d rows) := by
  simp only [State.toDir]
  split
  · exact adds_trans (result_adds s _ _ k) (adds_trans (result_adds _ _ _ h) (result_adds _ _ _ h))
  · exact adds_trans (result_adds s _ _ k) (result_adds _ _ _ h)

/-- The pop of the message queue (R93). -/
theorem popMq_adds (s : State) : s.adds s.popMq := by
  rcases popMq_cases s with h | ⟨v, st, rest, h1, h2, h3⟩
  · rw [h]
    exact adds_refl s
  · refine ⟨popMq_cur_p s, popMq_cur_q s, by rw [h3], ?_, ⟨?_, fun q _ => ?_⟩, ?_, [], ?_, by simp⟩
    · rw [h3]
      exact ⟨rfl, rfl, rfl, rfl, rfl, rfl, rfl, rfl, rfl, rfl, upd_length _ _ _, fun p h => upd_getD_ne _ _ _ _ _ h⟩
    · rw [h3]
      simp only [State.mine, State.pillar, State.onMine, State.onPillar]
      by_cases h : s.cur.p < s.pillars.length
      · rw [upd_getD_self _ _ _ _ h]
        rfl
      · rw [upd_of_length_le _ _ _ (by omega)]
    · exact popMq_seq s s.cur.p q
    · rw [popMq_me]
    · rw [popMq_me]
      simp

theorem sourced_adds (s : State) (srcs : List (BitVec 5)) : s.adds (s.sourced srcs) := by
  rcases sourced_cases s srcs with h | h <;> rw [h]
  · exact adds_refl s
  · exact popMq_adds s

/-- A raise is noted in the long word (R328). -/
theorem raise_trap (s : State) (r : Raise) : (s.raise r).cur.trap = some r := rfl

/-- A syllable under its guard whose effect only adds. -/
theorem guarded_adds {s t : State} {g : Guard} {srcs : List (BitVec 5)} {k : State → State}
    (h : s.guarded g srcs k = .next t) (hk : (k (s.sourced srcs)).cur.trap = none → (s.sourced srcs).adds (k (s.sourced srcs)))
    (ht : t.cur.trap = none) : s.adds t := by
  rcases guarded_cases h with rfl | ⟨_, e⟩
  · exact adds_refl _
  · rw [e] at ht ⊢
    exact adds_trans (sourced_adds s srcs) (hk ht)

end Sys2Proof.Machine
end

