-- ==== Sys2Proof/Laws/Encoding.lean ====
section
/-! SUPPORT. Reading the fields of a syllable built from its guard, its opcode and its 20 format bits (R129). -/

namespace Sys2Proof

theorem syllable_bit (g : Guard) (op : BitVec 7) (body : BitVec 20) (i : Nat) (h : i < 20) :
    (syllable g op body).getLsbD i = body.getLsbD i := by
  have e : (syllable g op body).getLsbD i = @BitVec.getLsbD (4 + 1 + 7 + 20) ((g.ps ++ g.pn ++ op) ++ body) i := rfl
  rw [e, BitVec.getLsbD_append]
  simp [h]

/-- The opcode of a syllable. -/
theorem syllable_op (g : Guard) (op : BitVec 7) (body : BitVec 20) :
    (syllable g op body).extractLsb' 20 7 = op := by
  apply BitVec.eq_of_getLsbD_eq
  intro i hi
  have e : (syllable g op body).getLsbD (20 + i) =
    @BitVec.getLsbD (4 + 1 + 7 + 20) ((g.ps ++ g.pn ++ op) ++ body) (20 + i) := rfl
  rw [BitVec.getLsbD_extractLsb', e, BitVec.getLsbD_append, BitVec.getLsbD_append]
  simp [hi]

/-- A field of a syllable is the field of its format bits. -/
theorem syllable_field (g : Guard) (op : BitVec 7) (body : BitVec 20) (lo n : Nat) (h : lo + n ≤ 20) :
    (syllable g op body).extractLsb' lo n = body.extractLsb' lo n := by
  apply BitVec.eq_of_getLsbD_eq
  intro i hi
  rw [BitVec.getLsbD_extractLsb', BitVec.getLsbD_extractLsb', syllable_bit _ _ _ _ (by omega)]

/-- The guard of a syllable. -/
theorem guardOf_syllable (g : Guard) (op : BitVec 7) (body : BitVec 20) : guardOf (syllable g op body) = g := by
  have ps : (syllable g op body).extractLsb' 28 4 = g.ps := by
    apply BitVec.eq_of_getLsbD_eq
    intro i hi
    have e : (syllable g op body).getLsbD (28 + i) =
      @BitVec.getLsbD (4 + 1 + 7 + 20) ((g.ps ++ g.pn ++ op) ++ body) (28 + i) := rfl
    rw [BitVec.getLsbD_extractLsb', e, BitVec.getLsbD_append, BitVec.getLsbD_append, BitVec.getLsbD_append]
    rw [if_neg (by omega), if_neg (by omega), if_neg (by omega)]
    simp only [hi, decide_true, Bool.true_and]
    congr 1
    omega
  have pn : (syllable g op body).extractLsb' 27 1 = g.pn := by
    apply BitVec.eq_of_getLsbD_eq
    intro i hi
    have e : (syllable g op body).getLsbD (27 + i) =
      @BitVec.getLsbD (4 + 1 + 7 + 20) ((g.ps ++ g.pn ++ op) ++ body) (27 + i) := rfl
    rw [BitVec.getLsbD_extractLsb', e, BitVec.getLsbD_append, BitVec.getLsbD_append, BitVec.getLsbD_append]
    rw [if_neg (by omega), if_neg (by omega), if_pos (by omega)]
    simp only [hi, decide_true, Bool.true_and]
    congr 1
    omega
  unfold guardOf
  rw [ps, pn]

/-- A field within the upper part of two joined parts. -/
theorem field_upper {a b n : Nat} (x : BitVec a) (y : BitVec b) (lo k : Nat) (h : b ≤ lo) (z : BitVec n) (hz : n = a + b)
    (e : HEq z (x ++ y)) : z.extractLsb' lo k = x.extractLsb' (lo - b) k := by
  subst hz
  have := eq_of_heq e
  subst this
  apply BitVec.eq_of_getLsbD_eq
  intro i hi
  rw [BitVec.getLsbD_extractLsb', BitVec.getLsbD_extractLsb', BitVec.getLsbD_append, if_neg (by omega)]
  congr 2
  omega

/-- A field within the lower part of two joined parts. -/
theorem field_lower {a b n : Nat} (x : BitVec a) (y : BitVec b) (lo k : Nat) (h : lo + k ≤ b) (z : BitVec n)
    (hz : n = a + b) (e : HEq z (x ++ y)) : z.extractLsb' lo k = y.extractLsb' lo k := by
  subst hz
  have := eq_of_heq e
  subst this
  apply BitVec.eq_of_getLsbD_eq
  intro i hi
  rw [BitVec.getLsbD_extractLsb', BitVec.getLsbD_extractLsb', BitVec.getLsbD_append, if_pos (by omega)]

end Sys2Proof
end

