-- ==== Sys2Proof/Laws/Frames.lean ====
section
/-! SUPPORT. What the frame accesses can do: an access that meets its checks has its effect, one that does not
raises. -/

namespace Sys2Proof.Machine

/-- Poison that raises nothing. -/
theorem poisonAtIssue_none (u : State) (un : Nat) (i : W64) (h : u.poisonQuiet) :
    u.me.poisonAtIssue un i = none := by
  have e : ¬ (((u.me.regions.filter fun g => g.sup == u.me.mode).any fun g => bit g.pol 0) ||
      (u.me.mode && (u.me.regions.filter fun g => g.sup == u.me.mode).isEmpty)) = true := by
    simp only [Bool.or_eq_true, Bool.and_eq_true, List.any_eq_true, List.mem_filter, List.isEmpty_iff,
      List.filter_eq_nil_iff, beq_iff_eq]
    rintro (⟨x, ⟨h1, h2⟩, h3⟩ | ⟨h1, h2⟩)
    · have := h.1 x h1 h2
      exact Bool.false_ne_true (this.symm.trans h3)
    · obtain ⟨r, hr, hs⟩ := h.2 h1
      exact absurd (h2 r hr) (by simp [hs, h1])
  exact if_neg e

/-- An access that meets every check has its effect, in the state a read goes on in. -/
theorem frameAccess_ok (u : State) (f off n al : Nat) (rd : Bool) (k : State → State)
    (hh : (u.myFrame f).holds off n al)
    (hr : rd = true → (u.myFrame f).xp = false ∧ ((u.myFrame f).isPoisoned off n = true → u.poisonQuiet)) :
    u.frameAccess f off n al rd k = k (if rd then u.afterRead f off n else u) := by
  simp only [State.frameAccess, State.myFrame, Frame.holds, State.afterRead] at *
  rw [if_neg (by omega)]
  cases rd
  · simp
  · simp only [Bool.true_and, (hr rfl).1, if_true]
    simp only [Bool.false_eq_true, if_false]
    by_cases c : (u.frame u.cur.p f).isPoisoned off n = true
    · simp only [c, if_true, State.readPoison, poisonAtIssue_none u _ _ ((hr rfl).2 c)]
    · simp only [c]
      rfl

/-- An access outside its frame, or misaligned, raises ADDR. -/
theorem frameAccess_addr (u : State) (f off n al : Nat) (rd : Bool) (k : State → State)
    (hh : ¬ (u.myFrame f).holds off n al) :
    u.frameAccess f off n al rd k = u.raise (cause cAddr (faddr f off)) := by
  simp only [State.frameAccess, State.myFrame, Frame.holds] at *
  rw [if_pos (by omega)]

/-- A read of an expired frame raises STALE. -/
theorem frameAccess_stale (u : State) (f off n al : Nat) (k : State → State)
    (hh : (u.myFrame f).holds off n al) (hx : (u.myFrame f).xp = true) :
    u.frameAccess f off n al true k = u.raise (cause cStale (faddr f off)) := by
  simp only [State.frameAccess, State.myFrame, Frame.holds] at *
  rw [if_neg (by omega)]
  simp [hx]

/-- A scalar access whose address lies in a frame that takes it has its effect. -/
theorem scalarAccess_ok (u : State) (ea : W64) (n : Nat) (rd : Bool) (k : State → Nat → Nat → State)
    (h28 : ea.extractLsb' 28 36 = 0)
    (hh : (u.myFrame (ea.extractLsb' 22 6).toNat).holds (ea.extractLsb' 0 22).toNat n n)
    (hr : rd = true → (u.myFrame (ea.extractLsb' 22 6).toNat).xp = false ∧
      ((u.myFrame (ea.extractLsb' 22 6).toNat).isPoisoned (ea.extractLsb' 0 22).toNat n = true → u.poisonQuiet)) :
    u.scalarAccess ea n rd k =
      k (if rd then u.afterRead (ea.extractLsb' 22 6).toNat (ea.extractLsb' 0 22).toNat n else u)
        (ea.extractLsb' 22 6).toNat (ea.extractLsb' 0 22).toNat := by
  simp only [State.scalarAccess, bits, frameNo, h28]
  rw [if_neg (by simp)]
  rw [frameAccess_ok u _ _ _ _ _ _ hh hr]

/-- A scalar access outside all frames raises ADDR with the address itself. -/
theorem scalarAccess_outside (u : State) (ea : W64) (n : Nat) (rd : Bool) (k : State → Nat → Nat → State)
    (h28 : ea.extractLsb' 28 36 ≠ 0) : u.scalarAccess ea n rd k = u.raise (cause cAddr ea) := by
  have e : bits ea 28 36 ≠ 0 := fun h => h28 (BitVec.eq_of_toNat_eq (by simpa [bits] using h))
  simp only [State.scalarAccess, if_pos e]

/-- A frame address's EINFO as a number (R251). -/
theorem faddr_eq (f off : Nat) : faddr f off = BitVec.ofNat 64 (off % 2 ^ 22 + f % 64 * 2 ^ 22) := by
  simp only [faddr, field, Nat.shiftLeft_eq]
  rw [BitVec.or_comm, ← BitVec.ofNat_or]
  rw [← Nat.shiftLeft_eq, ← Nat.shiftLeft_add_eq_or_of_lt (by simpa using Nat.mod_lt off (by decide : 0 < 2 ^ 22))]
  simp only [Nat.shiftLeft_eq, pow_zero, Nat.mul_one]
  congr 1
  norm_num
  omega

/-- A read that meets poison changes only the current sequencer's `CHKINT`. -/
theorem afterRead_frame (u : State) (f off n p g : Nat) : (u.afterRead f off n).frame p g = u.frame p g := by
  simp only [State.afterRead]
  split
  · simp only [State.frame]
    congr 1
    by_cases e : p = u.cur.p
    · subst e
      by_cases l : u.cur.p < u.pillars.length
      · simp only [State.onMe, State.onSeq, onPillar_self _ _ _ l]
      · simp only [State.pillar, State.onMe, State.onSeq, State.onPillar]
        rw [upd_of_length_le _ _ _ (by omega)]
    · simp only [State.onMe, State.onSeq, onPillar_ne _ _ _ _ e]
  · rfl

end Sys2Proof.Machine
end

