-- ==== Sys2Proof/Laws/PerInstr.lean ====
section
/-! SUPPORT. Per instruction: its fields are well formed exactly when the decoder finds no reason of R149 in them. -/

set_option linter.unusedSimpArgs false

namespace Sys2Proof.Laws.FieldLimits

/-- An instruction is well formed exactly when none of the reasons 2 and 4 to 7 is found in its fields. -/
def Statement (i : Instr) : Prop := i.wf = true ↔ fieldReasons i = []

theorem reasons_iff (n : Nat) (b : Bool) : unlessReason n b = [] ↔ b = true := by
  unfold unlessReason; split <;> simp_all

theorem destReasons_iff (d : BitVec 5) : destReasons d = [] ↔ isDest d = true := by
  unfold destReasons; split <;> simp_all

theorem holdReasons_iff (h : BitVec 2) (a : BitVec 5) : holdReasons h a = [] ↔ holdOk h a = true := by
  unfold holdReasons; split <;> simp_all

theorem dest (d : BitVec 5) : isDest d = true ↔ destReasons d = [] := (destReasons_iff d).symm

theorem hold (h : BitVec 2) (a : BitVec 5) : holdOk h a = true ↔ holdReasons h a = [] := (holdReasons_iff h a).symm

theorem nop (g : Guard) : Statement (.nop g) := ⟨fun _ => rfl, fun _ => rfl⟩

theorem add (g : Guard) (d : BitVec 5) (a : BitVec 5) (b : BitVec 5) : Statement (.add g d a b) := dest d

theorem sub (g : Guard) (d : BitVec 5) (a : BitVec 5) (b : BitVec 5) : Statement (.sub g d a b) := dest d

theorem addi (g : Guard) (d : BitVec 5) (a : BitVec 5) (i : BitVec 10) : Statement (.addi g d a i) := dest d

theorem mul (g : Guard) (d : BitVec 5) (a : BitVec 5) (b : BitVec 5) : Statement (.mul g d a b) := dest d

theorem mulh (g : Guard) (d : BitVec 5) (a : BitVec 5) (b : BitVec 5) : Statement (.mulh g d a b) := dest d

theorem mulhn (g : Guard) (d : BitVec 5) (a : BitVec 5) (b : BitVec 5) : Statement (.mulhn g d a b) := dest d

theorem div (g : Guard) (d : BitVec 5) (a : BitVec 5) (b : BitVec 5) : Statement (.div g d a b) := dest d

theorem divn (g : Guard) (d : BitVec 5) (a : BitVec 5) (b : BitVec 5) : Statement (.divn g d a b) := dest d

theorem rem (g : Guard) (d : BitVec 5) (a : BitVec 5) (b : BitVec 5) : Statement (.rem g d a b) := dest d

theorem remn (g : Guard) (d : BitVec 5) (a : BitVec 5) (b : BitVec 5) : Statement (.remn g d a b) := dest d

theorem andOp (g : Guard) (d : BitVec 5) (a : BitVec 5) (b : BitVec 5) : Statement (.andOp g d a b) := dest d

theorem orOp (g : Guard) (d : BitVec 5) (a : BitVec 5) (b : BitVec 5) : Statement (.orOp g d a b) := dest d

theorem xorOp (g : Guard) (d : BitVec 5) (a : BitVec 5) (b : BitVec 5) : Statement (.xorOp g d a b) := dest d

theorem andi (g : Guard) (d : BitVec 5) (a : BitVec 5) (i : BitVec 10) : Statement (.andi g d a i) := dest d

theorem ori (g : Guard) (d : BitVec 5) (a : BitVec 5) (i : BitVec 10) : Statement (.ori g d a i) := dest d

theorem xori (g : Guard) (d : BitVec 5) (a : BitVec 5) (i : BitVec 10) : Statement (.xori g d a i) := dest d

theorem shl (g : Guard) (d : BitVec 5) (a : BitVec 5) (b : BitVec 5) : Statement (.shl g d a b) := dest d

theorem shr (g : Guard) (d : BitVec 5) (a : BitVec 5) (b : BitVec 5) : Statement (.shr g d a b) := dest d

theorem sar (g : Guard) (d : BitVec 5) (a : BitVec 5) (b : BitVec 5) : Statement (.sar g d a b) := dest d

theorem shli (g : Guard) (d : BitVec 5) (a : BitVec 5) (i : BitVec 6) : Statement (.shli g d a i) := dest d

theorem shri (g : Guard) (d : BitVec 5) (a : BitVec 5) (i : BitVec 6) : Statement (.shri g d a i) := dest d

theorem sari (g : Guard) (d : BitVec 5) (a : BitVec 5) (i : BitVec 6) : Statement (.sari g d a i) := dest d

theorem rotl (g : Guard) (d : BitVec 5) (a : BitVec 5) (b : BitVec 5) : Statement (.rotl g d a b) := dest d

theorem minOp (g : Guard) (d : BitVec 5) (a : BitVec 5) (b : BitVec 5) : Statement (.minOp g d a b) := dest d

theorem maxOp (g : Guard) (d : BitVec 5) (a : BitVec 5) (b : BitVec 5) : Statement (.maxOp g d a b) := dest d

theorem minn (g : Guard) (d : BitVec 5) (a : BitVec 5) (b : BitVec 5) : Statement (.minn g d a b) := dest d

theorem maxn (g : Guard) (d : BitVec 5) (a : BitVec 5) (b : BitVec 5) : Statement (.maxn g d a b) := dest d

theorem cmpeq (g : Guard) (k : BitVec 4) (a : BitVec 5) (b : BitVec 5) :
    Statement (.cmpeq g k a b) := (reasons_iff _ _).symm

theorem cmpne (g : Guard) (k : BitVec 4) (a : BitVec 5) (b : BitVec 5) :
    Statement (.cmpne g k a b) := (reasons_iff _ _).symm

theorem cmplt (g : Guard) (k : BitVec 4) (a : BitVec 5) (b : BitVec 5) :
    Statement (.cmplt g k a b) := (reasons_iff _ _).symm

theorem cmple (g : Guard) (k : BitVec 4) (a : BitVec 5) (b : BitVec 5) :
    Statement (.cmple g k a b) := (reasons_iff _ _).symm

theorem cmpltn (g : Guard) (k : BitVec 4) (a : BitVec 5) (b : BitVec 5) :
    Statement (.cmpltn g k a b) := (reasons_iff _ _).symm

theorem cmplen (g : Guard) (k : BitVec 4) (a : BitVec 5) (b : BitVec 5) :
    Statement (.cmplen g k a b) := (reasons_iff _ _).symm

theorem cmpeqi (g : Guard) (k : BitVec 4) (a : BitVec 5) (i : BitVec 10) :
    Statement (.cmpeqi g k a i) := (reasons_iff _ _).symm

theorem cmplti (g : Guard) (k : BitVec 4) (a : BitVec 5) (i : BitVec 10) :
    Statement (.cmplti g k a i) := (reasons_iff _ _).symm

theorem sel (g : Guard) (d : BitVec 5) (a : BitVec 5) (b : BitVec 5) (k : BitVec 4) :
    Statement (.sel g d a b k) := dest d

theorem bfx (g : Guard) (d : BitVec 5) (a : BitVec 5) (b : BitVec 5) : Statement (.bfx g d a b) := dest d

theorem bfxs (g : Guard) (d : BitVec 5) (a : BitVec 5) (b : BitVec 5) : Statement (.bfxs g d a b) := dest d

theorem bfi (g : Guard) (d : BitVec 5) (a : BitVec 5) (b : BitVec 5) (m : BitVec 5) :
    Statement (.bfi g d a b m) := dest d

theorem clz (g : Guard) (d : BitVec 5) (a : BitVec 5) : Statement (.clz g d a) := dest d

theorem ctz (g : Guard) (d : BitVec 5) (a : BitVec 5) : Statement (.ctz g d a) := dest d

theorem popc (g : Guard) (d : BitVec 5) (a : BitVec 5) : Statement (.popc g d a) := dest d

theorem bswap (g : Guard) (d : BitVec 5) (a : BitVec 5) : Statement (.bswap g d a) := dest d

theorem li (g : Guard) (d : BitVec 5) (i : BitVec 15) : Statement (.li g d i) := dest d

theorem lih (g : Guard) (d : BitVec 5) (a : BitVec 5) (i : BitVec 10) : Statement (.lih g d a i) := dest d

theorem mov (g : Guard) (d : BitVec 5) (a : BitVec 5) : Statement (.mov g d a) := dest d

theorem addx (g : Guard) (d : BitVec 5) (a : BitVec 5) (b : BitVec 5) (s : BitVec 3) :
    Statement (.addx g d a b s) := dest d

theorem cand (g : Guard) (k : BitVec 4) (x : BitVec 4) (y : BitVec 4) :
    Statement (.cand g k x y) := (reasons_iff _ _).symm

theorem cor (g : Guard) (k : BitVec 4) (x : BitVec 4) (y : BitVec 4) :
    Statement (.cor g k x y) := (reasons_iff _ _).symm

theorem cxor (g : Guard) (k : BitVec 4) (x : BitVec 4) (y : BitVec 4) :
    Statement (.cxor g k x y) := (reasons_iff _ _).symm

theorem cnot (g : Guard) (k : BitVec 4) (x : BitVec 4) : Statement (.cnot g k x) := (reasons_iff _ _).symm

theorem time (g : Guard) (d : BitVec 5) : Statement (.time g d) := dest d

theorem cyc (g : Guard) (d : BitVec 5) : Statement (.cyc g d) := dest d

theorem csrr (g : Guard) (d : BitVec 5) (s : BitVec 10) : Statement (.csrr g d s) := by
  show (isDest d && csrAssigned s : Bool) = true ↔
    destReasons d ++ unlessReason 7 (csrAssigned s) = []
  simp only [List.append_eq_nil_iff, destReasons_iff, holdReasons_iff, reasons_iff, Bool.and_eq_true, and_assoc, and_comm,
    and_left_comm]

theorem csrw (g : Guard) (d : BitVec 5) (a : BitVec 5) (s : BitVec 10) : Statement (.csrw g d a s) := by
  show (isDest d && csrAssigned s : Bool) = true ↔
    destReasons d ++ unlessReason 7 (csrAssigned s) = []
  simp only [List.append_eq_nil_iff, destReasons_iff, holdReasons_iff, reasons_iff, Bool.and_eq_true, and_assoc, and_comm,
    and_left_comm]

theorem csrs (g : Guard) (d : BitVec 5) (a : BitVec 5) (s : BitVec 10) : Statement (.csrs g d a s) := by
  show (isDest d && csrAssigned s : Bool) = true ↔
    destReasons d ++ unlessReason 7 (csrAssigned s) = []
  simp only [List.append_eq_nil_iff, destReasons_iff, holdReasons_iff, reasons_iff, Bool.and_eq_true, and_assoc, and_comm,
    and_left_comm]

theorem csrc (g : Guard) (d : BitVec 5) (a : BitVec 5) (s : BitVec 10) : Statement (.csrc g d a s) := by
  show (isDest d && csrAssigned s : Bool) = true ↔
    destReasons d ++ unlessReason 7 (csrAssigned s) = []
  simp only [List.append_eq_nil_iff, destReasons_iff, holdReasons_iff, reasons_iff, Bool.and_eq_true, and_assoc, and_comm,
    and_left_comm]

theorem fadr (g : Guard) (d : BitVec 5) (a : BitVec 5) (f : BitVec 6) : Statement (.fadr g d a f) := dest d

theorem br (g : Guard) (i : BitVec 20) : Statement (.br g i) := ⟨fun _ => rfl, fun _ => rfl⟩

theorem bri (g : Guard) (a : BitVec 5) : Statement (.bri g a) := ⟨fun _ => rfl, fun _ => rfl⟩

theorem call (g : Guard) (i : BitVec 20) : Statement (.call g i) := ⟨fun _ => rfl, fun _ => rfl⟩

theorem calli (g : Guard) (d : BitVec 5) (a : BitVec 5) : Statement (.calli g d a) := dest d

theorem loop (g : Guard) (a : BitVec 5) (r : BitVec 1) (e : BitVec 9) :
    Statement (.loop g a r e) := (reasons_iff _ _).symm

theorem loopi (g : Guard) (k : BitVec 10) (r : BitVec 1) (e : BitVec 9) :
    Statement (.loopi g k r e) := (reasons_iff _ _).symm

theorem lbreak (g : Guard) : Statement (.lbreak g) := ⟨fun _ => rfl, fun _ => rfl⟩

theorem lidx (g : Guard) (d : BitVec 5) (l : BitVec 3) : Statement (.lidx g d l) := by
  show (isDest d && l.toNat ≤ 5 : Bool) = true ↔
    destReasons d ++ unlessReason 6 (l.toNat ≤ 5) = []
  simp only [List.append_eq_nil_iff, destReasons_iff, holdReasons_iff, reasons_iff, Bool.and_eq_true, and_assoc, and_comm,
    and_left_comm]

theorem trap (g : Guard) (i : BitVec 15) : Statement (.trap g i) := ⟨fun _ => rfl, fun _ => rfl⟩

theorem syscall (g : Guard) (i : BitVec 15) : Statement (.syscall g i) := ⟨fun _ => rfl, fun _ => rfl⟩

theorem eret (g : Guard) : Statement (.eret g) := ⟨fun _ => rfl, fun _ => rfl⟩

theorem bkpt (g : Guard) : Statement (.bkpt g) := ⟨fun _ => rfl, fun _ => rfl⟩

theorem done (g : Guard) : Statement (.done g) := ⟨fun _ => rfl, fun _ => rfl⟩

theorem pmark (g : Guard) : Statement (.pmark g) := ⟨fun _ => rfl, fun _ => rfl⟩

theorem cropen (g : Guard) (a : BitVec 5) (o : BitVec 2) : Statement (.cropen g a o) := ⟨fun _ => rfl, fun _ => rfl⟩

theorem crclose (g : Guard) : Statement (.crclose g) := ⟨fun _ => rfl, fun _ => rfl⟩

theorem chkerr (g : Guard) : Statement (.chkerr g) := ⟨fun _ => rfl, fun _ => rfl⟩

theorem waitev (g : Guard) (a : BitVec 5) : Statement (.waitev g a) := ⟨fun _ => rfl, fun _ => rfl⟩

theorem fencei (g : Guard) : Statement (.fencei g) := ⟨fun _ => rfl, fun _ => rfl⟩

theorem halt (g : Guard) : Statement (.halt g) := ⟨fun _ => rfl, fun _ => rfl⟩

theorem ld (g : Guard) (d : BitVec 5) (a : BitVec 5) (w : BitVec 3) (s : BitVec 1) (t : BitVec 1) (i : BitVec 5) :
    Statement (.ld g d a w s t i) := by
  show (isDest d && w.toNat ≤ 4 && postIncOk t a && quadOk w d && !(s = 1 && (w = 3 || w = 4)) : Bool) = true ↔
    unlessReason 2 (!(s = 1 && (w = 3 || w = 4))) ++ destReasons d ++ unlessReason 6 (w.toNat ≤ 4 && postIncOk t a && quadOk w d) = []
  simp only [List.append_eq_nil_iff, destReasons_iff, holdReasons_iff, reasons_iff, Bool.and_eq_true, and_assoc, and_comm,
    and_left_comm]

theorem st (g : Guard) (d : BitVec 5) (a : BitVec 5) (w : BitVec 3) (t : BitVec 1) (i : BitVec 5) :
    Statement (.st g d a w t i) := by
  show (d ≠ 31 && w.toNat ≤ 4 && postIncOk t a && quadOk w d : Bool) = true ↔
    unlessReason 4 (d ≠ 31) ++ unlessReason 6 (w.toNat ≤ 4 && postIncOk t a && quadOk w d) = []
  simp only [List.append_eq_nil_iff, destReasons_iff, holdReasons_iff, reasons_iff, Bool.and_eq_true, and_assoc, and_comm,
    and_left_comm]

theorem ldaq (g : Guard) (d : BitVec 5) (a : BitVec 5) (w : BitVec 3) (s : BitVec 1) (t : BitVec 1) (i : BitVec 5) :
    Statement (.ldaq g d a w s t i) := by
  show (isDest d && w.toNat ≤ 4 && postIncOk t a && quadOk w d && !(s = 1 && (w = 3 || w = 4)) : Bool) = true ↔
    unlessReason 2 (!(s = 1 && (w = 3 || w = 4))) ++ destReasons d ++ unlessReason 6 (w.toNat ≤ 4 && postIncOk t a && quadOk w d) = []
  simp only [List.append_eq_nil_iff, destReasons_iff, holdReasons_iff, reasons_iff, Bool.and_eq_true, and_assoc, and_comm,
    and_left_comm]

theorem strl (g : Guard) (d : BitVec 5) (a : BitVec 5) (w : BitVec 3) (t : BitVec 1) (i : BitVec 5) :
    Statement (.strl g d a w t i) := by
  show (d ≠ 31 && w.toNat ≤ 4 && postIncOk t a && quadOk w d : Bool) = true ↔
    unlessReason 4 (d ≠ 31) ++ unlessReason 6 (w.toNat ≤ 4 && postIncOk t a && quadOk w d) = []
  simp only [List.append_eq_nil_iff, destReasons_iff, holdReasons_iff, reasons_iff, Bool.and_eq_true, and_assoc, and_comm,
    and_left_comm]

theorem ldv (g : Guard) (v : BitVec 5) (f : BitVec 6) (a : BitVec 5) (w : BitVec 2) :
    Statement (.ldv g v f a w) := (reasons_iff _ _).symm

theorem stv (g : Guard) (v : BitVec 5) (f : BitVec 6) (a : BitVec 5) (w : BitVec 2) :
    Statement (.stv g v f a w) := (reasons_iff _ _).symm

theorem ldvt (g : Guard) (v : BitVec 5) (f : BitVec 6) (a : BitVec 5) (w : BitVec 2) :
    Statement (.ldvt g v f a w) := (reasons_iff _ _).symm

theorem ldvr (g : Guard) (v : BitVec 5) (f : BitVec 6) (a : BitVec 5) (w : BitVec 2) :
    Statement (.ldvr g v f a w) := (reasons_iff _ _).symm

theorem stvr (g : Guard) (v : BitVec 5) (f : BitVec 6) (a : BitVec 5) (w : BitVec 2) :
    Statement (.stvr g v f a w) := (reasons_iff _ _).symm

theorem ldvb (g : Guard) (v : BitVec 5) (f : BitVec 6) (a : BitVec 5) (w : BitVec 2) :
    Statement (.ldvb g v f a w) := (reasons_iff _ _).symm

theorem ldvx (g : Guard) (v : BitVec 5) (f : BitVec 6) (x : BitVec 5) :
    Statement (.ldvx g v f x) := ⟨fun _ => rfl, fun _ => rfl⟩

theorem stvx (g : Guard) (v : BitVec 5) (f : BitVec 6) (x : BitVec 5) :
    Statement (.stvx g v f x) := ⟨fun _ => rfl, fun _ => rfl⟩

theorem atom (g : Guard) (d : BitVec 5) (a : BitVec 5) (b : BitVec 5) (o : BitVec 4) :
    Statement (.atom g d a b o) := by
  show (isDest d && o.toNat ≤ 8 : Bool) = true ↔
    destReasons d ++ unlessReason 6 (o.toNat ≤ 8) = []
  simp only [List.append_eq_nil_iff, destReasons_iff, holdReasons_iff, reasons_iff, Bool.and_eq_true, and_assoc, and_comm,
    and_left_comm]

theorem cas (g : Guard) (d : BitVec 5) (a : BitVec 5) (b : BitVec 5) : Statement (.cas g d a b) := dest d

theorem fence (g : Guard) (k : BitVec 7) (sc : BitVec 3) : Statement (.fence g k sc) := (reasons_iff _ _).symm

theorem ldp (g : Guard) (v : BitVec 5) (f : BitVec 6) (a : BitVec 5) : Statement (.ldp g v f a) := by
  show (v ≠ 0 && v.toNat < 8 : Bool) = true ↔
    unlessReason 4 (v ≠ 0) ++ unlessReason 6 (v.toNat < 8) = []
  simp only [List.append_eq_nil_iff, destReasons_iff, holdReasons_iff, reasons_iff, Bool.and_eq_true, and_assoc, and_comm,
    and_left_comm]

theorem stp (g : Guard) (v : BitVec 5) (f : BitVec 6) (a : BitVec 5) :
    Statement (.stp g v f a) := (reasons_iff _ _).symm

theorem falloc (g : Guard) (f : BitVec 6) (a : BitVec 5) (b : BitVec 5) (t : BitVec 1) :
    Statement (.falloc g f a b t) := ⟨fun _ => rfl, fun _ => rfl⟩

theorem ffree (g : Guard) (f : BitVec 6) : Statement (.ffree g f) := ⟨fun _ => rfl, fun _ => rfl⟩

theorem frenew (g : Guard) (f : BitVec 6) (a : BitVec 5) : Statement (.frenew g f a) := ⟨fun _ => rfl, fun _ => rfl⟩

theorem fstat (g : Guard) (f : BitVec 6) (t : BitVec 2) : Statement (.fstat g f t) := (reasons_iff _ _).symm

theorem fsetx (g : Guard) (f : BitVec 6) (a : BitVec 5) (b : BitVec 5) (t : BitVec 1) :
    Statement (.fsetx g f a b t) := ⟨fun _ => rfl, fun _ => rfl⟩

theorem xsve (g : Guard) (tgt : BitVec 5) (src : BitVec 5) (wi : BitVec 1) :
    Statement (.xsve g tgt src wi) := ⟨fun _ => rfl, fun _ => rfl⟩

theorem xsvr (g : Guard) (tgt : BitVec 5) (src : BitVec 5) (wi : BitVec 1) :
    Statement (.xsvr g tgt src wi) := ⟨fun _ => rfl, fun _ => rfl⟩

theorem xsva (g : Guard) (tgt : BitVec 5) (src : BitVec 5) (wi : BitVec 1) :
    Statement (.xsva g tgt src wi) := (reasons_iff _ _).symm

theorem xspr (g : Guard) (tgt : BitVec 5) (src : BitVec 5) (wi : BitVec 1) : Statement (.xspr g tgt src wi) := by
  show (0 < tgt.toNat && tgt.toNat < 8 : Bool) = true ↔
    unlessReason 4 (tgt ≠ 0) ++ unlessReason 6 (0 < tgt.toNat && tgt.toNat < 8) = []
  simp only [List.append_eq_nil_iff, destReasons_iff, holdReasons_iff, reasons_iff, Bool.and_eq_true, and_assoc, and_comm,
    and_left_comm]
  simp only [decide_eq_true_eq]
  exact ⟨fun h => ⟨h.1, h.2, fun e => by simp [e] at h⟩, fun h => ⟨h.1, h.2.1⟩⟩

theorem xsn (g : Guard) (tgt : BitVec 5) (src : BitVec 5) (wi : BitVec 1) :
    Statement (.xsn g tgt src wi) := (reasons_iff _ _).symm

theorem xvse (g : Guard) (vsrc : BitVec 5) (ri : BitVec 1) :
    Statement (.xvse g vsrc ri) := ⟨fun _ => rfl, fun _ => rfl⟩

theorem xpsa (g : Guard) (vsrc : BitVec 5) (ri : BitVec 1) : Statement (.xpsa g vsrc ri) := (reasons_iff _ _).symm

theorem xpsc (g : Guard) (vsrc : BitVec 5) (ri : BitVec 1) : Statement (.xpsc g vsrc ri) := (reasons_iff _ _).symm

theorem xpsr (g : Guard) (vsrc : BitVec 5) (ri : BitVec 1) : Statement (.xpsr g vsrc ri) := (reasons_iff _ _).symm

theorem xns (g : Guard) (vsrc : BitVec 5) (ri : BitVec 1) : Statement (.xns g vsrc ri) := (reasons_iff _ _).symm

theorem vadd (g : Guard) (d : BitVec 5) (a : BitVec 5) (b : BitVec 5) (h : BitVec 2) (m : BitVec 3) :
    Statement (.vadd g d a b h m) := hold h a

theorem vsub (g : Guard) (d : BitVec 5) (a : BitVec 5) (b : BitVec 5) (h : BitVec 2) (m : BitVec 3) :
    Statement (.vsub g d a b h m) := hold h a

theorem vmul (g : Guard) (d : BitVec 5) (a : BitVec 5) (b : BitVec 5) (h : BitVec 2) (m : BitVec 3) :
    Statement (.vmul g d a b h m) := hold h a

theorem vfma (g : Guard) (d : BitVec 5) (a : BitVec 5) (b : BitVec 5) (h : BitVec 2) (m : BitVec 3) :
    Statement (.vfma g d a b h m) := hold h a

theorem vfms (g : Guard) (d : BitVec 5) (a : BitVec 5) (b : BitVec 5) (h : BitVec 2) (m : BitVec 3) :
    Statement (.vfms g d a b h m) := hold h a

theorem vmin (g : Guard) (d : BitVec 5) (a : BitVec 5) (b : BitVec 5) (h : BitVec 2) (m : BitVec 3) :
    Statement (.vmin g d a b h m) := hold h a

theorem vmax (g : Guard) (d : BitVec 5) (a : BitVec 5) (b : BitVec 5) (h : BitVec 2) (m : BitVec 3) :
    Statement (.vmax g d a b h m) := hold h a

theorem vabs (g : Guard) (d : BitVec 5) (a : BitVec 5) (h : BitVec 2) (m : BitVec 3) :
    Statement (.vabs g d a h m) := hold h a

theorem vneg (g : Guard) (d : BitVec 5) (a : BitVec 5) (h : BitVec 2) (m : BitVec 3) :
    Statement (.vneg g d a h m) := hold h a

theorem vcmp (g : Guard) (d : BitVec 3) (c : BitVec 3) (a : BitVec 5) (b : BitVec 5) (m : BitVec 3) :
    Statement (.vcmp g d c a b m) := (reasons_iff _ _).symm

theorem vsel (g : Guard) (d : BitVec 5) (a : BitVec 5) (b : BitVec 5) (h : BitVec 2) (m : BitVec 3) :
    Statement (.vsel g d a b h m) := hold h a

theorem viadd (g : Guard) (d : BitVec 5) (a : BitVec 5) (b : BitVec 5) (h : BitVec 2) (m : BitVec 3) :
    Statement (.viadd g d a b h m) := hold h a

theorem visub (g : Guard) (d : BitVec 5) (a : BitVec 5) (b : BitVec 5) (h : BitVec 2) (m : BitVec 3) :
    Statement (.visub g d a b h m) := hold h a

theorem vimul (g : Guard) (d : BitVec 5) (a : BitVec 5) (b : BitVec 5) (h : BitVec 2) (m : BitVec 3) :
    Statement (.vimul g d a b h m) := hold h a

theorem vaddw (g : Guard) (d : BitVec 5) (a : BitVec 5) (b : BitVec 5) (h : BitVec 2) (m : BitVec 3) :
    Statement (.vaddw g d a b h m) := by
  show (holdOk h a && widenOk b : Bool) = true ↔
    holdReasons h a ++ unlessReason 6 (widenOk b) = []
  simp only [List.append_eq_nil_iff, destReasons_iff, holdReasons_iff, reasons_iff, Bool.and_eq_true, and_assoc, and_comm,
    and_left_comm]

theorem viadds (g : Guard) (d : BitVec 5) (a : BitVec 5) (b : BitVec 5) (h : BitVec 2) (m : BitVec 3) :
    Statement (.viadds g d a b h m) := hold h a

theorem vand (g : Guard) (d : BitVec 5) (a : BitVec 5) (b : BitVec 5) (h : BitVec 2) (m : BitVec 3) :
    Statement (.vand g d a b h m) := hold h a

theorem vor (g : Guard) (d : BitVec 5) (a : BitVec 5) (b : BitVec 5) (h : BitVec 2) (m : BitVec 3) :
    Statement (.vor g d a b h m) := hold h a

theorem vxor (g : Guard) (d : BitVec 5) (a : BitVec 5) (b : BitVec 5) (h : BitVec 2) (m : BitVec 3) :
    Statement (.vxor g d a b h m) := hold h a

theorem vshl (g : Guard) (d : BitVec 5) (a : BitVec 5) (b : BitVec 5) (h : BitVec 2) (m : BitVec 3) :
    Statement (.vshl g d a b h m) := hold h a

theorem vshr (g : Guard) (d : BitVec 5) (a : BitVec 5) (b : BitVec 5) (h : BitVec 2) (m : BitVec 3) :
    Statement (.vshr g d a b h m) := hold h a

theorem vsar (g : Guard) (d : BitVec 5) (a : BitVec 5) (b : BitVec 5) (h : BitVec 2) (m : BitVec 3) :
    Statement (.vsar g d a b h m) := hold h a

theorem vimin (g : Guard) (d : BitVec 5) (a : BitVec 5) (b : BitVec 5) (h : BitVec 2) (m : BitVec 3) :
    Statement (.vimin g d a b h m) := hold h a

theorem vimax (g : Guard) (d : BitVec 5) (a : BitVec 5) (b : BitVec 5) (h : BitVec 2) (m : BitVec 3) :
    Statement (.vimax g d a b h m) := hold h a

theorem vicmp (g : Guard) (d : BitVec 3) (c : BitVec 3) (a : BitVec 5) (b : BitVec 5) (m : BitVec 3) :
    Statement (.vicmp g d c a b m) := by
  show (d ≠ 0 && c.toNat ≤ 5 : Bool) = true ↔
    unlessReason 4 (d ≠ 0) ++ unlessReason 6 (c.toNat ≤ 5) = []
  simp only [List.append_eq_nil_iff, destReasons_iff, holdReasons_iff, reasons_iff, Bool.and_eq_true, and_assoc, and_comm,
    and_left_comm]

theorem vcvt (g : Guard) (d : BitVec 5) (a : BitVec 5) (f : BitVec 4) (t : BitVec 4) (o : BitVec 2) :
    Statement (.vcvt g d a f t o) := by
  show (f.toNat ≤ 12 && t.toNat ≤ 12 && f ≠ 8 && t ≠ 8 && policyOk t o : Bool) = true ↔
    unlessReason 6 (f.toNat ≤ 12 && t.toNat ≤ 12) ++ unlessReason 7 (f ≠ 8 && t ≠ 8 && policyOk t o) = []
  simp only [List.append_eq_nil_iff, destReasons_iff, holdReasons_iff, reasons_iff, Bool.and_eq_true, and_assoc, and_comm,
    and_left_comm]

theorem vpack (g : Guard) (d : BitVec 5) (a : BitVec 5) (b : BitVec 5) (h : BitVec 2) (m : BitVec 3) :
    Statement (.vpack g d a b h m) := by
  show (holdOk h a && packOk b : Bool) = true ↔
    holdReasons h a ++ unlessReason 6 (packOk b) = []
  simp only [List.append_eq_nil_iff, destReasons_iff, holdReasons_iff, reasons_iff, Bool.and_eq_true, and_assoc, and_comm,
    and_left_comm]

theorem vunpk (g : Guard) (d : BitVec 5) (a : BitVec 5) (b : BitVec 5) (h : BitVec 2) (m : BitVec 3) :
    Statement (.vunpk g d a b h m) := by
  show (holdOk h a && packOk b : Bool) = true ↔
    holdReasons h a ++ unlessReason 6 (packOk b) = []
  simp only [List.append_eq_nil_iff, destReasons_iff, holdReasons_iff, reasons_iff, Bool.and_eq_true, and_assoc, and_comm,
    and_left_comm]

theorem vmov (g : Guard) (d : BitVec 5) (a : BitVec 5) (h : BitVec 2) (m : BitVec 3) :
    Statement (.vmov g d a h m) := hold h a

theorem vli (g : Guard) (d : BitVec 5) (i : BitVec 13) : Statement (.vli g d i) := ⟨fun _ => rfl, fun _ => rfl⟩

theorem vliF (g : Guard) (d : BitVec 5) (i : BitVec 13) : Statement (.vliF g d i) := ⟨fun _ => rfl, fun _ => rfl⟩

theorem vacc (g : Guard) (v : BitVec 5) (a : BitVec 3) (c : BitVec 1) (s : BitVec 1) (m : BitVec 3) :
    Statement (.vacc g v a c s m) := ⟨fun _ => rfl, fun _ => rfl⟩

theorem vdrain (g : Guard) (v : BitVec 5) (a : BitVec 3) (c : BitVec 1) (s : BitVec 1) (m : BitVec 3) :
    Statement (.vdrain g v a c s m) := ⟨fun _ => rfl, fun _ => rfl⟩

theorem vperm (g : Guard) (d : BitVec 5) (a : BitVec 5) (b : BitVec 5) (h : BitVec 2) (m : BitVec 3) :
    Statement (.vperm g d a b h m) := hold h a

theorem viota (g : Guard) (d : BitVec 5) (m : BitVec 3) : Statement (.viota g d m) := ⟨fun _ => rfl, fun _ => rfl⟩

theorem vpand (g : Guard) (d : BitVec 3) (a : BitVec 3) (b : BitVec 3) :
    Statement (.vpand g d a b) := (reasons_iff _ _).symm

theorem vpor (g : Guard) (d : BitVec 3) (a : BitVec 3) (b : BitVec 3) :
    Statement (.vpor g d a b) := (reasons_iff _ _).symm

theorem vpxor (g : Guard) (d : BitVec 3) (a : BitVec 3) (b : BitVec 3) :
    Statement (.vpxor g d a b) := (reasons_iff _ _).symm

theorem vpnot (g : Guard) (d : BitVec 3) (a : BitVec 3) : Statement (.vpnot g d a) := (reasons_iff _ _).symm

theorem dfromv (g : Guard) (d : BitVec 3) (x : BitVec 5) : Statement (.dfromv g d x) := ⟨fun _ => rfl, fun _ => rfl⟩

theorem dtov (g : Guard) (a : BitVec 3) (x : BitVec 5) : Statement (.dtov g a x) := ⟨fun _ => rfl, fun _ => rfl⟩

theorem dtovN (g : Guard) (a : BitVec 3) (x : BitVec 5) : Statement (.dtovN g a x) := ⟨fun _ => rfl, fun _ => rfl⟩

theorem dadd (g : Guard) (d : BitVec 3) (a : BitVec 3) (b : BitVec 3) :
    Statement (.dadd g d a b) := ⟨fun _ => rfl, fun _ => rfl⟩

theorem dscale (g : Guard) (d : BitVec 3) (x : BitVec 5) : Statement (.dscale g d x) := ⟨fun _ => rfl, fun _ => rfl⟩

theorem ddot (g : Guard) (a : BitVec 3) (b : BitVec 3) (x : BitVec 5) :
    Statement (.ddot g a b x) := ⟨fun _ => rfl, fun _ => rfl⟩

theorem ddotB (g : Guard) (a : BitVec 3) (b : BitVec 3) (x : BitVec 5) (k : BitVec 4) :
    Statement (.ddotB g a b x k) := ⟨fun _ => rfl, fun _ => rfl⟩

theorem dmov (g : Guard) (d : BitVec 3) (a : BitVec 3) : Statement (.dmov g d a) := ⟨fun _ => rfl, fun _ => rfl⟩

theorem dneg (g : Guard) (d : BitVec 3) (a : BitVec 3) : Statement (.dneg g d a) := ⟨fun _ => rfl, fun _ => rfl⟩

theorem dwsum (g : Guard) (d : BitVec 3) (a : BitVec 3) (b : BitVec 3) (x : BitVec 5) :
    Statement (.dwsum g d a b x) := ⟨fun _ => rfl, fun _ => rfl⟩

theorem fexp2 (g : Guard) (d : BitVec 5) (a : BitVec 5) (h : BitVec 2) (m : BitVec 3) :
    Statement (.fexp2 g d a h m) := hold h a

theorem flog2 (g : Guard) (d : BitVec 5) (a : BitVec 5) (h : BitVec 2) (m : BitVec 3) :
    Statement (.flog2 g d a h m) := hold h a

theorem frcp (g : Guard) (d : BitVec 5) (a : BitVec 5) (h : BitVec 2) (m : BitVec 3) :
    Statement (.frcp g d a h m) := hold h a

theorem frsq (g : Guard) (d : BitVec 5) (a : BitVec 5) (h : BitVec 2) (m : BitVec 3) :
    Statement (.frsq g d a h m) := hold h a

theorem fsqrt (g : Guard) (d : BitVec 5) (a : BitVec 5) (h : BitVec 2) (m : BitVec 3) :
    Statement (.fsqrt g d a h m) := hold h a

theorem ftanh (g : Guard) (d : BitVec 5) (a : BitVec 5) (h : BitVec 2) (m : BitVec 3) :
    Statement (.ftanh g d a h m) := hold h a

theorem fsigm (g : Guard) (d : BitVec 5) (a : BitVec 5) (h : BitVec 2) (m : BitVec 3) :
    Statement (.fsigm g d a h m) := hold h a

theorem ferf (g : Guard) (d : BitVec 5) (a : BitVec 5) (h : BitVec 2) (m : BitVec 3) :
    Statement (.ferf g d a h m) := hold h a

theorem fsin (g : Guard) (d : BitVec 5) (a : BitVec 5) (h : BitVec 2) (m : BitVec 3) :
    Statement (.fsin g d a h m) := hold h a

theorem fcos (g : Guard) (d : BitVec 5) (a : BitVec 5) (h : BitVec 2) (m : BitVec 3) :
    Statement (.fcos g d a h m) := hold h a

theorem vrotr (g : Guard) (d : BitVec 5) (a : BitVec 5) (k : BitVec 6) (m : BitVec 3) :
    Statement (.vrotr g d a k m) := ⟨fun _ => rfl, fun _ => rfl⟩

theorem vrotc (g : Guard) (d : BitVec 5) (a : BitVec 5) (k : BitVec 6) (m : BitVec 3) :
    Statement (.vrotc g d a k m) := (reasons_iff _ _).symm

theorem vbcr (g : Guard) (d : BitVec 5) (a : BitVec 5) (k : BitVec 6) (m : BitVec 3) :
    Statement (.vbcr g d a k m) := ⟨fun _ => rfl, fun _ => rfl⟩

theorem vbcc (g : Guard) (d : BitVec 5) (a : BitVec 5) (k : BitVec 6) (m : BitVec 3) :
    Statement (.vbcc g d a k m) := (reasons_iff _ _).symm

theorem vredr (g : Guard) (d : BitVec 5) (a : BitVec 5) (o : BitVec 2) (m : BitVec 3) :
    Statement (.vredr g d a o m) := ⟨fun _ => rfl, fun _ => rfl⟩

theorem vredc (g : Guard) (d : BitVec 5) (a : BitVec 5) (o : BitVec 2) (m : BitVec 3) :
    Statement (.vredc g d a o m) := ⟨fun _ => rfl, fun _ => rfl⟩

theorem vscanr (g : Guard) (d : BitVec 5) (a : BitVec 5) (x : BitVec 1) (o : BitVec 2) (m : BitVec 3) :
    Statement (.vscanr g d a x o m) := ⟨fun _ => rfl, fun _ => rfl⟩

theorem vscanc (g : Guard) (d : BitVec 5) (a : BitVec 5) (x : BitVec 1) (o : BitVec 2) (m : BitVec 3) :
    Statement (.vscanc g d a x o m) := ⟨fun _ => rfl, fun _ => rfl⟩

theorem vtrn (g : Guard) (d : BitVec 5) (a : BitVec 5) (m : BitVec 3) :
    Statement (.vtrn g d a m) := ⟨fun _ => rfl, fun _ => rfl⟩

theorem vshfr (g : Guard) (d : BitVec 5) (a : BitVec 5) (k : BitVec 6) (m : BitVec 3) :
    Statement (.vshfr g d a k m) := ⟨fun _ => rfl, fun _ => rfl⟩

theorem vshfc (g : Guard) (d : BitVec 5) (a : BitVec 5) (k : BitVec 6) (m : BitVec 3) :
    Statement (.vshfc g d a k m) := (reasons_iff _ _).symm

theorem cset (g : Guard) (gr : BitVec 3) (a : BitVec 5) (b : BitVec 5) :
    Statement (.cset g gr a b) := ⟨fun _ => rfl, fun _ => rfl⟩

theorem cfmt (g : Guard) (gr : BitVec 4) (a : BitVec 5) : Statement (.cfmt g gr a) := ⟨fun _ => rfl, fun _ => rfl⟩

theorem cbld (g : Guard) (s : BitVec 5) (l : BitVec 4) (a : BitVec 5) (b : BitVec 5) :
    Statement (.cbld g s l a b) := (reasons_iff _ _).symm

theorem cbldf (g : Guard) (s : BitVec 5) (l : BitVec 4) (a : BitVec 5) (b : BitVec 5) :
    Statement (.cbldf g s l a b) := (reasons_iff _ _).symm

theorem cmma (g : Guard) (c : BitVec 3) (a : BitVec 5) (b : BitVec 5) (l : BitVec 4) (x : BitVec 1) (h : BitVec 1) (e : BitVec 1) :
    Statement (.cmma g c a b l x h e) := by
  show (l ≠ 0 && (h = 0 || a = 0) : Bool) = true ↔
    unlessReason 2 (h = 0 || a = 0) ++ unlessReason 5 (l ≠ 0) = []
  simp only [List.append_eq_nil_iff, destReasons_iff, holdReasons_iff, reasons_iff, Bool.and_eq_true, and_assoc, and_comm,
    and_left_comm]

theorem cmmat (g : Guard) (c : BitVec 3) (a : BitVec 5) (b : BitVec 5) (l : BitVec 4) (x : BitVec 1) (h : BitVec 1) (e : BitVec 1) :
    Statement (.cmmat g c a b l x h e) := by
  show (l ≠ 0 && (h = 0 || a = 0) : Bool) = true ↔
    unlessReason 2 (h = 0 || a = 0) ++ unlessReason 5 (l ≠ 0) = []
  simp only [List.append_eq_nil_iff, destReasons_iff, holdReasons_iff, reasons_iff, Bool.and_eq_true, and_assoc, and_comm,
    and_left_comm]

theorem czero (g : Guard) (c : BitVec 3) (x : BitVec 1) : Statement (.czero g c x) := ⟨fun _ => rfl, fun _ => rfl⟩

theorem cchain (g : Guard) (c : BitVec 3) (b : BitVec 5) (l : BitVec 4) (x : BitVec 1) (e : BitVec 1) :
    Statement (.cchain g c b l x e) := (reasons_iff _ _).symm

theorem cwait (g : Guard) (c : BitVec 3) : Statement (.cwait g c) := ⟨fun _ => rfl, fun _ => rfl⟩

theorem cprog (g : Guard) (c : BitVec 3) : Statement (.cprog g c) := ⟨fun _ => rfl, fun _ => rfl⟩

theorem cabort (g : Guard) (c : BitVec 3) : Statement (.cabort g c) := ⟨fun _ => rfl, fun _ => rfl⟩

theorem cbnd (g : Guard) (c : BitVec 3) (a : BitVec 5) : Statement (.cbnd g c a) := ⟨fun _ => rfl, fun _ => rfl⟩

theorem cmmah (g : Guard) (c : BitVec 3) (a : BitVec 5) (b : BitVec 5) (l : BitVec 4) (x : BitVec 1) (e : BitVec 1) :
    Statement (.cmmah g c a b l x e) := (reasons_iff _ _).symm

theorem kwait (g : Guard) (k : BitVec 5) (a : BitVec 5) (i : BitVec 5) :
    Statement (.kwait g k a i) := ⟨fun _ => rfl, fun _ => rfl⟩

theorem kpost (g : Guard) (k : BitVec 5) (a : BitVec 5) (i : BitVec 5) :
    Statement (.kpost g k a i) := ⟨fun _ => rfl, fun _ => rfl⟩

theorem kpostr (g : Guard) (k : BitVec 5) (a : BitVec 5) (b : BitVec 5) (s : BitVec 3) :
    Statement (.kpostr g k a b s) := (reasons_iff _ _).symm

theorem kset (g : Guard) (k : BitVec 5) (a : BitVec 5) (i : BitVec 5) :
    Statement (.kset g k a i) := ⟨fun _ => rfl, fun _ => rfl⟩

theorem krd (g : Guard) (k : BitVec 5) : Statement (.krd g k) := ⟨fun _ => rfl, fun _ => rfl⟩

theorem copyin (g : Guard) (f : BitVec 6) (a : BitVec 5) (b : BitVec 5) (u : BitVec 1) (gr : BitVec 1) :
    Statement (.copyin g f a b u gr) := ⟨fun _ => rfl, fun _ => rfl⟩

theorem copyout (g : Guard) (f : BitVec 6) (a : BitVec 5) (b : BitVec 5) (u : BitVec 1) (gr : BitVec 1) :
    Statement (.copyout g f a b u gr) := ⟨fun _ => rfl, fun _ => rfl⟩

theorem gather (g : Guard) (f : BitVec 6) (a : BitVec 5) (b : BitVec 5) (u : BitVec 1) (gr : BitVec 1) :
    Statement (.gather g f a b u gr) := ⟨fun _ => rfl, fun _ => rfl⟩

theorem scatter (g : Guard) (f : BitVec 6) (a : BitVec 5) (b : BitVec 5) (u : BitVec 1) (gr : BitVec 1) :
    Statement (.scatter g f a b u gr) := ⟨fun _ => rfl, fun _ => rfl⟩

theorem atomg (g : Guard) (f : BitVec 6) (a : BitVec 5) (b : BitVec 5) (u : BitVec 1) (gr : BitVec 1) :
    Statement (.atomg g f a b u gr) := ⟨fun _ => rfl, fun _ => rfl⟩

theorem msend (g : Guard) (a : BitVec 5) (b : BitVec 5) (s : BitVec 3) :
    Statement (.msend g a b s) := (reasons_iff _ _).symm

theorem defer (g : Guard) (v : BitVec 5) (c : BitVec 3) (m : BitVec 3) (t : BitVec 2) :
    Statement (.defer g v c m t) := (reasons_iff _ _).symm

theorem drain (g : Guard) (v : BitVec 5) (c : BitVec 3) (m : BitVec 3) (t : BitVec 2) :
    Statement (.drain g v c m t) := (reasons_iff _ _).symm

theorem jraise (g : Guard) (a : BitVec 5) (b : BitVec 5) : Statement (.jraise g a b) := ⟨fun _ => rfl, fun _ => rfl⟩

theorem jpost (g : Guard) (a : BitVec 5) (b : BitVec 5) : Statement (.jpost g a b) := ⟨fun _ => rfl, fun _ => rfl⟩

theorem dsync (g : Guard) (l : BitVec 3) : Statement (.dsync g l) := (reasons_iff _ _).symm

theorem wswin (g : Guard) : Statement (.wswin g) := ⟨fun _ => rfl, fun _ => rfl⟩

theorem fwait (g : Guard) (f : BitVec 6) (h : BitVec 1) : Statement (.fwait g f h) := ⟨fun _ => rfl, fun _ => rfl⟩

theorem ecancel (g : Guard) : Statement (.ecancel g) := ⟨fun _ => rfl, fun _ => rfl⟩

theorem ecancelK (g : Guard) (k : BitVec 5) : Statement (.ecancelK g k) := ⟨fun _ => rfl, fun _ => rfl⟩

theorem ecancelF (g : Guard) (a : BitVec 5) : Statement (.ecancelF g a) := ⟨fun _ => rfl, fun _ => rfl⟩

theorem resultLanding : Statement .resultLanding := ⟨fun _ => rfl, fun _ => rfl⟩

theorem icacheFill : Statement .icacheFill := ⟨fun _ => rfl, fun _ => rfl⟩

theorem nopkt : Statement .nopkt := ⟨fun _ => rfl, fun _ => rfl⟩

theorem launch : Statement .launch := ⟨fun _ => rfl, fun _ => rfl⟩

theorem wload : Statement .wload := ⟨fun _ => rfl, fun _ => rfl⟩

theorem wloadComplete : Statement .wloadComplete := ⟨fun _ => rfl, fun _ => rfl⟩

theorem tdef : Statement .tdef := ⟨fun _ => rfl, fun _ => rfl⟩

theorem jwait : Statement .jwait := ⟨fun _ => rfl, fun _ => rfl⟩

theorem jwaitSatisfied : Statement .jwaitSatisfied := ⟨fun _ => rfl, fun _ => rfl⟩

theorem jsignalPost : Statement .jsignalPost := ⟨fun _ => rfl, fun _ => rfl⟩

theorem jsignalRaise : Statement .jsignalRaise := ⟨fun _ => rfl, fun _ => rfl⟩

theorem copy : Statement .copy := ⟨fun _ => rfl, fun _ => rfl⟩

theorem copyComplete : Statement .copyComplete := ⟨fun _ => rfl, fun _ => rfl⟩

theorem marker : Statement .marker := ⟨fun _ => rfl, fun _ => rfl⟩

theorem packetChoice : Statement .packetChoice := ⟨fun _ => rfl, fun _ => rfl⟩

theorem notifyWidxWrite : Statement .notifyWidxWrite := ⟨fun _ => rfl, fun _ => rfl⟩

theorem queueEnable : Statement .queueEnable := ⟨fun _ => rfl, fun _ => rfl⟩

theorem queueDisable : Statement .queueDisable := ⟨fun _ => rfl, fun _ => rfl⟩

theorem resumeQueue : Statement .resumeQueue := ⟨fun _ => rfl, fun _ => rfl⟩

theorem skipPacket : Statement .skipPacket := ⟨fun _ => rfl, fun _ => rfl⟩

theorem abortQueue : Statement .abortQueue := ⟨fun _ => rfl, fun _ => rfl⟩

theorem abortDrained : Statement .abortDrained := ⟨fun _ => rfl, fun _ => rfl⟩

theorem placeIteration : Statement .placeIteration := ⟨fun _ => rfl, fun _ => rfl⟩

theorem stackClear : Statement .stackClear := ⟨fun _ => rfl, fun _ => rfl⟩

theorem chunkRequest : Statement .chunkRequest := ⟨fun _ => rfl, fun _ => rfl⟩

theorem chunkGrant : Statement .chunkGrant := ⟨fun _ => rfl, fun _ => rfl⟩

theorem grantLogEntry : Statement .grantLogEntry := ⟨fun _ => rfl, fun _ => rfl⟩

theorem heartbeat : Statement .heartbeat := ⟨fun _ => rfl, fun _ => rfl⟩

theorem heartbeatReceive : Statement .heartbeatReceive := ⟨fun _ => rfl, fun _ => rfl⟩

theorem participantFailed : Statement .participantFailed := ⟨fun _ => rfl, fun _ => rfl⟩

theorem logTransfer : Statement .logTransfer := ⟨fun _ => rfl, fun _ => rfl⟩

theorem gangReport : Statement .gangReport := ⟨fun _ => rfl, fun _ => rfl⟩

theorem gangGrant : Statement .gangGrant := ⟨fun _ => rfl, fun _ => rfl⟩

theorem iterationRetire : Statement .iterationRetire := ⟨fun _ => rfl, fun _ => rfl⟩

theorem engineSectorTransaction : Statement .engineSectorTransaction := ⟨fun _ => rfl, fun _ => rfl⟩

theorem engineComplete : Statement .engineComplete := ⟨fun _ => rfl, fun _ => rfl⟩

theorem fallocZeroDone : Statement .fallocZeroDone := ⟨fun _ => rfl, fun _ => rfl⟩

theorem cubeOpStart : Statement .cubeOpStart := ⟨fun _ => rfl, fun _ => rfl⟩

theorem cubeWaveStart : Statement .cubeWaveStart := ⟨fun _ => rfl, fun _ => rfl⟩

theorem cubeWaveLand : Statement .cubeWaveLand := ⟨fun _ => rfl, fun _ => rfl⟩

theorem cubeOpComplete : Statement .cubeOpComplete := ⟨fun _ => rfl, fun _ => rfl⟩

theorem chainBlockArrive : Statement .chainBlockArrive := ⟨fun _ => rfl, fun _ => rfl⟩

theorem kpostrArrive : Statement .kpostrArrive := ⟨fun _ => rfl, fun _ => rfl⟩

theorem msendDeliver : Statement .msendDeliver := ⟨fun _ => rfl, fun _ => rfl⟩

theorem creditReturn : Statement .creditReturn := ⟨fun _ => rfl, fun _ => rfl⟩

theorem dsyncComplete : Statement .dsyncComplete := ⟨fun _ => rfl, fun _ => rfl⟩

theorem jcbStep : Statement .jcbStep := ⟨fun _ => rfl, fun _ => rfl⟩

theorem trayDelivery : Statement .trayDelivery := ⟨fun _ => rfl, fun _ => rfl⟩

theorem wdog : Statement .wdog := ⟨fun _ => rfl, fun _ => rfl⟩

theorem gangTimeout : Statement .gangTimeout := ⟨fun _ => rfl, fun _ => rfl⟩

theorem ue : Statement .ue := ⟨fun _ => rfl, fun _ => rfl⟩

theorem preemptRequest : Statement .preemptRequest := ⟨fun _ => rfl, fun _ => rfl⟩

theorem preemptStop : Statement .preemptStop := ⟨fun _ => rfl, fun _ => rfl⟩

theorem contextSave : Statement .contextSave := ⟨fun _ => rfl, fun _ => rfl⟩

theorem preemptKill : Statement .preemptKill := ⟨fun _ => rfl, fun _ => rfl⟩

theorem restore : Statement .restore := ⟨fun _ => rfl, fun _ => rfl⟩

theorem tlbInvalidate : Statement .tlbInvalidate := ⟨fun _ => rfl, fun _ => rfl⟩

theorem fadeTick : Statement .fadeTick := ⟨fun _ => rfl, fun _ => rfl⟩

theorem frameExpire : Statement .frameExpire := ⟨fun _ => rfl, fun _ => rfl⟩

theorem backgroundRenew : Statement .backgroundRenew := ⟨fun _ => rfl, fun _ => rfl⟩

theorem renewalOverdue : Statement .renewalOverdue := ⟨fun _ => rfl, fun _ => rfl⟩

theorem sensorSample : Statement .sensorSample := ⟨fun _ => rfl, fun _ => rfl⟩

theorem thermalShutdown : Statement .thermalShutdown := ⟨fun _ => rfl, fun _ => rfl⟩

theorem tokenHop : Statement .tokenHop := ⟨fun _ => rfl, fun _ => rfl⟩

theorem permitRefill : Statement .permitRefill := ⟨fun _ => rfl, fun _ => rfl⟩

theorem droopAlarm : Statement .droopAlarm := ⟨fun _ => rfl, fun _ => rfl⟩

theorem testAlarm : Statement .testAlarm := ⟨fun _ => rfl, fun _ => rfl⟩

theorem droopHalvingEnd : Statement .droopHalvingEnd := ⟨fun _ => rfl, fun _ => rfl⟩

theorem voltageStep : Statement .voltageStep := ⟨fun _ => rfl, fun _ => rfl⟩

theorem wsRefreshWindow : Statement .wsRefreshWindow := ⟨fun _ => rfl, fun _ => rfl⟩

theorem hbmSelfRefreshEnter : Statement .hbmSelfRefreshEnter := ⟨fun _ => rfl, fun _ => rfl⟩

theorem hbmSelfRefreshExit : Statement .hbmSelfRefreshExit := ⟨fun _ => rfl, fun _ => rfl⟩

theorem thermalHold : Statement .thermalHold := ⟨fun _ => rfl, fun _ => rfl⟩

theorem errinjApply : Statement .errinjApply := ⟨fun _ => rfl, fun _ => rfl⟩

theorem govthWrite : Statement .govthWrite := ⟨fun _ => rfl, fun _ => rfl⟩

theorem pkgbudWrite : Statement .pkgbudWrite := ⟨fun _ => rfl, fun _ => rfl⟩

theorem hkVerdict : Statement .hkVerdict := ⟨fun _ => rfl, fun _ => rfl⟩

theorem fnmodeApply : Statement .fnmodeApply := ⟨fun _ => rfl, fun _ => rfl⟩

theorem scrub : Statement .scrub := ⟨fun _ => rfl, fun _ => rfl⟩

theorem lifetimeCount : Statement .lifetimeCount := ⟨fun _ => rfl, fun _ => rfl⟩

theorem counterPersist : Statement .counterPersist := ⟨fun _ => rfl, fun _ => rfl⟩

theorem hostMemAccess : Statement .hostMemAccess := ⟨fun _ => rfl, fun _ => rfl⟩

theorem attestRequest : Statement .attestRequest := ⟨fun _ => rfl, fun _ => rfl⟩

theorem mgmtRegisterWrite : Statement .mgmtRegisterWrite := ⟨fun _ => rfl, fun _ => rfl⟩

theorem packageReset : Statement .packageReset := ⟨fun _ => rfl, fun _ => rfl⟩

theorem wsRefreshWindowEnd : Statement .wsRefreshWindowEnd := ⟨fun _ => rfl, fun _ => rfl⟩

theorem hkrWrite : Statement .hkrWrite := ⟨fun _ => rfl, fun _ => rfl⟩

end Sys2Proof.Laws.FieldLimits
end

