-- ==== Sys2Proof/Laws/ResultFrames.lean ====
section
/-! SUPPORT. The frame of every syllable whose whole effect is results in flight: one lemma per instruction. -/

set_option Elab.async false

namespace Sys2Proof.Machine

theorem nop_adds {S T : State} (g : Guard)
    (h : exec (.nop g) S = .next T) : S.adds T := by
  injection h with h
  exact h ▸ adds_refl S

theorem add_adds {S T : State} (g : Guard) (d : BitVec 5) (a : BitVec 5) (b : BitVec 5)
    (h : exec (.add g d a b) S = .next T) (ht : T.cur.trap = none) : S.adds T := by
  simp only [exec, execAdd, State.scalar] at h
  exact guarded_adds h (fun _ => toDest_adds _ _ _ _ (Nat.succ_pos _)) ht

theorem sub_adds {S T : State} (g : Guard) (d : BitVec 5) (a : BitVec 5) (b : BitVec 5)
    (h : exec (.sub g d a b) S = .next T) (ht : T.cur.trap = none) : S.adds T := by
  simp only [exec, execSub, State.scalar] at h
  exact guarded_adds h (fun _ => toDest_adds _ _ _ _ (Nat.succ_pos _)) ht

theorem addi_adds {S T : State} (g : Guard) (d : BitVec 5) (a : BitVec 5) (i : BitVec 10)
    (h : exec (.addi g d a i) S = .next T) (ht : T.cur.trap = none) : S.adds T := by
  simp only [exec, execAddi, State.scalar] at h
  exact guarded_adds h (fun _ => toDest_adds _ _ _ _ (Nat.succ_pos _)) ht

theorem mul_adds {S T : State} (g : Guard) (d : BitVec 5) (a : BitVec 5) (b : BitVec 5)
    (h : exec (.mul g d a b) S = .next T) (ht : T.cur.trap = none) : S.adds T := by
  simp only [exec, execMul, State.scalar] at h
  exact guarded_adds h (fun _ => toDest_adds _ _ _ _ (Nat.succ_pos _)) ht

theorem mulh_adds {S T : State} (g : Guard) (d : BitVec 5) (a : BitVec 5) (b : BitVec 5)
    (h : exec (.mulh g d a b) S = .next T) (ht : T.cur.trap = none) : S.adds T := by
  simp only [exec, execMulh, State.scalar] at h
  exact guarded_adds h (fun _ => toDest_adds _ _ _ _ (Nat.succ_pos _)) ht

theorem mulhn_adds {S T : State} (g : Guard) (d : BitVec 5) (a : BitVec 5) (b : BitVec 5)
    (h : exec (.mulhn g d a b) S = .next T) (ht : T.cur.trap = none) : S.adds T := by
  simp only [exec, execMulhn, State.scalar] at h
  exact guarded_adds h (fun _ => toDest_adds _ _ _ _ (Nat.succ_pos _)) ht

theorem div_adds {S T : State} (g : Guard) (d : BitVec 5) (a : BitVec 5) (b : BitVec 5)
    (h : exec (.div g d a b) S = .next T) (ht : T.cur.trap = none) : S.adds T := by
  simp only [exec, execDiv, State.scalar] at h
  exact guarded_adds h (fun _ => toDest_adds _ _ _ _ (Nat.succ_pos _)) ht

theorem divn_adds {S T : State} (g : Guard) (d : BitVec 5) (a : BitVec 5) (b : BitVec 5)
    (h : exec (.divn g d a b) S = .next T) (ht : T.cur.trap = none) : S.adds T := by
  simp only [exec, execDivn, State.scalar] at h
  exact guarded_adds h (fun _ => toDest_adds _ _ _ _ (Nat.succ_pos _)) ht

theorem rem_adds {S T : State} (g : Guard) (d : BitVec 5) (a : BitVec 5) (b : BitVec 5)
    (h : exec (.rem g d a b) S = .next T) (ht : T.cur.trap = none) : S.adds T := by
  simp only [exec, execRem, State.scalar] at h
  exact guarded_adds h (fun _ => toDest_adds _ _ _ _ (Nat.succ_pos _)) ht

theorem remn_adds {S T : State} (g : Guard) (d : BitVec 5) (a : BitVec 5) (b : BitVec 5)
    (h : exec (.remn g d a b) S = .next T) (ht : T.cur.trap = none) : S.adds T := by
  simp only [exec, execRemn, State.scalar] at h
  exact guarded_adds h (fun _ => toDest_adds _ _ _ _ (Nat.succ_pos _)) ht

theorem andOp_adds {S T : State} (g : Guard) (d : BitVec 5) (a : BitVec 5) (b : BitVec 5)
    (h : exec (.andOp g d a b) S = .next T) (ht : T.cur.trap = none) : S.adds T := by
  simp only [exec, execAndOp, State.scalar] at h
  exact guarded_adds h (fun _ => toDest_adds _ _ _ _ (Nat.succ_pos _)) ht

theorem orOp_adds {S T : State} (g : Guard) (d : BitVec 5) (a : BitVec 5) (b : BitVec 5)
    (h : exec (.orOp g d a b) S = .next T) (ht : T.cur.trap = none) : S.adds T := by
  simp only [exec, execOrOp, State.scalar] at h
  exact guarded_adds h (fun _ => toDest_adds _ _ _ _ (Nat.succ_pos _)) ht

theorem xorOp_adds {S T : State} (g : Guard) (d : BitVec 5) (a : BitVec 5) (b : BitVec 5)
    (h : exec (.xorOp g d a b) S = .next T) (ht : T.cur.trap = none) : S.adds T := by
  simp only [exec, execXorOp, State.scalar] at h
  exact guarded_adds h (fun _ => toDest_adds _ _ _ _ (Nat.succ_pos _)) ht

theorem andi_adds {S T : State} (g : Guard) (d : BitVec 5) (a : BitVec 5) (i : BitVec 10)
    (h : exec (.andi g d a i) S = .next T) (ht : T.cur.trap = none) : S.adds T := by
  simp only [exec, execAndi, State.scalar] at h
  exact guarded_adds h (fun _ => toDest_adds _ _ _ _ (Nat.succ_pos _)) ht

theorem ori_adds {S T : State} (g : Guard) (d : BitVec 5) (a : BitVec 5) (i : BitVec 10)
    (h : exec (.ori g d a i) S = .next T) (ht : T.cur.trap = none) : S.adds T := by
  simp only [exec, execOri, State.scalar] at h
  exact guarded_adds h (fun _ => toDest_adds _ _ _ _ (Nat.succ_pos _)) ht

theorem xori_adds {S T : State} (g : Guard) (d : BitVec 5) (a : BitVec 5) (i : BitVec 10)
    (h : exec (.xori g d a i) S = .next T) (ht : T.cur.trap = none) : S.adds T := by
  simp only [exec, execXori, State.scalar] at h
  exact guarded_adds h (fun _ => toDest_adds _ _ _ _ (Nat.succ_pos _)) ht

theorem shl_adds {S T : State} (g : Guard) (d : BitVec 5) (a : BitVec 5) (b : BitVec 5)
    (h : exec (.shl g d a b) S = .next T) (ht : T.cur.trap = none) : S.adds T := by
  simp only [exec, execShl, State.scalar] at h
  exact guarded_adds h (fun _ => toDest_adds _ _ _ _ (Nat.succ_pos _)) ht

theorem shr_adds {S T : State} (g : Guard) (d : BitVec 5) (a : BitVec 5) (b : BitVec 5)
    (h : exec (.shr g d a b) S = .next T) (ht : T.cur.trap = none) : S.adds T := by
  simp only [exec, execShr, State.scalar] at h
  exact guarded_adds h (fun _ => toDest_adds _ _ _ _ (Nat.succ_pos _)) ht

theorem sar_adds {S T : State} (g : Guard) (d : BitVec 5) (a : BitVec 5) (b : BitVec 5)
    (h : exec (.sar g d a b) S = .next T) (ht : T.cur.trap = none) : S.adds T := by
  simp only [exec, execSar, State.scalar] at h
  exact guarded_adds h (fun _ => toDest_adds _ _ _ _ (Nat.succ_pos _)) ht

theorem shli_adds {S T : State} (g : Guard) (d : BitVec 5) (a : BitVec 5) (i : BitVec 6)
    (h : exec (.shli g d a i) S = .next T) (ht : T.cur.trap = none) : S.adds T := by
  simp only [exec, execShli, State.scalar] at h
  exact guarded_adds h (fun _ => toDest_adds _ _ _ _ (Nat.succ_pos _)) ht

theorem shri_adds {S T : State} (g : Guard) (d : BitVec 5) (a : BitVec 5) (i : BitVec 6)
    (h : exec (.shri g d a i) S = .next T) (ht : T.cur.trap = none) : S.adds T := by
  simp only [exec, execShri, State.scalar] at h
  exact guarded_adds h (fun _ => toDest_adds _ _ _ _ (Nat.succ_pos _)) ht

theorem sari_adds {S T : State} (g : Guard) (d : BitVec 5) (a : BitVec 5) (i : BitVec 6)
    (h : exec (.sari g d a i) S = .next T) (ht : T.cur.trap = none) : S.adds T := by
  simp only [exec, execSari, State.scalar] at h
  exact guarded_adds h (fun _ => toDest_adds _ _ _ _ (Nat.succ_pos _)) ht

theorem rotl_adds {S T : State} (g : Guard) (d : BitVec 5) (a : BitVec 5) (b : BitVec 5)
    (h : exec (.rotl g d a b) S = .next T) (ht : T.cur.trap = none) : S.adds T := by
  simp only [exec, execRotl, State.scalar] at h
  exact guarded_adds h (fun _ => toDest_adds _ _ _ _ (Nat.succ_pos _)) ht

theorem minOp_adds {S T : State} (g : Guard) (d : BitVec 5) (a : BitVec 5) (b : BitVec 5)
    (h : exec (.minOp g d a b) S = .next T) (ht : T.cur.trap = none) : S.adds T := by
  simp only [exec, execMinOp, State.scalar] at h
  exact guarded_adds h (fun _ => toDest_adds _ _ _ _ (Nat.succ_pos _)) ht

theorem maxOp_adds {S T : State} (g : Guard) (d : BitVec 5) (a : BitVec 5) (b : BitVec 5)
    (h : exec (.maxOp g d a b) S = .next T) (ht : T.cur.trap = none) : S.adds T := by
  simp only [exec, execMaxOp, State.scalar] at h
  exact guarded_adds h (fun _ => toDest_adds _ _ _ _ (Nat.succ_pos _)) ht

theorem minn_adds {S T : State} (g : Guard) (d : BitVec 5) (a : BitVec 5) (b : BitVec 5)
    (h : exec (.minn g d a b) S = .next T) (ht : T.cur.trap = none) : S.adds T := by
  simp only [exec, execMinn, State.scalar] at h
  exact guarded_adds h (fun _ => toDest_adds _ _ _ _ (Nat.succ_pos _)) ht

theorem maxn_adds {S T : State} (g : Guard) (d : BitVec 5) (a : BitVec 5) (b : BitVec 5)
    (h : exec (.maxn g d a b) S = .next T) (ht : T.cur.trap = none) : S.adds T := by
  simp only [exec, execMaxn, State.scalar] at h
  exact guarded_adds h (fun _ => toDest_adds _ _ _ _ (Nat.succ_pos _)) ht

theorem cmpeq_adds {S T : State} (g : Guard) (k : BitVec 4) (a : BitVec 5) (b : BitVec 5)
    (h : exec (.cmpeq g k a b) S = .next T) (ht : T.cur.trap = none) : S.adds T := by
  simp only [exec, execCmpeq, State.compare] at h
  exact guarded_adds h (fun _ => toPred_adds _ _ _ _ (Nat.succ_pos _)) ht

theorem cmpne_adds {S T : State} (g : Guard) (k : BitVec 4) (a : BitVec 5) (b : BitVec 5)
    (h : exec (.cmpne g k a b) S = .next T) (ht : T.cur.trap = none) : S.adds T := by
  simp only [exec, execCmpne, State.compare] at h
  exact guarded_adds h (fun _ => toPred_adds _ _ _ _ (Nat.succ_pos _)) ht

theorem cmplt_adds {S T : State} (g : Guard) (k : BitVec 4) (a : BitVec 5) (b : BitVec 5)
    (h : exec (.cmplt g k a b) S = .next T) (ht : T.cur.trap = none) : S.adds T := by
  simp only [exec, execCmplt, State.compare] at h
  exact guarded_adds h (fun _ => toPred_adds _ _ _ _ (Nat.succ_pos _)) ht

theorem cmple_adds {S T : State} (g : Guard) (k : BitVec 4) (a : BitVec 5) (b : BitVec 5)
    (h : exec (.cmple g k a b) S = .next T) (ht : T.cur.trap = none) : S.adds T := by
  simp only [exec, execCmple, State.compare] at h
  exact guarded_adds h (fun _ => toPred_adds _ _ _ _ (Nat.succ_pos _)) ht

theorem cmpltn_adds {S T : State} (g : Guard) (k : BitVec 4) (a : BitVec 5) (b : BitVec 5)
    (h : exec (.cmpltn g k a b) S = .next T) (ht : T.cur.trap = none) : S.adds T := by
  simp only [exec, execCmpltn, State.compare] at h
  exact guarded_adds h (fun _ => toPred_adds _ _ _ _ (Nat.succ_pos _)) ht

theorem cmplen_adds {S T : State} (g : Guard) (k : BitVec 4) (a : BitVec 5) (b : BitVec 5)
    (h : exec (.cmplen g k a b) S = .next T) (ht : T.cur.trap = none) : S.adds T := by
  simp only [exec, execCmplen, State.compare] at h
  exact guarded_adds h (fun _ => toPred_adds _ _ _ _ (Nat.succ_pos _)) ht

theorem cmpeqi_adds {S T : State} (g : Guard) (k : BitVec 4) (a : BitVec 5) (i : BitVec 10)
    (h : exec (.cmpeqi g k a i) S = .next T) (ht : T.cur.trap = none) : S.adds T := by
  simp only [exec, execCmpeqi, State.compare] at h
  exact guarded_adds h (fun _ => toPred_adds _ _ _ _ (Nat.succ_pos _)) ht

theorem cmplti_adds {S T : State} (g : Guard) (k : BitVec 4) (a : BitVec 5) (i : BitVec 10)
    (h : exec (.cmplti g k a i) S = .next T) (ht : T.cur.trap = none) : S.adds T := by
  simp only [exec, execCmplti, State.compare] at h
  exact guarded_adds h (fun _ => toPred_adds _ _ _ _ (Nat.succ_pos _)) ht

theorem sel_adds {S T : State} (g : Guard) (d : BitVec 5) (a : BitVec 5) (b : BitVec 5) (k : BitVec 4)
    (h : exec (.sel g d a b k) S = .next T) (ht : T.cur.trap = none) : S.adds T := by
  simp only [exec, execSel, State.scalar] at h
  exact guarded_adds h (fun _ => toDest_adds _ _ _ _ (Nat.succ_pos _)) ht

theorem bfx_adds {S T : State} (g : Guard) (d : BitVec 5) (a : BitVec 5) (b : BitVec 5)
    (h : exec (.bfx g d a b) S = .next T) (ht : T.cur.trap = none) : S.adds T := by
  simp only [exec, execBfx, State.scalar] at h
  exact guarded_adds h (fun _ => toDest_adds _ _ _ _ (Nat.succ_pos _)) ht

theorem bfxs_adds {S T : State} (g : Guard) (d : BitVec 5) (a : BitVec 5) (b : BitVec 5)
    (h : exec (.bfxs g d a b) S = .next T) (ht : T.cur.trap = none) : S.adds T := by
  simp only [exec, execBfxs, State.scalar] at h
  exact guarded_adds h (fun _ => toDest_adds _ _ _ _ (Nat.succ_pos _)) ht

theorem bfi_adds {S T : State} (g : Guard) (d : BitVec 5) (a : BitVec 5) (b : BitVec 5) (m : BitVec 5)
    (h : exec (.bfi g d a b m) S = .next T) (ht : T.cur.trap = none) : S.adds T := by
  simp only [exec, execBfi, State.scalar] at h
  exact guarded_adds h (fun _ => toDest_adds _ _ _ _ (Nat.succ_pos _)) ht

theorem clz_adds {S T : State} (g : Guard) (d : BitVec 5) (a : BitVec 5)
    (h : exec (.clz g d a) S = .next T) (ht : T.cur.trap = none) : S.adds T := by
  simp only [exec, execClz, State.scalar] at h
  exact guarded_adds h (fun _ => toDest_adds _ _ _ _ (Nat.succ_pos _)) ht

theorem ctz_adds {S T : State} (g : Guard) (d : BitVec 5) (a : BitVec 5)
    (h : exec (.ctz g d a) S = .next T) (ht : T.cur.trap = none) : S.adds T := by
  simp only [exec, execCtz, State.scalar] at h
  exact guarded_adds h (fun _ => toDest_adds _ _ _ _ (Nat.succ_pos _)) ht

theorem popc_adds {S T : State} (g : Guard) (d : BitVec 5) (a : BitVec 5)
    (h : exec (.popc g d a) S = .next T) (ht : T.cur.trap = none) : S.adds T := by
  simp only [exec, execPopc, State.scalar] at h
  exact guarded_adds h (fun _ => toDest_adds _ _ _ _ (Nat.succ_pos _)) ht

theorem bswap_adds {S T : State} (g : Guard) (d : BitVec 5) (a : BitVec 5)
    (h : exec (.bswap g d a) S = .next T) (ht : T.cur.trap = none) : S.adds T := by
  simp only [exec, execBswap, State.scalar] at h
  exact guarded_adds h (fun _ => toDest_adds _ _ _ _ (Nat.succ_pos _)) ht

theorem li_adds {S T : State} (g : Guard) (d : BitVec 5) (i : BitVec 15)
    (h : exec (.li g d i) S = .next T) (ht : T.cur.trap = none) : S.adds T := by
  simp only [exec, execLi, State.scalar] at h
  exact guarded_adds h (fun _ => toDest_adds _ _ _ _ (Nat.succ_pos _)) ht

theorem lih_adds {S T : State} (g : Guard) (d : BitVec 5) (a : BitVec 5) (i : BitVec 10)
    (h : exec (.lih g d a i) S = .next T) (ht : T.cur.trap = none) : S.adds T := by
  simp only [exec, execLih, State.scalar] at h
  exact guarded_adds h (fun _ => toDest_adds _ _ _ _ (Nat.succ_pos _)) ht

theorem mov_adds {S T : State} (g : Guard) (d : BitVec 5) (a : BitVec 5)
    (h : exec (.mov g d a) S = .next T) (ht : T.cur.trap = none) : S.adds T := by
  simp only [exec, execMov, State.scalar] at h
  exact guarded_adds h (fun _ => toDest_adds _ _ _ _ (Nat.succ_pos _)) ht

theorem addx_adds {S T : State} (g : Guard) (d : BitVec 5) (a : BitVec 5) (b : BitVec 5) (s : BitVec 3)
    (h : exec (.addx g d a b s) S = .next T) (ht : T.cur.trap = none) : S.adds T := by
  simp only [exec, execAddx, State.scalar] at h
  exact guarded_adds h (fun _ => toDest_adds _ _ _ _ (Nat.succ_pos _)) ht

theorem cand_adds {S T : State} (g : Guard) (k : BitVec 4) (x : BitVec 4) (y : BitVec 4)
    (h : exec (.cand g k x y) S = .next T) (ht : T.cur.trap = none) : S.adds T := by
  simp only [exec, execCand, State.compare] at h
  exact guarded_adds h (fun _ => toPred_adds _ _ _ _ (Nat.succ_pos _)) ht

theorem cor_adds {S T : State} (g : Guard) (k : BitVec 4) (x : BitVec 4) (y : BitVec 4)
    (h : exec (.cor g k x y) S = .next T) (ht : T.cur.trap = none) : S.adds T := by
  simp only [exec, execCor, State.compare] at h
  exact guarded_adds h (fun _ => toPred_adds _ _ _ _ (Nat.succ_pos _)) ht

theorem cxor_adds {S T : State} (g : Guard) (k : BitVec 4) (x : BitVec 4) (y : BitVec 4)
    (h : exec (.cxor g k x y) S = .next T) (ht : T.cur.trap = none) : S.adds T := by
  simp only [exec, execCxor, State.compare] at h
  exact guarded_adds h (fun _ => toPred_adds _ _ _ _ (Nat.succ_pos _)) ht

theorem cnot_adds {S T : State} (g : Guard) (k : BitVec 4) (x : BitVec 4)
    (h : exec (.cnot g k x) S = .next T) (ht : T.cur.trap = none) : S.adds T := by
  simp only [exec, execCnot, State.compare] at h
  exact guarded_adds h (fun _ => toPred_adds _ _ _ _ (Nat.succ_pos _)) ht

theorem time_adds {S T : State} (g : Guard) (d : BitVec 5)
    (h : exec (.time g d) S = .next T) (ht : T.cur.trap = none) : S.adds T := by
  simp only [exec, execTime, State.scalar] at h
  exact guarded_adds h (fun _ => toDest_adds _ _ _ _ (Nat.succ_pos _)) ht

theorem cyc_adds {S T : State} (g : Guard) (d : BitVec 5)
    (h : exec (.cyc g d) S = .next T) (ht : T.cur.trap = none) : S.adds T := by
  simp only [exec, execCyc, State.scalar] at h
  exact guarded_adds h (fun _ => toDest_adds _ _ _ _ (Nat.succ_pos _)) ht

theorem csrr_adds {S T : State} (g : Guard) (d : BitVec 5) (s : BitVec 10)
    (h : exec (.csrr g d s) S = .next T) (ht : T.cur.trap = none) : S.adds T := by
  simp only [exec, execCsrr, State.csrOp] at h
  refine guarded_adds h (fun ht => ?_) ht
  split
  · rename_i c
    rw [if_pos c] at ht
    cases ht
  · exact toDest_adds _ _ _ _ (Nat.succ_pos _)

theorem csrw_adds {S T : State} (g : Guard) (d : BitVec 5) (a : BitVec 5) (s : BitVec 10)
    (h : exec (.csrw g d a s) S = .next T) (ht : T.cur.trap = none) : S.adds T := by
  simp only [exec, execCsrw, State.csrOp] at h
  refine guarded_adds h (fun ht => ?_) ht
  split
  · rename_i c
    rw [if_pos c] at ht
    cases ht
  · exact adds_trans (csrNote_adds _ _ _ _) (toDest_adds _ _ _ _ (Nat.succ_pos _))

theorem csrs_adds {S T : State} (g : Guard) (d : BitVec 5) (a : BitVec 5) (s : BitVec 10)
    (h : exec (.csrs g d a s) S = .next T) (ht : T.cur.trap = none) : S.adds T := by
  simp only [exec, execCsrs, State.csrOp] at h
  refine guarded_adds h (fun ht => ?_) ht
  split
  · rename_i c
    rw [if_pos c] at ht
    cases ht
  · exact adds_trans (csrNote_adds _ _ _ _) (toDest_adds _ _ _ _ (Nat.succ_pos _))

theorem csrc_adds {S T : State} (g : Guard) (d : BitVec 5) (a : BitVec 5) (s : BitVec 10)
    (h : exec (.csrc g d a s) S = .next T) (ht : T.cur.trap = none) : S.adds T := by
  simp only [exec, execCsrc, State.csrOp] at h
  refine guarded_adds h (fun ht => ?_) ht
  split
  · rename_i c
    rw [if_pos c] at ht
    cases ht
  · exact adds_trans (csrNote_adds _ _ _ _) (toDest_adds _ _ _ _ (Nat.succ_pos _))

theorem fadr_adds {S T : State} (g : Guard) (d : BitVec 5) (a : BitVec 5) (f : BitVec 6)
    (h : exec (.fadr g d a f) S = .next T) (ht : T.cur.trap = none) : S.adds T := by
  simp only [exec, execFadr, State.scalar] at h
  exact guarded_adds h (fun _ => toDest_adds _ _ _ _ (Nat.succ_pos _)) ht

theorem lidx_adds {S T : State} (g : Guard) (d : BitVec 5) (l : BitVec 3)
    (h : exec (.lidx g d l) S = .next T) (ht : T.cur.trap = none) : S.adds T := by
  simp only [exec, execLidx] at h
  exact guarded_adds h (fun _ => toDest_adds _ _ _ _ (Nat.succ_pos _)) ht

theorem pmark_adds {S T : State} (g : Guard)
    (h : exec (.pmark g) S = .next T) : S.adds T := by
  injection h with h
  exact h ▸ adds_refl S

theorem fstat_adds {S T : State} (g : Guard) (f : BitVec 6) (t : BitVec 2)
    (h : exec (.fstat g f t) S = .next T) (ht : T.cur.trap = none) : S.adds T := by
  simp only [exec, execFstat] at h
  exact guarded_adds h (fun _ => result_adds _ _ _ (Nat.succ_pos _)) ht

theorem xsve_adds {S T : State} (g : Guard) (tgt : BitVec 5) (src : BitVec 5) (wi : BitVec 1)
    (h : exec (.xsve g tgt src wi) S = .next T) (ht : T.cur.trap = none) : S.adds T := by
  simp only [exec, execXsve] at h
  exact guarded_adds h (fun _ => adds_trans (result_adds _ _ _ (Nat.succ_pos _)) (stepW_adds _ _)) ht

theorem xsvr_adds {S T : State} (g : Guard) (tgt : BitVec 5) (src : BitVec 5) (wi : BitVec 1)
    (h : exec (.xsvr g tgt src wi) S = .next T) (ht : T.cur.trap = none) : S.adds T := by
  simp only [exec, execXsvr] at h
  exact guarded_adds h (fun _ => adds_trans (result_adds _ _ _ (Nat.succ_pos _)) (stepW_adds _ _)) ht

theorem xspr_adds {S T : State} (g : Guard) (tgt : BitVec 5) (src : BitVec 5) (wi : BitVec 1)
    (h : exec (.xspr g tgt src wi) S = .next T) (ht : T.cur.trap = none) : S.adds T := by
  simp only [exec, execXspr] at h
  exact guarded_adds h (fun _ => adds_trans (result_adds _ _ _ (Nat.succ_pos _)) (stepW_adds _ _)) ht

theorem xsn_adds {S T : State} (g : Guard) (tgt : BitVec 5) (src : BitVec 5) (wi : BitVec 1)
    (h : exec (.xsn g tgt src wi) S = .next T) (ht : T.cur.trap = none) : S.adds T := by
  simp only [exec, execXsn] at h
  exact guarded_adds h (fun _ => adds_trans (result_adds _ _ _ (Nat.succ_pos _)) (stepW_adds _ _)) ht

theorem xvse_adds {S T : State} (g : Guard) (vsrc : BitVec 5) (ri : BitVec 1)
    (h : exec (.xvse g vsrc ri) S = .next T) (ht : T.cur.trap = none) : S.adds T := by
  simp only [exec, execXvse] at h
  exact guarded_adds h (fun _ => adds_trans (result_adds _ _ _ (Nat.succ_pos _)) (stepR_adds _ _)) ht

theorem xpsa_adds {S T : State} (g : Guard) (vsrc : BitVec 5) (ri : BitVec 1)
    (h : exec (.xpsa g vsrc ri) S = .next T) (ht : T.cur.trap = none) : S.adds T := by
  simp only [exec, execXpsa] at h
  exact guarded_adds h (fun _ => adds_trans (result_adds _ _ _ (Nat.succ_pos _)) (stepR_adds _ _)) ht

theorem xpsc_adds {S T : State} (g : Guard) (vsrc : BitVec 5) (ri : BitVec 1)
    (h : exec (.xpsc g vsrc ri) S = .next T) (ht : T.cur.trap = none) : S.adds T := by
  simp only [exec, execXpsc] at h
  exact guarded_adds h (fun _ => adds_trans (result_adds _ _ _ (Nat.succ_pos _)) (stepR_adds _ _)) ht

theorem xpsr_adds {S T : State} (g : Guard) (vsrc : BitVec 5) (ri : BitVec 1)
    (h : exec (.xpsr g vsrc ri) S = .next T) (ht : T.cur.trap = none) : S.adds T := by
  simp only [exec, execXpsr] at h
  exact guarded_adds h (fun _ => adds_trans (result_adds _ _ _ (Nat.succ_pos _)) (stepR_adds _ _)) ht

theorem xns_adds {S T : State} (g : Guard) (vsrc : BitVec 5) (ri : BitVec 1)
    (h : exec (.xns g vsrc ri) S = .next T) (ht : T.cur.trap = none) : S.adds T := by
  simp only [exec, execXns] at h
  exact guarded_adds h (fun _ => adds_trans (result_adds _ _ _ (Nat.succ_pos _)) (stepR_adds _ _)) ht

theorem vadd_adds {S T : State} (g : Guard) (d : BitVec 5) (a : BitVec 5) (b : BitVec 5) (h : BitVec 2) (m : BitVec 3)
    (h : exec (.vadd g d a b h m) S = .next T) (ht : T.cur.trap = none) : S.adds T := by
  simp only [exec, execVadd, State.vv2, State.elementwise] at h
  exact guarded_adds h (fun _ => adds_trans (keepV_adds _ _ _) (toVec_adds _ _ _ _ _ (Nat.succ_pos _))) ht

theorem vsub_adds {S T : State} (g : Guard) (d : BitVec 5) (a : BitVec 5) (b : BitVec 5) (h : BitVec 2) (m : BitVec 3)
    (h : exec (.vsub g d a b h m) S = .next T) (ht : T.cur.trap = none) : S.adds T := by
  simp only [exec, execVsub, State.vv2, State.elementwise] at h
  exact guarded_adds h (fun _ => adds_trans (keepV_adds _ _ _) (toVec_adds _ _ _ _ _ (Nat.succ_pos _))) ht

theorem vmul_adds {S T : State} (g : Guard) (d : BitVec 5) (a : BitVec 5) (b : BitVec 5) (h : BitVec 2) (m : BitVec 3)
    (h : exec (.vmul g d a b h m) S = .next T) (ht : T.cur.trap = none) : S.adds T := by
  simp only [exec, execVmul, State.vv2, State.elementwise] at h
  exact guarded_adds h (fun _ => adds_trans (keepV_adds _ _ _) (toVec_adds _ _ _ _ _ (Nat.succ_pos _))) ht

theorem vfma_adds {S T : State} (g : Guard) (d : BitVec 5) (a : BitVec 5) (b : BitVec 5) (h : BitVec 2) (m : BitVec 3)
    (h : exec (.vfma g d a b h m) S = .next T) (ht : T.cur.trap = none) : S.adds T := by
  simp only [exec, execVfma, State.vv3, State.elementwise] at h
  exact guarded_adds h (fun _ => adds_trans (keepV_adds _ _ _) (toVec_adds _ _ _ _ _ (Nat.succ_pos _))) ht

theorem vfms_adds {S T : State} (g : Guard) (d : BitVec 5) (a : BitVec 5) (b : BitVec 5) (h : BitVec 2) (m : BitVec 3)
    (h : exec (.vfms g d a b h m) S = .next T) (ht : T.cur.trap = none) : S.adds T := by
  simp only [exec, execVfms, State.vv3, State.elementwise] at h
  exact guarded_adds h (fun _ => adds_trans (keepV_adds _ _ _) (toVec_adds _ _ _ _ _ (Nat.succ_pos _))) ht

theorem vmin_adds {S T : State} (g : Guard) (d : BitVec 5) (a : BitVec 5) (b : BitVec 5) (h : BitVec 2) (m : BitVec 3)
    (h : exec (.vmin g d a b h m) S = .next T) (ht : T.cur.trap = none) : S.adds T := by
  simp only [exec, execVmin, State.vv2, State.elementwise] at h
  exact guarded_adds h (fun _ => adds_trans (keepV_adds _ _ _) (toVec_adds _ _ _ _ _ (Nat.succ_pos _))) ht

theorem vmax_adds {S T : State} (g : Guard) (d : BitVec 5) (a : BitVec 5) (b : BitVec 5) (h : BitVec 2) (m : BitVec 3)
    (h : exec (.vmax g d a b h m) S = .next T) (ht : T.cur.trap = none) : S.adds T := by
  simp only [exec, execVmax, State.vv2, State.elementwise] at h
  exact guarded_adds h (fun _ => adds_trans (keepV_adds _ _ _) (toVec_adds _ _ _ _ _ (Nat.succ_pos _))) ht

theorem vabs_adds {S T : State} (g : Guard) (d : BitVec 5) (a : BitVec 5) (h : BitVec 2) (m : BitVec 3)
    (h : exec (.vabs g d a h m) S = .next T) (ht : T.cur.trap = none) : S.adds T := by
  simp only [exec, execVabs, State.vv1, State.elementwise] at h
  exact guarded_adds h (fun _ => adds_trans (keepV_adds _ _ _) (toVec_adds _ _ _ _ _ (Nat.succ_pos _))) ht

theorem vneg_adds {S T : State} (g : Guard) (d : BitVec 5) (a : BitVec 5) (h : BitVec 2) (m : BitVec 3)
    (h : exec (.vneg g d a h m) S = .next T) (ht : T.cur.trap = none) : S.adds T := by
  simp only [exec, execVneg, State.vv1, State.elementwise] at h
  exact guarded_adds h (fun _ => adds_trans (keepV_adds _ _ _) (toVec_adds _ _ _ _ _ (Nat.succ_pos _))) ht

theorem vcmp_adds {S T : State} (g : Guard) (d : BitVec 3) (c : BitVec 3) (a : BitVec 5) (b : BitVec 5) (m : BitVec 3)
    (h : exec (.vcmp g d c a b m) S = .next T) (ht : T.cur.trap = none) : S.adds T := by
  simp only [exec, execVcmp, State.vcompare] at h
  exact guarded_adds h (fun _ => result_adds _ _ _ (Nat.succ_pos _)) ht

theorem vsel_adds {S T : State} (g : Guard) (d : BitVec 5) (a : BitVec 5) (b : BitVec 5) (h : BitVec 2) (m : BitVec 3)
    (h : exec (.vsel g d a b h m) S = .next T) (ht : T.cur.trap = none) : S.adds T := by
  simp only [exec, execVsel] at h
  exact guarded_adds h (fun _ => adds_trans (keepV_adds _ _ _) (toVec_adds _ _ _ _ _ (Nat.succ_pos _))) ht

theorem viadd_adds {S T : State} (g : Guard) (d : BitVec 5) (a : BitVec 5) (b : BitVec 5) (h : BitVec 2) (m : BitVec 3)
    (h : exec (.viadd g d a b h m) S = .next T) (ht : T.cur.trap = none) : S.adds T := by
  simp only [exec, execViadd, State.vv2, State.elementwise] at h
  exact guarded_adds h (fun _ => adds_trans (keepV_adds _ _ _) (toVec_adds _ _ _ _ _ (Nat.succ_pos _))) ht

theorem visub_adds {S T : State} (g : Guard) (d : BitVec 5) (a : BitVec 5) (b : BitVec 5) (h : BitVec 2) (m : BitVec 3)
    (h : exec (.visub g d a b h m) S = .next T) (ht : T.cur.trap = none) : S.adds T := by
  simp only [exec, execVisub, State.vv2, State.elementwise] at h
  exact guarded_adds h (fun _ => adds_trans (keepV_adds _ _ _) (toVec_adds _ _ _ _ _ (Nat.succ_pos _))) ht

theorem vimul_adds {S T : State} (g : Guard) (d : BitVec 5) (a : BitVec 5) (b : BitVec 5) (h : BitVec 2) (m : BitVec 3)
    (h : exec (.vimul g d a b h m) S = .next T) (ht : T.cur.trap = none) : S.adds T := by
  simp only [exec, execVimul, State.vv2, State.elementwise] at h
  exact guarded_adds h (fun _ => adds_trans (keepV_adds _ _ _) (toVec_adds _ _ _ _ _ (Nat.succ_pos _))) ht

theorem vaddw_adds {S T : State} (g : Guard) (d : BitVec 5) (a : BitVec 5) (b : BitVec 5) (h : BitVec 2) (m : BitVec 3)
    (h : exec (.vaddw g d a b h m) S = .next T) (ht : T.cur.trap = none) : S.adds T := by
  simp only [exec, execVaddw, State.elementwise] at h
  exact guarded_adds h (fun _ => adds_trans (keepV_adds _ _ _) (toVec_adds _ _ _ _ _ (Nat.succ_pos _))) ht

theorem viadds_adds {S T : State} (g : Guard) (d : BitVec 5) (a : BitVec 5) (b : BitVec 5) (h : BitVec 2) (m : BitVec 3)
    (h : exec (.viadds g d a b h m) S = .next T) (ht : T.cur.trap = none) : S.adds T := by
  simp only [exec, execViadds, State.vv2, State.elementwise] at h
  exact guarded_adds h (fun _ => adds_trans (keepV_adds _ _ _) (toVec_adds _ _ _ _ _ (Nat.succ_pos _))) ht

theorem vand_adds {S T : State} (g : Guard) (d : BitVec 5) (a : BitVec 5) (b : BitVec 5) (h : BitVec 2) (m : BitVec 3)
    (h : exec (.vand g d a b h m) S = .next T) (ht : T.cur.trap = none) : S.adds T := by
  simp only [exec, execVand, State.vv2, State.elementwise] at h
  exact guarded_adds h (fun _ => adds_trans (keepV_adds _ _ _) (toVec_adds _ _ _ _ _ (Nat.succ_pos _))) ht

theorem vor_adds {S T : State} (g : Guard) (d : BitVec 5) (a : BitVec 5) (b : BitVec 5) (h : BitVec 2) (m : BitVec 3)
    (h : exec (.vor g d a b h m) S = .next T) (ht : T.cur.trap = none) : S.adds T := by
  simp only [exec, execVor, State.vv2, State.elementwise] at h
  exact guarded_adds h (fun _ => adds_trans (keepV_adds _ _ _) (toVec_adds _ _ _ _ _ (Nat.succ_pos _))) ht

theorem vxor_adds {S T : State} (g : Guard) (d : BitVec 5) (a : BitVec 5) (b : BitVec 5) (h : BitVec 2) (m : BitVec 3)
    (h : exec (.vxor g d a b h m) S = .next T) (ht : T.cur.trap = none) : S.adds T := by
  simp only [exec, execVxor, State.vv2, State.elementwise] at h
  exact guarded_adds h (fun _ => adds_trans (keepV_adds _ _ _) (toVec_adds _ _ _ _ _ (Nat.succ_pos _))) ht

theorem vshl_adds {S T : State} (g : Guard) (d : BitVec 5) (a : BitVec 5) (b : BitVec 5) (h : BitVec 2) (m : BitVec 3)
    (h : exec (.vshl g d a b h m) S = .next T) (ht : T.cur.trap = none) : S.adds T := by
  simp only [exec, execVshl, State.vv2, State.elementwise] at h
  exact guarded_adds h (fun _ => adds_trans (keepV_adds _ _ _) (toVec_adds _ _ _ _ _ (Nat.succ_pos _))) ht

theorem vshr_adds {S T : State} (g : Guard) (d : BitVec 5) (a : BitVec 5) (b : BitVec 5) (h : BitVec 2) (m : BitVec 3)
    (h : exec (.vshr g d a b h m) S = .next T) (ht : T.cur.trap = none) : S.adds T := by
  simp only [exec, execVshr, State.vv2, State.elementwise] at h
  exact guarded_adds h (fun _ => adds_trans (keepV_adds _ _ _) (toVec_adds _ _ _ _ _ (Nat.succ_pos _))) ht

theorem vsar_adds {S T : State} (g : Guard) (d : BitVec 5) (a : BitVec 5) (b : BitVec 5) (h : BitVec 2) (m : BitVec 3)
    (h : exec (.vsar g d a b h m) S = .next T) (ht : T.cur.trap = none) : S.adds T := by
  simp only [exec, execVsar, State.vv2, State.elementwise] at h
  exact guarded_adds h (fun _ => adds_trans (keepV_adds _ _ _) (toVec_adds _ _ _ _ _ (Nat.succ_pos _))) ht

theorem vimin_adds {S T : State} (g : Guard) (d : BitVec 5) (a : BitVec 5) (b : BitVec 5) (h : BitVec 2) (m : BitVec 3)
    (h : exec (.vimin g d a b h m) S = .next T) (ht : T.cur.trap = none) : S.adds T := by
  simp only [exec, execVimin, State.vv2, State.elementwise] at h
  exact guarded_adds h (fun _ => adds_trans (keepV_adds _ _ _) (toVec_adds _ _ _ _ _ (Nat.succ_pos _))) ht

theorem vimax_adds {S T : State} (g : Guard) (d : BitVec 5) (a : BitVec 5) (b : BitVec 5) (h : BitVec 2) (m : BitVec 3)
    (h : exec (.vimax g d a b h m) S = .next T) (ht : T.cur.trap = none) : S.adds T := by
  simp only [exec, execVimax, State.vv2, State.elementwise] at h
  exact guarded_adds h (fun _ => adds_trans (keepV_adds _ _ _) (toVec_adds _ _ _ _ _ (Nat.succ_pos _))) ht

theorem vicmp_adds {S T : State} (g : Guard) (d : BitVec 3) (c : BitVec 3) (a : BitVec 5) (b : BitVec 5) (m : BitVec 3)
    (h : exec (.vicmp g d c a b m) S = .next T) (ht : T.cur.trap = none) : S.adds T := by
  simp only [exec, execVicmp, State.vcompare] at h
  exact guarded_adds h (fun _ => result_adds _ _ _ (Nat.succ_pos _)) ht

theorem vcvt_adds {S T : State} (g : Guard) (d : BitVec 5) (a : BitVec 5) (f : BitVec 4) (t : BitVec 4) (o : BitVec 2)
    (h : exec (.vcvt g d a f t o) S = .next T) (ht : T.cur.trap = none) : S.adds T := by
  simp only [exec, execVcvt] at h
  refine guarded_adds h (fun ht => ?_) ht
  split
  · rename_i c
    rw [c] at ht
    cases ht
  · exact toVec_adds _ _ _ _ _ (Nat.succ_pos _)

theorem vmov_adds {S T : State} (g : Guard) (d : BitVec 5) (a : BitVec 5) (h : BitVec 2) (m : BitVec 3)
    (h : exec (.vmov g d a h m) S = .next T) (ht : T.cur.trap = none) : S.adds T := by
  simp only [exec, execVmov, State.vv1, State.elementwise] at h
  exact guarded_adds h (fun _ => adds_trans (keepV_adds _ _ _) (toVec_adds _ _ _ _ _ (Nat.succ_pos _))) ht

theorem vli_adds {S T : State} (g : Guard) (d : BitVec 5) (i : BitVec 13)
    (h : exec (.vli g d i) S = .next T) (ht : T.cur.trap = none) : S.adds T := by
  simp only [exec, execVli] at h
  exact guarded_adds h (fun _ => result_adds _ _ _ (Nat.succ_pos _)) ht

theorem vliF_adds {S T : State} (g : Guard) (d : BitVec 5) (i : BitVec 13)
    (h : exec (.vliF g d i) S = .next T) (ht : T.cur.trap = none) : S.adds T := by
  simp only [exec, execVliF] at h
  exact guarded_adds h (fun _ => result_adds _ _ _ (Nat.succ_pos _)) ht

theorem vperm_adds {S T : State} (g : Guard) (d : BitVec 5) (a : BitVec 5) (b : BitVec 5) (h : BitVec 2) (m : BitVec 3)
    (h : exec (.vperm g d a b h m) S = .next T) (ht : T.cur.trap = none) : S.adds T := by
  simp only [exec, execVperm, State.elementwise] at h
  exact guarded_adds h (fun _ => adds_trans (keepV_adds _ _ _) (toVec_adds _ _ _ _ _ (Nat.succ_pos _))) ht

theorem viota_adds {S T : State} (g : Guard) (d : BitVec 5) (m : BitVec 3)
    (h : exec (.viota g d m) S = .next T) (ht : T.cur.trap = none) : S.adds T := by
  simp only [exec, execViota] at h
  exact guarded_adds h (fun _ => result_adds _ _ _ (Nat.succ_pos _)) ht

theorem vpand_adds {S T : State} (g : Guard) (d : BitVec 3) (a : BitVec 3) (b : BitVec 3)
    (h : exec (.vpand g d a b) S = .next T) (ht : T.cur.trap = none) : S.adds T := by
  simp only [exec, execVpand, State.vplogic] at h
  exact guarded_adds h (fun _ => result_adds _ _ _ (Nat.succ_pos _)) ht

theorem vpor_adds {S T : State} (g : Guard) (d : BitVec 3) (a : BitVec 3) (b : BitVec 3)
    (h : exec (.vpor g d a b) S = .next T) (ht : T.cur.trap = none) : S.adds T := by
  simp only [exec, execVpor, State.vplogic] at h
  exact guarded_adds h (fun _ => result_adds _ _ _ (Nat.succ_pos _)) ht

theorem vpxor_adds {S T : State} (g : Guard) (d : BitVec 3) (a : BitVec 3) (b : BitVec 3)
    (h : exec (.vpxor g d a b) S = .next T) (ht : T.cur.trap = none) : S.adds T := by
  simp only [exec, execVpxor, State.vplogic] at h
  exact guarded_adds h (fun _ => result_adds _ _ _ (Nat.succ_pos _)) ht

theorem vpnot_adds {S T : State} (g : Guard) (d : BitVec 3) (a : BitVec 3)
    (h : exec (.vpnot g d a) S = .next T) (ht : T.cur.trap = none) : S.adds T := by
  simp only [exec, execVpnot, State.vplogic] at h
  exact guarded_adds h (fun _ => result_adds _ _ _ (Nat.succ_pos _)) ht

theorem dfromv_adds {S T : State} (g : Guard) (d : BitVec 3) (x : BitVec 5)
    (h : exec (.dfromv g d x) S = .next T) (ht : T.cur.trap = none) : S.adds T := by
  simp only [exec, execDfromv] at h
  exact guarded_adds h (fun _ => toDir_adds _ _ _ _ _ (Nat.succ_pos _) (Nat.succ_pos _)) ht

theorem dtov_adds {S T : State} (g : Guard) (a : BitVec 3) (x : BitVec 5)
    (h : exec (.dtov g a x) S = .next T) (ht : T.cur.trap = none) : S.adds T := by
  simp only [exec, execDtov] at h
  exact guarded_adds h (fun _ => result_adds _ _ _ (Nat.succ_pos _)) ht

theorem dtovN_adds {S T : State} (g : Guard) (a : BitVec 3) (x : BitVec 5)
    (h : exec (.dtovN g a x) S = .next T) (ht : T.cur.trap = none) : S.adds T := by
  simp only [exec, execDtovN] at h
  exact guarded_adds h (fun _ => result_adds _ _ _ (Nat.succ_pos _)) ht

theorem dadd_adds {S T : State} (g : Guard) (d : BitVec 3) (a : BitVec 3) (b : BitVec 3)
    (h : exec (.dadd g d a b) S = .next T) (ht : T.cur.trap = none) : S.adds T := by
  simp only [exec, execDadd] at h
  exact guarded_adds h (fun _ => toDir_adds _ _ _ _ _ (Nat.succ_pos _) (Nat.succ_pos _)) ht

theorem dscale_adds {S T : State} (g : Guard) (d : BitVec 3) (x : BitVec 5)
    (h : exec (.dscale g d x) S = .next T) (ht : T.cur.trap = none) : S.adds T := by
  simp only [exec, execDscale] at h
  exact guarded_adds h (fun _ => result_adds _ _ _ (Nat.succ_pos _)) ht

theorem ddot_adds {S T : State} (g : Guard) (a : BitVec 3) (b : BitVec 3) (x : BitVec 5)
    (h : exec (.ddot g a b x) S = .next T) (ht : T.cur.trap = none) : S.adds T := by
  simp only [exec, execDdot, State.cosines] at h
  exact guarded_adds h (fun _ => result_adds _ _ _ (Nat.succ_pos _)) ht

theorem ddotB_adds {S T : State} (g : Guard) (a : BitVec 3) (b : BitVec 3) (x : BitVec 5) (k : BitVec 4)
    (h : exec (.ddotB g a b x k) S = .next T) (ht : T.cur.trap = none) : S.adds T := by
  simp only [exec, execDdotB, State.cosines] at h
  exact guarded_adds h (fun _ => result_adds _ _ _ (Nat.succ_pos _)) ht

theorem dmov_adds {S T : State} (g : Guard) (d : BitVec 3) (a : BitVec 3)
    (h : exec (.dmov g d a) S = .next T) (ht : T.cur.trap = none) : S.adds T := by
  simp only [exec, execDmov] at h
  exact guarded_adds h (fun _ => toDir_adds _ _ _ _ _ (Nat.succ_pos _) (Nat.succ_pos _)) ht

theorem dneg_adds {S T : State} (g : Guard) (d : BitVec 3) (a : BitVec 3)
    (h : exec (.dneg g d a) S = .next T) (ht : T.cur.trap = none) : S.adds T := by
  simp only [exec, execDneg] at h
  exact guarded_adds h (fun _ => toDir_adds _ _ _ _ _ (Nat.succ_pos _) (Nat.succ_pos _)) ht

theorem dwsum_adds {S T : State} (g : Guard) (d : BitVec 3) (a : BitVec 3) (b : BitVec 3) (x : BitVec 5)
    (h : exec (.dwsum g d a b x) S = .next T) (ht : T.cur.trap = none) : S.adds T := by
  simp only [exec, execDwsum] at h
  exact guarded_adds h (fun _ => toDir_adds _ _ _ _ _ (Nat.succ_pos _) (Nat.succ_pos _)) ht

theorem fexp2_adds {S T : State} (g : Guard) (d : BitVec 5) (a : BitVec 5) (h : BitVec 2) (m : BitVec 3)
    (h : exec (.fexp2 g d a h m) S = .next T) (ht : T.cur.trap = none) : S.adds T := by
  simp only [exec, execFexp2, State.special] at h
  exact guarded_adds h (fun _ => adds_trans (keepF_adds _ _ _) (toVec_adds _ _ _ _ _ (Nat.succ_pos _))) ht

theorem flog2_adds {S T : State} (g : Guard) (d : BitVec 5) (a : BitVec 5) (h : BitVec 2) (m : BitVec 3)
    (h : exec (.flog2 g d a h m) S = .next T) (ht : T.cur.trap = none) : S.adds T := by
  simp only [exec, execFlog2, State.special] at h
  exact guarded_adds h (fun _ => adds_trans (keepF_adds _ _ _) (toVec_adds _ _ _ _ _ (Nat.succ_pos _))) ht

theorem frcp_adds {S T : State} (g : Guard) (d : BitVec 5) (a : BitVec 5) (h : BitVec 2) (m : BitVec 3)
    (h : exec (.frcp g d a h m) S = .next T) (ht : T.cur.trap = none) : S.adds T := by
  simp only [exec, execFrcp, State.special] at h
  exact guarded_adds h (fun _ => adds_trans (keepF_adds _ _ _) (toVec_adds _ _ _ _ _ (Nat.succ_pos _))) ht

theorem frsq_adds {S T : State} (g : Guard) (d : BitVec 5) (a : BitVec 5) (h : BitVec 2) (m : BitVec 3)
    (h : exec (.frsq g d a h m) S = .next T) (ht : T.cur.trap = none) : S.adds T := by
  simp only [exec, execFrsq, State.special] at h
  exact guarded_adds h (fun _ => adds_trans (keepF_adds _ _ _) (toVec_adds _ _ _ _ _ (Nat.succ_pos _))) ht

theorem fsqrt_adds {S T : State} (g : Guard) (d : BitVec 5) (a : BitVec 5) (h : BitVec 2) (m : BitVec 3)
    (h : exec (.fsqrt g d a h m) S = .next T) (ht : T.cur.trap = none) : S.adds T := by
  simp only [exec, execFsqrt, State.special] at h
  exact guarded_adds h (fun _ => adds_trans (keepF_adds _ _ _) (toVec_adds _ _ _ _ _ (Nat.succ_pos _))) ht

theorem ftanh_adds {S T : State} (g : Guard) (d : BitVec 5) (a : BitVec 5) (h : BitVec 2) (m : BitVec 3)
    (h : exec (.ftanh g d a h m) S = .next T) (ht : T.cur.trap = none) : S.adds T := by
  simp only [exec, execFtanh, State.special] at h
  exact guarded_adds h (fun _ => adds_trans (keepF_adds _ _ _) (toVec_adds _ _ _ _ _ (Nat.succ_pos _))) ht

theorem fsigm_adds {S T : State} (g : Guard) (d : BitVec 5) (a : BitVec 5) (h : BitVec 2) (m : BitVec 3)
    (h : exec (.fsigm g d a h m) S = .next T) (ht : T.cur.trap = none) : S.adds T := by
  simp only [exec, execFsigm, State.special] at h
  exact guarded_adds h (fun _ => adds_trans (keepF_adds _ _ _) (toVec_adds _ _ _ _ _ (Nat.succ_pos _))) ht

theorem ferf_adds {S T : State} (g : Guard) (d : BitVec 5) (a : BitVec 5) (h : BitVec 2) (m : BitVec 3)
    (h : exec (.ferf g d a h m) S = .next T) (ht : T.cur.trap = none) : S.adds T := by
  simp only [exec, execFerf, State.special] at h
  exact guarded_adds h (fun _ => adds_trans (keepF_adds _ _ _) (toVec_adds _ _ _ _ _ (Nat.succ_pos _))) ht

theorem fsin_adds {S T : State} (g : Guard) (d : BitVec 5) (a : BitVec 5) (h : BitVec 2) (m : BitVec 3)
    (h : exec (.fsin g d a h m) S = .next T) (ht : T.cur.trap = none) : S.adds T := by
  simp only [exec, execFsin, State.special] at h
  exact guarded_adds h (fun _ => adds_trans (keepF_adds _ _ _) (toVec_adds _ _ _ _ _ (Nat.succ_pos _))) ht

theorem fcos_adds {S T : State} (g : Guard) (d : BitVec 5) (a : BitVec 5) (h : BitVec 2) (m : BitVec 3)
    (h : exec (.fcos g d a h m) S = .next T) (ht : T.cur.trap = none) : S.adds T := by
  simp only [exec, execFcos, State.special] at h
  exact guarded_adds h (fun _ => adds_trans (keepF_adds _ _ _) (toVec_adds _ _ _ _ _ (Nat.succ_pos _))) ht

theorem vrotr_adds {S T : State} (g : Guard) (d : BitVec 5) (a : BitVec 5) (k : BitVec 6) (m : BitVec 3)
    (h : exec (.vrotr g d a k m) S = .next T) (ht : T.cur.trap = none) : S.adds T := by
  simp only [exec, execVrotr, State.lanes] at h
  exact guarded_adds h (fun _ => result_adds _ _ _ (Nat.succ_pos _)) ht

theorem vrotc_adds {S T : State} (g : Guard) (d : BitVec 5) (a : BitVec 5) (k : BitVec 6) (m : BitVec 3)
    (h : exec (.vrotc g d a k m) S = .next T) (ht : T.cur.trap = none) : S.adds T := by
  simp only [exec, execVrotc, State.lanes] at h
  exact guarded_adds h (fun _ => result_adds _ _ _ (Nat.succ_pos _)) ht

theorem vbcr_adds {S T : State} (g : Guard) (d : BitVec 5) (a : BitVec 5) (k : BitVec 6) (m : BitVec 3)
    (h : exec (.vbcr g d a k m) S = .next T) (ht : T.cur.trap = none) : S.adds T := by
  simp only [exec, execVbcr, State.lanes] at h
  exact guarded_adds h (fun _ => result_adds _ _ _ (Nat.succ_pos _)) ht

theorem vbcc_adds {S T : State} (g : Guard) (d : BitVec 5) (a : BitVec 5) (k : BitVec 6) (m : BitVec 3)
    (h : exec (.vbcc g d a k m) S = .next T) (ht : T.cur.trap = none) : S.adds T := by
  simp only [exec, execVbcc, State.lanes] at h
  exact guarded_adds h (fun _ => result_adds _ _ _ (Nat.succ_pos _)) ht

theorem vredr_adds {S T : State} (g : Guard) (d : BitVec 5) (a : BitVec 5) (o : BitVec 2) (m : BitVec 3)
    (h : exec (.vredr g d a o m) S = .next T) (ht : T.cur.trap = none) : S.adds T := by
  simp only [exec, execVredr, State.reduced] at h
  exact guarded_adds h (fun _ => result_adds _ _ _ (Nat.succ_pos _)) ht

theorem vredc_adds {S T : State} (g : Guard) (d : BitVec 5) (a : BitVec 5) (o : BitVec 2) (m : BitVec 3)
    (h : exec (.vredc g d a o m) S = .next T) (ht : T.cur.trap = none) : S.adds T := by
  simp only [exec, execVredc, State.reduced] at h
  exact guarded_adds h (fun _ => result_adds _ _ _ (Nat.succ_pos _)) ht

theorem vscanr_adds {S T : State} (g : Guard) (d : BitVec 5) (a : BitVec 5) (x : BitVec 1) (o : BitVec 2) (m : BitVec 3)
    (h : exec (.vscanr g d a x o m) S = .next T) (ht : T.cur.trap = none) : S.adds T := by
  simp only [exec, execVscanr, State.reduced] at h
  exact guarded_adds h (fun _ => result_adds _ _ _ (Nat.succ_pos _)) ht

theorem vscanc_adds {S T : State} (g : Guard) (d : BitVec 5) (a : BitVec 5) (x : BitVec 1) (o : BitVec 2) (m : BitVec 3)
    (h : exec (.vscanc g d a x o m) S = .next T) (ht : T.cur.trap = none) : S.adds T := by
  simp only [exec, execVscanc, State.reduced] at h
  exact guarded_adds h (fun _ => result_adds _ _ _ (Nat.succ_pos _)) ht

theorem vtrn_adds {S T : State} (g : Guard) (d : BitVec 5) (a : BitVec 5) (m : BitVec 3)
    (h : exec (.vtrn g d a m) S = .next T) (ht : T.cur.trap = none) : S.adds T := by
  simp only [exec, execVtrn, State.lanes] at h
  exact guarded_adds h (fun _ => result_adds _ _ _ (Nat.succ_pos _)) ht

theorem vshfr_adds {S T : State} (g : Guard) (d : BitVec 5) (a : BitVec 5) (k : BitVec 6) (m : BitVec 3)
    (h : exec (.vshfr g d a k m) S = .next T) (ht : T.cur.trap = none) : S.adds T := by
  simp only [exec, execVshfr, State.lanes] at h
  exact guarded_adds h (fun _ => result_adds _ _ _ (Nat.succ_pos _)) ht

theorem vshfc_adds {S T : State} (g : Guard) (d : BitVec 5) (a : BitVec 5) (k : BitVec 6) (m : BitVec 3)
    (h : exec (.vshfc g d a k m) S = .next T) (ht : T.cur.trap = none) : S.adds T := by
  simp only [exec, execVshfc, State.lanes] at h
  exact guarded_adds h (fun _ => result_adds _ _ _ (Nat.succ_pos _)) ht

theorem cwait_adds {S T : State} (g : Guard) (c : BitVec 3)
    (h : exec (.cwait g c) S = .next T) : S.adds T := by
  injection h with h
  exact h ▸ adds_refl S

theorem cprog_adds {S T : State} (g : Guard) (c : BitVec 3)
    (h : exec (.cprog g c) S = .next T) (ht : T.cur.trap = none) : S.adds T := by
  simp only [exec, execCprog] at h
  exact guarded_adds h (fun _ => result_adds _ _ _ (Nat.succ_pos _)) ht

theorem kwait_adds {S T : State} (g : Guard) (k : BitVec 5) (a : BitVec 5) (i : BitVec 5)
    (h : exec (.kwait g k a i) S = .next T) (ht : T.cur.trap = none) : S.adds T := by
  simp only [exec, execKwait, State.gangSafe] at h
  refine guarded_adds h (fun ht => ?_) ht
  split
  · exact adds_refl _
  · rename_i c
    rw [if_neg c] at ht
    cases ht

theorem krd_adds {S T : State} (g : Guard) (k : BitVec 5)
    (h : exec (.krd g k) S = .next T) (ht : T.cur.trap = none) : S.adds T := by
  simp only [exec, execKrd, State.gangSafe] at h
  refine guarded_adds h (fun ht => ?_) ht
  split
  · exact result_adds _ _ _ (Nat.succ_pos _)
  · rename_i c
    rw [if_neg c] at ht
    cases ht

theorem wswin_adds {S T : State} (g : Guard)
    (h : exec (.wswin g) S = .next T) (ht : T.cur.trap = none) : S.adds T := by
  simp only [exec, execWswin] at h
  exact guarded_adds h (fun _ => result_adds _ _ _ (Nat.succ_pos _)) ht

theorem fwait_adds {S T : State} (g : Guard) (f : BitVec 6) (h : BitVec 1)
    (h : exec (.fwait g f h) S = .next T) : S.adds T := by
  injection h with h
  exact h ▸ adds_refl S

end Sys2Proof.Machine
end

