-- ==== Sys2Proof/Laws/Scalar.lean ====
section
/-! SUPPORT. The scalar instructions' values as numbers: products, shifts, quotients, bit counts and fields. -/

namespace Sys2Proof.Machine

theorem mulHigh_eq (a b : W64) : mulHigh a b = BitVec.ofInt 64 (a.toInt * b.toInt / 2 ^ 64) := by
  have e : a.signExtend 128 * b.signExtend 128 = BitVec.ofInt 128 (a.toInt * b.toInt) := by
    rw [BitVec.ofInt_mul]
    rfl
  apply BitVec.eq_of_toNat_eq
  simp only [mulHigh, e, BitVec.extractLsb'_toNat, BitVec.toNat_ofInt, Nat.shiftRight_eq_div_pow]
  omega

theorem mulHighN_eq (a b : W64) : mulHighN a b = BitVec.ofNat 64 (a.toNat * b.toNat / 2 ^ 64) := by
  apply BitVec.eq_of_toNat_eq
  have ha := a.isLt
  have hb := b.isLt
  have hm : a.toNat * b.toNat < 2 ^ 128 := by
    have := Nat.mul_lt_mul'' ha hb
    omega
  simp only [mulHighN, BitVec.extractLsb'_toNat, BitVec.toNat_mul, BitVec.zeroExtend_eq_setWidth, BitVec.toNat_setWidth,
    BitVec.toNat_ofNat, Nat.shiftRight_eq_div_pow]
  rw [Nat.mod_eq_of_lt (show a.toNat < 2 ^ 128 by omega), Nat.mod_eq_of_lt (show b.toNat < 2 ^ 128 by omega),
    Nat.mod_eq_of_lt hm]

theorem count6_eq (b : W64) : count6 b = b.toNat % 64 := by
  simp [count6, bits, BitVec.extractLsb'_toNat]

theorem shl_eq (a b : W64) : a <<< count6 b = BitVec.ofNat 64 (a.toNat * 2 ^ (b.toNat % 64)) := by
  apply BitVec.eq_of_toNat_eq
  rw [count6_eq, BitVec.toNat_shiftLeft, Nat.shiftLeft_eq, BitVec.toNat_ofNat]

theorem shr_nat (a : W64) (n : Nat) : a >>> n = BitVec.ofNat 64 (a.toNat / 2 ^ n) := by
  apply BitVec.eq_of_toNat_eq
  rw [BitVec.toNat_ushiftRight, Nat.shiftRight_eq_div_pow, BitVec.toNat_ofNat, Nat.mod_eq_of_lt]
  exact Nat.lt_of_le_of_lt (Nat.div_le_self _ _) a.isLt

theorem sar_int (a : W64) (n : Nat) : a.sshiftRight n = BitVec.ofInt 64 (a.toInt / 2 ^ n) := by
  apply BitVec.eq_of_toInt_eq
  rw [BitVec.toInt_sshiftRight, Int.shiftRight_eq_div_pow, BitVec.toInt_ofInt]
  have h1 := BitVec.le_toInt a
  have h2 := BitVec.toInt_lt (x := a)
  have hp : (0 : Int) < 2 ^ n := by positivity
  have l1 : -2 ^ 63 ≤ a.toInt / 2 ^ n := by
    rw [Int.le_ediv_iff_mul_le hp]
    have : (1 : Int) ≤ 2 ^ n := by omega
    norm_num at h1 ⊢
    nlinarith
  have l2 : a.toInt / 2 ^ n < 2 ^ 63 := by
    apply Int.ediv_lt_of_lt_mul hp
    have : (1 : Int) ≤ 2 ^ n := by omega
    norm_num at h2 ⊢
    nlinarith
  push_cast
  rw [Int.bmod_eq_of_le] <;> norm_num at * <;> omega

theorem rotl_eq (a b : W64) : a.rotateLeft (count6 b) =
    (a <<< (b.toNat % 64) ||| a >>> ((64 - b.toNat % 64) % 64)) := by
  rw [count6_eq]
  simp only [BitVec.rotateLeft, BitVec.rotateLeftAux, Nat.mod_mod]
  by_cases h : b.toNat % 64 = 0
  · simp [h, BitVec.ushiftRight_eq_zero]
  · rw [Nat.mod_eq_of_lt (show 64 - b.toNat % 64 < 64 by omega)]

theorem find_range {p : Nat → Bool} {m n : Nat} (h : (List.range m).find? p = some n) :
    n < m ∧ p n = true ∧ ∀ i < n, p i = false := by
  rw [List.find?_range_eq_some] at h
  simpa [and_comm, and_left_comm] using h

/-- What a search of the bits from one end finds. -/
theorem find_spec (p : Nat → Bool) : let n := ((List.range 64).find? p).getD 64
    n ≤ 64 ∧ (∀ i < n, p i = false) ∧ (n < 64 → p n = true) := by
  intro n
  cases h : (List.range 64).find? p with
  | none =>
    have : n = 64 := by simp only [n, h, Option.getD_none]
    rw [List.find?_range_eq_none] at h
    refine ⟨by omega, fun i hi => ?_, by omega⟩
    have := h i (by omega)
    simpa using this
  | some k =>
    have e : n = k := by simp only [n, h, Option.getD_some]
    have := find_range h
    rw [e]
    exact ⟨by omega, this.2.2, fun _ => this.2.1⟩

theorem popN_count (x : W64) : popN x 64 = (List.range 64).countP fun i => x.getLsbD i := by
  rw [popN, List.countP_eq_length_filter]
  rfl

theorem divide_eq (a b : W64) : divide a b = if b = 0 then -1 else BitVec.ofInt 64 (a.toInt.tdiv b.toInt) := by
  unfold divide
  split
  · rfl
  · apply BitVec.eq_of_toInt_eq
    rw [BitVec.toInt_sdiv, BitVec.toInt_ofInt]

theorem remainder_eq (a b : W64) : remainder a b = if b = 0 then a else BitVec.ofInt 64 (a.toInt.tmod b.toInt) := by
  unfold remainder
  split
  · rfl
  · apply BitVec.eq_of_toInt_eq
    rw [BitVec.toInt_srem, BitVec.toInt_ofInt]
    have h1 := BitVec.le_toInt b
    have h2 := BitVec.toInt_lt (x := b)
    have hb : b.toInt ≠ 0 := fun h => ‹¬b = 0› (BitVec.eq_of_toInt_eq (by simpa using h))
    have h3 : (a.toInt.tmod b.toInt).natAbs < b.toInt.natAbs := by
      rw [Int.natAbs_tmod]
      exact Nat.mod_lt _ (by omega)
    generalize a.toInt.tmod b.toInt = m at *
    rw [Int.bmod_eq_of_le] <;> norm_num at * <;> omega

/-- The control's offset and width (R178). -/
theorem ctlField_eq (c : W64) : ctlField c =
    if c.toNat < 2 ^ 14 then (c.toNat % 64, min (min (c.toNat / 64) 64) (64 - c.toNat % 64)) else (64, 0) := by
  have h := c.isLt
  simp only [ctlField, bits, BitVec.extractLsb'_toNat, Nat.shiftRight_eq_div_pow]
  by_cases k : c.toNat < 2 ^ 14
  · rw [if_neg (by omega), if_pos k]
    have e : c.toNat / 2 ^ 6 % 2 ^ 8 = c.toNat / 64 := by omega
    have f : c.toNat / 2 ^ 0 % 2 ^ 6 = c.toNat % 64 := by omega
    rw [e, f]
  · rw [if_pos (by omega), if_neg k]

theorem bits_toNat {w : Nat} (x : BitVec w) (lo n : Nat) : bits x lo n = x.toNat / 2 ^ lo % 2 ^ n := by
  simp [bits, BitVec.extractLsb'_toNat, Nat.shiftRight_eq_div_pow]

theorem setBits_getLsbD {w : Nat} (x : BitVec w) (lo n v i : Nat) (h : i < w) :
    (setBits x lo n v).getLsbD i = if lo ≤ i ∧ i < lo + n then v.testBit (i - lo) else x.getLsbD i := by
  simp only [setBits, BitVec.getLsbD_or, BitVec.getLsbD_and, BitVec.getLsbD_not, BitVec.getLsbD_ofNat, h,
    Nat.testBit_shiftLeft, Nat.testBit_two_pow_sub_one, Nat.testBit_mod_two_pow, decide_true, Bool.true_and]
  by_cases a : lo ≤ i
  · by_cases b : i < lo + n
    · have : i - lo < n := by omega
      simp [a, b, this]
    · have : ¬ i - lo < n := by omega
      simp [b, this]
  · simp [a]

theorem compare_le (x y : W64) : x.sle y = decide (x.toInt ≤ y.toInt) := rfl
theorem compare_lt (x y : W64) : x.slt y = decide (x.toInt < y.toInt) := rfl

end Sys2Proof.Machine
end

