-- ==== Sys2Proof/Tests/Slice0.lean ====
section
/-! SUPPORT. Tests: ill-formed terms refused, written-out syllables of the manual decoded, single steps on small
states, and for each statement with hypotheses a state and operands that meet them. -/

set_option Elab.async false

namespace Sys2Proof.Machine.Tests

/-! ### Well-formedness: one ill-formed term for each check -/

theorem test_illformed_scalar :
    (Instr.add .always 1 17 17).wf = false ∧ (Instr.add .always 31 17 17).wf = false ∧
    (Instr.cmpeq .always 0 17 17).wf = false ∧ (Instr.csrr .always 17 0x00A).wf = false ∧
    (Instr.csrr .always 17 0x109).wf = false ∧ (Instr.loop .always 17 0 0).wf = false ∧
    (Instr.loopi .always 0 0 1).wf = false ∧ (Instr.lidx .always 17 6).wf = false := by decide +kernel

theorem test_illformed_memory :
    (Instr.ld .always 17 17 5 0 0 0).wf = false ∧ (Instr.ld .always 17 16 2 0 1 0).wf = false ∧
    (Instr.ld .always 17 17 4 0 0 0).wf = false ∧ (Instr.ld .always 17 17 3 1 0 0).wf = false ∧
    (Instr.st .always 31 17 2 0 0).wf = false ∧ (Instr.ldv .always 0 0 0 3).wf = false ∧
    (Instr.ldp .always 0 0 0).wf = false ∧ (Instr.ldp .always 8 0 0).wf = false ∧ (Instr.stp .always 8 0 0).wf = false ∧
    (Instr.atom .always 17 17 17 9).wf = false ∧ (Instr.fence .always 0 0).wf = false ∧
    (Instr.fence .always 1 7).wf = false ∧ (Instr.fstat .always 0 3).wf = false := by decide +kernel

theorem test_illformed_vector :
    (Instr.xsva .always 8 0 0).wf = false ∧ (Instr.xspr .always 0 0 0).wf = false ∧ (Instr.xpsa .always 8 0).wf = false ∧
    (Instr.vadd .always 0 1 0 2 0).wf = false ∧ (Instr.vaddw .always 0 0 3 0 0).wf = false ∧
    (Instr.vpack .always 0 0 0 0 0).wf = false ∧ (Instr.vunpk .always 0 0 9 0 0).wf = false ∧
    (Instr.vcmp .always 0 0 0 0 0).wf = false ∧ (Instr.vicmp .always 1 6 0 0 0).wf = false ∧
    (Instr.vpand .always 0 1 1).wf = false ∧ (Instr.vcvt .always 0 0 13 0 0).wf = false ∧
    (Instr.vcvt .always 0 0 8 0 0).wf = false ∧ (Instr.vcvt .always 0 0 0 3 1).wf = false ∧
    (Instr.vrotc .always 0 0 16 0).wf = false := by decide +kernel

theorem test_illformed_cube_sync :
    (Instr.cbld .always 0 0 0 0).wf = false ∧ (Instr.cmma .always 0 1 0 1 0 1 0).wf = false ∧
    (Instr.cmma .always 0 0 0 0 0 0 0).wf = false ∧ (Instr.cchain .always 0 0 0 0 0).wf = false ∧
    (Instr.kpostr .always 0 0 0 7).wf = false ∧ (Instr.defer .always 31 2 0 0).wf = false ∧
    (Instr.drain .always 0 5 0 0).wf = false ∧ (Instr.dsync .always 0).wf = false ∧
    (Instr.dsync .always 5).wf = false := by decide +kernel

/-- The decoder refuses, with R149's lowest reason, syllables with one fault each. -/
theorem test_refused_syllables :
    decodeSyllable .s0 0x07F00000 = .error 1 ∧ decodeSyllable .s0 0x00104641 = .error 2 ∧
    decodeSyllable .s1 0x04500203 = .error 3 ∧ decodeSyllable .s0 0x00184640 = .ok [.add .always 16 17 18] ∧
    decodeSyllable .s0 0x0010C640 = .error 4 ∧ decodeSyllable .c 0x00535B00 = .error 5 ∧
    decodeSyllable .s0 0x04700006 = .error 6 ∧ decodeSyllable .s0 0x0360000A = .error 7 := by
  and_intros <;> rfl

/-! ### Decoding: the worked syllables of the manual -/

/-- Worked in chapters 7, 9 and 22-25 (the branch by its fields, log 60). -/
theorem test_decode_scalar :
    decodeSyllable .s0 0x00104640 = .ok [.add .always 0 17 18] ∧
    decodeSyllable .s0 0x02C88123 = .ok [.li .always 17 0x123] ∧
    decodeSyllable .s0 0x02324FFF = .ok [.cmplti .always 2 19 0x3FF] ∧
    decodeSyllable .s0 0x04504203 = .ok [.loopi .always 16 1 3] ∧
    decodeSyllable .s0 0x5C0FFFFC = .ok [.br ⟨5, 1⟩ 0xFFFFC] ∧
    decodeSyllable .s0 0x04700000 = .ok [.lidx .always 0 0] ∧
    decodeSyllable .s0 0x03784405 = .ok [.csrw .always 16 17 5] ∧
    decodeSyllable .s0 0x04A00051 = .ok [.syscall .always 81] ∧
    decodeSyllable .s1 0x025A83A0 = .ok [.bfx .always 21 0 29] ∧
    decodeSyllable .s1 0x33786804 = .ok [.csrw ⟨3, 0⟩ 16 26 4] ∧
    decodeSyllable .s0 0x044A0040 = .ok [.loop .always 20 0 64] ∧
    decodeSyllable .s1 0x02F9C661 = .ok [.addx .always 19 17 19 1] ∧
    decodeSyllable .s0 0x04D00000 = .ok [.done .always] ∧
    decodeSyllable .s1 0x024D6602 = .ok [.sel .always 26 25 16 2] := by
  and_intros <;> rfl

/-- Worked in chapters 7, 13, 23 and 24. -/
theorem test_decode_memory :
    decodeSyllable .m 0x00518B40 = .ok [.ldv .always 3 5 20 0] ∧
    decodeSyllable .m 0x00518B44 = .ok [.ldv .always 3 5 20 1] ∧
    decodeSyllable .m 0x00E04E80 = .ok [.cas .always 0 19 20] ∧
    decodeSyllable .m 0x00F14800 = .ok [.fence .always 0x0A 2] ∧
    decodeSyllable .m 0x01606D01 = .ok [.fsetx .always 1 22 16 1] ∧
    decodeSyllable .m 0x00708300 = .ok [.ldvt .always 1 1 16 0] ∧
    decodeSyllable .m 0x00C104C0 = .ok [.stvx .always 2 2 12] ∧
    decodeSyllable .m 0x00294600 = .ok [.st .always 18 17 4 0 0] ∧
    decodeSyllable .m 0x00104501 = .ok [.ld .always 0 17 2 0 0 1] ∧
    decodeSyllable .x 0x00001020 = .ok [.xpsr .always 1 0] ∧
    decodeSyllable .x 0x33180000 = .ok [.xsva ⟨3, 0⟩ 3 0 0] := by
  and_intros <;> rfl

/-- Worked in chapters 7, 10, 11, 22, 23 and 25. -/
theorem test_decode_vector :
    decodeSyllable .v 0x00430CE2 = .ok [.vfma .always 6 3 7 0 2] ∧
    decodeSyllable .v 0x00430CE8 = .ok [.vfma .always 6 3 7 1 0] ∧
    decodeSyllable .v 0x00440130 = .ok [.vfma .always 8 0 9 2 0] ∧
    decodeSyllable .v 0x02020404 = .ok [.vcvt .always 4 1 0 1 0] ∧
    decodeSyllable .v 0x0290A7F8 = .ok [.vliF .always 1 0x07F8] ∧
    decodeSyllable .v 0x00A68220 = .ok [.vcmp .always 3 2 1 2 0] ∧
    decodeSyllable .v 0x01340E40 = .ok [.vaddw .always 8 3 0x12 0 0] ∧
    decodeSyllable .v 0x021194A0 = .ok [.vpack .always 3 5 5 0 0] ∧
    decodeSyllable .v 0x02A2A800 = .ok [.vacc .always 5 2 1 0 0] ∧
    decodeSyllable .v 0x03840100 = .ok [.dfromv .always 2 4] ∧
    decodeSyllable .v 0x03908241 = .ok [.dtovN .always 2 9] ∧
    decodeSyllable .v 0x03C041D3 = .ok [.ddotB .always 1 0 7 3] ∧
    decodeSyllable .v 0x00B31EC1 = .ok [.vsel .always 6 7 22 0 1] ∧
    decodeSyllable .f 0x00118402 = .ok [.fexp2 .always 3 1 0 2] ∧
    decodeSyllable .f 0x01029010 = .ok [.vrotr .always 5 4 1 0] ∧
    decodeSyllable .f 0x01630830 = .ok [.vscanr .always 6 2 0 3 0] ∧
    decodeSyllable .f 0x01731470 = .ok [.vscanc .always 6 5 1 3 0] ∧
    decodeSyllable .f 0x01562800 = .ok [.vredc .always 12 10 0 0] ∧
    decodeSyllable .f 0x01240BF0 = .ok [.vbcr .always 8 2 63 0] := by
  and_intros <;> rfl

/-- Worked in chapters 7, 14, 15, 16, 21, 22 and 24. -/
theorem test_decode_cube_sync :
    decodeSyllable .c 0x30535B78 = .ok [.cmma ⟨3, 0⟩ 1 21 22 15 0 0 0] ∧
    decodeSyllable .c 0x00520B7A = .ok [.cmma .always 1 0 22 15 0 1 0] ∧
    decodeSyllable .c 0x00613A3C = .ok [.cmmat .always 0 19 20 7 1 0 0] ∧
    decodeSyllable .c 0x00D51919 = .ok [.cmmah .always 2 17 18 3 0 1] ∧
    decodeSyllable .c 0x0031FC64 = .ok [.cbld .always 3 15 17 18] ∧
    decodeSyllable .c 0x00760004 = .ok [.czero .always 3 1] ∧ decodeSyllable .c 0x00A20000 = .ok [.cprog .always 1] ∧
    decodeSyllable .c 0x00C33000 = .ok [.cbnd .always 1 19] ∧ decodeSyllable .c 0x00109400 = .ok [.cset .always 0 18 16] ∧
    decodeSyllable .c 0x00920000 = .ok [.cwait .always 1] ∧ decodeSyllable .y 0x0011C400 = .ok [.kwait .always 3 17 0] ∧
    decodeSyllable .y 0x0021C001 = .ok [.kpost .always 3 16 1] ∧
    decodeSyllable .y 0x0031C642 = .ok [.kpostr .always 3 17 18 2] ∧ decodeSyllable .y 0x00518000 = .ok [.krd .always 3] ∧
    decodeSyllable .y 0x00616321 = .ok [.copyin .always 5 17 18 0 1] ∧ decodeSyllable .y 0x01100000 = .ok [.wswin .always] ∧
    decodeSyllable .y 0x00706F81 = .ok [.copyout .always 1 23 24 0 1] := by
  and_intros <;> rfl

/-- The host's word of a row decodes in the slot the model gives it, and a step issues it. -/
theorem test_table_word :
    decodeTableWord 32 0x00104640 = some (.add .always 0 17 18) ∧
    (∃ t, step (State.reset.withFetchWord 32 0x02C88123) = .next t ∧
      (t.seq 0 0).inflight.map Landing.what = [.named 1 0x123]) := by
  refine ⟨by decide +kernel, _, rfl, by decide +kernel⟩

/-! ### Values the manual works out -/

/-- R177's table and the division corners. -/
theorem test_divide :
    divide (-7) 2 = -3 ∧ divide 7 (-2) = -3 ∧ remainder (-7) 2 = -1 ∧ remainder 7 (-2) = 1 ∧ divide (-7) 0 = -1 ∧
    remainder (-7) 0 = -7 ∧ divide 0x8000000000000000 (-1) = 0x8000000000000000 ∧
    remainder 0x8000000000000000 (-1) = 0 := by decide +kernel

/-- The three worked encodings of chapter 6 that R120 gives, and VFMA's example of R206. -/
theorem test_float :
    to32 ((val32 0xBF801000).add ((val32 0x3F800800).mul (val32 0x3F800800))) = 0x33800000 ∧
    to32 ((val32 0x3F800800).mul (val32 0x3F800800)) = 0x3F801000 ∧
    to32 ((val32 0x3F800000).add (val32 0xBF800000)) = 0 := by decide +kernel

/-- The clamp of R360's worked case. -/
theorem test_bound_word : field 0x23F8 48 16 ||| field 0x2FE0 16 16 = 0x23F800002FE00000 := by decide +kernel

/-- R190's worked loop: four passes of pitch 3. -/
theorem test_loop :
    (let e : LoopEntry := ⟨4, 0, 3, 128, 160, false⟩
    loopEnd [e] 160 = ([⟨3, 3, 3, 128, 160, false⟩], some (128, false)) ∧
    loopEnd [⟨1, 9, 3, 128, 160, false⟩] 160 = ([], none)) := by decide +kernel

/-- Little-endian bytes, written and read back; writing 0 unlists the byte. -/
theorem test_memory :
    Mem.readN (Mem.writeN [] 10 (leBytes 4 0x11223344)) 10 4 = [0x44, 0x33, 0x22, 0x11] ∧
    Mem.writeN (Mem.writeN [] 10 [1, 2]) 10 [0, 0] = [] ∧ Mem.wf (Mem.writeN [] 10 [1, 0, 2]) = true := by
  decide +kernel

/-! ### Witnesses: for each statement with hypotheses, a state and operands that meet them -/

/-- One stack with one pillar, at reset. -/
def tiny : State := { State.reset with stks := [Stack.reset], pillars := [Pillar.reset] }

/-- The small state in supervisor mode. -/
def sup : State := tiny.onMe fun x => { x with mode := true }

/-- The small state with a message waiting. -/
def msg : State := tiny.onMine fun P => { P with mq := [(7, 0)] }

/-- The small state with s1 naming frame 5 at an offset, and that frame one 4 KiB unit in a state. -/
def framed (st : FState) (off : Nat) : State :=
  { tiny with pillars := [{ Pillar.reset with
      seqs := [{ Seq.reset with named := upd Seq.reset.named 1 fun _ => BitVec.ofNat 64 (5 * 2 ^ 22 + off) }, Seq.reset]
      frames := upd Pillar.reset.frames 5 fun F => { F with state := st, size := 1, life := 1800 } }] }

theorem test_tiny : tiny.placed ∧ tiny.memWf ∧ tiny.framesWf := by
  refine ⟨⟨by decide, by decide⟩, rfl, ?_⟩
  intro P hP F hF
  simp only [tiny, List.mem_singleton] at hP
  subst hP
  have e : F = Frame.cleared := List.eq_of_mem_replicate hF
  subst e
  rfl

theorem enabled_tiny (g : Guard) (s : State) (srcs : List (BitVec 5)) (h : s.guardOn g = true)
    (k : srcs.contains 31 = false) : s.enabled g srcs := ⟨h, fun c => by rw [k] at c; cases c⟩

/-- Enabled with registers for sources, with a message for a source, and under a guard that reads false and is
negated. -/
theorem test_witness_IntegerArithmetic :
    tiny.enabled .always [17, 18] ∧ tiny.enabled ⟨3, 1⟩ [17] ∧ msg.enabled .always [31, 31] ∧ msg.enabled .always [31] :=
  ⟨enabled_tiny _ _ _ rfl rfl, enabled_tiny _ _ _ rfl rfl, ⟨rfl, fun _ => .inr (by decide +kernel)⟩,
    ⟨rfl, fun _ => .inr (by decide +kernel)⟩⟩

theorem test_witness_BitFieldsAndImmediates :
    tiny.enabled .always [17, 18] ∧ tiny.enabled .always [17, 18, 19] ∧ tiny.enabled .always [] ∧
    tiny.enabled .always [17] :=
  ⟨enabled_tiny _ _ _ rfl rfl, enabled_tiny _ _ _ rfl rfl, enabled_tiny _ _ _ rfl rfl, enabled_tiny _ _ _ rfl rfl⟩

theorem test_witness_ComparesAndPredicates :
    tiny.enabled .always [17, 18] ∧ tiny.enabled .always [17] ∧ tiny.enabled .always [] :=
  ⟨enabled_tiny _ _ _ rfl rfl, enabled_tiny _ _ _ rfl rfl, enabled_tiny _ _ _ rfl rfl⟩

theorem test_witness_ClocksAndWindows : tiny.enabled .always [] := enabled_tiny _ _ _ rfl rfl

/-- The last user CSR in user mode, and the last supervisor CSR in supervisor mode. -/
theorem test_witness_CsrAccess :
    (0xFF < 0x100 ∧ tiny.enabled .always [] ∧ tiny.enabled .always [17]) ∧
    (sup.me.mode = true ∧ sup.enabled .always [] ∧ sup.enabled .always [17]) :=
  ⟨⟨by decide, enabled_tiny _ _ _ rfl rfl, enabled_tiny _ _ _ rfl rfl⟩, rfl, enabled_tiny _ _ _ rfl rfl,
    enabled_tiny _ _ _ rfl rfl⟩

theorem test_witness_Privilege :
    (tiny.me.mode = false ∧ 0x100 ≤ (0x100 : BitVec 10).toNat ∧ tiny.enabled .always [] ∧ tiny.enabled .always [17]) ∧
    tiny.placed ∧ tiny.me.regions = [] ∧ tiny.cur.trap = none ∧
      ∃ t, exec (.csrw .always 17 18 0x003) tiny = .next t ∧ t.cur.trap = none :=
  ⟨⟨rfl, by decide, enabled_tiny _ _ _ rfl rfl, enabled_tiny _ _ _ rfl rfl⟩, test_tiny.1, rfl, rfl, _, rfl, rfl⟩

theorem test_witness_Branches : tiny.enabled .always [] ∧ tiny.enabled .always [17] :=
  ⟨enabled_tiny _ _ _ rfl rfl, enabled_tiny _ _ _ rfl rfl⟩

/-- The small state with n loop entries held. -/
def looping (n : Nat) : State :=
  tiny.onMe fun x => { x with loops := List.replicate n ⟨1, 0, 1, 32, 64, false⟩ }

/-- With five entries held a loop is entered, with six it is refused. -/
theorem test_witness_LoopsBegin :
    ((looping 5).me.loops.length < 6 ∧ (looping 5).enabled .always [17] ∧ (looping 5).enabled .always []) ∧
    6 ≤ (looping 6).me.loops.length :=
  ⟨⟨by decide +kernel, enabled_tiny _ _ _ rfl rfl, enabled_tiny _ _ _ rfl rfl⟩, by decide +kernel⟩

theorem test_witness_LoopPasses :
    (∀ n ∈ [1, 2 ^ 32 - 1], 0 < n ∧ n < 2 ^ 32) ∧
    (∀ e : LoopEntry, [(⟨1, 0, 1, 32, 64, false⟩ : LoopEntry)].head? = some e → e.bend ≠ 96) ∧
    (tiny.enabled .always [] ∧ tiny.me.loops = []) ∧
    (looping 2).me.loops = ⟨1, 0, 1, 32, 64, false⟩ :: [⟨1, 0, 1, 32, 64, false⟩] := by
  refine ⟨by decide, ?_, ⟨enabled_tiny _ _ _ rfl rfl, rfl⟩, rfl⟩
  intro e h
  cases h
  decide

/-- A faulted record of operation number 0, in a sequencer whose next long word is number 1. -/
def faulted : Rec := ⟨0, 0, 7, 0, 0, 0, 0, 9, true, false, false, 0, 0, 0, 0, .jcb false⟩

theorem test_witness_TrapsAndWaits :
    tiny.enabled .always [] ∧ tiny.enabled .always [17] ∧ sup.me.mode = true ∧
    (tiny.me.mode = false ∧ ∀ r ∈ tiny.me.faults, tiny.me.order ≤ r.order) ∧
    (let s := tiny.onMe fun x => { x with recs := [faulted], order := 1 }
     s.me.mode = false ∧ s.me.faults = [faulted] ∧ faulted.order < s.me.order) ∧
    (tiny.me.dueFault = none ∧ tiny.me.chkint.getLsbD 0 = false) ∧ tiny.placed :=
  ⟨enabled_tiny _ _ _ rfl rfl, enabled_tiny _ _ _ rfl rfl, rfl, ⟨rfl, fun _ h => nomatch h⟩, by decide +kernel,
    ⟨rfl, rfl⟩, test_tiny.1⟩

/-- Entry from a delay long word with a result in flight; return in supervisor mode to a delay long word. -/
theorem test_witness_EntryAndReturn :
    (tiny.placed ∧ tiny.me.regions = [] ∧ tiny.me.csrws = [] ∧ 255 < 256 ∧ tiny.me.mode = false) ∧
    (let s := tiny.onMe fun x => { x with delay := some 64 }
     s.placed ∧ s.me.delay = some 64 ∧ s.me.regions = [] ∧ s.me.csrws = []) ∧
    (sup.placed ∧ sup.enabled .always [] ∧ sup.me.mode = true ∧ ∀ i rest, sup.me.delivered ≠ some i :: rest) :=
  ⟨⟨test_tiny.1, rfl, rfl, by decide, rfl⟩, ⟨⟨by decide, by decide⟩, rfl, rfl, rfl⟩, ⟨by decide, by decide⟩,
    enabled_tiny _ _ _ rfl rfl, rfl, fun _ _ h => nomatch (show ([] : List (Option Nat)) = _ :: _ from h)⟩

/-- A region of user mode, opened at issue order n. -/
def region (n : Nat) : Region := ⟨64, 3, false, n, List.replicate 16 0, List.replicate 16 false, 0, []⟩

theorem test_witness_ContainmentRegions :
    (let s := tiny.onMe fun x => { x with regions := List.replicate 3 (region 0) }
     s.enabled .always [17] ∧ s.me.regions.length < 4) ∧
    (let r := { region 1 with sup := true }
     let s := tiny.onMe fun x => { x with regions := [r] ++ region 0 :: [] }
     s.enabled .always [] ∧ s.me.regions = [r] ++ region 0 :: [] ∧ (region 0).sup = s.me.mode ∧
        (∀ h ∈ [r], h.sup ≠ s.me.mode) ∧ s.placed) ∧
    (0 < tiny.pillars.length ∧ 1 < (tiny.pillar 0).seqs.length ∧ (tiny.seq 0 1).undo = [] ∧
      ∀ e ∈ (tiny.seq 0 1).recs, e.order ≤ (region 0).order) ∧
    (let l : Landing := ⟨0, 4, 1, .vec 31 (vfill 7) pOnes⟩
     let s := tiny.onMe fun x => { x with inflight := [l] }
     (∀ e ∈ (s.seq 0 0).recs, e.order ≤ (region 0).order) ∧ (s.seq 0 0).undo = [] ∧ (s.seq 0 0).inflight = [l] ∧
       l.what = .vec 31 (vfill 7) pOnes ∧ l.land ≤ (s.pillar 0).ic ∧ l.slot < 7) := by
  refine ⟨⟨enabled_tiny _ _ _ rfl rfl, by decide +kernel⟩, ⟨enabled_tiny _ _ _ rfl rfl, rfl, rfl, ?_, by decide, by decide⟩,
    ⟨by decide, by decide, rfl, fun e h => nomatch h⟩,
    ⟨fun e h => absurd h List.not_mem_nil, rfl, rfl, rfl, Nat.le_refl 0, by decide⟩⟩
  intro h hh
  simp only [List.mem_singleton] at hh
  subst hh
  decide

/-- The frame takes an access of n bytes at the offset s1 names, and a read of it raises nothing. -/
theorem readable_framed (off n al : Nat) (h : off + n ≤ 4096) (a : off % al = 0) :
    (framed .ready off).readable 5 off n al := by
  refine ⟨⟨h, a⟩, rfl, fun c => ?_⟩
  have e : (framed .ready off).myFrame 5 = { Frame.cleared with state := .ready, size := 1, life := 1800 } := rfl
  rw [e] at c
  unfold Frame.isPoisoned at c
  rw [List.any_eq_true] at c
  obtain ⟨x, -, hx⟩ := c
  cases hx

/-- The last byte and the last aligned quadword of the frame; and a poisoned sector read with no region open in user
mode. -/
theorem test_witness_ScalarLoadsAndStores :
    (∀ x ∈ [((0 : BitVec 3), 4095), (4, 4080)], x.1.toNat ≤ 4 ∧
      let s := framed .ready x.2
      let ea := s.src 17
      s.enabled .always [17] ∧ s.enabled .always [18, 17] ∧ ea.extractLsb' 28 36 = 0 ∧ (ea.extractLsb' 22 6).toNat = 5 ∧
        (ea.extractLsb' 0 22).toNat = x.2 ∧ s.readable 5 x.2 (2 ^ x.1.toNat) (2 ^ x.1.toNat) ∧
        (s.myFrame 5).holds x.2 (2 ^ x.1.toNat) (2 ^ x.1.toNat)) ∧
    tiny.poisonQuiet := by
  constructor
  · intro x hx
    simp only [List.mem_cons, List.not_mem_nil, or_false] at hx
    rcases hx with rfl | rfl
    · exact ⟨by decide, enabled_tiny _ _ _ rfl rfl, enabled_tiny _ _ _ rfl rfl, by decide +kernel, by decide +kernel,
        by decide +kernel, readable_framed _ _ _ (by decide) (by decide), by decide, by decide⟩
    · exact ⟨by decide, enabled_tiny _ _ _ rfl rfl, enabled_tiny _ _ _ rfl rfl, by decide +kernel, by decide +kernel,
        by decide +kernel, readable_framed _ _ _ (by decide) (by decide), by decide, by decide⟩
  · exact ⟨fun r h => absurd (show r ∈ ([] : List Region) from h) List.not_mem_nil,
      fun h => absurd (show false = true from h) Bool.false_ne_true⟩

/-- An address above every frame; the first byte past the frame; a misaligned one; and an expired frame. -/
theorem test_witness_ScalarAccessFaults :
    (let s := tiny.onMe fun x => { x with named := upd x.named 1 fun _ => BitVec.ofNat 64 (2 ^ 28) }
     s.enabled .always [17] ∧ (s.src 17).extractLsb' 28 36 ≠ 0) ∧
    (∀ off ∈ [4096, 4093, 1], ((framed .ready off).src 17).extractLsb' 28 36 = 0 ∧
      ¬ ((framed .ready off).myFrame 5).holds off 4 4 ∧ (framed .ready off).enabled .always [18, 17]) ∧
    (let s := (framed .ready 0).onFrame 0 5 fun F => { F with xp := true }
     s.enabled .always [17] ∧ (s.src 17).extractLsb' 28 36 = 0 ∧ (s.myFrame 5).holds 0 4 4 ∧
        (s.myFrame 5).xp = true) := by
  refine ⟨⟨enabled_tiny _ _ _ rfl rfl, by decide +kernel⟩, ?_, enabled_tiny _ _ _ rfl rfl, by decide +kernel,
    ⟨by decide +kernel, rfl⟩, by decide +kernel⟩
  intro off h
  simp only [List.mem_cons, List.not_mem_nil, or_false] at h
  rcases h with rfl | rfl | rfl <;>
    exact ⟨by decide +kernel, fun k => absurd k (by unfold Frame.holds; decide +kernel), enabled_tiny _ _ _ rfl rfl⟩

/-- A 1,024-element byte view at the start of the frame, a row of words at its end, a cell of a broadcast, a
predicate. -/
theorem test_witness_VectorLoadsAndStores :
    (∀ x ∈ [(0, 1024, 64), (3840, 256, 64), (4092, 4, 4), (3968, 128, 8)],
      (framed .ready x.1).readable 5 x.1 x.2.1 x.2.2 ∧ ((framed .ready x.1).myFrame 5).holds x.1 x.2.1 x.2.2) ∧
    (let s := tiny.onMe fun x => { x with named := upd x.named 1 fun _ => 3840 }
     s.enabled .always [17] ∧ (s.src 17).extractLsb' 22 42 = 0 ∧ (s.src 17).extractLsb' 26 38 = 0) := by
  constructor
  · intro x hx
    simp only [List.mem_cons, List.not_mem_nil, or_false] at hx
    rcases hx with rfl | rfl | rfl | rfl <;>
      exact ⟨readable_framed _ _ _ (by decide) (by decide), by decide, by decide⟩
  · exact ⟨enabled_tiny _ _ _ rfl rfl, by decide +kernel, by decide +kernel⟩

/-- Every offset the last word of the frame; and a first offset just past it. -/
theorem test_witness_IndexedAccess :
    let good := fun (o : W32) => o.toNat % 4 = 0 ∧ o.toNat < 2 ^ 22 ∧ o.toNat + 4 ≤ 4096
    (framed .ready 0).enabled .always [] ∧ ((framed .ready 0).myFrame 5).bytes = 4096 ∧
    ((framed .ready 0).myFrame 5).xp = false ∧ (∀ o ∈ vfill 4092, good o) ∧
    (∀ o ∈ vfill 4092, ((framed .ready 0).myFrame 5).isPoisoned o.toNat 4 = false) ∧
    vfill 4096 = [] ++ 4096 :: List.replicate 1023 4096 ∧ ¬ good 4096 := by
  refine ⟨enabled_tiny _ _ _ rfl rfl, rfl, rfl, ?_, ?_, rfl, by decide⟩
  · intro o h
    rw [List.eq_of_mem_replicate h]
    decide
  · intro o h
    rw [List.eq_of_mem_replicate h]
    decide +kernel

theorem test_witness_FrameAtomics :
    (framed .ready 4088).enabled .always [17, 18] ∧ (framed .ready 4088).enabled .always [19, 17, 18] ∧
    ((framed .ready 4088).src 17).extractLsb' 28 36 = 0 ∧ (framed .ready 4088).readable 5 4088 8 8 ∧
    (8 : BitVec 4).toNat ≤ 8 :=
  ⟨enabled_tiny _ _ _ rfl rfl, enabled_tiny _ _ _ rfl rfl, by decide +kernel, readable_framed _ _ _ (by decide) (by decide),
    by decide⟩

/-- The operands of FALLOC at their limits in s1 and s2, f5 EMPTY, its pillar's other frames of n units together. -/
def allocating (size life n : Nat) : State :=
  { tiny with pillars := [{ Pillar.reset with
      seqs := [{ Seq.reset with named := [0, BitVec.ofNat 64 size, BitVec.ofNat 64 (life * 2 ^ 32)] }, Seq.reset]
      frames := upd Pillar.reset.frames 0 fun F => { F with state := .ready, size := n } }] }

theorem test_witness_FrameTable :
    (∀ n ∈ [0, 3072, 3073],
      let s := allocating 4194304 1800 n
      s.enabled .always [17, 18] ∧ (s.myFrame 5).state = .empty ∧ (s.src 17).toNat = 4194304 ∧
        ((s.src 18).extractLsb' 32 11).toNat = 1800 ∧ (s.src 18).extractLsb' 23 9 = 0 ∧
        (s.src 18).extractLsb' 43 21 = 0 ∧ ((s.mine.frames.map Frame.size).sum + 1024 ≤ 4096 ↔ n ≤ 3072)) ∧
    (((allocating 4096 0 0).src 18).extractLsb' 32 11 = 0) ∧
    (∀ st : FState, (framed st 0).enabled .always [] ∧ (framed st 0).enabled .always [18] ∧
      (framed st 0).enabled .always [18, 19] ∧ ((framed st 0).myFrame 5).state = st ∧
      ((framed st 0).myFrame 5).xp = false ∧ ((framed st 0).src 18).toNat ≤ ((framed st 0).myFrame 5).bytes ∧
      ((framed st 0).src 19).toNat ≤ 1800) ∧
    (let s := (framed .ready 0).onFrame 0 5 fun F => { F with xp := true }
     s.frame 0 5 = s.myFrame 5 ∧ (s.myFrame 5).state = .ready ∧ (s.myFrame 5).xp = true ∧ (s.myFrame 5).bytes < (s.src 17).toNat) := by
  refine ⟨?_, by decide +kernel, ?_, by decide +kernel⟩
  · intro n h
    simp only [List.mem_cons, List.not_mem_nil, or_false] at h
    rcases h with rfl | rfl | rfl <;> exact ⟨enabled_tiny _ _ _ rfl rfl, by decide +kernel⟩
  · intro st
    cases st <;> exact ⟨enabled_tiny _ _ _ rfl rfl, enabled_tiny _ _ _ rfl rfl, enabled_tiny _ _ _ rfl rfl,
      by decide +kernel⟩

theorem test_witness_FencesAndFrameStatus : tiny.enabled .always [] ∧ tiny.placed :=
  ⟨enabled_tiny _ _ _ rfl rfl, test_tiny.1⟩

theorem test_witness_Crossings : tiny.enabled .always [17] ∧ tiny.enabled .always [] ∧ tiny.me.wpos = 0 ∧
    (tiny.onMe fun x => { x with wpos := 1023, rpos := 1023 }).me.wpos = 1023 :=
  ⟨enabled_tiny _ _ _ rfl rfl, enabled_tiny _ _ _ rfl rfl, rfl, rfl⟩

/-- The V, F and direction statements ask only for the guard, and some for whole registers. -/
theorem test_witness_VectorFloat : tiny.enabled .always [] ∧ (tiny.holdV 0 3).length = 1024 ∧
    (tiny.vreg 31).length = 1024 := ⟨enabled_tiny _ _ _ rfl rfl, by decide +kernel, by decide +kernel⟩

theorem test_witness_RoundingAndMinMax :
    isNan32 0x7F800000 = false ∧ isNan32 0x7F800001 = true ∧ (0 < 1) ∧ (isNan32 0x80000000 || isNan32 0) = false ∧
    (isNan32 0x7FC00000 || isNan32 0) = true := by decide +kernel

theorem test_witness_VectorInteger : tiny.enabled .always [] ∧ bits (0x12 : BitVec 5) 0 2 < 3 :=
  ⟨enabled_tiny _ _ _ rfl rfl, by decide⟩

theorem test_witness_VectorMovesAndPredicates : tiny.enabled .always [] ∧ (5 : BitVec 3).toNat ≤ 5 :=
  ⟨enabled_tiny _ _ _ rfl rfl, by decide⟩

/-- FP32 to FP16 under TRAP: zeros convert; 65,536.0 in element 1 overflows. A value at the limit of FP16, of LG6
and of INT8, and one below it; a code of each format that is no NaN, and one that is. -/
theorem test_witness_Conversion :
    tiny.enabled .always [] ∧ convert (fmtVal 0 0) 2 3 = some 0 ∧ convert (fmtVal 0 0x47800000) 2 3 = none ∧
    (∃ ys : List Nat, (vfill 0).map (fun x => convert (fmtVal 0 x.toNat) 2 3) = ys.map some) ∧
    (0 : W32) :: 0x47800000 :: List.replicate 1022 0 = [0] ++ 0x47800000 :: List.replicate 1022 0 ∧
    (65520 * 2 ^ (-(0 : Int)).toNat ≤ 65520 * 2 ^ (0 : Int).toNat ∧ 65519 * 2 ^ (0 : Int).toNat < 65520 * 2 ^ (-(0 : Int)).toNat) ∧
    (let size := fun (c : Nat) => if c = 0 then 0 else [0x8000, 0x9838, 0xB505, 0xD745].getD (c % 4) 0 * 2 ^ (c / 4)
     size 31 < 2 ^ 23 ∧ 2 ^ 22 ≤ size 31) ∧
    ((127 : Int) < 128 ∧ ¬ (127 < (127 : Int))) ∧
    (∀ f ∈ [0, 1, 2, 3, 4, 5, 6, 7, 9, 10, 11, 12], fmtVal f 1 ≠ .nan) ∧ fmtVal 7 32 = .nan := by
  refine ⟨enabled_tiny _ _ _ rfl rfl, by decide +kernel, by decide +kernel, ⟨List.replicate 1024 0, ?_⟩, rfl, by decide,
    by decide +kernel, by decide, by decide +kernel, by decide +kernel⟩
  rw [vfill, List.map_replicate, List.map_replicate]
  congr 1

theorem test_witness_PackingAndTrits :
    tiny.enabled .always [] ∧ ((5 : BitVec 5).extractLsb' 0 2 = 1 ∧ ((5 : BitVec 5).extractLsb' 2 3).toNat < 2) ∧
    ((0xE : BitVec 5).extractLsb' 0 2 = 2 ∧ ((0xE : BitVec 5).extractLsb' 2 3).toNat < 4) ∧
    ((0x13 : BitVec 5).extractLsb' 0 2 = 3 ∧ ((0x13 : BitVec 5).extractLsb' 2 3).toNat < 5) ∧
    ([(-1 : Int), 0, 1, 1, -1].length = 5 ∧ ∀ x ∈ [(-1 : Int), 0, 1, 1, -1], x = -1 ∨ x = 0 ∨ x = 1) ∧ 242 < 243 :=
  ⟨enabled_tiny _ _ _ rfl rfl, by decide⟩

theorem test_witness_AccumulatorAccess : tiny.enabled .always [] := enabled_tiny _ _ _ rfl rfl

theorem test_witness_SpecialFunctions : tiny.enabled .always [] ∧ isNan32 0xFF800001 = true :=
  ⟨enabled_tiny _ _ _ rfl rfl, by decide +kernel⟩

theorem test_witness_LaneMovesAndReductions : tiny.enabled .always [] ∧ (tiny.vreg 2).length = 1024 :=
  ⟨enabled_tiny _ _ _ rfl rfl, by decide +kernel⟩

theorem test_witness_Directions : tiny.enabled .always [] := enabled_tiny _ _ _ rfl rfl

/-- The small state with s1 and s2 given. -/
def two (a b : Nat) : State :=
  { tiny with pillars := [{ Pillar.reset with
      seqs := [{ Seq.reset with named := [0, BitVec.ofNat 64 a, BitVec.ofNat 64 b] }, Seq.reset] }] }

theorem enabled_two (a b : Nat) (srcs : List (BitVec 5)) (k : srcs.contains 31 = false) :
    (two a b).enabled .always srcs := enabled_tiny _ _ _ rfl k

/-- The last place of the weight store for a TRN slot; all four layers present; a 1 KiB image at the end of a READY
frame. -/
theorem test_witness_CubeRecordsAndQueue :
    (tiny.placed ∧ tiny.me.recs.length < 256) ∧
    (let s := two 2147482624 2
     s.enabled .always [17, 18] ∧ s.enabled .always [17] ∧ s.enabled .always [] ∧
       15 &&& (s.myStack.layers.toNat % 16) = 15 ∧ (s.src 18).toNat < 3 ∧ (s.src 17).toNat % 1024 = 0 ∧
       (s.src 17).toNat + 1024 ≤ 2147483648) ∧
    (((framed .ready 3072).src 17).extractLsb' 28 36 = 0 ∧ ((framed .ready 3072).myFrame 5).holds 3072 1024 64 ∧
      ((framed .ready 3072).myFrame 5).xp = false ∧ ((framed .ready 3072).myFrame 5).state = .ready) :=
  ⟨⟨test_tiny.1, by decide⟩, ⟨enabled_two _ _ _ rfl, enabled_two _ _ _ rfl, enabled_two _ _ _ rfl, by decide +kernel⟩,
    by decide +kernel, ⟨by decide +kernel, by decide⟩, rfl, rfl⟩

/-- f5 of one unit in a state, s1 naming its byte at an offset, ft0 BF16 by BF16, g0 of one block. -/
def cubeState (st : FState) (off nk : Nat) (fmt : W32) : State :=
  { tiny with
    stks := [{ Stack.reset with handles := [(3, ⟨0, 1, false, 2, 0, [8, 8, 0, 0, 0], [16, 0, 0, 0]⟩)] }]
    pillars := [{ Pillar.reset with
      seqs := [{ Seq.reset with
        named := [0, BitVec.ofNat 64 (5 * 2 ^ 22 + off), 0, 3, 4]
        geos := [BitVec.ofNat 64 nk]
        fts := [fmt] }, Seq.reset]
      frames := upd Pillar.reset.frames 5 fun F => { F with state := st, size := 1 } }] }

theorem enabled_cube (st : FState) (off nk : Nat) (fmt : W32) (srcs : List (BitVec 5)) (k : srcs.contains 31 = false) :
    (cubeState st off nk fmt).enabled .always srcs := enabled_tiny _ _ _ rfl k

/-- Accepted: a block that ends where its frame does; a loop level not held; a handle, and an operand that names
none. Refused: an unset entry, a layer the stack lacks, no blocks, an address above the frames, a block one row past
the end, FILLING, a handle of another width. -/
theorem test_witness_CubeIssue :
    (let s := cubeState .ready 2048 1 0x11
     s.enabled .always [17, 18] ∧ s.enabled .always [18] ∧ 15 &&& (s.myStack.layers.toNat % 16) = 15 ∧
       s.me.geos.getD 0 0 = 1 ∧ s.me.fts.getD 0 0 = 0x11 ∧ controlOk 1 (s.src 18) false = true ∧
       controlOk 1 (s.src 18) true = true ∧ (s.src 17).extractLsb' 28 36 = 0 ∧ (s.myFrame 5).state = .ready ∧
       2048 + blockBytes 1 ≤ (s.myFrame 5).bytes ∧
       (s.handleOf 0 (s.src 19)).any (fun h => h.width = fmtBytes 1) = true ∧ s.handleOf 0 (s.src 20) = none) ∧
    ((cubeState .ready 0 1 0).me.fts.getD 0 0).toNat % 16 = 0 ∧
    ¬ (15 &&& ({ cubeState .ready 0 1 0x11 with stks := [{ Stack.reset with layers := 7 }] }.myStack.layers.toNat % 16)
      = 15) ∧
    controlOk ((cubeState .ready 0 0 0x11).me.geos.getD 0 0) 0 false = false ∧
    ((two (2 ^ 28) 0).src 17).extractLsb' 28 36 ≠ 0 ∧
    ((cubeState .ready 2112 1 0x11).myFrame 5).bytes < 2112 + blockBytes 1 ∧
    (((cubeState .filling 2048 1 0x11).myFrame 5).state = .filling ∧
      2048 + blockBytes 1 ≤ ((cubeState .filling 2048 1 0x11).myFrame 5).bytes) ∧
    (let s := cubeState .ready 2048 1 0x55
     controlOk (s.me.geos.getD 0 0) 0 true = true ∧
       (s.handleOf 0 (s.src 19)).all (fun k => decide (k.width = fmtBytes 5)) = false) :=
  ⟨⟨enabled_cube _ _ _ _ _ rfl, enabled_cube _ _ _ _ _ rfl, by decide +kernel⟩, by decide +kernel⟩

/-- f5 in a state, a handle of 2-byte elements under number 3 named by s3, and a command word in s4. -/
def engineState (st : FState) (word : Nat) : State :=
  { tiny with
    stks := [{ Stack.reset with handles := [(3, ⟨0, 1, false, 2, 0, [8, 8, 0, 0, 0], [16, 0, 0, 0]⟩)] }]
    pillars := [{ Pillar.reset with
      seqs := [{ Seq.reset with named := [0, 0, 0, 3, BitVec.ofNat 64 word] }, Seq.reset]
      frames := (upd Pillar.reset.frames 5 fun F => { F with state := st, size := 1 }) }] }

/-- The command an engine syllable on f5 forms there. -/
def command (kind : EngineKind) (word : Nat) : EngineOp :=
  { kind := kind, frame := 5, fl := false, lu := false, word := BitVec.ofNat 64 word
    handle := ⟨0, 1, false, 2, 0, [8, 8, 0, 0, 0], [16, 0, 0, 0]⟩, ctx := false, index := none, done := [], part := [], stage := []
    held := [], roleW := false, roleF := false, roleX := false, ready := false, reached := false, heldSince := none, told := false }

/-- With one element a row and one row, and with the whole frame (2,048 elements) as the tile; a scope with no
acquire or release breaks the command word; a tile of 4,096 elements does not fit. GATHER and ATOMG name frames
other than f5. -/
theorem test_witness_EngineIssue :
    (∀ word ∈ [0, 10 * 2 ^ 36 + 2 ^ 40], ∀ st : FState,
      let s := engineState st word
      s.enabled .always [19, 20] ∧ s.me.recs.length < 256 ∧
        s.handleOf (stackOf s.cur.p) (s.src 19) = some (command .copyin word).handle ∧
        0 < (command .copyin word).handle.nd ∧ s.me.contextMode = false ∧ ((s.cur.found[5]?).getD (s.myFrame 5)).state = st ∧
        (∀ kind ∈ [EngineKind.copyin, .copyout], (command kind word).fieldsOk = true) ∧
        ((command .copyin word).fseg + 1) * (command .copyin word).tileBytes ≤ (s.myFrame 5).bytes) ∧
    ((command .copyin (2 ^ 46)).fieldsOk = false ∧ (command .copyin (11 * 2 ^ 36)).fieldsOk = false) ∧
    ((command .copyin (10 * 2 ^ 36 + 2 * 2 ^ 40)).fieldsOk = true ∧ ((engineState .filling 0).myFrame 5).bytes <
      ((command .copyin (10 * 2 ^ 36 + 2 * 2 ^ 40)).fseg + 1) * (command .copyin (10 * 2 ^ 36 + 2 * 2 ^ 40)).tileBytes) ∧
    ((command .gather 0).fieldsOk = true ∧ (command .gather 0).ixf ≠ 5 ∧ (command .scatter 0).fieldsOk = true ∧
      256 * bits (command .gather 0).word 20 8 + 4 * 2 ^ bits (command .gather 0).word 40 4 ≤ 4096) ∧
    (command .atomg 0).rf ≠ 5 ∧ 8 * ((command .atomg 0).fseg + 1) ≤ 4096 ∧ (command .atomg (2 ^ 41)).fieldsOk = true ∧
    (BitVec.ofNat 64 (2 ^ 41) : W64).getLsbD 41 = true ∧ 16 * ((command .atomg (2 ^ 41)).fseg + 1) ≤ 4096 := by
  refine ⟨?_, by decide +kernel⟩
  intro word h st
  simp only [List.mem_cons, List.not_mem_nil, or_false] at h
  rcases h with rfl | rfl <;> cases st <;> exact ⟨enabled_tiny _ _ _ rfl rfl, by decide +kernel⟩

/-- The last frame number and the first above it. -/
theorem test_witness_EngineCancel :
    (two 63 0).placed ∧ (two 63 0).enabled .always [] ∧ (two 63 0).enabled .always [17] ∧ ((two 63 0).src 17).toNat < 64 ∧
    64 ≤ ((two 64 0).src 17).toNat :=
  ⟨⟨by decide, by decide⟩, enabled_two _ _ _ rfl, enabled_two _ _ _ rfl, by decide +kernel⟩

/-- The last pillar and the first number above it. -/
theorem test_witness_Flags :
    ((two 127 0).me.gang = [] ∧ (two 127 0).me.fences = [] ∧ (two 127 0).me.flagq = []) ∧
    ((two 127 0).enabled .always [17] ∧ (two 127 0).enabled .always [] ∧ (two 127 0).enabled .always [17, 18]) ∧
    ((two 127 0).src 17).toNat < 128 ∧ 128 ≤ ((two 128 0).src 17).toNat :=
  ⟨⟨rfl, rfl, rfl⟩, ⟨enabled_two _ _ _ rfl, enabled_two _ _ _ rfl, enabled_two _ _ _ rfl⟩, by decide +kernel⟩

/-- The small state with n items in tray 0. -/
def trayed (n : Nat) : State := tiny.onMine fun P => { P with trays := [List.replicate n [0], [], [], []] }

/-- A tray that 1,024 more items fill, and one they overfill; with and without a failed gang latched. -/
theorem test_witness_SendingAndTrays :
    ((two 127 0).enabled .always [17, 18] ∧ ((two 127 0).src 17).toNat < 128 ∧ 128 ≤ ((two 128 0).src 17).toNat) ∧
    (tiny.enabled .always [] ∧ tiny.me.gang = []) ∧
    (let s := tiny.onMe fun x => { x with gang := [(0, true)] }
     s.enabled .always [] ∧ s.me.gang ≠ []) ∧
    ((trayed 3072).enabled .always [] ∧
      ((trayed 3072).mine.trays.getD 0 []).length +
        ((List.range 1024).filter fun e => ((trayed 3072).vpred 0).on e).length ≤ 4096) ∧
    4096 < ((trayed 3073).mine.trays.getD 0 []).length +
      ((List.range 1024).filter fun e => ((trayed 3073).vpred 0).on e).length :=
  ⟨⟨enabled_two _ _ _ rfl, by decide +kernel⟩, ⟨enabled_tiny _ _ _ rfl rfl, rfl⟩,
    ⟨enabled_tiny _ _ _ rfl rfl, by decide +kernel⟩, ⟨enabled_tiny _ _ _ rfl rfl, by decide +kernel⟩, by decide +kernel⟩

/-- Two pushes due out of order, with one more result not yet due; one result of each kind due alone; two results
due for one destination of each kind, of one ic and of two. -/
theorem test_witness_Landings :
    (let a : Landing := ⟨5, 0, 1, .push 1⟩
     let b : Landing := ⟨5, 3, 1, .push 2⟩
     let x := { Seq.reset with inflight := [b, ⟨6, 0, 2, .push 3⟩, a] }
     [a, b].Perm (x.inflight.filter fun l => l.land ≤ 5) ∧
       [a, b].Pairwise (fun a b => a.land < b.land ∨ (a.land = b.land ∧ (a.slot < b.slot ∨
         (a.slot = b.slot ∧ a.order < b.order)))) ∧
       [a, b].map Landing.what = [1, 2].map Payload.push ∧ x.queue.length = 16) ∧
    (∀ w : Payload, let l : Landing := ⟨5, 0, 1, w⟩
     ([l, ⟨6, 0, 2, .push 3⟩].filter fun l => l.land ≤ 5) = [l] ∧ l.what = w) ∧
    (∀ (w v : Payload), ∀ k ∈ [4, 5], let a : Landing := ⟨k, 4, 1, w⟩
     let b : Landing := ⟨5, 5, 1, v⟩
     ([b, a].filter fun l => l.land ≤ 5).Perm [a, b] ∧ a.what = w ∧ b.what = v ∧ (a.land < b.land ∨ (a.land = b.land ∧
       (a.slot < b.slot ∨ (a.slot = b.slot ∧ a.order < b.order))))) := by
  refine ⟨⟨List.Perm.swap _ _ [], by decide, rfl, rfl⟩, fun _ => ⟨rfl, rfl⟩, fun w v k h => ?_⟩
  simp only [List.mem_cons, List.not_mem_nil, or_false] at h
  rcases h with rfl | rfl <;> exact ⟨List.Perm.swap _ _ [], rfl, rfl, by simp⟩

/-- The small state whose stack 0 holds job 0's first 64 KiB in its TLB: an SO page, writable, code, at its own
address. -/
def paged : State := { tiny with stks := [{ Stack.reset with tlb := [⟨0, 0, 65536, 0xF⟩] }] }

theorem onPage (s : State) (hs : (s.stack 0).tlb = [⟨0, 0, 65536, 0xF⟩]) (va : Nat) (a : Access) (h : va < 65536) :
    s.translate 0 0 va a = (s, .ok va 0xF) := by
  have e : entryAddr (0xF : W64) = 0 := rfl
  have k : spaceOf va = some (.hbm 0) := by rw [spaceOf, if_pos (by omega), Nat.div_eq_of_lt (by omega)]
  rw [State.translate, if_neg (by omega)]
  simp only [Stack.tlbHit, hs, List.find?_cons, Nat.zero_le, decide_true, Nat.zero_add, h, Bool.and_self]
  simp only [permitAccess, e, Nat.sub_zero, Nat.zero_add, k]
  cases a <;> rfl

theorem offPage (s : State) (va : Nat) (a : Access) (h : 2 ^ 52 ≤ va) :
    s.translate 0 0 va a = (s, .bad cXlate (xlateInfo va 3 7 (a = .write))) := by
  rw [State.translate, if_pos (by omega)]

/-- The small state with a rewrite of frame 5 under way, n units left, begun so many ticks ago. -/
def rewriting (n ago : Nat) : State :=
  tiny.onMine fun P => { P with rewrite := some (5, n, 0 - BitVec.ofNat 48 ago) }

/-- The small state with frame 5 to be renewed: AUTO, with fewer than 25 s left. -/
def renewing : State := (framed .ready 0).onFrame 0 5 fun F => { F with auto := true, expiry := 1 }

/-- The limits of the fade count's distance and of a rewrite's time, the three kinds of `ERRINJ`, a line and a full
set. -/
theorem test_witness_PillarEvents :
    (let F := ((framed .ready 0).onFrame 0 5 fun F => { F with expiry := 0 - BitVec.ofNat 48 (2 ^ 47 - 1) }).frame 0 5
     F.state ≠ .empty ∧ (tiny.mine.fadeCount - F.expiry).toNat < 2 ^ 47) ∧
    ((tiny.frame 0 0).state = .empty ∧ 2 ^ 47 ≤ (tiny.mine.fadeCount - 1).toNat) ∧
    ((rewriting 1 819200).mine.rewrite = some (5, 1, 0 - BitVec.ofNat 48 819200) ∧
      819200 ≤ ((rewriting 1 819200).mine.fadeCount - (0 - BitVec.ofNat 48 819200)).toNat ∧
      ((rewriting 1 819200).mine.fadeCount - (0 - BitVec.ofNat 48 819200)).toNat < 819200 + tiny.mine.fadeInc.toNat ∧
      ((rewriting 1 819199).mine.fadeCount - (0 - BitVec.ofNat 48 819199)).toNat < 819200 ∧
      819200 + tiny.mine.fadeInc.toNat ≤ ((rewriting 1 823296).mine.fadeCount - (0 - BitVec.ofNat 48 823296)).toNat) ∧
    (tiny.mine.rewrite = none ∧ tiny.fnmode.getLsbD 2 = false ∧ tiny.hkreqs = []) ∧
    ((tiny.onMine fun P => { P with renewBudget := 0 }).mine.renewBudget = 0 ∧ 0 < (rewriting 1 0).mine.renewBudget) ∧
    (0 < renewing.mine.renewBudget ∧ renewing.mine.rewrite = none ∧ renewing.nearest 0 (renewing.renewables 0) = [5]) ∧
    (bits (BitVec.ofNat 64 (2 ^ 19 + 1023) : W64) 19 2 = 1 ∧
      (let v : W64 := BitVec.ofNat 64 (4095 * 2 ^ 28 + 5 * 2 ^ 22 + 2 ^ 20)
       bits v 19 2 = 2 ∧ ((framed .ready 0).frame 0 (bits v 22 6)).state ≠ .empty ∧
        bits v 28 22 < ((framed .ready 0).frame 0 (bits v 22 6)).bytes) ∧ bits tiny.mine.errinj 19 2 = 0) ∧
    (tiny.who.part = 0 ∧ tiny.who.up = false ∧ tiny.who.v % 16 ≠ 11 ∧
      bits ({ Stack.reset with layers := 0x7C8F }).layers (4 + 3 * bits (11 : W64) 4 2) 3 < 5 ∧ (tiny.seq 0 0).mode = false) ∧
    paged.translate 0 (paged.jobOf 0 0) (if (paged.seq 0 0).pc.toNat / 128 = paged.who.k then (paged.seq 0 0).pc.toNat
      else 128 * paged.who.k) .fetch = (paged, .ok 0 0xF) ∧
    (let ls := (List.range 4).map fun k => (⟨128 * k + 1, []⟩ : ICLine)
     (ls.filter fun l => l.line % 128 = (⟨513, []⟩ : ICLine).line % 128).length ≤ 4 ∧
       ls.Pairwise fun a b => a.line ≠ b.line) :=
  ⟨by decide +kernel, by decide +kernel, by decide +kernel, ⟨rfl, rfl, rfl⟩, by decide +kernel, by decide +kernel,
    by decide +kernel, by decide +kernel, onPage paged rfl 0 .fetch (by decide), by decide +kernel⟩

/-- A packet with three doublewords after its header, its first access permitted once it has started. -/
def packet (started : Bool) (progress a b c : Nat) : Packet :=
  ⟨0, leBytes 8 0 ++ leBytes 8 a ++ leBytes 8 b ++ leBytes 8 c ++ List.replicate 32 0, none, started, started, false, progress⟩

/-- The paged state with a packet in queue 0 of stack 0, running, and some of its memory given. -/
def packeted (k : Packet) (mem : List Host.Cell) : State :=
  { paged with mem := mem, stks := [{ Stack.reset with
      tlb := [⟨0, 0, 65536, 0xF⟩], queues := [{ Queue.reset with state := .running, packets := [k] }] }] }

/-- An address that translates and one past the space; a wait on a count of 0 and one on completion; a handle of one
dimension, read now and earlier; a COPY and a WLOAD of a sector not yet begun, begun, moved, and left part-way; a
release behind a packet not done, and an atomic in self-refresh. -/
theorem test_witness_PacketEvents :
    (∀ k m, ((packeted k m).queue 0 0).packet? k.idx = some k ∧ ((packeted k m).queue 0 0).job = 0) ∧
    (let s := packeted (packet false 0 0x1000 0 0) []
     let u := packeted (packet false 0 0x1000 1 0) []
     s.translate 0 0 0x1000 .write = (s, .ok 0x1000 0xF) ∧ s.translate 0 0 0x1000 .read = (s, .ok 0x1000 0xF) ∧
       ((0xF : W64).extractLsb' 6 2).toNat = 0 ∧ s.atomicsHeld 0x1000 = false ∧
       ({ s with selfRefresh := [true] }).atomicsHeld 0x1000 = true ∧
       ¬ (s.readJcb 0x1000).state % 2 = 1 ∧ 0 ≤ (u.readJcb 0x1000).count) ∧
    (let s := packeted (packet false 0 (2 ^ 52) 0 0) []
     s.translate 0 0 (2 ^ 52) .write = (s, .bad cXlate (xlateInfo (2 ^ 52) 3 7 true))) ∧
    (let s := packeted (packet false 0 0x1000 0 0) [(0x1008, 0x40), (0x1010, 1)]
     s.readVirt 0 0 0x1000 64 = (s, some (s.busRead 0x1000 64)) ∧ handleOk (s.busRead 0x1000 64) = true) ∧
    ((packet false 0 0 0 0).started = false ∧ (packet false 0 0 0 0).object = none ∧ (packet false 0 0 0 0).passed = false ∧
      (packet true 0 0 0 0).started = true ∧ { packet true 0 0 0 0 with started := false }.passed = true) ∧
    (let s := packeted (packet true 0 0 0x2000 32) []
     0 < min (min (32 - 0 % 32) (32 - 0x2000 % 32)) (min (32 - 0) (s.stack 0).hdmaLeft) ∧
       s.translate 0 0 0 .read = (s, .ok 0 0xF) ∧ s.translate 0 0 0x2000 .write = (s, .ok 0x2000 0xF)) ∧
    (let s := packeted (packet true 0 0 (8 * 2 ^ 32) 32) []
     leNat (((packet true 0 0 (8 * 2 ^ 32) 32).bytes.drop 0x14).take 1) = 2 ^ 3 ∧ s.poison = [] ∧
       s.translate 0 0 0 .read = (s, .ok 0 0xF)) ∧
    (packet true 32 0 0 32).progress = leNat (((packet true 32 0 0 32).bytes.drop 0x18).take 8) ∧
    (let k := { packet false 0 0 0 0 with idx := 1, bytes := leBytes 8 0x1004 ++ List.replicate 56 0 }
     (BitVec.ofNat 64 (leNat ((k.bytes.drop 0).take 8))).getLsbD 12 = true ∧
       ∃ j ∈ [packet true 0 0 0 0, k], j.idx < k.idx ∧ j.done = false) := by
  refine ⟨fun k m => ⟨?_, show bits (0 : W64) 32 16 = 0 by decide⟩, ⟨onPage _ rfl _ _ (by decide), onPage _ rfl _ _ (by decide), by decide +kernel⟩,
    offPage _ _ _ (by decide), ⟨?_, by decide +kernel⟩, by decide +kernel,
    ⟨by decide +kernel, onPage _ rfl _ _ (by decide), onPage _ rfl _ _ (by decide)⟩,
    ⟨by decide +kernel, rfl, onPage _ rfl _ _ (by decide)⟩, by decide +kernel, by decide +kernel⟩
  · exact List.find?_cons_of_pos (decide_eq_true rfl)
  · rw [State.readVirt, onPage _ rfl _ _ (by decide)]

/-- A record at 0x2000: VER 1, one level of one iteration; the domain pillar 0 of stack 0, sequencer 0. -/
def record : List Host.Cell :=
  [(0x2000, 0x11), (0x2021, 0x40), (0x2028, 1), (0x202C, 0x11), (0x2034, 1)]

/-- The paged state with a LAUNCH packet of that record, its queue allowed stack 0. -/
def launching : State :=
  { paged with mem := record, stks := [{ Stack.reset with
      tlb := [⟨0, 0, 65536, 0xF⟩]
      queues := [{ Queue.reset with
        state := .running, widx := 1, qcfg := 0x104, ring := 0x3000, packets := [packet false 0 0x2000 0 0] }] }] }

theorem launching_record : ∃ snap, launching.checkRecord 0 0 (bits (launching.queue 0 0).qcfg 8 4)
    (launching.busRead 0x2000 128) = (launching, .ok snap) := by
  have e : ∀ va n, va < 65536 → launching.readVirt 0 0 va n = (launching, some (launching.busRead va n)) := by
    intro va n h
    rw [State.readVirt, onPage launching rfl va .read h]
  refine ⟨(launching.busRead 0 64 ++ (launching.busRead 64 64 ++ (launching.busRead 128 64 ++
    (launching.busRead 192 64 ++ []))), []), ?_⟩
  rw [State.checkRecord, show shapeReject (launching.busRead 0x2000 128) = none by decide +kernel]
  simp only [show (recAddresses (launching.busRead 0x2000 128)).all addressOk = true by decide +kernel, Bool.not_true,
    Bool.false_eq_true, if_false, show bits (recHdr (launching.busRead 0x2000 128)) 32 5 = 0 by decide +kernel,
    show fieldAt (launching.busRead 0x2000 128) 8 8 = 0 by decide +kernel,
    show fieldAt (launching.busRead 0x2000 128) 0x10 8 = 0 by decide +kernel,
    State.entryIsCode, onPage launching rfl 0 .fetch (by decide), State.readBlocks, e 0 64 (by decide),
    e (0 + 64) 64 (by decide), e (0 + 64 + 64) 64 (by decide), e (0 + 64 + 64 + 64) 64 (by decide), State.readWords,
    Nat.zero_min]
  rw [if_neg (by decide), if_neg (by decide +kernel), if_neg (by decide +kernel), if_neg (by decide +kernel)]

/-- The small state with one launch of job 0 in its walker, all of n iterations granted to stack 0. -/
def walking (gang : Nat) (n : Nat) : State :=
  { paged with
    stks := [{ Stack.reset with job := some 0, bootst := 8 }]
    launches := [{ id := 0, stack := 0, queue := 0, packet := 0, job := 0, hdr := BitVec.ofNat 64 (0x11 + 128 * gang)
                   entry := 0, jcb := 0x4000, domain := BitVec.ofNat 64 (1 + 2 ^ 32 + 2 ^ 36), levels := [(0, 0, n, 1, 0)]
                   args := List.replicate 256 0, argMarks := [], fts := [], total := n, nextT := n, leader := 0, epoch := 0
                   electing := false, candidate := none, gathered := [], requests := [], grants := []
                   abandoned := false, fabric := []
                   parts := [⟨0, 0, [(0, n)], [(0, n)], [], [0], 0, none, 0, 0, 0, [], false, 0⟩]
                   lostN := 0, ended := false }] }

/-- A record that passes every check; a slot's first granule unread, and a queue of priority 0 whose slot is read
and which is ready for 0 ns; an iteration to place; f0 READY for the launch, EMPTY, and FILLING at the watchdog's
limit; the last index of each level. -/
theorem test_witness_LaunchAndIndices :
    (launching.thePacket = some (packet false 0 0x2000 0 0) ∧ (packet false 0 0x2000 0 0).object = none ∧
      leNat ((packet false 0 0x2000 0 0).bytes.take 1) ≠ 3 ∧
      launching.readVirt 0 0 0x2000 128 = (launching, some (launching.busRead 0x2000 128)) ∧
      addressOk (leNat (((launching.busRead 0x2000 128).drop 0x20).take 8), 64) = true ∧
      launching.soAddress 0 0 (leNat (((launching.busRead 0x2000 128).drop 0x20).take 8)) true = (launching, some 0x4000) ∧
      launching.isDevice 0x4000 = true ∧
      (∃ snap, launching.checkRecord 0 0 (bits (launching.queue 0 0).qcfg 8 4) (launching.busRead 0x2000 128) =
        (launching, .ok snap)) ∧ 0 < recTotal (launching.busRead 0x2000 128)) ∧
    (let s := { paged with stks := [{ Stack.reset with
                  tlb := [⟨0, 0, 65536, 0xF⟩], queues := [{ Queue.reset with state := .running, widx := 1, ring := 0x3000 }] }] }
     0 ∈ (s.queue 0 0).unread ∧ s.readVirt 0 0 0x3000 8 = (s, some (s.busRead 0x3000 8)) ∧ s.who.up = false ∧
       { s with who := { up := true } }.who.up = true) ∧
    (let s := { paged with stks := [{ Stack.reset with queues := [{ Queue.reset with
                  state := .running, widx := 1, slot := (List.range 8).map fun k => (k, List.replicate 8 0) }] }] }
     (s.noteReady 0).readyQueues 0 = [0] ∧ 0 ∈ s.readyQueues 0 ∧
       s.tick / 2 ≤ ((s.noteReady 0).queue 0 0).waitStart + 200000 ∧ ((s.noteReady 0).queue 0 0).level < 4) ∧
    ((walking 0 1).nextPlacement 0 = some (0, [(0, 0)]) ∧ ((walking 0 1).launch? 0).isSome = true) ∧
    ((framed .ready 0).onPillar 0 fun P => { P with
        f0Launch := some 0, frames := upd P.frames 0 fun F => { F with state := .ready } }).mine.f0Launch = some 0 ∧
    ((tiny.frame 0 0).state = .empty ∧ tiny.mine.f0Launch ≠ some 0) ∧
    (let s := tiny.onPillar 0 fun P => { P with f0Wait := some 0, frames := upd P.frames 0 fun F => { F with state := .filling } }
     (s.frame 0 0).state = .filling ∧ (s.pillar 0).f0Wait = some 0) ∧
    (∀ m ∈ allSeqs, (tiny.seq m.1 m.2).recs = []) ∧ 2 ^ 32 - 2 < 2 ^ 32 - 1 := by
  refine ⟨⟨by decide +kernel, rfl, by decide +kernel, ?_, by decide +kernel, ?_, by decide +kernel, launching_record,
    by decide +kernel⟩, ⟨by decide +kernel, ?_, rfl, rfl⟩, by decide +kernel, by decide +kernel, by decide +kernel,
    by decide +kernel, by decide +kernel, by decide +kernel, by decide⟩
  · rw [State.readVirt, onPage launching rfl 0x2000 .read (by decide)]
  · rw [show leNat (((launching.busRead 0x2000 128).drop 0x20).take 8) = 0x4000 by decide +kernel, State.soAddress,
      if_pos rfl, onPage launching rfl 0x4000 .write (by decide)]
    rfl
  · rw [State.readVirt, onPage _ rfl 0x3000 .read (by decide)]

/-- The paged state, booted, with one queue of 16 slots on stack 0 and an event of number v. -/
def queued (f : Queue → Queue) (v : Nat) : State :=
  { paged with who := { v := v }, mem := [(8, 16)], stks := [{ Stack.reset with
      tlb := [⟨0, 0, 65536, 0xF⟩], bootst := 8, queues := [f { Queue.reset with qcfg := 0x104 }] }] }

/-- The index already held, the last slot of the ring, one past it; a descriptor of 2^16 slots; each state of a
queue; an ABORT over and one not; a halt of each code, with a COPY left part-way and with none. -/
theorem test_witness_QueueEvents :
    ((queued id 0).who.v ≤ ((queued id 0).queue 0 0).widx ∧
      (let s := queued id 16
       let x := s.queue 0 0
       x.widx < s.who.v ∧ s.who.v ≤ x.rdidx + 2 ^ bits x.qcfg 0 5) ∧
      (let s := queued (fun x => { x with state := .running }) 17
       let x := s.queue 0 0
       x.widx < s.who.v ∧ x.rdidx + 2 ^ bits x.qcfg 0 5 < s.who.v ∧ x.state = .running ∧ x.state ≠ .disabled)) ∧
    (let s := queued id 0
     bit (s.stack 0).bootst 3 = true ∧ (s.queue 0 0).state = .disabled ∧
       descriptorOk (s.readMem ((s.stack 0).qtbase.toNat + 64 * 0) 64) = true ∧ bit (paged.stack 0).bootst 3 = false) ∧
    (∀ off en, ∀ c ∈ [0, 10], let s := queued (fun x => { x with state := .aborting, abortTo := some off, en := en, errc := c }) 0
     (s.queue 0 0).state = .aborting ∧ (∀ k ∈ (s.queue 0 0).packets, k.done = true) ∧ (s.queue 0 0).en = en ∧
       (s.queue 0 0).errc = c ∧ (s.queue 0 0).abortTo.getD false = off) ∧
    ¬ (∀ k ∈ ((queued (fun x => { x with state := .aborting, packets := [packet true 0 0 0 0] }) 0).queue 0 0).packets,
      k.done = true) ∧
    (∀ c ∈ [9, 0, 5, 10, 11], let s := queued (fun x => { x with state := .halted, errc := c }) 0
      (s.queue 0 0).state = .halted ∧ (s.queue 0 0).errc = c ∧ ∀ k ∈ (s.queue 0 0).packets, k.started = true) ∧
    (let k := { packet true 0 0 0 0 with started := false }
     let s := queued (fun x => { x with state := .halted, errc := 6, packets := [k] }) 0
     (s.queue 0 0).state = .halted ∧ (s.queue 0 0).errc = 6 ∧ (s.queue 0 0).packets = [] ++ k :: [] ∧ k.started = false ∧
       k.passed = true ∧ leNat (k.bytes.take 1) ≠ 2) := by
  decide +kernel

/-- The small state with a launch of 128 iterations on this package's stack 0, the leader, and the next package's. -/
def sharing (f : Launch → Launch) (w : Who) : State :=
  { walking 0 128 with
    who := w
    launches := (walking 0 128).launches.map fun l => f { l with
      nextT := 0
      parts := [⟨0, 0, [], [], [], [0, 0], 0, none, 0, 0, 0, [], false, 0⟩,
        ⟨1, 0, [], [], [], [0, 0], 0, none, 0, 0, 0, [], false, 0⟩] } }

/-- One request of an earlier tick, the last chunk, an election; a request of a healthy participant; a grant on its
way; a heartbeat of a failed participant, of an old epoch and of the same one; the other package's participant,
which fails; an order of two requests; the shares of a gang under an epoch seen and one not. -/
theorem test_witness_ChunksAndGangs :
    ([((0, 0) : Nat × Nat), (0, 1)].Pairwise fun a b => a.1 < b.1 ∨ (a.1 = b.1 ∧ a.2 ≤ b.2)) ∧
    (∀ l, (sharing id {}).launches = [l] → l.electing = false ∧ { l with requests := [(0, 1)] }.requests = [(0, 1)] ∧
      l.nextT < l.total ∧ l.total ≤ { l with nextT := 128 }.nextT ∧ { l with electing := true }.electing = true ∧
      1 < l.parts.length ∧ l.gang = false ∧ l.abandoned = false ∧
      l.parts.all (fun y => y.failed.isNone) = true ∧ l.leader ≠ 1) ∧
    ((∃ l, (sharing id {}).launch? 0 = some l ∧ (∀ x ∈ l.parts, x.failed = none → x.epoch ≤ (sharing id {}).who.k) ∧
      ∃ x ∈ { l with parts := upd l.parts 0 fun x => { x with epoch := 1 } }.parts, x.failed = none ∧ 0 < x.epoch) ∧
      ((sharing id {}).launches.map fun m => m.id).Nodup) ∧
    (∃ l x, (sharing id {}).launch? 0 = some l ∧ l.part? 0 = some x ∧ x.pkg = (sharing id {}).pkg ∧ x.failed = none ∧
      ((sharing id {}).stack x.stack).shut = false ∧ x.mute = false ∧ x.epoch ≤ (sharing id {}).who.v) ∧
    (∃ l x, (sharing id { part := 1, up := true }).launch? 0 = some l ∧ l.part? 1 = some x ∧ x.failed = none ∧
      x.pkg ≠ (sharing id {}).pkg) ∧
    (let old := fun (l : Launch) => { l with parts := upd l.parts 0 fun x => { x with epoch := 1, failed := some 0 } }
     ∃ l r, (sharing old {}).launch? 0 = some l ∧ l.part? 0 = some r ∧ r.failed.isSome = true ∧ (sharing old {}).who.v < r.epoch) := by
  refine ⟨by decide, ?_, ⟨⟨_, rfl, by decide +kernel, by decide +kernel⟩, by decide +kernel⟩,
    ⟨_, _, rfl, rfl, rfl, rfl, rfl, rfl, by decide⟩, ⟨_, _, rfl, rfl, rfl, by decide⟩, ⟨_, _, rfl, rfl, rfl, by decide⟩⟩
  intro l h
  cases h
  decide +kernel

/-- The paged state with frame 5 of one unit, a handle of 2-byte elements, and an engine command of index 0 in
sequencer 0. -/
def commanded (st : FState) (expb : Nat) (e : EngineOp) (k : Nat) : State :=
  { paged with
    who := { k := k }
    pillars := [{ Pillar.reset with
      seqs := [{ Seq.reset with recs := [⟨0, 0, 24, 0, 0, 0, 0, 0, false, false, false, 0, 0, 0, 0, .engine e⟩] }, Seq.reset]
      frames := upd Pillar.reset.frames 5 fun F => { F with state := st, size := 1, expb := expb } }] }

/-- The record there. -/
def commandRec (e : EngineOp) : Rec := ⟨0, 0, 24, 0, 0, 0, 0, 0, false, false, false, 0, 0, 0, 0, .engine e⟩

/-- A command that is ready, of one element; of the tensor, and (an index past it) of none. -/
def readied (kind : EngineKind) (word : Nat) : EngineOp := { command kind word with ready := true }

theorem commanded_rec (st : FState) (x : Nat) (e : EngineOp) (k : Nat) :
    (commanded st x e k).rec? 0 0 0 = some (commandRec e) := rfl

/-- An element inside the tensor, one sector and one block, and one outside it; a frame that takes the element's two
bytes exactly, one byte short, READY or EMPTY; pages of each kind, of the device and of the host; a write held; an
ATOMG at element 2, of 4 bytes, before and after its operands are read, one misaligned, and one whose result waits;
a block of a context-mode transfer whose bytes wait; a GATHER before and after its index list is read; a completion
with and without an ending frame. -/
theorem test_witness_EngineEvents :
    (∀ kind ∈ [EngineKind.copyin, .copyout],
      (readied kind 0).begun = true ∧ (commanded .filling 2 (readied kind 0) 0).undone 0 (readied kind 0) =
        [(0, [(0, some 0)]), (1, [(0, some 0)])] ∧
      ((commanded .filling 2 (readied kind 0) 0).sectors 0 (readied kind 0)).length = 1 ∧
      (commanded .filling 2 (readied kind 0) 0).standing = [] ∧
      (∀ b ∈ (commanded .filling 2 (readied kind 0) 0).selfRefresh, b = false) ∧
      (commanded .filling 2 (readied kind 9) 0).undone 0 (readied kind 9) = [(0, [(0, none)])] ∧
      ((commanded .filling 2 (readied kind 9) 0).sectors 0 (readied kind 9)).length = 0) ∧
    ((commanded .filling 2 (readied .copyin 0) 0).fillFault 0 5 2 false = none ∧
      (commanded .filling 1 (readied .copyin 0) 0).fillFault 0 5 2 false ≠ none ∧
      (commanded .ready 2 (readied .copyin 0) 0).fillFault 0 5 2 false ≠ none) ∧
    (∀ st x e k va a, va < 65536 → (commanded st x e k).translate 0 ((commanded st x e k).jobOf 0 0) va a =
      ((commanded st x e k), .ok va 0xF)) ∧
    (leafOrd 0xF ≠ 2 ∧ leafOrd 0x8F = 2 ∧ leafH 0xF = false ∧ leafH 0x2F = true ∧ leafOrd 0x2F = 0) ∧
    (((commanded .ready 0 (readied .copyout 0) 0).frame 0 5).xp = false ∧
      ((commanded .ready 0 (readied .copyout 0) 0).frame 0 5).state ≠ .empty ∧
      ((commanded .empty 0 (readied .copyout 0) 0).frame 0 5).state = .empty ∧
      (((commanded .ready 0 (readied .copyout 0) 0).onFrame 0 5 fun F => { F with xp := true }).frame 0 5).xp = true) ∧
    (let h : HeldTx := ⟨0, [(0, 64, [7])], false⟩
     { command .copyout 0 with held := [h] }.held.find? (fun h => h.k = 0) = some h ∧ ∀ x ∈ [h], x.k ≠ 1) ∧
    (let e := { readied .atomg (2 + 2 ^ 41) with handle := ⟨0, 0, false, 1, 0, [8, 0, 0, 0, 0], [0, 0, 0, 0]⟩ }
     let s := commanded .ready 0 e 0
     let f := { e with done := [1], stage := [(1, List.replicate 16 1, false)] }
     ((s.undone 0 e).find? (fun x => x.1 = 1)).isSome = true ∧ e.begun = true ∧
       (((commanded .ready 0 f 0).undone 0 f).find? (fun x => x.1 = 0)).isSome = true ∧
       f.staged 1 = some (List.replicate 16 1, false) ∧ e.atomVa = some 8 ∧ 8 % e.atomWidth = 0 ∧
       { e with handle := { e.handle with base := 2 } }.atomVa = some 10 ∧ 10 % e.atomWidth ≠ 0 ∧
       s.poison.contains (s.canonPa 8 / 32) = false) ∧
    (let e := { readied .atomg (6 * 2 ^ 49) with done := [1, 0], stage := [(2, List.replicate 8 1, false)] }
     let s := commanded .ready 0 e 2
     ((s.undone 0 e).find? (fun x => x.1 = 2)).isSome = true ∧ e.staged 2 = some (List.replicate 8 1, false)) ∧
    (let e := { readied .copyin 0 with ctx := true, stage := [(0, [1, 2], false)], done := [0] }
     let s := commanded .ready 0 e 1
     s.isBlock 0 e 1 = true ∧ (s.undone 0 e).find? (fun x => x.1 = 1) = some (1, [(0, some 0)]) ∧
       e.staged 0 = some ([1, 2], false)) ∧
    ((readied .copyout 0).begun = true ∧ (readied .gather 0).begun = false ∧
      { readied .gather 0 with index := some [(0, false)] }.begun = true) ∧
    ((commandRec { command .copyin 0 with ready := true }).faulted = false ∧
      { commandRec (readied .copyin 0) with faulted := true }.faulted = true) ∧
    (0 < 2 ^ (8 * 8) ∧ 2 ^ 64 - 1 < 2 ^ (8 * 8)) ∧
    ((command .copyout 0).fl = false ∧ (command .copyout 0).written = none ∧ (command .copyin 0).written = some 5 ∧
      { command .copyin 0 with roleW := true, reached := true }.roleW = true ∧
      ((commanded .filling 2 (readied .copyin 0) 0).frame 0 5).state = .filling) := by
  refine ⟨by decide +kernel, by decide +kernel, ?_, by decide +kernel, by decide +kernel, by decide +kernel,
    by decide +kernel, by decide +kernel, by decide +kernel, by decide +kernel, ⟨rfl, rfl⟩, by decide, by decide +kernel⟩
  intro st x e k va a h
  exact onPage _ rfl va a h

/-- A cube operation of one k-step of INT8 on layer 0. -/
def oneStep (src : ASource) : CubeOp :=
  { record := 0, acc := 0, geo := 1, fmt := 0x55, bound := none, mask := 1, src := src, sb := 0, xc := false, east := false
    sent := 0, next := 0, waveAt := 0, waves := [], cols := [], rows := [], fmtErr := false, park := false, role := false
    waitSince := none }

/-- Its item in the queue, started. -/
def itemOf (kind : CubeKind) : CubeItem := ⟨0, 0, 0, true, 0, kind⟩

/-- The small state with one item in the cube queue and frame 5 READY. -/
def cubed (c : CubeItem) (chain : List MarkedBlock) : State :=
  { framed .ready 0 with pillars := [{ (framed .ready 0).mine with cube := [c], chainQ := chain }] }

/-- An empty queue; an operation with its A block in the row buffer, in a frame, and on the chain; a wave due; items
of each kind complete; a bound of 0 to 4 on values inside it and on 8. -/
theorem test_witness_CubeEvents :
    (tiny.mine.cubeHead = none ∧ tiny.mine.landing = none ∧ tiny.cubeDone 0 = none) ∧
    (∀ src ∈ [ASource.rowBuffer, .frame 5 0 512, .chain],
      let o := oneStep src
      let s := cubed (itemOf (.op o)) [(List.replicate o.readBytes 0, 0)]
      s.mine.cubeHead = some (itemOf (.op o)) ∧ o.stepsAt 0 = [(0, 0)] ∧ s.waveInRefresh 0 0 o = false ∧
        (o.stepsAt o.next).find? (fun lj => (s.stack 0).layerFailed lj.1) = none ∧
        (s.frame 0 5).unreadable = false ∧ (s.frame 0 5).xp = false ∧ (s.frame 0 5).isPoisoned 0 o.readBytes = false ∧
        (∀ b ∈ s.mine.chainQ, b.1.length = o.readBytes) ∧ ((o.stepsAt o.next).map Prod.snd).length ≤ s.mine.chainQ.length) ∧
    (let o := { oneStep .chain with next := 1, waves := [⟨0, 0, List.replicate 1024 0, [], [], []⟩] }
     (cubed (itemOf (.op o)) []).mine.landing = some (itemOf (.op o), o, ⟨0, 0, List.replicate 1024 0, [], [], []⟩) ∧
       (List.replicate 1024 (0 : W32)).length ≤ (vfill 0).length) ∧
    (∀ k ∈ [CubeKind.idle, .load 3 1 0 none [] [], .zero 0 false, .bind 0 8, .op { oneStep .chain with next := 1 }],
      (cubed (itemOf k) []).cubeDone 0 = some (itemOf k)) ∧
    (let s := { cubed (itemOf (.load 3 1 0 none [] [])) [] with stks := [{ Stack.reset with lfail := 31 }] }
     (layersOf 1).find? (fun l => (s.stack 0).layerFailed l) = some 0 ∧
       (layersOf 1).find? (fun l => ((cubed (itemOf .idle) []).stack 0).layerFailed l) = none) ∧
    ((oneStep .chain).bound = none ∧ (oneStep .chain).fmtErr = false) ∧
    (∀ pol ∈ [0, 1, 2, 3],
      let v : W64 := BitVec.ofNat 64 (2 ^ 62 + pol * 2 ^ 60 + 2 ^ 30)
      let o := { oneStep .chain with bound := some (0, v) }
      o.path = .int ∧ bit v 62 = true ∧ bits v 60 2 = pol ∧ 64 * o.rows_ ≤ (vfill 4).length ∧
        (v.extractLsb' 0 30 ++ (0 : BitVec 2)).toInt = 0 ∧ (v.extractLsb' 30 30 ++ (0 : BitVec 2)).toInt = 4) ∧
    (at0 (vfill 4) 0).toInt = 4 ∧ ¬ (at0 (vfill 8) 0).toInt ≤ 4 := by
  decide +kernel

/-- A job control block. -/
def block (expect count state : Nat) (err : W64) : Jcb := ⟨expect, count, err, 0, 0, 0, state⟩

/-- Below, at and past EXPECT, incomplete and complete, at the end of COUNT's range; a first and a later error code.
-/
theorem test_witness_JobControlBlock :
    (∀ j ∈ [block 2 0 0 0, block 1 0 0 0, block 0 0 0 0, block 0 (2 ^ 64 - 1) 1 0], j.expect < 2 ^ 64 ∧ j.count < 2 ^ 64) ∧
    ((block 2 0 0 0).state % 2 = 0 ∧ ((block 2 0 0 0).addCount 1 9).count < 2 ∧ 1 ≤ ((block 1 0 0 0).addCount 1 9).count ∧
      0 < ((block 0 0 0 0).addCount 1 9).count ∧ (block 0 0 1 0).state % 2 = 1) ∧
    ((block 0 0 0 0).err.extractLsb' 16 8 = 0 ∧ (block 0 0 0 0x10000).err.extractLsb' 16 8 ≠ 0 ∧
      (block 0 0 0 0x100).err.extractLsb' 8 8 ≠ 0) := by
  decide +kernel

/-- The paged state with an asynchronous operation of index 0 in sequencer 0. -/
def operating (op : Op) (opa : W64) : State :=
  { paged with pillars := [{ Pillar.reset with
      seqs := [{ Seq.reset with recs := [⟨0, 0, 0, opa, 1, 0, 0, 0, false, false, false, 0, 0, 0, 0, op⟩] }, Seq.reset] }] }

/-- A second post and credit; a message, a level-1 DSYNC, steps at a block that no iteration has posted to, that is
complete or was posted to, or whose address breaks R322; two items taken by a DRAIN. -/
theorem test_witness_SyncEvents :
    (let s := { tiny with who := { k := 1 }, posts := [⟨0, 0, 0, 0, 3, 1, 0⟩, ⟨0, 0, 0, 0, 4, 1, 0⟩], credits := [(0, 0, 0), (0, 0, 4)] }
     s.posts = [⟨0, 0, 0, 0, 3, 1, 0⟩] ++ ⟨0, 0, 0, 0, 4, 1, 0⟩ :: [] ∧ s.credits = [(0, 0, 0)] ++ (0, 0, 4) :: [] ∧
       [(⟨0, 0, 0, 0, 3, 1, 0⟩ : Post)].length = s.who.k) ∧
    ({ tiny with who := { up := true } }.who.up = true ∧ tiny.who.up = false) ∧
    (∀ op ∈ [Op.msend 0 0 5, .jcb false, .jcb true, .drain 0 [3] 1 (some [[7], [8]])],
      ((operating op 0x1000).rec? 0 0 0).map Rec.op = some op) ∧
    ((operating (.dsync 1 1) 0).seq 0 0).dsyncRec = some (⟨0, 0, 0, 0, 1, 0, 0, 0, false, false, false, 0, 0, 0, 0, .dsync 1 1⟩, 1, 1) ∧
    (tiny.seq 0 0).dsyncRec = none ∧
    (∀ b, (operating (.jcb b) 0x1000).jcbAddress 0 0 0x1000 = (operating (.jcb b) 0x1000, .ok 0x1000 0xF)) ∧
    (∀ b, ∃ t c info, (operating (.jcb b) 1).jcbAddress 0 0 1 = (t, .bad c info) ∧ t.fnmode.getLsbD 0 = false ∧ t.hkreqs = []) ∧
    (let s := operating (.jcb true) 0x1000
     ((s.seq 0 0).iter.any fun i => i.posted.contains 0x1000) = false ∧ (s.readJcb 0x1000).state % 2 = 0 ∧
       ({ s with mem := [(0x1030, 1)] }.readJcb 0x1000).state % 2 = 1 ∧
       (((s.onSeq 0 0 fun x => { x with iter := some ⟨0, 0, false, false, [0x1000]⟩ }).seq 0 0).iter.any fun i =>
         i.posted.contains 0x1000) = true) ∧
    (let x := { Seq.reset with inflight := (drainResults [31] 7 [[1], [2]]).map fun w => ⟨9, 7, 0, w⟩ }
     0 < 7 ∧ 7 < x.vpreds.length ∧ x.vregs.length = 32) := by
  refine ⟨by decide +kernel, ⟨rfl, rfl⟩, by decide +kernel, by decide +kernel, by decide +kernel, ?_, ?_, by decide +kernel,
    by decide +kernel⟩
  · intro b
    rw [State.jcbAddress, if_neg (by decide), show stackOf 0 = 0 from rfl,
      show (operating (.jcb b) 0x1000).jobOf 0 0 = 0 from rfl, show (0x1000 : W64).toNat = 4096 from rfl,
      onPage _ rfl 4096 .write (by decide)]
    exact if_pos (by decide)
  · intro b
    rw [State.jcbAddress, if_pos (by decide)]
    exact ⟨_, _, _, rfl, show (0 : BitVec 5).getLsbD 0 = false by decide, rfl⟩

/-- The small state with a job on stack 0 whose pre-emption was requested at TIME 0, and a sequencer in some
condition. -/
def preempting (run : Run) : State :=
  { tiny with
    stks := [{ Stack.reset with job := some 3, req := true, reqAt := some (0, 3) }]
    pillars := [{ Pillar.reset with seqs := [{ Seq.reset with run := run }, Seq.reset] }] }

/-- No job; a job not held, held and already requested; all stopped, and one still running; no image's job placed,
and an image that names a layer the stack has, or has not. -/
theorem test_witness_PreemptionEvents :
    ((tiny.stack 0).job = none ∧ (tiny.stack 0).reqAt = none ∧ tiny.mayContextSave 0 = false) ∧
    (let s := tiny.onStack 0 fun k => { k with job := some 3 }
     let u := tiny.onStack 0 fun k => { k with job := some 3, parked := [3] }
     (s.stack 0).job = some 3 ∧ (s.stack 0).holdsJob 3 = false ∧ (s.stack 0).req = false ∧ 0 < s.stks.length ∧
       s.ownedStacks 0 3 = [0] ∧ (u.stack 0).holdsJob 3 = true ∧ u.runsOn (u.ownedStacks 0 3) 3 = false) ∧
    (preempting .running).me.recs = [] ∧ ((preempting .running).stack 0).req = true ∧
    (0 < tiny.pillars.length ∧ 1 < (tiny.pillar 0).seqs.length ∧ (tiny.seq 0 1).csrws = [] ∧ (tiny.seq 0 1).inflight = []) ∧
    ((preempting .stopped).mayContextSave 0 = true ∧ (preempting .stopped).preemptGroup 0 = [0] ∧
      ((preempting .stopped).stack 0).reqAt = some (0, 3) ∧
      ∀ p ∈ pillarsOf 0, ∀ q < 2, ((preempting .stopped).seq p q).hasStopped = true) ∧
    ((preempting .running).preemptGroup 0 = [0] ∧ ∃ p ∈ pillarsOf 0, ∃ q < 2, ((preempting .running).seq p q).hasStopped = false) ∧
    (State.reset.mayRestore 0 = true ∧ State.reset.imageFits 0 = true) ∧
    (let s := { tiny with stks := [{ Stack.reset with layers := 0 }], mem := [(4, 1)] }
     s.mayRestore 0 = true ∧ s.imageFits 0 = false) ∧
    (let s := { walking 0 1 with mem := [] }
     (s.onSeq 0 0 fun x => { x with iter := some ⟨0, 0, false, false, []⟩ }).mayRestore 0 = false) := by
  decide +kernel

theorem test_witness_reset_shape : State.reset.shape := by
  refine ⟨rfl, rfl, fun P h => ?_⟩
  have e : P = Pillar.reset := List.eq_of_mem_replicate h
  rw [e]
  rfl

/-- The last temperature of the table; each place of the token; a holding above and below the need, at the last
stop; both ends of `PKGBUD`; thresholds at their limits and each fault of theirs. -/
theorem test_witness_PowerEvents :
    ((tiny.stack 0).job = none ∧ ((preempting .stopped).stack 0).job = some 3) ∧ 1040 ≤ 1040 ∧
    (tiny.pkgbudDue = false ∧ (tiny.tokenAt, 1) ∈ [(0, 1), (1, 3), (3, 2), (2, 0)] ∧
      { tiny with pkgbudDue := true }.pkgbudDue = true) ∧
    (let k := { Stack.reset with tstop := 7, held := 145 }
     k.tstop ≤ 7 ∧ k.held < 146 ∧ 146 ≤ Stack.reset.held) ∧
    (1224 ≤ 5200 % 8192 ∧ 5200 % 8192 ≤ 5200 ∧ ¬ 1224 ≤ 1223 % 8192) ∧
    (let th := fun (v : W64) (j : Nat) => (v.extractLsb' (8 * j) 8).toNat
     (60 ≤ th 0x007C42413F3E3D3C 0 ∧ (∀ j < 6, th 0x007C42413F3E3D3C j < th 0x007C42413F3E3D3C (j + 1)) ∧
       th 0x007C42413F3E3D3C 6 ≤ 124) ∧ th 0x007C42413F3E3D3B 0 < 60 ∧
       (∃ j < 6, th 0x007C42413F3E3D3D (j + 1) ≤ th 0x007C42413F3E3D3D j) ∧ 124 < th 0x007D42413F3E3D3C 6) ∧
    (Stack.reset.stretch = 0 ∧ Stack.reset.half = false ∧ 0 < { Stack.reset with stretch := 1 }.stretch) := by
  decide +kernel

/-- The small state with one request of a type, posted and unanswered, and an event of number v. -/
def asking (type v : Nat) : State :=
  { tiny with who := { v := v }, hkreqs := [⟨BitVec.ofNat 64 type, 0, 7, 0, (0, 0), 0, true, none⟩] }

/-- A verdict on each type of request, granted and refused, and on none; the last address of the map and the first
past it; scrubs at and under the limit; the last signature. -/
theorem test_witness_HostEvents :
    (∀ type ∈ [1, 2, 3], ∀ v ∈ [7, 7 + 2 ^ 32],
      (asking type v).hkreqs = [⟨BitVec.ofNat 64 type, 0, 7, 0, (0, 0), 0, true, none⟩] ∧
        ((BitVec.ofNat 64 type : W64).extractLsb' 0 8).toNat = type ∧
        7 % 2 ^ 32 = (((BitVec.ofNat 64 v : W64)).extractLsb' 0 32).toNat ∧
        (BitVec.ofNat 64 v : W64).getLsbD 32 = decide (v = 7 + 2 ^ 32)) ∧
    (∀ r ∈ (asking 1 8).hkreqs, r.tag % 2 ^ 32 ≠ ((BitVec.ofNat 64 (asking 1 8).who.v : W64).extractLsb' 0 32).toNat) ∧
    (0 ≤ tiny.hkr ∧ tiny.hkr < 1) ∧
    (spaceOf 0xFFFFFFFFFFFFF ≠ none ∧ spaceOf 0x10000000000000 = none ∧ spaceOf 0x6800000000 = none) ∧
    (let w := fun (n : Nat) => ({ k := 0x1010, up := true, bytes := List.replicate n 1 } : Who)
     (w 16).bytes.length ≤ 32 - (w 16).k % 32 ∧ 32 - (w 17).k % 32 < (w 17).bytes.length ∧ tiny.unbooted = false ∧
       ({ tiny with stks := [{ Stack.reset with bootst := 0x10 }] }).unbooted = true) ∧
    (32 ≤ (tiny.stack 0).scrubLeft ∧ ((tiny.onStack 0 fun k => { k with scrubLeft := 31 }).stack 0).scrubLeft < 32 ∧
      ∀ y l, spaceOf (32 * 0) ≠ some (.weight y l)) ∧
    (Stack.reset.life.errors[11]? = some 0 ∧ Stack.reset.fresh.errors[11]? = some 0) ∧
    (2 ^ 30 - 1 < 2 ^ 30 ∧ 2 ^ 30 ≤ 2 ^ 30) ∧ (∃ (i : Nat) (k : Stack), tiny.stks[i]? = some k) :=
  ⟨by decide +kernel, by decide +kernel, by decide, by decide +kernel, by decide +kernel,
    ⟨by decide +kernel, by decide +kernel, fun y l h => by cases h⟩, by decide +kernel, by decide, 0, _, rfl⟩

/-- Whether a syllable takes effect in a state. -/
def takes (i : Instr) (s : State) : Bool :=
  match exec i s with
  | .next t => t.cur.trap.isNone
  | _ => false

theorem takes_next (i : Instr) (s : State) (h : takes i s = true) : ∃ t, exec i s = .next t ∧ t.cur.trap = none := by
  unfold takes at h
  split at h
  · rename_i t e
    exact ⟨t, e, Option.isNone_iff_eq_none.mp h⟩
  · cases h

/-- Guards off: of a plain syllable, a LOOP with five entries held, a CMMA with its format entry set. -/
theorem test_witness_GuardOff :
    (guardOfSyllable (.add ⟨3, 0⟩ 17 17 17) = some ⟨3, 0⟩ ∧ tiny.guardOn ⟨3, 0⟩ = false) ∧
    ((looping 5).guardOn ⟨3, 0⟩ = false ∧ (looping 5).me.loops.length < 6) ∧
    (let s := cubeState .ready 0 1 0x11
     s.guardOn ⟨3, 0⟩ = false ∧
       (at0 s.me.fts (bits (at0 s.me.geos (bits (s.peekMq.src 18) 0 3)) 8 4)).extractLsb' 0 4 ≠ 0) := by
  decide +kernel

/-- ERET in supervisor mode, and a syllable of user mode. -/
theorem test_witness_ModeRules :
    (sup.cur.trap = none ∧ tiny.cur.trap = none ∧ tiny.me.mode = false) ∧
    (∃ t, exec (.eret .always) sup = .next t ∧ t.cur.trap = none ∧ t.me.mode ≠ sup.me.mode) ∧
    ∃ t, exec (.csrw .always 17 18 0x003) tiny = .next t ∧ t.cur.trap = none :=
  ⟨⟨rfl, rfl, rfl⟩, ⟨_, rfl, rfl, by decide +kernel⟩, takes_next _ _ (by decide +kernel)⟩

theorem test_witness_ResultFrames : resultsOnly (.add .always 17 17 17) = true ∧
    ∃ t, exec (.add .always 17 17 17) tiny = .next t ∧ t.cur.trap = none :=
  ⟨rfl, takes_next _ _ (by decide +kernel)⟩

theorem framed_framesWf (st : FState) (off : Nat) : (framed st off).framesWf := by
  intro P hP F hF
  simp only [framed, List.mem_singleton] at hP
  subst hP
  have e : F = Frame.cleared ∨ F = { Frame.cleared with state := st, size := 1, life := 1800 } := by
    have h : ∀ x ∈ upd Pillar.reset.frames 5 (fun F => { F with state := st, size := 1, life := 1800 }),
        x = Frame.cleared ∨ x = { Frame.cleared with state := st, size := 1, life := 1800 } := by
      cases st <;> decide +kernel
    exact h F hF
  rcases e with rfl | rfl <;> rfl

/-- A syllable of every kind of the memory slot takes effect on a READY frame of one unit. -/
theorem test_witness_MemoryFrames : (framed .ready 0).cur.trap = none ∧
    ∀ i ∈ [Instr.ld .always 18 17 2 0 0 0, .ldv .always 0 5 16 0, .fstat .always 5 0, .st .always 18 17 2 0 0,
        .strl .always 18 17 2 0 0, .atom .always 19 17 18 0, .cas .always 19 17 18, .stv .always 0 5 16 0,
        .stvr .always 0 5 16 0, .stp .always 1 5 16, .stvx .always 0 5 1, .ffree .always 5, .frenew .always 5 19,
        .fsetx .always 5 18 19 0],
      (guardOfSyllable i).isSome = true ∧ takes i (framed .ready 0) = true := by
  decide +kernel

/-- A syllable of every kind of the flow, cube, engine and synchronisation slots takes effect. -/
theorem test_witness_FlowAndCommandFrames :
    (∀ i ∈ [Instr.br .always 1, .bri .always 17, .call .always 1, .loop .always 17 0 1, .pmark .always, .cropen .always 0 1,
        .waitev .always 0, .chkerr .always, .cbld .always 0 15 17 18, .czero .always 0 0, .cabort .always 0, .cbnd .always 0 17,
        .kpost .always 3 17 1, .kset .always 3 17 1, .kpostr .always 3 17 18 1, .msend .always 17 18 0,
        .ecancel .always, .ecancelK .always 17, .ecancelF .always 17, .jpost .always 17 18, .jraise .always 17 18],
      (guardOfSyllable i).isSome = true ∧ takes i tiny = true) ∧
    takes (.cmma .always 0 17 18 15 0 0 0) (cubeState .ready 2048 1 0x11) = true ∧
    takes (.copyout .always 5 19 20 0 0) (engineState .ready 0) = true := by
  decide +kernel

/-- One LI at the head of its long word, the other sequencer idle; and a port with nothing ready. -/
def fetching : State := tiny.withFetchWord 32 0x02C88123

theorem test_witness_StepRunsDecoded :
    fetching.agenda = [.issue 0] ∧
    (let u := (({ fetching with agenda := [] } : State).noteHeld 0 0).noteHeld 0 1
     (u.focus 0 1).readiness = .no ∧ ∃ lw, (u.focus 0 0).readiness = .runs lw ∧
       (let v := u.grant 0 0
        v.me.illseq v.cur.addr ((longWordInstrs lw).map Prod.snd) = false ∧ v.wordRaises (longWordInstrs lw) = [] ∧
          lw.length = 8 ∧ ∃ t, runSlots lw (slotOrder (longWordInstrs lw))
            { v with cur := { v.cur with found := v.mine.frames } } [] = (.next t, []))) ∧
    (let s := { tiny with agenda := [.issue 0] }
     let u := (({ s with agenda := [] } : State).noteHeld 0 0).noteHeld 0 1
     (u.focus 0 0).readiness = .no ∧ (u.focus 0 1).readiness = .no) := by
  refine ⟨by decide +kernel, ⟨by decide +kernel, _, rfl, by decide +kernel, by decide +kernel, rfl, _, rfl⟩,
    by decide +kernel⟩

theorem test_witness_DecodeOfEncode : ∃ w, encode (.add .always 17 17 17) = some w := ⟨_, rfl⟩

theorem test_witness_DecodedIsWellFormed :
    (∃ is, decodeSyllable .s0 0x02C88123 = .ok is) ∧ ∃ r, decodeSyllable .s1 0x5C0FFFFC = .error r :=
  ⟨⟨_, rfl⟩, _, rfl⟩

theorem test_witness_MemoryStaysCanonical : tiny.memWf ∧ tiny.framesWf ∧ ∃ t, step tiny = .next t :=
  ⟨test_tiny.2.1, test_tiny.2.2, _, rfl⟩

/-! ### Further witnesses: the forms that raise, fault, park or wait -/

/-- The small state in context mode. -/
def ctx : State := tiny.onMe fun x => { x with mode := true, ecause := 19, recs := [faulted] }

theorem test_witness_DoneModes :
    (ctx.enabled .always [] ∧ ctx.me.contextMode = true ∧ ∀ r ∈ ctx.me.faults, r.order ≤ ctx.me.ctxOrder) ∧
    (sup.enabled .always [] ∧ sup.me.mode = true ∧ sup.me.contextMode = false ∧ sup.placed) ∧
    (sup.seq 0 0).mode = true ∧ (ctx.seq 0 0).contextMode = true ∧ 0 < ctx.pillars.length :=
  ⟨⟨enabled_tiny _ _ _ rfl rfl, by decide +kernel⟩, ⟨enabled_tiny _ _ _ rfl rfl, rfl, by decide, ⟨by decide, by decide⟩⟩,
    by decide +kernel⟩

/-- Four regions open, the innermost two of them of supervisor mode. -/
theorem test_witness_FifthRegion :
    (let r := { region 1 with sup := true }
     let s := tiny.onMe fun x => { x with regions := [r, r] ++ region 0 :: [region 0] }
     s.enabled .always [17] ∧ 4 ≤ s.me.regions.length ∧ s.placed ∧ s.me.regions = [r, r] ++ region 0 :: [region 0] ∧
       (region 0).sup = s.me.mode ∧ (∀ h ∈ [r, r], h.sup ≠ s.me.mode) ∧ ∀ e ∈ s.me.recs, e.order ≤ (region 0).order) :=
  ⟨enabled_tiny _ _ _ rfl rfl, by decide, ⟨by decide, by decide⟩, rfl, rfl, by decide, fun e h => nomatch h⟩

/-- Sums with a NaN, with one and with both infinities, of zeros of one and of both signs, and of finite values. -/
theorem test_witness_Sums :
    isNan32 0xFF800001 = true ∧ (∀ x ∈ ([0x7F800000, 0xFF800000] : List W32), isNan32 x = false) ∧
    ([0x80000000, 0x80000000] : List W32) ≠ [] ∧ (0 : W32) ≠ 0x80000000 :=
  ⟨by decide +kernel, by simp [isNan32], by simp, by decide⟩

/-- A row of ones and a row of zeros, as integers over one exponent. -/
theorem test_witness_Renorm :
    (∀ m i : Nat, i < 64 → (List.replicate 64 (Val.fin false m 0))[i]? = some (.fin false m 0)) ∧
    (List.replicate 64 (0 : Int)).length = 64 ∧ ((List.replicate 64 (0 : Int)).map fun k => k.natAbs ^ 2).sum = 0 ∧
    0 < ((List.replicate 64 (1 : Int)).map fun k => k.natAbs ^ 2).sum :=
  ⟨fun m i h => List.getElem?_replicate_of_lt h, by simp, by simp, by simp⟩

/-- An unset format entry under a guard that is off. -/
theorem test_witness_UnsetFormat :
    (let s := cubeState .ready 0 1 0
     s.guardOn ⟨3, 0⟩ = false ∧ (at0 s.me.fts (bits (at0 s.me.geos (bits (s.peekMq.src 18) 0 3)) 8 4)).toNat % 16 = 0 ∧
       (s.entryOf (s.geoOf (s.peekMq.src 18)) true).toNat % 16 = 0) := by
  decide +kernel

/-- No handle; a scope without acquire; GATHER and ATOMG that name f5 twice; f5 READY for a COPYIN and FILLING for a
COPYOUT; a tile of 4,096 elements in a frame of 4 KiB, and one of 2,048 that fits. -/
theorem test_witness_EngineFaults :
    (let s := engineState .ready 0
     s.enabled .always [19, 20] ∧ s.handleOf 0 (s.src 20) = none) ∧
    (let s := engineState .ready (2 ^ 46)
     s.enabled .always [19, 20] ∧ (s.handleOf 0 (s.src 19)).any (fun h => decide (0 < h.nd)) = true ∧
       bits (s.src 20) 44 2 = 0 ∧ bits (s.src 20) 46 3 ≠ 0 ∧ bits (s.src 20) 46 3 ≠ 7) ∧
    (bits ((engineState .filling (5 * 2 ^ 14)).src 20) 14 6 = 5 ∧ bits ((engineState .ready (5 * 2 ^ 49)).src 20) 49 6 = 5 ∧
      bits ((engineState .ready (5 * 2 ^ 49)).src 20) 41 1 = 0) ∧
    (((engineState .ready 0).cur.found[5]?).getD ((engineState .ready 0).myFrame 5)).state ≠ .filling ∧
    (((engineState .filling 0).cur.found[5]?).getD ((engineState .filling 0).myFrame 5)).state = .filling ∧
    (let z := fun (word : Nat) => 2 ^ bits ((engineState .filling word).src 20) 36 4 *
       2 ^ bits ((engineState .filling word).src 20) 40 4 * 2
     ((engineState .filling 0).myFrame 5).bytes < z (10 * 2 ^ 36 + 2 * 2 ^ 40) ∧
       z (10 * 2 ^ 36 + 2 ^ 40) ≤ ((engineState .filling 0).myFrame 5).bytes) := by
  refine ⟨⟨enabled_tiny _ _ _ rfl rfl, by decide +kernel⟩, ⟨enabled_tiny _ _ _ rfl rfl, by decide +kernel⟩, ?_⟩
  decide +kernel

/-- One command that fills f5, and one that reads it. -/
theorem test_witness_CancelledFrames :
    (let e := { readied .copyin 0 with roleW := true }
     let s := commanded .filling 2 e 0
     s.placed ∧ s.enabled .always [] ∧ s.me.recs = [] ++ commandRec e :: [] ∧ (commandRec e).op = .engine e ∧
       e.written = some 5 ∧ e.roleW = true ∧ (s.myFrame 5).state = .filling ∧ e.names 5 = true) ∧
    (let e := { readied .copyout 0 with roleF := true }
     let s := commanded .draining 0 e 0
     s.me.recs = [] ++ commandRec e :: [] ∧ e.roleF = true ∧ e.frame = 5 ∧ (s.myFrame 5).state = .draining ∧
       (s.myFrame 5).drn ≤ 1) :=
  ⟨⟨⟨by decide, by decide⟩, enabled_tiny _ _ _ rfl rfl, rfl, rfl, by decide +kernel⟩, rfl, by decide +kernel⟩

/-- A report at once, and one held; an index write at a page that translates. -/
theorem test_witness_Reports :
    (let s := packeted (packet false 0 0x1000 0 0) []
     s.atomicsHeld 0x1000 = false ∧ { s with selfRefresh := [true] }.atomicsHeld 0x1000 = true ∧
       s.translate 0 0 0x1000 .write = (s, .ok 0x1000 0xF)) :=
  ⟨by decide +kernel, by decide +kernel, onPage _ rfl _ _ (by decide)⟩

/-- A halt of no packet, of one still held and of one not yet read; an EN 0 drain over after a bad descriptor and
after a good one. -/
theorem test_witness_HaltedQueues :
    (∀ c ∈ [none, some 0, some 3], let s := queued (fun x => { x with
        state := .halted, errc := 6, fault := c, packets := [packet true 0 0 0 0] }) 0
     (s.queue 0 0).state = .halted ∧ (s.queue 0 0).errc ≠ 10 ∧ (s.queue 0 0).fault = c ∧
       ((s.queue 0 0).packet? 0).isSome = true ∧ ((s.queue 0 0).packet? 3).isSome = false) ∧
    (∀ b, ((queued (fun x => { x with state := .aborting, abortTo := some true, badDesc := b }) 0).queue 0 0).badDesc = b) := by
  decide +kernel

/-- The other package's participant, which this one has not heard for 30 us and tells of; a participant declared
failed now; every log gathered, and not; the first healthy participant. -/
theorem test_witness_Failures :
    (let s := { sharing id { part := 1 } with tick := 60000 }
     ∃ l x y, s.launch? 0 = some l ∧ l.part? 1 = some x ∧ x.failed = none ∧ l.abandoned = false ∧ (0 : Nat) ≠ 1 ∧
       l.part? 0 = some y ∧ y.pkg = s.pkg ∧ y.failed = none ∧ y.heard.getD 1 0 + 30000 ≤ s.tick / 2 ∧ l.leader ≠ 1 ∧
       l.gang = false ∧ ∀ z ∈ l.parts, z.failed = none) ∧
    (let dead := fun (l : Launch) => { l with parts := upd l.parts 0 fun x => { x with failed := some 0 } }
     ∃ l, (sharing dead {}).launch? 0 = some l ∧ (l.part? 0).any (fun x => x.failed.isNone) = false ∧
       (l.part? 1).any (fun x => x.failed.isNone) = true ∧ ∃ y ∈ l.parts, y.failed = some 0 ∧ 0 ≤ 0 + 30000) ∧
    (∀ l, (sharing id {}).launches = [l] → { l with electing := true, candidate := some 0, gathered := [0, 1] }.gathered =
      [0, 1] ∧ l.parts.length = 2 ∧ { l with candidate := some 0, gathered := [0] }.gathered.contains 1 = false) := by
  refine ⟨⟨_, _, _, rfl, rfl, rfl, rfl, by decide, rfl, rfl, rfl, by decide +kernel, by decide, rfl, by decide +kernel⟩,
    ⟨_, rfl, by decide +kernel⟩, ?_⟩
  intro l h
  cases h
  decide +kernel

/-- A command with a read of its frame to come and with none; no write held; f5 filled by a command that reached
its end, and by none. -/
theorem test_witness_EngineRoles :
    (let e := readied .copyout 0
     let s := commanded .ready 0 e 0
     s.rec? 0 0 0 = some (commandRec e) ∧ e.ready = true ∧ (∃ kt ∈ s.undone 0 e, s.readsBlock 0 e kt.1 = true) ∧
       ∀ kt ∈ s.undone 0 { e with done := [1] }, s.readsBlock 0 { e with done := [1] } kt.1 = false) ∧
    (let e := { readied .copyin 0 with roleW := true, reached := true }
     let s := commanded .filling 2 e 0
     e.written = some 5 ∧ e.roleW = true ∧ e.reached = true ∧ (s.frame 0 5).state = .filling) ∧
    ((command .copyout 0).held = [] ∧ (command .copyout 0).written = none) := by
  refine ⟨⟨rfl, rfl, ?_, ?_⟩, by decide +kernel, by decide +kernel⟩
  · decide +kernel
  · decide +kernel

/-- f5 EMPTY, expired and with its first sector poisoned; a handle whose address does not translate; a chain block of
fewer bytes than are read and one of more; a NaN for a bound. -/
theorem test_witness_WaveFaults :
    (let s := { tiny with pillars := [{ Pillar.reset with frames := Pillar.reset.frames }] }
     (s.frame 0 5).unreadable = true) ∧
    (let F := { Frame.cleared with state := .ready, size := 1, xp := true }
     F.unreadable = false ∧ F.xp = true ∧ { F with xp := false, poison := [0] }.isPoisoned 0 8 = true) ∧
    lowestFault [(8, cXlate, 0), (0, cPerm, 0)] = some (0, cPerm, 0) ∧
    ((16 : Nat) % 8 = 0 ∧ (List.replicate 8 (0 : Byte)).length % 8 = 0 ∧ 8 * 0 < (List.replicate 8 (0 : Byte)).length ∧
      ¬ 8 * 1 < (List.replicate 8 (0 : Byte)).length) ∧
    (0 < tiny.pillars.length ∧ 1 < (tiny.pillar 0).seqs.length) ∧
    (let v : W64 := BitVec.ofNat 64 (2 ^ 60 + 0x1FF00000)
     bit v 62 = false ∧ bits v 60 2 = 1 ∧ isNan32 (v.extractLsb' 0 30 ++ (0 : BitVec 2)) = true) ∧
    { oneStep .chain with fmt := 0x11, bound := some (0, 0) }.path ≠ .int := by
  decide +kernel

/-- Losses that reach EXPECT, and that do not. -/
theorem test_witness_Losses :
    (let k := (block 2 0 0 0).addLost 2 9
     2 ≤ k.count) ∧ ((block 2 0 0 0).addLost 1 9).count < 2 := by
  decide +kernel

/-- A flag of a pillar that is there; an idle sequencer with nothing to flush. -/
theorem test_witness_FlagAndIdle :
    (0 < tiny.pillars.length ∧ 31 < (tiny.pillar 0).flags.length) ∧
    (1 < (tiny.pillar 0).seqs.length ∧ (tiny.seq 0 1).csrws = [] ∧ (tiny.seq 0 1).run = .idle) := by
  decide +kernel

/-- A refused fetch of the line at the pc and of another; an operation that waits, one faulted and none; a cube
operation; a renewal whose frame has gone; a long write to the registers; inputs behind another. -/
theorem test_witness_Refusals :
    (let r : HkReq := ⟨1, 0, 7, 0, (0, 256), 0, true, none⟩
     r.owner.2 = 256 ∧ (tiny.seq 0 0).pc.toNat / 128 = r.word1.toNat / 128 ∧
       (tiny.seq 0 0).pc.toNat / 128 ≠ (128 : W64).toNat / 128) ∧
    (tiny.rec? 0 0 0 = none ∧ (commanded .ready 0 (readied .copyout 0) 0).rec? 0 0 0 = some (commandRec (readied .copyout 0)) ∧
      (commandRec (readied .copyout 0)).faulted = false ∧ ({ tiny with pillars := [{ Pillar.reset with
        seqs := [{ Seq.reset with recs := [faulted] }, Seq.reset] }] }).rec? 0 0 0 = some faulted ∧ faulted.faulted = true) ∧
    ((cubed (itemOf (.op (oneStep .chain))) []).pillar 0).cubeItem? 0 0 = some (itemOf (.op (oneStep .chain))) ∧
    (⟨3, 0, 7, 0, (512, 512), 0, true, none⟩ : HkReq).owner = (512, 512) ∧
    (∃ st, spaceOf 0x7000000000 = some (.bar st)) ∧ (∀ st, spaceOf 0x1010 ≠ some (.bar st)) ∧
    (∀ j x, [Act.issue 0].head? ≠ some (.event j x)) :=
  ⟨by decide +kernel, ⟨rfl, rfl, rfl, rfl, rfl⟩, by decide +kernel, rfl, ⟨0, by decide +kernel⟩,
    fun st h => (by cases h), fun j x h => (by cases h)⟩

/-- A long word whose S0 slot traps (BKPT of R191), and one that does not decode; two causes of one long word. -/
theorem test_witness_LongWordRaises :
    (let s := tiny.withFetchWord 32 0x04C00000
     s.agenda = [.issue 0] ∧
     (let u := (({ s with agenda := [] } : State).noteHeld 0 0).noteHeld 0 1
      (u.focus 0 1).readiness = .no ∧ ∃ lw, (u.focus 0 0).readiness = .runs lw ∧
        (let v := u.grant 0 0
         ∃ w rs r, runSlots lw (slotOrder (longWordInstrs lw)) { v with cur := { v.cur with found := v.mine.frames } }
           ((if v.me.illseq v.cur.addr ((longWordInstrs lw).map Prod.snd) = true then [(0, cause cIllseq 0)] else []) ++
             v.wordRaises (longWordInstrs lw)) = (.next w, rs) ∧ pickRaise rs = some r))) ∧
    (let s := { tiny with
       agenda := [.issue 0], pillars := [Pillar.reset.withWord (0x07F00000 :: List.replicate 7 0)] }
     let u := (({ s with agenda := [] } : State).noteHeld 0 0).noteHeld 0 1
     ∃ r, (u.focus 0 0).readiness = .raises r) ∧
    (let rs := [(2, cause 4 0), (0, cause cPriv 0x21), (1, cause cPriv 0x11)]
     pickRaise rs = some (cause cPriv 0x29)) := by
  refine ⟨⟨by decide +kernel, by decide +kernel, _, rfl, _, _, _, rfl, rfl⟩, ⟨_, rfl⟩, by decide +kernel⟩

/-- The renewal of frame 5 asked and not answered, answered, of another frame, and of another kind. -/
theorem test_witness_Renewals :
    (let ask := fun (type f : Nat) (b : Option Bool) => (⟨BitVec.ofNat 64 type, 0, 7, 0, (0, f), 0, true, b⟩ : HkReq)
     let mine := fun (r : HkReq) => (r.word0.extractLsb' 0 8).toNat = 3 ∧ r.pillar = 0 ∧ r.owner = (0, 5)
     mine (ask 3 5 none) ∧ mine (ask 3 5 (some true)) ∧ ¬ mine (ask 3 6 none) ∧ ¬ mine (ask 1 5 none)) ∧
    ((framed .ready 0).src 18 = 0 ∧ (framed .ready 0).src 17 ≠ 0 ∧ (framed .ready 0).guardOn .always = true) := by
  decide +kernel

/-- Each end of each range of the special functions: zero, the least code, the last one below a limit and the limit
itself, both signs. -/
theorem test_witness_SpecialRanges :
    (∀ x ∈ [(1, false), (0x7F7FFFFF, false), (0x80000001, true), (0xFF7FFFFF, true)],
      (BitVec.ofNat 32 x.1).msb = x.2 ∧ 0 < (BitVec.ofNat 32 x.1).toNat % 2 ^ 31 ∧
        (BitVec.ofNat 32 x.1).toNat % 2 ^ 31 < 0x7F800000) ∧
    ∀ x ∈ [0x43000000, 0x43180000, 0x42800000, 0x42D40000, 0x41200000, 0x40800000, 0x39800000], ∀ neg ∈ [0, 2 ^ 31],
      ∀ y ∈ [x - 1, x, x + 1], (BitVec.ofNat 32 (neg + y)).msb = decide (neg ≠ 0) ∧
        (BitVec.ofNat 32 (neg + y)).toNat % 2 ^ 31 = y := by
  decide +kernel

/-- A layer the stack lacks; a slot tag 3; an image misaligned, one past the end; bits above a frame address; an image
past its frame, expired, in an EMPTY and a FILLING frame. -/
theorem test_witness_LoadFaults :
    ¬ (15 &&& (({ tiny with stks := [{ Stack.reset with layers := 7 }] } : State).myStack.layers.toNat % 16) = 15) ∧
    3 ≤ ((two 0 3).src 18).toNat ∧ ((two 512 2).src 17).toNat % 1024 ≠ 0 ∧
    2147483648 < ((two 2147483648 2).src 17).toNat + 1024 ∧ ((two (2 ^ 28) 2).src 17).extractLsb' 28 36 ≠ 0 ∧
    (¬ ((framed .ready 4032).myFrame 5).holds 4032 1024 64) ∧
    (let F := { (framed .ready 0).myFrame 5 with xp := true }
     F.holds 0 1024 64 ∧ F.xp = true) ∧
    (((framed .filling 0).myFrame 5).holds 0 1024 64 ∧ ((framed .filling 0).myFrame 5).state = .filling ∧
      ((framed .empty 0).myFrame 5).state = .empty) :=
  ⟨by decide +kernel, by decide +kernel, by decide +kernel, by decide +kernel, by decide +kernel,
    fun h => absurd h.1 (by decide +kernel), ⟨⟨by decide +kernel, by decide +kernel⟩, rfl⟩,
    ⟨by decide +kernel, by decide +kernel⟩, rfl, rfl⟩

/-- An abort before its ic and at it; a CZERO and an operation that write tile 0 with a read role on frame 5, alone in
the queue, and none that writes tile 1. -/
theorem test_witness_Aborts :
    (∀ n ∈ [0, 1], let s := tiny.onMe fun x => { x with aborts := [(n, 0)] }
     (s.seq 0 0).aborts = [(n, 0)] ∧ (n = 1 → (s.pillar 0).ic < n) ∧ (n = 0 → n ≤ (s.pillar 0).ic)) ∧
    (∀ k ∈ [CubeKind.zero 0 false, .op { oneStep (.frame 5 0 512) with role := true }],
      let s := cubed (itemOf k) []
      let writes := fun (a : Nat) (c : CubeItem) => c.q = 0 ∧ ((∃ b, c.kind = .zero a b) ∨ ∃ o, c.kind = .op o ∧ o.acc = a)
      0 < (s.pillar 0).seqs.length ∧ (s.pillar 0).cube = [] ++ itemOf k :: [] ∧ writes 0 (itemOf k) ∧
        ¬ writes 1 (itemOf k) ∧ (∃ x, (s.seq 0 0).accs[0]? = some x) ∧ 5 < (s.pillar 0).frames.length ∧
        ∀ l ∈ (s.seq 0 0).inflight ++ (s.seq 0 0).userBank.entries ++ (s.seq 0 0).supBank.entries,
          (∀ v m, l.what ≠ .acc 0 v m) ∧ ∀ vs, l.what ≠ .side 0 vs) := by
  refine ⟨by decide +kernel, ?_⟩
  intro k h
  simp only [List.mem_cons, List.not_mem_nil, or_false] at h
  rcases h with rfl | rfl
  · exact ⟨by decide +kernel, rfl, ⟨rfl, .inl ⟨_, rfl⟩⟩, fun h => h.2.elim (fun h => by obtain ⟨_, h⟩ := h; cases h)
      (fun h => by obtain ⟨_, h, _⟩ := h; cases h), ⟨_, rfl⟩, by decide +kernel, fun l h => by cases h⟩
  · refine ⟨by decide +kernel, rfl, ⟨rfl, .inr ⟨_, rfl, rfl⟩⟩, ?_, ⟨_, rfl⟩, by decide +kernel, fun l h => by cases h⟩
    rintro ⟨-, ⟨b, h⟩ | ⟨o, h, e⟩⟩
    · cases h
    · cases h
      cases e

/-- A failed gang latched; a change before this one; a FENCE of effects at each scope behind a command, a DRAIN and a
message it reaches; one change to be made, with another post of its ic and with none. -/
theorem test_witness_FlagOrder :
    (let s := two 127 0
     ((s.onMe fun x => { x with gang := [(0, true)] }).me.gang ≠ []) ∧
     ((s.onMe fun x => { x with flagq := [⟨0, false, 1, 0⟩] }).me.flagq ≠ [])) ∧
    (∀ op ∈ [Op.engine (command .copyin 0), .drain 0 [3] 1 none, .msend 0 0 5], ∀ scope ∈ [1, 2, 3],
      let r : Rec := ⟨0, 0, 0, 0, 0, 0, 0, 0, false, false, false, 0, 0, 0, 0, op⟩
      let f : FenceRec := ⟨8, scope, 1, none⟩
      let s := (two 127 0).onMe fun x => { x with fences := [f], recs := [r], order := 2 }
      s.me.fences = [f] ∧ f.acq = none ∧ f.order < s.me.order ∧ f.kinds.getLsbD 3 = true ∧ 1 ≤ f.scope ∧ s.me.recs = [r] ∧
        r.order < f.order ∧ r.op = op) ∧
    (let s := tiny.onMe fun x => { x with flagq := [⟨0, true, 1, 0⟩] }
     (s.seq 0 0).flagq = [⟨0, true, 1, 0⟩] ∧ (s.seq 0 0).fences = [] ∧ s.posts = [] ∧
       ∀ n ∈ ({ s with posts := [⟨1, 0, 0, 0, 0, 1, 0⟩] } : State).posts, n.fromP ≠ 0 ∨ n.fromQ ≠ 0) := by
  decide +kernel

/-- The one frame to renew, and none; a failure of a member in another package. -/
theorem test_witness_Renewer :
    (let due := fun (s : State) (f : Nat) => ((s.frame 0 f).state = .ready ∨ (s.frame 0 f).state = .draining) ∧
        (s.frame 0 f).auto = true ∧ (s.frame 0 f).xp = false ∧
          ((s.frame 0 f).expiry - (s.pillar 0).fadeCount).toNat < 900 * 4096
     due renewing 5 ∧ (∀ g < 64, g ≠ 5 → ¬ due renewing g) ∧ (∀ g < 64, ¬ due tiny g)) ∧
    ({ tiny with who := { part := 1 } }).who.part ≠ 0 := by
  decide +kernel

/-- A packet that RDIDX has passed, and one it has not; a report behind one that stands held, and behind none. -/
theorem test_witness_PacketHalts :
    (let u := packeted (packet true 0 0 0 0) []
     (u.queue 0 0).rdidx ≤ (packet true 0 0 0 0).idx ∧ 0 < u.stks.length ∧ 0 < (u.stack 0).queues.length ∧
       (packet true 0 0 0 0).idx ≤ (u.queue 0 0).next ∧ (u.queue 0 0).next < 1) ∧
    ¬ ((queued (fun x => { x with rdidx := 1 }) 0).queue 0 0).rdidx ≤ (packet true 0 0 0 0).idx ∧
    (let s := { tiny with standing := [.report 0x1000 (.lost 1)] }
     (∃ x ∈ s.standing, x.meets (s.canonPa 0x103F) 64 = true) ∧ (¬ ∃ x ∈ s.standing, x.meets (s.canonPa 0x1040) 64 = true) ∧
       s.refreshing 0x1000 = false ∧ ({ s with selfRefresh := [true] }).refreshing 0x1000 = true) := by
  decide +kernel

/-- A participant whose stack is booted, and one whose stack is not; a member held away, one more of its launch, and
one of another. -/
theorem test_witness_GangAway :
    (∃ l x, (sharing id {}).launch? 0 = some l ∧ l.part? 0 = some x ∧ x.pkg = (sharing id {}).pkg ∧ x.failed = none ∧
      ((sharing id {}).stack x.stack).shut = false ∧ ((sharing id {}).stack x.stack).bootst.getLsbD 3 = true ∧ x.mute = false) ∧
    (tiny.stack 0).bootst.getLsbD 3 = false ∧
    (let away := fun (q l : Nat) => (⟨0, 0, q, some ⟨l, 0, false, false, []⟩, Seq.reset, []⟩ : Away)
     let u := { tiny with away := [away 0 7, away 1 7, away 1 8] }
     let it := fun (b : Away) => b.job = 0 ∧ b.p = 0 ∧ b.q = 0
     let of := fun (b : Away) => (b.iter.any fun t => t.launch = 7) = true
     u.away[0]? = some (away 0 7) ∧ it (away 0 7) ∧ ¬ it (away 1 7) ∧ of (away 1 7) ∧ ¬ of (away 1 8)) := by
  refine ⟨⟨_, _, rfl, rfl, rfl, rfl, by decide +kernel⟩, by decide +kernel, ?_⟩
  refine ⟨rfl, by decide +kernel⟩

/-- An access that translates ahead, one to a page in self-refresh (cached and not), one behind what stands held;
one standing report, and two that meet. -/
theorem test_witness_HeldAccesses :
    (let e := readied .copyin 0
     let s := commanded .filling 2 e 0
     let u := { s with who := { k := 0, up := true } }
     u.who.up = true ∧ ((u.accessesOf 0 e (0, [(0, some 0)])).head?.map MemAcc.va) = some 0 ∧
       (∀ a, u.translate 0 (u.jobOf 0 0) 0 a = (u, .ok 0 0xF)) ∧
       (s.accessesOf 0 e (0, [(0, some 0)])).all (fun a => (s.pageOf 0 0 a).isSome) = true ∧
       { s with selfRefresh := [true] }.refreshing 0 = true ∧ leafC 0xF = false ∧ leafC 0x1F = true ∧
       (∃ x ∈ ({ s with standing := [.report 0 (.lost 1)] } : State).standing, x.meets (s.canonPa 0) 2 = true) ∧
       (∀ x ∈ ({ s with standing := [.report 0 (.lost 1)] } : State).standing, ∀ rs, x ≠ .access 0 0 0 0 rs)) ∧
    (∀ r ∈ [Report.reject 1, .lost 1, .kill 0 1 1, .bytes [1]],
      let u := { tiny with standing := [.report 0x1000 r] }
      let v := { tiny with standing := [.report 0x1000 (.lost 2), .report 0x1000 r], selfRefresh := [true] }
      u.standing = [.report 0x1000 r] ∧ u.refreshing 0x1000 = false ∧ { u with selfRefresh := [true] }.refreshing 0x1000 = true ∧
        (Standing.report 0x1000 (.lost 2)) ≠ .report 0x1000 r ∧ v.refreshing 0x1000 = true ∧
        (Standing.report 0x1000 (.lost 2)).meets (v.canonPa 0x1000) r.size = true) := by
  refine ⟨⟨rfl, by decide +kernel, fun a => onPage _ rfl 0 a (by decide), by decide +kernel, by decide +kernel, by decide,
    by decide, by decide +kernel, ?_⟩, by decide +kernel⟩
  intro x h rs c
  obtain rfl := List.mem_singleton.1 h
  cases c

/-- A marked block for the row buffer, of one place of it, the next steps at places of their own; a wave that lands on
a tile of its own; two layers' steps. -/
theorem test_witness_WaveBlocks :
    (let o := oneStep .chain
     let s := cubed (itemOf (.op o)) [(List.replicate o.readBytes 0, 1)]
     (∃ b ∈ s.mine.chainQ, b.2 ≠ 0) ∧ (o.stepsAt o.next).Pairwise (fun x y => x.2 ≠ y.2) ∧
       (o.stepsAt o.next).zip s.mine.chainQ = [((0, 0), (List.replicate 512 0, 1))] ∧
       0 < (s.pillar 0).rowBuf.length ∧ 0 < (s.pillar 0).rowBad.length ∧ 512 % 8 = 0 ∧
       Mem.wf ((s.pillar 0).rowBuf.getD 0 []) = true ∧ 0 < s.pillars.length ∧ 0 < (s.pillar 0).seqs.length ∧
       0 < s.stks.length ∧ o.acc < (s.seq 0 0).accs.length) ∧
    ({ oneStep .chain with mask := 3, geo := 2 }.stepsAt 0).map Prod.snd = [0, 1] ∧
    (∃ b : BSlot, b.badRows ≠ [] ∧ b.tag ≠ tagOf 5) := by
  refine ⟨by decide +kernel, by decide +kernel, { BSlot.zero with badRows := [0], tag := .trn }, by decide +kernel⟩

/-- An operation of each path; a step of full rows and columns with two terms, and its kinds of sum: NaN, infinities
of both signs and of one, zeros, and a largest term. -/
theorem test_witness_CubeSums :
    ({ oneStep .chain with fmt := 0x77 }.path = .log ∧ (oneStep .chain).path = .int ∧
      { oneStep .chain with fmt := 0x11 }.path = .float) ∧
    (let o := { oneStep .chain with fmt := 0x11, xc := true }
     let row := fun (x : Nat) => x :: List.replicate 63 0
     let k : KStep := ⟨List.replicate 8 (row 0x3F80), List.replicate 64 (row 0x3F80)⟩
     o.xc = true ∧ k.a.length = o.rows_ ∧ k.b.length = 64 ∧ (∀ r ∈ k.a, r.length = 64) ∧ (∀ c ∈ k.b, c.length = 64) ∧
       (∀ x ∈ [0x3F80, 0x7F80, 0xFF80, 0x7FC0], (row x).length = 64) ∧
       o.stepSums ⟨[row 0x3F80], [row 0x3F80]⟩ = [0x3F800000] ∧ o.stepSums ⟨[row 0x7FC0], [row 0]⟩ = [0x7FC00000] ∧
       o.stepSums ⟨[row 0xFF80], [row 0x3F80]⟩ = [0xFF800000] ∧ o.stepSums ⟨[row 0], [row 0x3F80]⟩ = [0] ∧
       o.stepSums ⟨[0x7F80 :: row 0x3F80], [0x3F80 :: row 0xFF80]⟩ = [0x7FC00000]) := by
  decide +kernel

/-- R115's product of two log codes, in a step of no other terms at scales that sum to -1. -/
theorem test_log_sum :
    { oneStep .chain with fmt := 0xFF77 }.stepSums ⟨[0x12 :: List.replicate 63 0], [0x13 :: List.replicate 63 0]⟩ =
      [0x3F983800] := by
  decide +kernel

/-- A stack and its stop; a voltage change that begins, that goes on, and neither; a token holding below the last need
and at each. -/
theorem test_witness_Voltage :
    (0 < tiny.stks.length ∧ Stack.reset.stop ≤ 7 ∧ Stack.reset.tstop ≤ 7) ∧
    (let case := fun (tick : Nat) (began : Nat) (last : Nat × Bool) =>
       (({ tiny with tick := tick } : State).tick / 2, began, last)
     let begins := fun (c : Nat × Nat × (Nat × Bool)) => c.2.1 + 1000000 ≤ c.1 ∧ c.2.2.1 + 1000 ≤ c.1
     let goesOn := fun (c : Nat × Nat × (Nat × Bool)) => 0 < c.2.2.1 ∧ c.2.2.1 + 1000 ≤ c.1 ∧ c.1 < c.2.2.1 + 2000 ∧ c.2.2.2 = true
     (begins (case 2000000 0 (0, false)) ∧ ¬ goesOn (case 2000000 0 (0, false))) ∧
     (¬ begins (case 2002000 1000000 (1000000, true)) ∧ goesOn (case 2002000 1000000 (1000000, true))) ∧
     (¬ begins (case 2001998 1000000 (1000000, true)) ∧ ¬ goesOn (case 2001998 1000000 (1000000, true))) ∧
     ¬ goesOn (case 2004000 1000000 (1000000, true))) ∧
    (∀ j ≤ 7, let need := fun (j : Nat) => 1140 - 142 * j
      need j ≤ need j ∧ ∀ i < j, need j < need i) ∧ 145 < 1140 - 142 * 7 := by
  decide +kernel

/-- A stack whose dies all give 85 °C, one with a hotter sensor, one with a die that gives nothing, at thresholds of
60 to 124. -/
theorem test_witness_Samples :
    (let TH := fun (j : Nat) => (((0x007C42413F3E3D3C : W64).extractLsb' (8 * (j - 1)) 8).toNat : Int)
     (∀ u ≤ 7, u = 6 ↔ (u = 0 ∨ 8 * TH u ≤ 680) ∧ ∀ j ≤ 7, u < j → (680 : Int) < 8 * TH j) ∧
     (8 * TH 6 - 16 < 680) ∧ (600 ≤ 8 * TH 7 - 16) ∧ (∃ n < 7, (n = 0 ∨ 8 * TH n - 16 < 600) ∧ ∀ j < 7, n < j → (600 : Int) ≤ 8 * TH j - 16)) ∧
    ((0x3E8 : BitVec 16).toInt = 1000 ∧ (0x3E8 : BitVec 16) ≠ 0x8000 ∧ (0x3E7 : BitVec 16).toInt < 1000) ∧
    (let k := { Stack.reset with tchg := some 0 }
     (∀ c ∈ k.tchg, c + 100000 ≤ 100000) ∧ ¬ ∀ c ∈ k.tchg, c + 100000 ≤ 99999) := by
  decide +kernel

/-- The small state with both sections short of their large files, and the job's images at address 0. -/
def shortened : State :=
  let x := { Seq.reset with
    iter := some ⟨0, 0, false, false, []⟩, norms := [], vregs := [], accs := [], dirs := [], vpreds := [] }
  { tiny with
    mem := [(0x28, 1), (0x710, 1), (0x720, 19)]
    pillars := [{ Pillar.reset with
      frames := [], bslots := [], rowBuf := [], rowBad := [], trays := [], seqs := [x, x] }] }

/-- Pieces inside the image's area and apart from each other. -/
theorem test_witness_ImageArea :
    (let u := shortened
     let base := u.imageAt 0
     let pieces := u.pillarPieces 0 ++ (u.sectionPieces 0 0).map (fun x => (0x200000 + x.1, x.2)) ++
       (u.sectionPieces 0 1).map fun x => (0x280000 + x.1, x.2)
     u.memWf ∧ u.imageMarks 0 = [] ∧ base % 32 = 0 ∧ base + 0x300000 ≤ 0x6000000000 ∧
       (∀ x ∈ pieces, x.1 + x.2.length ≤ 0x300000) ∧
       (pieces.Pairwise fun x y => x.1 + x.2.length ≤ y.1 ∨ y.1 + y.2.length ≤ x.1)) := by
  refine ⟨rfl, ?_⟩
  decide +kernel

/-- A job all of whose stacks are killed, and one with a participant elsewhere; block bytes that are not marked, a
page that is refreshing itself and one that is not; losses of none and some, a cause recorded and none; a message of
a killed sequencer to a stack killed too and to one that is not. -/
theorem test_witness_Kills :
    (let s := walking 0 1
     ∃ l y, s.launches = [l] ∧ l.parts = [y] ∧ y.pkg = s.pkg ∧ y.stack = 0 ∧ s.standing = [] ∧ l.jcb % 64 = 0 ∧
       l.jcb + 64 ≤ 0x6000000000 ∧ s.tick < 2 ^ 64 ∧ s.sectorBad l.jcb = false ∧ s.sectorBad (l.jcb + 32) = false ∧
       s.refreshing l.jcb = false ∧ { s with selfRefresh := [true] }.refreshing l.jcb = true ∧ l.job = 0 ∧
       l.onlyOn s.pkg [0] = true ∧ l.parts.length < 2) ∧
    (∃ l y z, (sharing id {}).launches = [l] ∧ l.parts = [y, z] ∧ y.pkg = (sharing id {}).pkg ∧ y.stack = 0 ∧
      z.pkg ≠ (sharing id {}).pkg ∧ y.failed = none ∧ y.mute = false) ∧
    ((walking 0 1).memWf ∧ (sharing id {}).memWf) ∧
    (((block 0 0 0 0).addLost 1 9).err.extractLsb' 16 8 = 0 ∧ ((block 0 0 0 0x10000).addLost 1 9).err.extractLsb' 16 8 ≠ 0) ∧
    (∀ sts : List Nat, sts = [0] ∨ sts = [] →
      let r : Rec := ⟨0, 0, 0, 0, 0, 0, 0, 0, false, false, false, 0, 0, 0, 0, .msend 1 0 5⟩
      ∃ x y, (operating (.msend 1 0 5) 0).pillars.map Pillar.seqs = [[x, y]] ∧ x.recs.map Rec.op = [r.op] ∧ y.recs = [] ∧
        (sts = [0] → 1 / 32 ∈ sts) ∧ (sts = [] → 1 / 32 ∉ sts)) := by
  refine ⟨⟨_, _, rfl, rfl, rfl, rfl, rfl, by decide +kernel⟩, ⟨_, _, _, rfl, rfl, rfl, rfl, by decide +kernel⟩,
    ⟨rfl, rfl⟩, by decide +kernel, ?_⟩
  rintro sts (rfl | rfl) <;> exact ⟨_, _, rfl, by decide +kernel, rfl, by decide, by decide⟩

/-- A record of a syllable 1. -/
def stored : Rec := ⟨0, 0, 0, 0, 0, 1, 0, 0, false, false, false, 0, 0, 0, 0, .cube⟩

/-- The small state with sequencer 0's section, of that one record and of zeros else, at address 0 of its memory. -/
def imaged : State := { tiny with
  mem := [(0x28, 1), (0x710, 1), (0x720, 19), (0x70018, 1)]
  pillars := [{ Pillar.reset with seqs := [{ Seq.reset with
    iter := some ⟨0, 0, false, false, []⟩, norms := List.replicate 8 (List.replicate 16 0), recs := [stored] }, Seq.reset] }] }

theorem imaged_blank : ∀ n a, 0x800 ≤ a → a + n ≤ 0x70000 → imaged.readMem a n = List.replicate n 0
  | 0, _, _, _ => rfl
  | n + 1, a, h, k => by
    have c : imaged.canonPa a = a := by
      rw [State.canonPa, if_neg]
      rw [show imaged.pkg = 0 from rfl]
      omega
    have r : imaged.readByte a = 0 := by
      rw [State.readByte, c]
      simp only [show imaged.poison = [] from rfl, List.contains_nil, Bool.false_eq_true, if_false,
        show imaged.mem = [(0x28, 1), (0x710, 1), (0x720, 19), (0x70018, 1)] from rfl, Mem.read, memDefault]
      rw [if_neg (by omega), if_neg (by omega), if_neg (by omega), if_neg (by omega)]
    rw [State.readMem, r, imaged_blank n (a + 1) (by omega) (by omega), List.replicate_succ]

theorem zeros_flatMap {α : Type} {l : List α} {x : α} {n : Nat} {f : α → List Byte} (h : l = List.replicate n x)
    (k : ∀ b ∈ f x, b = 0) : ∀ b ∈ l.flatMap f, b = 0 := by
  intro b hb
  obtain ⟨y, hy, hb⟩ := List.mem_flatMap.1 hb
  rw [h] at hy
  rw [List.eq_of_mem_replicate hy] at hb
  exact k b hb

theorem imaged_zeros {off : Nat} {bs : List Byte} (z : ∀ b ∈ bs, b = 0) (h : 0x800 ≤ off) (k : off + bs.length ≤ 0x70000) :
    imaged.readMem (0 + off) bs.length = bs := by
  rw [Nat.zero_add, imaged_blank _ _ h k]
  exact (List.eq_replicate_of_mem z).symm

theorem zeros_vreg : ∀ b ∈ vregBytes (vfill 0), b = 0 := zeros_flatMap rfl (by decide)

theorem leBytes_length (n v : Nat) : (leBytes n v).length = n := by
  induction n generalizing v with
  | zero => rfl
  | succ n ih => rw [leBytes, List.length_cons, ih]

theorem flatMap_length {α : Type} {f : α → List Byte} {n : Nat} (h : ∀ x, (f x).length = n) (l : List α) :
    (l.flatMap f).length = n * l.length := by
  induction l with
  | nil => rfl
  | cons x xs ih => rw [List.flatMap_cons, List.length_append, h, ih, List.length_cons, Nat.mul_succ, Nat.add_comm]

theorem length_vreg : (vregBytes (vfill 0)).length = 4096 :=
  (flatMap_length (fun _ => leBytes_length _ _) _).trans (by rw [vfill, List.length_replicate])

theorem mem_filled {α β : Type} {f : Nat → α → β} {l : List α} {n : Nat} {x : α} {z : β} (h : l = List.replicate n x)
    (hz : z ∈ l.mapIdx f) : ∃ i < n, z = f i x := by
  obtain ⟨i, hi, rfl⟩ := List.mem_mapIdx.1 hz
  subst h
  exact ⟨i, by simpa using hi, by rw [List.getElem_replicate]⟩

theorem imaged_read : ∀ z ∈ imaged.sectionPieces 0 0, imaged.readMem (0 + z.1) z.2.length = z.2 := by
  intro z h
  simp only [State.sectionPieces, List.mem_append, List.mem_cons, List.not_mem_nil, or_false] at h
  rcases h with ((((((h | h | h | h | h | h | h | h | h | h | h | h | h | h | h | h | h) | h) | h) | h) | h) | h) | h
  all_goals try (subst h; decide +kernel)
  · subst h
    refine imaged_zeros (bs := List.replicate 4096 0 ++ List.replicate 4096 0) ?_ (by omega) ?_
    · exact fun b hb => List.eq_of_mem_replicate ((List.mem_append.1 hb).elim id id)
    · rw [List.length_append, List.length_replicate]; omega
  · obtain ⟨i, hi, rfl⟩ := mem_filled (n := 8) (x := Acc.zero) rfl h
    have w : Acc.zero.bytes.length = 4424 := by
      rw [Acc.bytes, List.length_append, List.length_append, leBytes_length]
      have k : (vregBytes Acc.zero.side).length = 320 := flatMap_length (fun _ => leBytes_length _ _) _
      rw [show Acc.zero.elems = vfill 0 from rfl, length_vreg, k]
    refine imaged_zeros (bs := Acc.zero.bytes) ?_ (by omega) (by rw [w]; omega)
    intro b hb
    rw [Acc.bytes, List.mem_append, List.mem_append] at hb
    rcases hb with (hb | hb) | hb
    · exact zeros_vreg b hb
    · exact zeros_flatMap (n := 80) rfl (by decide) b hb
    · revert b; decide +kernel
  · obtain ⟨i, hi, rfl⟩ := mem_filled (n := 8) (x := List.replicate 1024 0) rfl h
    refine imaged_zeros (zeros_flatMap rfl (by decide)) (by omega) ?_
    rw [halfBytes, flatMap_length (fun _ => leBytes_length _ _), List.length_replicate]
    omega
  · obtain ⟨i, hi, rfl⟩ := mem_filled (n := 32) (x := vfill 0) rfl h
    exact imaged_zeros zeros_vreg (by omega) (by rw [length_vreg]; omega)
  · exact absurd h List.not_mem_nil
  · obtain rfl := List.mem_singleton.1 h
    decide +kernel

/-- A section whose every piece is in memory, with files of full length and one record. -/
theorem test_witness_SectionLoaded :
    (∀ z ∈ imaged.sectionPieces 0 0, imaged.readMem (0 + z.1) z.2.length = z.2) ∧
    (let x := imaged.seq 0 0
     x.named.length = 16 ∧ x.queue.length = 16 ∧ x.geos.length = 8 ∧ x.fts.length = 16 ∧ x.preds.length = 16 ∧
       x.norms.length = 8 ∧ (∀ n ∈ x.norms, n.length = 16) ∧ x.vpreds.length = 8 ∧ (∀ n ∈ x.vpreds, n.length = 16) ∧
       x.dirs.length = 8 ∧ x.vregs.length = 32 ∧ x.accs.length = 8 ∧ x.loops.length ≤ 6 ∧ stored ∈ x.recs) ∧
    (∀ n ∈ imaged.me.dirs, n.length = 1024) ∧ (∀ n ∈ imaged.me.vregs, n.length = 1024) ∧
    (∀ c ∈ imaged.me.accs, c.elems.length = 1024 ∧ c.side.length = 80 ∧ c.prog < 2 ^ 32 ∧ c.nw < 2 ^ 8 ∧
      ∀ b ∈ c.bound, b < 8) ∧
    (stored.idx < 256 ∧ stored.syl ≠ 0 ∧ stored.lw = stored.lw &&& 0x000FFFFFFFFFFFE0 ∧ stored.slot < 8 ∧
      stored.cause < 256 ∧ stored.progress < 2 ^ 64 ∧ stored.seqno < 2 ^ 32) ∧
    (State.reset.mayRestore 0 = true ∧ State.reset.imageFits 0 = true ∧ State.reset.shape) := by
  refine ⟨imaged_read, by decide +kernel, ?_, ?_, ?_, by decide +kernel, by decide +kernel, by decide +kernel,
    test_witness_reset_shape⟩ <;> intro n h
  · rw [List.eq_of_mem_replicate (n := 8) h, List.length_replicate]
  · rw [List.eq_of_mem_replicate (n := 32) h]; exact List.length_replicate
  · rw [List.eq_of_mem_replicate (n := 8) h]
    exact ⟨List.length_replicate, List.length_replicate, by decide, by decide, fun b h => by cases h⟩

end Sys2Proof.Machine.Tests
end

section
/-! PROOFS. The package at reset (O60): what each place of a reset list holds. -/

namespace Sys2Proof.Machine

theorem at0_replicate {w : Nat} (n i : Nat) (x : BitVec w) (h : i < n) : at0 (List.replicate n x) i = x :=
  List.getD_replicate _ h

/-- The reset package has its stacks, pillars and sequencers. -/
theorem reset_has_shape : State.reset.shape :=
  ⟨rfl, rfl, fun _ hP => by rw [List.eq_of_mem_replicate hP]; rfl⟩

/-- Every frame is cleared at reset. -/
theorem reset_framesWf : State.reset.framesWf := fun P hP F hF => by
  rw [List.eq_of_mem_replicate hP] at hF
  rw [List.eq_of_mem_replicate (n := 64) hF]
  rfl

theorem reset_pillar (p : Nat) (h : p < 128) : State.reset.pillar p = Pillar.reset := List.getD_replicate _ h

theorem reset_frame (p f : Nat) (hp : p < 128) (hf : f < 64) : State.reset.frame p f = Frame.cleared := by
  rw [State.frame, reset_pillar p hp]
  exact List.getD_replicate _ hf

theorem reset_seq (p q : Nat) (hp : p < 128) (hq : q < 2) : State.reset.seq p q = Seq.reset := by
  rw [State.seq, reset_pillar p hp]
  exact List.getD_replicate _ hq

theorem reset_stack (st : Nat) (h : st < 4) : State.reset.stack st = Stack.reset := List.getD_replicate _ h

theorem at0_vfill (w : W32) (e : Nat) (h : e < 1024) : at0 (vfill w) e = w := at0_replicate 1024 e w h

/-- Settles O60: each place of a reset list holds its one value. -/
theorem resetValues : Obligations.ResetValues := by
  unfold Obligations.ResetValues
  refine ⟨rfl, reset_framesWf, reset_has_shape, rfl, rfl, rfl, rfl, rfl, rfl, fun p hp => ?_, fun st hst => ?_⟩
  · dsimp only
    rw [reset_pillar p hp]
    refine ⟨rfl, rfl, fun k => at0_replicate 32 k 0, rfl, rfl, fun f hf => ?_, fun q hq => ?_⟩
    · rw [reset_frame p f hp hf]
      rfl
    rw [reset_seq p q hp hq]
    refine ⟨rfl, rfl, fun i => at0_replicate 16 i 0, fun i => at0_replicate 16 i 0,
      fun c hc => List.getD_replicate _ hc, fun v hv e he => ?_, fun d hd r hr => ?_, fun a ha => ?_,
      rfl, rfl, rfl, rfl, rfl, rfl, rfl⟩
    · rw [show Seq.reset.vregs = List.replicate 32 (vfill 0) from rfl, List.getD_replicate _ hv, at0_vfill 0 e he]
    · rw [show Seq.reset.norms = List.replicate 8 (List.replicate 16 0x8000) from rfl, List.getD_replicate _ hd,
        at0_replicate 16 r _ hr]
    · rw [show Seq.reset.accs = List.replicate 8 Acc.zero from rfl, List.getD_replicate _ ha]
      rfl
  · dsimp only
    rw [reset_stack st hst]
    exact ⟨rfl, rfl, fun i => at0_replicate 96 i 0x8000, rfl, by decide, by decide, rfl, rfl, by decide, by decide⟩
end Sys2Proof.Machine
end

section
/-! PROOFS. The host's side (O51): a host write behind what stands held at the memory side. -/

namespace Sys2Proof.Machine

/-- A host write inside the map, with verified firmware (R384, R387). -/
theorem hostMemAccess_write (s : State) (hq : s.who.q = 0) (hup : s.who.up = true) (hb : s.unbooted = false)
    (h0 : spaceOf s.who.k ≠ none) (h1 : spaceOf (s.who.k + (s.who.bytes.length - 1)) ≠ none) :
    exec .hostMemAccess s = .next (s.hostWrite s.who.k s.who.bytes) := by
  show execHostMemAccess s = _
  simp [execHostMemAccess, hq, hup, hb, h0, h1]

/-- A host write to memory behind what stands held is put off as a whole (R286). -/
theorem hostWrite_behind (s : State) (pa : Nat) (bs : List Byte) (h : ∀ st, spaceOf pa ≠ some (.bar st))
    (hb : s.behind s.standing pa (min (32 - pa % 32) bs.length) = true) :
    s.hostWrite pa bs = s.putOff .hostMemAccess { k := pa, up := true, bytes := bs } := by
  unfold State.hostWrite
  dsimp only
  split
  · next st e => exact absurd e (h st)
  · simp [hb]

/-- HBM stack 0 refreshes itself, a report of losses stands held at its address 0, and the host writes a byte there. -/
def hostWritesBehindHeld : State :=
  { State.reset with
    selfRefresh := true :: List.replicate 7 false
    standing := [.report 0 (.lost 1)]
    who := { up := true, bytes := [1] } }

/-- Memory is left as it was: the byte waits behind the report. -/
theorem hostWritesBehindHeld_waits :
    exec .hostMemAccess hostWritesBehindHeld =
      .next (hostWritesBehindHeld.putOff .hostMemAccess { k := 0, up := true, bytes := [1] }) := by
  rw [hostMemAccess_write hostWritesBehindHeld rfl rfl (by decide) (by decide) (by decide),
    hostWrite_behind _ _ _ (fun st e => by cases e) (by decide)]
  rfl

/-- Refutes O51: a host write that fits in its sector is not performed at once when something stands held at its bytes;
R286 has it wait there, and the statement asks it of every state. -/
theorem not_hostEvents : ¬ Obligations.HostEvents := by
  unfold Obligations.HostEvents
  intro h
  obtain ⟨-, -, -, -, -, -, -, -, hAccess, -⟩ := h hostWritesBehindHeld
  obtain ⟨-, hInMap⟩ := hAccess rfl
  obtain ⟨-, hWrite⟩ := hInMap (by decide) (by decide)
  obtain ⟨hWhole, -⟩ := hWrite rfl (by decide)
  have hNow := hWhole (.inl (by decide))
  rw [hostWritesBehindHeld_waits] at hNow
  have hMem : ([] : List Host.Cell) = [(0, 1)] := congrArg State.mem (Host.Outcome.next.inj hNow)
  cases hMem
end Sys2Proof.Machine
end

section
/-! PROOFS. The cube engine's start of an operation and of a wave (O44): what CUBE_WAVE_START does for each answer of the
reads, and what the reads answer for each source of the A blocks. -/

namespace Sys2Proof.Machine

/-! ### The start -/

theorem exec_cubeOpStart_idle {s : State} (h : (s.pillar s.who.p).cubeHead = none) : exec .cubeOpStart s = .next s := by
  show execCubeOpStart s = _
  simp only [execCubeOpStart, h]

/-- An item whose work starts in ic t (R297). -/
def CubeItem.begun (c : CubeItem) (t : Nat) : CubeItem :=
  { c with
    started := true
    kind := match c.kind with
      | .op o => .op { o with waveAt := t }
      | k => k }

theorem exec_cubeOpStart_head {s : State} {c : CubeItem} (h : (s.pillar s.who.p).cubeHead = some c) :
    exec .cubeOpStart s =
      .next (s.onCube s.who.p c.q c.record fun d => d.begun (s.pillar s.who.p).ic) := by
  show execCubeOpStart s = _
  simp only [execCubeOpStart, h]
  rfl

/-! ### The start of a wave -/

theorem exec_cubeWaveStart_idle {s : State} (h : (s.pillar s.who.p).cubeHead = none) :
    exec .cubeWaveStart s = .next s := by
  show execCubeWaveStart s = _
  simp only [execCubeWaveStart, h]

/-- A fault that the host does not serve is not offered to it (R349). -/
theorem hostAsk_declined {s : State} {cause : Nat} {info : W64} (p q i : Nat) (h : s.hostServes cause info = false) :
    s.hostAsk p q i cause info = (s, false) := by
  simp [State.hostAsk, h]

theorem hostServes_cause {s : State} {cause : Nat} (info : W64) (h : cause ≠ cXlate) :
    s.hostServes cause info = false := by
  simp [State.hostServes, h]

theorem hostServes_off {s : State} (cause : Nat) (info : W64) (h : s.fnmode.getLsbD 0 = false) :
    s.hostServes cause info = false := by
  have hbit : bit s.fnmode 0 = false := h
  simp [State.hostServes, hbit]

/-- The head of the engine is an operation whose wave reads no HBM stack in self-refresh. -/
structure State.waveDue (s : State) (c : CubeItem) (o : CubeOp) : Prop where
  head : (s.pillar s.who.p).cubeHead = some c
  kind : c.kind = .op o
  awake : s.waveInRefresh s.who.p c.q o = false

section
variable {s : State} {c : CubeItem} {o : CubeOp}

/-- A layer that has failed faults UE (R13). -/
theorem State.waveDue.layerFails (due : s.waveDue c o) {lj : Nat × Nat}
    (hl : (o.stepsAt o.next).find? (fun lj => (s.stack (stackOf s.who.p)).layerFailed lj.1) = some lj) :
    exec .cubeWaveStart s = .next ((s.sufferUe s.who.p (poisonInfo 11 lj.1 0)).parkWave s.who.p c.q c.record o
      (cUe, poisonInfo 11 lj.1 0)) := by
  show execCubeWaveStart s = _
  simp [execCubeWaveStart, due.head, due.kind, due.awake, hl]

/-- A wave whose reads answer blocks runs. -/
theorem State.waveDue.runs (due : s.waveDue c o) {u : State} {blocks : List MarkedBlock}
    (hl : (o.stepsAt o.next).find? (fun lj => (s.stack (stackOf s.who.p)).layerFailed lj.1) = none)
    (hb : s.waveBlocks s.who.p c.q o = (u, .ok blocks)) :
    exec .cubeWaveStart s = .next (u.runWave s.who.p c.q c.record o blocks) := by
  show execCubeWaveStart s = _
  simp [execCubeWaveStart, due.head, due.kind, due.awake, hl, hb]

/-- A wave whose reads fault parks its operation, unless the host serves the fault (R306, R349). -/
theorem State.waveDue.parks (due : s.waveDue c o) {u : State} {f : WaveFault}
    (hl : (o.stepsAt o.next).find? (fun lj => (s.stack (stackOf s.who.p)).layerFailed lj.1) = none)
    (hb : s.waveBlocks s.who.p c.q o = (u, .error f)) (hh : o.src = .noHandle ∨ u.hostServes f.1 f.2 = false) :
    exec .cubeWaveStart s = .next (u.parkWave s.who.p c.q c.record o f) := by
  show execCubeWaveStart s = _
  by_cases hn : o.src = .noHandle
  · simp [execCubeWaveStart, due.head, due.kind, due.awake, hl, hb, hn]
  · have hd := hostAsk_declined s.who.p c.q c.record (hh.resolve_left hn)
    simp [execCubeWaveStart, due.head, due.kind, due.awake, hl, hb, hn, hd]
end

/-- Two fields, one above the other, as a number. -/
theorem field_or_field (a b n m : Nat) : field a 0 n ||| field b n m = BitVec.ofNat 64 (a % 2 ^ n + b % 2 ^ m * 2 ^ n) := by
  have ha : a % 2 ^ n < 2 ^ n := Nat.mod_lt _ (Nat.two_pow_pos n)
  rw [field, field, Nat.shiftLeft_zero, BitVec.or_comm, ← BitVec.ofNat_or, ← Nat.shiftLeft_add_eq_or_of_lt ha,
    Nat.shiftLeft_eq, Nat.add_comm]

/-- The R356 word of a layer that has failed: unit 11 and the layer. -/
theorem layerWord_eq (l : Nat) : poisonInfo 11 l 0 = BitVec.ofNat 64 (11 + 16 * (l % 4)) := by
  have h : field 0 8 44 = 0 := rfl
  rw [poisonInfo, h, field_or_field, Nat.mul_comm 16]
  exact BitVec.or_zero

/-! ### What a wave reads -/

section
variable (s : State) (p q : Nat) {o : CubeOp}

theorem waveBlocks_rowBuffer (h : o.src = .rowBuffer) : s.waveBlocks p q o =
    (s, .ok (((o.stepsAt o.next).map Prod.snd).map fun j => (s.pillar p).rowBlock j o.readBytes)) := by
  simp only [State.waveBlocks, h]

theorem waveBlocks_chain (h : o.src = .chain) : s.waveBlocks p q o =
    (s, .ok (List.zipWith (fun j (b : MarkedBlock) => b.over ((s.pillar p).rowBlock j o.readBytes) o.readBytes)
      ((o.stepsAt o.next).map Prod.snd) (s.pillar p).chainQ)) := by
  simp only [State.waveBlocks, h]

theorem waveBlocks_noHandle (h : o.src = .noHandle) : s.waveBlocks p q o =
    ({ s with nonce := s.nonce + 1 }, .error (cXlate, BitVec.ofNat 64 (Config.choice s.nonce))) := by
  simp only [State.waveBlocks, h, State.choose]

/-- An EMPTY or FILLING frame (R304). -/
theorem waveBlocks_unreadable {f off stride : Nat} (h : o.src = .frame f off stride)
    (hu : (s.frame p f).unreadable = true) : s.waveBlocks p q o =
    (s, .error (cFstate, fstateInfo f (s.frame p f).state 5)) := by
  simp only [State.waveBlocks, h, hu, if_true]

/-- An expired frame (R304). -/
theorem waveBlocks_stale {f off stride : Nat} (h : o.src = .frame f off stride)
    (hu : (s.frame p f).unreadable = false) (hx : (s.frame p f).xp = true) : s.waveBlocks p q o =
    (s, .error (cStale, faddr f (off + stride * ((o.stepsAt o.next).map Prod.snd).headD 0))) := by
  simp [State.waveBlocks, h, hu, hx, faddr]

/-- Poison in the frame's blocks is consumed as they are read (R355). -/
theorem waveBlocks_frame {f off stride : Nat} (h : o.src = .frame f off stride)
    (hu : (s.frame p f).unreadable = false) (hx : (s.frame p f).xp = false) : s.waveBlocks p q o =
    (if ((o.stepsAt o.next).map Prod.snd).any fun j => (s.frame p f).isPoisoned (off + stride * j) o.readBytes
        then s.onSeq p q fun x => x.poisonAsync 2 else s,
      .ok (((o.stepsAt o.next).map Prod.snd).map fun j => (s.frame p f).markedBlock (off + stride * j) o.readBytes)) := by
  simp [State.waveBlocks, h, hu, hx]

/-- What a wave of a CMMAH reads: the blocks of its k-steps, with the faults met on the way. -/
def State.handleReads (s : State) (p q : Nat) (o : CubeOp) (h : Handle) (t0 t1 pl : Nat) :
    State × List MarkedBlock × List (Nat × WaveFault) :=
  ((o.stepsAt o.next).map Prod.snd).foldl (fun (acc : State × List MarkedBlock × List (Nat × WaveFault)) j =>
    let r := acc.1.tensorBlock p q (acc.1.orderOf p q o.record) h (blockElems h o.afmt t0 t1 pl o.rows_ j)
    (r.1, acc.2.1 ++ [r.2.1], acc.2.2 ++ r.2.2)) (s, [], [])

theorem waveBlocks_handle {h : Handle} {t0 t1 pl : Nat} (hs : o.src = .handle h t0 t1 pl)
    (hf : lowestFault (s.handleReads p q o h t0 t1 pl).2.2 = none) : s.waveBlocks p q o =
    ((s.handleReads p q o h t0 t1 pl).1, .ok (s.handleReads p q o h t0 t1 pl).2.1) := by
  simp only [State.waveBlocks, hs]
  simp only [State.handleReads] at hf ⊢
  rw [hf]

theorem waveBlocks_handle_faults {h : Handle} {t0 t1 pl : Nat} {f : Nat × WaveFault} (hs : o.src = .handle h t0 t1 pl)
    (hf : lowestFault (s.handleReads p q o h t0 t1 pl).2.2 = some f) : s.waveBlocks p q o =
    ((s.handleReads p q o h t0 t1 pl).1, .error f.2) := by
  simp only [State.waveBlocks, hs]
  simp only [State.handleReads] at hf ⊢
  rw [hf]
end

/-! ### The lowest failing access (R395) -/

/-- One step of the search. -/
theorem lowestFault_snoc (fs : List (Nat × WaveFault)) (f : Nat × WaveFault) : lowestFault (fs ++ [f]) =
    some (((lowestFault fs).map fun g => if f.1 < g.1 then f else g).getD f) := by
  rw [lowestFault, List.foldl_append]
  show (match lowestFault fs with
    | none => some f
    | some g => if f.1 < g.1 then some f else some g) = _
  cases lowestFault fs with
  | none => rfl
  | some g => exact (apply_ite some (f.1 < g.1) f g).symm

theorem lowestFault_eq_none (fs : List (Nat × WaveFault)) : lowestFault fs = none ↔ fs = [] := by
  rcases List.eq_nil_or_concat fs with rfl | ⟨gs, f, rfl⟩
  · exact iff_of_true rfl rfl
  · simp [lowestFault_snoc]

theorem lowestFault_least (fs : List (Nat × WaveFault)) (g : Nat × WaveFault) (h : lowestFault fs = some g) :
    g ∈ fs ∧ ∀ f ∈ fs, g.1 ≤ f.1 := by
  induction fs using List.reverseRecOn generalizing g with
  | nil => cases h
  | append_singleton fs f ih =>
    rw [lowestFault_snoc] at h
    cases e : lowestFault fs with
    | none =>
      obtain rfl := (lowestFault_eq_none fs).1 e
      simp_all [lowestFault]
    | some k =>
      obtain ⟨hk, hmin⟩ := ih k e
      simp only [e, Option.map_some, Option.getD_some, Option.some.injEq] at h
      split at h <;> subst h
      · exact ⟨by simp, fun x hx => by
          rcases List.mem_append.1 hx with hx | hx
          · have := hmin x hx; omega
          · simp_all⟩
      · exact ⟨by simp [hk], fun x hx => by
          rcases List.mem_append.1 hx with hx | hx
          · exact hmin x hx
          · obtain rfl := List.mem_singleton.1 hx; omega⟩

end Sys2Proof.Machine
end

section
/-! PROOFS. The cube's marked blocks (O44, R301, R354, R362): blocks read from a tensor and from a frame, and a block
written over another. -/

namespace Sys2Proof.Machine

/-! ### A tensor block, element by element (R292) -/

section
variable {u : State} {p m order : Nat} {h : Handle} {xs : List (Option Nat)}
  {r : State × MarkedBlock × List (Nat × WaveFault)}

/-- An element outside the tensor reads as the pad. -/
theorem tensorBlock_snoc_none (hr : u.tensorBlock p m order h xs = r) :
    u.tensorBlock p m order h (xs ++ [none]) = (r.1, (r.2.1.1 ++ leBytes h.width h.pad.toNat, r.2.1.2), r.2.2) := by
  subst hr
  rw [State.tensorBlock, List.foldl_append]
  rfl

/-- An access that faults gives no bytes. -/
theorem tensorBlock_snoc_bad (hr : u.tensorBlock p m order h xs = r) {va c : Nat} {t : State} {i : W64}
    (ht : r.1.translate (stackOf p) (r.1.jobOf p m) va .read = (t, .bad c i)) :
    u.tensorBlock p m order h (xs ++ [some va]) = (t, r.2.1, r.2.2 ++ [(va, c, i)]) := by
  subst hr
  simp only [State.tensorBlock] at ht ⊢
  simp only [List.foldl_append, List.foldl_cons, List.foldl_nil, ht]

/-- An access that is made gives its bytes, marked when they are poisoned. -/
theorem tensorBlock_snoc_ok (hr : u.tensorBlock p m order h xs = r) {va pa : Nat} {t : State} {leaf : W64}
    (ht : r.1.translate (stackOf p) (r.1.jobOf p m) va .read = (t, .ok pa leaf)) :
    let bad := t.readBad p m order va pa h.width
    u.tensorBlock p m order h (xs ++ [some va]) =
      (if bad then t.onSeq p m fun x => x.poisonAsync 1 else t,
        r.2.1.grown (t.readFor p m order va pa h.width) bad, r.2.2) := by
  subst hr
  simp only [State.tensorBlock] at ht ⊢
  simp only [List.foldl_append, List.foldl_cons, List.foldl_nil, ht]
end

/-! ### Marks as bits -/

/-- The number with bit g set where f says so, below n, as a block's marks are summed. -/
def bitSum (f : Nat → Bool) (n : Nat) : Nat :=
  ((List.range n).map fun k => if f k then 2 ^ k else 0).foldl (· + ·) 0

theorem bitSum_succ (f : Nat → Bool) (n : Nat) : bitSum f (n + 1) = (if f n then 2 ^ n else 0) + bitSum f n := by
  simp [bitSum, List.range_succ, Nat.add_comm]

theorem bitSum_lt (f : Nat → Bool) (n : Nat) : bitSum f n < 2 ^ n := by
  induction n with
  | zero => exact Nat.one_pos
  | succ n ih =>
    rw [bitSum_succ, pow_succ]
    split_ifs <;> omega

theorem bitSum_testBit (f : Nat → Bool) (n g : Nat) : (bitSum f n).testBit g = (decide (g < n) && f g) := by
  induction n with
  | zero => exact Nat.zero_testBit g
  | succ n ih =>
    rcases Nat.lt_trichotomy g n with hg | rfl | hg
    · have hlow : (bitSum f (n + 1)).testBit g = (bitSum f n).testBit g := by
        rw [bitSum_succ]
        split_ifs
        · exact Nat.testBit_two_pow_add_gt hg _
        · rw [Nat.zero_add]
      simp [hlow, ih, hg, Nat.lt_succ_of_lt hg]
    · have hnew : (bitSum f g).testBit g = false := Nat.testBit_lt_two_pow (bitSum_lt f g)
      rw [bitSum_succ]
      cases hf : f g <;> simp [hnew, Nat.testBit_two_pow_add_eq]
    · have hhigh := Nat.lt_of_lt_of_le (bitSum_lt f (n + 1)) (Nat.pow_le_pow_right (by decide) hg)
      simp [Nat.testBit_lt_two_pow hhigh, Nat.not_lt.2 hg]

/-- The marks of a frame's block (R354). -/
theorem markedBlock_testBit (F : Frame) (off n g : Nat) :
    (F.markedBlock off n).2.testBit g = (decide (g < n / 8) && F.isPoisoned (off + 8 * g) 8) :=
  bitSum_testBit (fun g => F.isPoisoned (off + 8 * g) 8) (n / 8) g

/-- The groups below the first n bytes take the new marks. -/
theorem marksOver_testBit (n new old g : Nat) :
    (marksOver n new old).testBit g = if g < n / 8 then new.testBit g else old.testBit g := by
  have hlt : new % 2 ^ (n / 8) < 2 ^ (n / 8) := Nat.mod_lt _ (Nat.two_pow_pos _)
  rw [marksOver, Nat.add_comm, Nat.mul_comm, Nat.testBit_two_pow_mul_add _ hlt]
  split
  next h => simp [Nat.testBit_mod_two_pow, h]
  next h => rw [Nat.testBit_div_two_pow, Nat.sub_add_cancel (Nat.not_lt.1 h)]

/-- A block of whole groups covers group g when it reaches past its first byte. -/
theorem lt_div_eight {n g : Nat} (h : n % 8 = 0) : g < n / 8 ↔ 8 * g < n := by omega

theorem over_testBit (new old : MarkedBlock) (n g : Nat) (hn : n % 8 = 0) (hl : new.1.length % 8 = 0) :
    (new.over old n).2.testBit g =
      if 8 * g < n ∧ 8 * g < new.1.length then new.2.testBit g else old.2.testBit g := by
  have hmin : min n new.1.length % 8 = 0 := by rcases Nat.le_total n new.1.length with h | h <;> simp [h, hn, hl]
  simp only [MarkedBlock.over, marksOver_testBit, lt_div_eight hmin, Nat.lt_min]

/-- A byte of a group in error reads as 0. -/
theorem clean_getElem? (b : MarkedBlock) (i : Nat) (x : Byte) (h : b.1[i]? = some x) :
    b.clean[i]? = some (if b.2.testBit (i / 8) then 0 else x) := by
  simp [MarkedBlock.clean, List.getElem?_mapIdx, h]

end Sys2Proof.Machine
end

section
/-! PROOFS. A wave of the cube on its way (O44, R288, R296-R301, R354, R355): the row buffer, the chain queue, the
blocks sent east, the marks of poison and the operation after it. -/

namespace Sys2Proof.Machine

/-! ### Changes of one pillar and of one sequencer -/

section
variable (s : State) (p q i : Nat)

/-- A change of one pillar, seen in any pillar. -/
theorem onPillar_cases (f : Pillar → Pillar) (p' : Nat) :
    (s.onPillar p f).pillar p' = f (s.pillar p') ∨ (s.onPillar p f).pillar p' = s.pillar p' := by
  by_cases e : p' = p
  · subst e
    by_cases l : p' < s.pillars.length
    · exact .inl (onPillar_self s p' f l)
    · exact .inr (by rw [State.onPillar, upd_of_length_le _ _ _ (Nat.not_lt.1 l)])
  · exact .inr (onPillar_ne s p p' f e)

/-- What a change of a pillar leaves of every pillar. -/
theorem onPillar_keeps {α : Type} (π : Pillar → α) {f : Pillar → Pillar} (hf : ∀ P, π (f P) = π P) (p' : Nat) :
    π ((s.onPillar p f).pillar p') = π (s.pillar p') := by
  rcases onPillar_cases s p f p' with h | h <;> rw [h]
  exact hf _

/-- A change of one sequencer, seen in any sequencer. -/
theorem onSeq_cases (f : Seq → Seq) (p' q' : Nat) :
    (s.onSeq p q f).seq p' q' = f (s.seq p' q') ∨ (s.onSeq p q f).seq p' q' = s.seq p' q' := by
  by_cases e : p' = p ∧ q' = q
  · obtain ⟨rfl, rfl⟩ := e
    by_cases lp : p' < s.pillars.length
    · by_cases lq : q' < (s.pillar p').seqs.length
      · exact .inl (onSeq_self s p' q' f lp lq)
      · right
        rw [State.seq, onSeq_pillar_self s p' q' f lp]
        exact congrArg (fun l => l.getD q' Seq.reset) (upd_of_length_le _ _ _ (Nat.not_lt.1 lq))
    · exact .inr (by rw [State.onSeq, State.onPillar, upd_of_length_le _ _ _ (Nat.not_lt.1 lp)])
  · exact .inr (onSeq_other s p q p' q' f (by omega))

/-- What a change of a sequencer leaves of every sequencer. -/
theorem onSeq_keeps {α : Type} (π : Seq → α) {f : Seq → Seq} (hf : ∀ x, π (f x) = π x) (p' q' : Nat) :
    π ((s.onSeq p q f).seq p' q') = π (s.seq p' q') := by
  rcases onSeq_cases s p q f p' q' with h | h <;> rw [h]
  exact hf _

/-- A pillar without its sequencers and its frames. -/
def Pillar.beside (P : Pillar) : Pillar := { P with seqs := [], frames := [] }

theorem onSeq_beside (f : Seq → Seq) (p' : Nat) : ((s.onSeq p q f).pillar p').beside = (s.pillar p').beside :=
  onPillar_keeps s p Pillar.beside (fun _ => by rfl) p'

theorem onSeq_seqs_length (f : Seq → Seq) (p' : Nat) :
    ((s.onSeq p q f).pillar p').seqs.length = (s.pillar p').seqs.length :=
  onPillar_keeps s p (fun P => P.seqs.length) (fun _ => upd_length _ _ _) p'

/-- Waking a pillar leaves each sequencer all but its event latch (R199). -/
theorem wake_keeps {α : Type} (π : Seq → α) (hπ : ∀ x b, π { x with latch := b } = π x) (p' q' : Nat) :
    π ((s.wake p).seq p' q') = π (s.seq p' q') := by
  rw [State.wake, State.wakeSeq, State.wakeSeq, onSeq_keeps _ p 1 π (hπ · true), onSeq_keeps _ p 0 π (hπ · true)]

theorem onFrame_beside (f : Nat) (g : Frame → Frame) (p' : Nat) :
    ((s.onFrame p f g).pillar p').beside = (s.pillar p').beside := by
  unfold State.onFrame
  dsimp only
  split
  · exact onPillar_keeps s p Pillar.beside (fun _ => by rfl) p'
  · rw [State.wake, State.wakeSeq, State.wakeSeq, onSeq_beside, onSeq_beside]
    exact onPillar_keeps s p Pillar.beside (fun _ => by rfl) p'

theorem onFrame_keeps {α : Type} (f : Nat) (g : Frame → Frame) (π : Seq → α)
    (hπ : ∀ x b, π { x with latch := b } = π x) (p' q' : Nat) :
    π ((s.onFrame p f g).seq p' q') = π (s.seq p' q') := by
  have hseqs : (s.onPillar p fun P => { P with frames := upd P.frames f fun _ => g (s.frame p f) }).seq p' q' =
      s.seq p' q' :=
    congrArg (fun l => l.getD q' Seq.reset) (onPillar_keeps s p Pillar.seqs (fun _ => by rfl) p')
  unfold State.onFrame
  dsimp only
  split
  · rw [hseqs]
  · rw [wake_keeps _ _ π hπ, hseqs]

@[simp] theorem onFrame_pillars_length (f : Nat) (g : Frame → Frame) :
    (s.onFrame p f g).pillars.length = s.pillars.length := by
  unfold State.onFrame
  dsimp only
  split <;> simp [State.wake, State.wakeSeq]

/-- What a change of an operation leaves of every pillar: all but the engine's queue. -/
theorem onOp_keeps {α : Type} (π : Pillar → α) (hπ : ∀ P l, π { P with cube := l } = π P) (f : CubeOp → CubeOp)
    (p' : Nat) : π ((s.onOp p q i f).pillar p') = π (s.pillar p') :=
  onPillar_keeps s p π (fun P => hπ P _) p'

theorem onOp_seq (f : CubeOp → CubeOp) (p' q' : Nat) : (s.onOp p q i f).seq p' q' = s.seq p' q' :=
  congrArg (fun l => l.getD q' Seq.reset) (onOp_keeps s p q i Pillar.seqs (fun _ _ => rfl) f p')

@[simp] theorem onOp_agenda (f : CubeOp → CubeOp) : (s.onOp p q i f).agenda = s.agenda := rfl

/-- The operation of a sequencer's record as the change leaves it. -/
theorem mem_cube_onOp (f : CubeOp → CubeOp) (hp : p < s.pillars.length) {c : CubeItem} {o : CubeOp}
    (hc : c ∈ (s.pillar p).cube) (hq : c.q = q) (hi : c.record = i) (hk : c.kind = .op o) :
    { c with kind := .op (f o) } ∈ ((s.onOp p q i f).pillar p).cube := by
  rw [State.onOp, State.onCube, onPillar_self s p _ hp]
  refine List.mem_map.2 ⟨c, hc, ?_⟩
  simp [hq, hi, hk]
end

/-! ### The row buffer (R288) -/

theorem upd_upd {α : Type} (l : List α) (n : Nat) (f g : α → α) : upd (upd l n f) n g = upd l n fun x => g (f x) := by
  induction l generalizing n with
  | nil => rfl
  | cons x xs ih => cases n <;> simp [upd, ih]

/-- Updates at places that differ: each place has its own. -/
theorem foldl_upd_getD {α β : Type} (k : β → Nat) (g : β → α → α) (xs : List β) (l : List α) (d : α)
    (hd : xs.Pairwise fun x y => k x ≠ k y) {x : β} (hx : x ∈ xs) (hk : k x < l.length) :
    (xs.foldl (fun l y => upd l (k y) (g y)) l).getD (k x) d = g x (l.getD (k x) d) := by
  have other : ∀ (ys : List β) (l : List α) (n : Nat), (∀ y ∈ ys, k y ≠ n) →
      (ys.foldl (fun l y => upd l (k y) (g y)) l).getD n d = l.getD n d := by
    intro ys
    induction ys with
    | nil => exact fun _ _ _ => rfl
    | cons y ys ih =>
      intro l n h
      rw [List.foldl_cons, ih _ n fun z hz => h z (List.mem_cons_of_mem _ hz),
        upd_getD_ne _ _ _ _ _ (h y List.mem_cons_self).symm]
  induction xs generalizing l with
  | nil => cases hx
  | cons y ys ih =>
    obtain ⟨hy, hys⟩ := List.pairwise_cons.1 hd
    rw [List.foldl_cons]
    rcases List.mem_cons.1 hx with rfl | hx
    · rw [other ys _ _ fun z hz => (hy z hz).symm, upd_getD_self _ _ _ _ hk]
    · rw [ih _ hys hx (by simpa using hk), upd_getD_ne _ _ _ _ _ (hy x hx).symm]

/-- A pillar whose row buffer takes blocks, each with its layer and k-step. -/
def Pillar.rowsLoaded (P : Pillar) (xs : List ((Nat × Nat) × MarkedBlock)) : Pillar :=
  { P with
    rowBuf := xs.foldl (fun l x => upd l x.1.2 fun m => Mem.writeN m 0 x.2.1) P.rowBuf
    rowBad := xs.foldl (fun l x => upd l x.1.2 fun m => marksOver x.2.1.length x.2.2 m) P.rowBad }

theorem loadRows_rowBuffer (s : State) (p : Nat) {o : CubeOp} (blocks : List MarkedBlock) (h : o.src = .rowBuffer) :
    s.loadRows p o blocks = s := by
  simp only [State.loadRows, h]

theorem loadRows_eq (s : State) (p : Nat) {o : CubeOp} (blocks : List MarkedBlock) (h : o.src ≠ .rowBuffer) :
    s.loadRows p o blocks = s.onPillar p fun P => P.rowsLoaded ((o.stepsAt o.next).zip blocks) := by
  have fold : ∀ (xs : List ((Nat × Nat) × MarkedBlock)) (s : State), xs.foldl (fun s x =>
      s.onPillar p fun P => { P with
        rowBuf := upd P.rowBuf x.1.2 fun m => Mem.writeN m 0 x.2.1
        rowBad := upd P.rowBad x.1.2 fun m => marksOver x.2.1.length x.2.2 m }) s =
      s.onPillar p fun P => P.rowsLoaded xs := by
    intro xs
    induction xs with
    | nil => exact fun s => (congrArg (fun l => ({ s with pillars := l } : State)) (upd_id s.pillars p)).symm
    | cons x xs ih =>
      intro s
      rw [List.foldl_cons, ih]
      exact congrArg (fun l => ({ s with pillars := l } : State)) (upd_upd s.pillars p _ _)
  unfold State.loadRows
  split
  next e => exact absurd e h
  next => exact fold _ s

theorem loadRows_keeps {α : Type} (s : State) (p : Nat) (o : CubeOp) (blocks : List MarkedBlock) (π : Pillar → α)
    (hπ : ∀ P b m, π { P with rowBuf := b, rowBad := m } = π P) (p' : Nat) :
    π ((s.loadRows p o blocks).pillar p') = π (s.pillar p') := by
  by_cases h : o.src = .rowBuffer
  · rw [loadRows_rowBuffer s p blocks h]
  · rw [loadRows_eq s p blocks h]
    exact onPillar_keeps s p π (fun P => hπ P _ _) p'

/-- What the row buffer holds where a block is loaded: the block, and behind it what it held. -/
theorem rowsLoaded_read (P : Pillar) {xs : List ((Nat × Nat) × MarkedBlock)} (hd : xs.Pairwise fun x y => x.1.2 ≠ y.1.2)
    {x : (Nat × Nat) × MarkedBlock} (hx : x ∈ xs) (hk : x.1.2 < P.rowBuf.length)
    (hw : Mem.wf (P.rowBuf.getD x.1.2 []) = true) (k : Nat) :
    Mem.read ((P.rowsLoaded xs).rowBuf.getD x.1.2 []) k =
      if k < x.2.1.length then at0 x.2.1 k else Mem.read (P.rowBuf.getD x.1.2 []) k := by
  rw [Pillar.rowsLoaded, foldl_upd_getD (fun x : (Nat × Nat) × MarkedBlock => x.1.2)
    (fun x m => Mem.writeN m 0 x.2.1) xs P.rowBuf [] hd hx hk]
  split
  next h =>
    have e := read_writeN_inside 0 k x.2.1 hw h
    rwa [Nat.zero_add] at e
  next h => exact read_writeN_outside 0 k x.2.1 hw (.inr (by omega))

theorem rowsLoaded_marks (P : Pillar) {xs : List ((Nat × Nat) × MarkedBlock)}
    (hd : xs.Pairwise fun x y => x.1.2 ≠ y.1.2) {x : (Nat × Nat) × MarkedBlock} (hx : x ∈ xs)
    (hk : x.1.2 < P.rowBad.length) (hl : x.2.1.length % 8 = 0) (g : Nat) :
    ((P.rowsLoaded xs).rowBad.getD x.1.2 0).testBit g =
      if 8 * g < x.2.1.length then x.2.2.testBit g else (P.rowBad.getD x.1.2 0).testBit g := by
  rw [Pillar.rowsLoaded, foldl_upd_getD (fun x : (Nat × Nat) × MarkedBlock => x.1.2)
    (fun x m => marksOver x.2.1.length x.2.2 m) xs P.rowBad 0 hd hx hk, marksOver_testBit]
  simp only [lt_div_eight hl]

/-! ### Poison consumed (R353, R355) -/

theorem chkSet_pois (old b : W64) : (chkSet old b).getLsbD 0 = (old.getLsbD 0 || b.getLsbD 0) := by
  unfold chkSet
  split
  · next h =>
    have hb : b.getLsbD 0 = true := by simp_all [bit]
    rw [BitVec.getLsbD_or, hb, Bool.or_true, Bool.or_true]
  · rw [BitVec.getLsbD_or, BitVec.getLsbD_and]
    simp

/-- A sequencer's `CHKINT.POIS` is set. -/
def Seq.pois (x : Seq) : Prop := x.chkint.getLsbD 0 = true

theorem setChk_pois {x : Seq} (b : W64) (h : x.pois) : (x.setChk b).pois := by
  have hx : x.chkint.getLsbD 0 = true := h
  show (chkSet x.chkint b).getLsbD 0 = true
  rw [chkSet_pois, hx, Bool.true_or]

theorem poisonAsync_pois (x : Seq) (unit : Nat) : (x.poisonAsync unit).pois := by
  show (chkSet x.chkint (1 ||| field unit 8 4)).getLsbD 0 = true
  rw [chkSet_pois, BitVec.getLsbD_or]
  simp

/-- A change that keeps POIS keeps it in every sequencer. -/
theorem onSeq_pois {s : State} {p q : Nat} (p' q' : Nat) {f : Seq → Seq} (hf : ∀ x : Seq, x.pois → (f x).pois)
    (h : (s.seq p q).pois) : ((s.onSeq p' q' f).seq p q).pois := by
  rcases onSeq_cases s p' q' f p q with e | e <;> rw [e]
  · exact hf _ h
  · exact h

/-! ### A wave on its way -/

/-- What a wave notes as it reads: poison and reserved codes, and with its last wave the frame's read role given up. -/
def State.waveNotes (s : State) (p q : Nat) (o : CubeOp) (read : List MarkedBlock) (slots : List BSlot) : State :=
  let s := if o.src.onHand && read.any (fun b => b.2 ≠ 0) then s.onSeq p q fun x => x.poisonAsync 8 else s
  let s := if o.afmt = 8 ∧ (read.map MarkedBlock.clean).any (fun b => blockReserved o.rows_ fun n => at0 b n) then
    s.onSeq p q fun x => x.setFmt else s
  let s := if slots.any (fun b => !b.badRows.isEmpty) then s.onSeq p q fun x => x.poisonAsync 4 else s
  match o.src with
  | .frame f _ _ => if decide (o.nw ≤ o.next + 1) && o.role then s.onFrame p f Frame.dropRole else s
  | _ => s

/-- An operation once a wave of it is on its way from ic t, with what it took from the chain. -/
def CubeOp.waveStarted (o : CubeOp) (t : Nat) (ks : List KStep) (slots : List BSlot) (last : Bool)
    (taken : List MarkedBlock) : CubeOp :=
  { o with
    next := o.next + 1
    sent := max o.sent (o.next + 1)
    waveAt := t + o.waveLen
    waves := o.waves ++ [⟨o.next, t + o.waveLen + 3, o.waveSums ks, (o.checks ks).1, (o.checks ks).2, taken⟩]
    fmtErr := o.fmtErr || slots.any fun b => b.tag ≠ tagOf o.bfmt
    role := o.role && !last
    waitSince := none }

/-- The package before the operation itself goes on to its next wave. -/
def State.waveRead (s : State) (p q : Nat) (o : CubeOp) (read : List MarkedBlock) : State :=
  (((s.loadRows p o read).sendEast p o (if o.src = .chain then s.chainTaken p o else read)).onPillar p fun P =>
    { P with chainQ := P.chainQ.drop (s.chainTaken p o).length }).waveNotes p q o read ((s.pillar p).slotsOf o o.next)

theorem runWave_eq (s : State) (p q i : Nat) (o : CubeOp) (read : List MarkedBlock) : s.runWave p q i o read =
    (s.waveRead p q o read).onOp p q i fun d => d.waveStarted (s.pillar p).ic
      (o.kSteps (read.map MarkedBlock.clean) ((s.pillar p).slotsOf o o.next)) ((s.pillar p).slotsOf o o.next)
      (decide (o.nw ≤ o.next + 1)) (s.chainTaken p o) := rfl

section
variable (s : State) (p q : Nat) (o : CubeOp) (read : List MarkedBlock) (slots : List BSlot)

theorem waveNotes_beside (p' : Nat) : ((s.waveNotes p q o read slots).pillar p').beside = (s.pillar p').beside := by
  unfold State.waveNotes
  dsimp only
  split <;> split_ifs <;> simp only [onFrame_beside, onSeq_beside]

@[simp] theorem waveNotes_agenda : (s.waveNotes p q o read slots).agenda = s.agenda := by
  unfold State.waveNotes
  dsimp only
  split <;> split_ifs <;> simp only [onFrame_agenda, onSeq_agenda]

@[simp] theorem waveNotes_length : (s.waveNotes p q o read slots).pillars.length = s.pillars.length := by
  unfold State.waveNotes
  dsimp only
  split <;> split_ifs <;> simp only [onFrame_pillars_length, onSeq_length]

/-- Poison on hand, or in a slot, is consumed (R355). -/
theorem waveNotes_pois (hp : p < s.pillars.length) (hq : q < (s.pillar p).seqs.length)
    (h : (o.src.onHand && read.any fun b => b.2 ≠ 0) = true ∨ (slots.any fun b => !b.badRows.isEmpty) = true) :
    ((s.waveNotes p q o read slots).seq p q).pois := by
  have byWave : ∀ (x : Seq) (unit : Nat), x.pois → (x.poisonAsync unit).pois := fun x u _ => poisonAsync_pois x u
  have set : ∀ (s : State) (unit : Nat), p < s.pillars.length → q < (s.pillar p).seqs.length →
      ((s.onSeq p q fun x => x.poisonAsync unit).seq p q).pois := fun s u hp hq => by
    rw [onSeq_self s p q _ hp hq]
    exact poisonAsync_pois _ u
  have role : ∀ s : State, (s.seq p q).pois → ((match o.src with
      | .frame f _ _ => if decide (o.nw ≤ o.next + 1) && o.role then s.onFrame p f Frame.dropRole else s
      | _ => s).seq p q).pois := by
    intro s hs
    split
    · split_ifs
      · exact (congrArg (fun w : W64 => w.getLsbD 0) (onFrame_keeps s p _ _ Seq.chkint (fun _ _ => rfl) p q)).trans hs
      · exact hs
    · exact hs
  refine role _ ?_
  rcases h with h | h
  · rw [if_pos h]
    have h8 := set s 8 hp hq
    split_ifs
    · exact onSeq_pois p q (byWave · 4) (onSeq_pois p q (fun _ => setChk_pois 2) h8)
    · exact onSeq_pois p q (byWave · 4) h8
    · exact onSeq_pois p q (fun _ => setChk_pois 2) h8
    · exact h8
  · rw [if_pos h]
    apply set <;> split_ifs <;> simpa [onSeq_seqs_length]
end

section
variable (s : State) (p q i : Nat) (o : CubeOp) (read : List MarkedBlock)

@[simp] theorem loadRows_length : (s.loadRows p o read).pillars.length = s.pillars.length := by
  by_cases h : o.src = .rowBuffer
  · rw [loadRows_rowBuffer s p read h]
  · rw [loadRows_eq s p read h, onPillar_length]

@[simp] theorem loadRows_agenda : (s.loadRows p o read).agenda = s.agenda := by
  by_cases h : o.src = .rowBuffer
  · rw [loadRows_rowBuffer s p read h]
  · rw [loadRows_eq s p read h, onPillar_agenda]

@[simp] theorem sendEast_pillars : (s.sendEast p o read).pillars = s.pillars := by
  unfold State.sendEast
  split_ifs <;> rfl

@[simp] theorem sendEast_pillar (p' : Nat) : (s.sendEast p o read).pillar p' = s.pillar p' :=
  congrArg (fun ps => ps.getD p' Pillar.reset) (sendEast_pillars s p o read)

@[simp] theorem waveRead_length : (s.waveRead p q o read).pillars.length = s.pillars.length := by
  simp [State.waveRead]

/-- The pillar beside its sequencers and frames once a wave has read: the chain blocks taken, the rows loaded. -/
theorem waveRead_beside (hp : p < s.pillars.length) : ((s.waveRead p q o read).pillar p).beside =
    ({ (s.loadRows p o read).pillar p with
      chainQ := (s.pillar p).chainQ.drop (s.chainTaken p o).length } : Pillar).beside := by
  have hchain : ((s.loadRows p o read).pillar p).chainQ = (s.pillar p).chainQ :=
    loadRows_keeps s p o read Pillar.chainQ (fun _ _ _ => rfl) p
  rw [State.waveRead, waveNotes_beside, onPillar_self _ p _ (by simpa using hp), sendEast_pillar, hchain]

/-- A field of the pillar that neither its sequencers, its frames nor its operations are part of, after a wave's
start. -/
theorem runWave_field {α : Type} (π : Pillar → α) (hπ : ∀ P : Pillar, π P = π P.beside)
    (hc : ∀ P l, π { P with cube := l } = π P) (hp : p < s.pillars.length) :
    π ((s.runWave p q i o read).pillar p) = π ({ (s.loadRows p o read).pillar p with
      chainQ := (s.pillar p).chainQ.drop (s.chainTaken p o).length } : Pillar) := by
  rw [runWave_eq, onOp_keeps _ p q i π hc, hπ, waveRead_beside s p q o read hp, ← hπ]

/-- The chain queue loses what the wave takes (R301). -/
theorem runWave_chainQ (hp : p < s.pillars.length) : ((s.runWave p q i o read).pillar p).chainQ =
    if o.src = .chain then (s.pillar p).chainQ.drop (o.stepsAt o.next).length else (s.pillar p).chainQ := by
  rw [runWave_field s p q i o read Pillar.chainQ (fun _ => rfl) (fun _ _ => rfl) hp, State.chainTaken]
  split_ifs
  · rw [List.length_take]
    rcases Nat.le_total (o.stepsAt o.next).length (s.pillar p).chainQ.length with h | h
    · rw [Nat.min_eq_left h]
    · rw [Nat.min_eq_right h, List.drop_length, List.drop_of_length_le h]
  · rfl

/-- The blocks that go east are the next things to happen (R301). -/
theorem runWave_agenda : (s.runWave p q i o read).agenda =
    if o.east = true ∧ o.sent ≤ o.next then
      ((if o.src = .chain then (s.pillar p).chainQ.take (o.stepsAt o.next).length else read).map fun b =>
        Act.event .chainBlockArrive { p := p + 1, bytes := b.1, v := b.2 }) ++ s.agenda
    else s.agenda := by
  rw [runWave_eq, onOp_agenda, State.waveRead, waveNotes_agenda, onPillar_agenda, State.sendEast]
  by_cases h : o.east = true ∧ o.sent ≤ o.next
  · rw [if_pos (by simpa using h), if_pos h, State.chainTaken, loadRows_agenda]
    split_ifs <;> rfl
  · rw [if_neg (by simpa using h), if_neg h, loadRows_agenda]

/-- A wave from the row buffer leaves it as it was (R288). -/
theorem runWave_rows_kept (h : o.src = .rowBuffer) (hp : p < s.pillars.length) :
    ((s.runWave p q i o read).pillar p).rowBuf = (s.pillar p).rowBuf ∧
      ((s.runWave p q i o read).pillar p).rowBad = (s.pillar p).rowBad := by
  rw [runWave_field s p q i o read Pillar.rowBuf (fun _ => rfl) (fun _ _ => rfl) hp,
    runWave_field s p q i o read Pillar.rowBad (fun _ => rfl) (fun _ _ => rfl) hp, loadRows_rowBuffer s p read h]
  exact ⟨rfl, rfl⟩

/-- Another wave loads its blocks into the row buffer (R288). -/
theorem runWave_rows_loaded (h : o.src ≠ .rowBuffer) (hp : p < s.pillars.length) :
    ((s.runWave p q i o read).pillar p).rowBuf =
        ((s.pillar p).rowsLoaded ((o.stepsAt o.next).zip read)).rowBuf ∧
      ((s.runWave p q i o read).pillar p).rowBad =
        ((s.pillar p).rowsLoaded ((o.stepsAt o.next).zip read)).rowBad := by
  rw [runWave_field s p q i o read Pillar.rowBuf (fun _ => rfl) (fun _ _ => rfl) hp,
    runWave_field s p q i o read Pillar.rowBad (fun _ => rfl) (fun _ _ => rfl) hp, loadRows_eq s p read h,
    onPillar_self s p _ hp]
  exact ⟨rfl, rfl⟩

/-- Poison a wave reads on hand or in a slot sets POIS (R355). -/
theorem runWave_pois (hp : p < s.pillars.length) (hq : q < (s.pillar p).seqs.length)
    (h : (o.src.onHand && read.any fun b => b.2 ≠ 0) = true ∨
      (((s.pillar p).slotsOf o o.next).any fun b => !b.badRows.isEmpty) = true) :
    ((s.runWave p q i o read).seq p q).pois := by
  rw [runWave_eq, onOp_seq, State.waveRead]
  have hseqs : ((s.loadRows p o read).pillar p).seqs = (s.pillar p).seqs :=
    loadRows_keeps s p o read Pillar.seqs (fun _ _ _ => rfl) p
  refine waveNotes_pois _ p q o read _ (by simpa using hp) ?_ h
  rw [onPillar_keeps _ p Pillar.seqs (fun _ => by rfl) p, sendEast_pillar, hseqs]
  exact hq

/-- The operation goes on to its next wave (R297, R301). -/
theorem runWave_cube (hp : p < s.pillars.length) {c : CubeItem} (hc : c ∈ (s.pillar p).cube) (hq : c.q = q)
    (hi : c.record = i) (hk : c.kind = .op o) :
    { c with kind := .op (o.waveStarted (s.pillar p).ic
        (o.kSteps (read.map MarkedBlock.clean) ((s.pillar p).slotsOf o o.next)) ((s.pillar p).slotsOf o o.next)
        (decide (o.nw ≤ o.next + 1)) (s.chainTaken p o)) } ∈ ((s.runWave p q i o read).pillar p).cube := by
  have hcube : ((s.waveRead p q o read).pillar p).cube = (s.pillar p).cube :=
    (congrArg Pillar.cube (waveRead_beside s p q o read hp)).trans
      (loadRows_keeps s p o read Pillar.cube (fun _ _ _ => rfl) p)
  rw [runWave_eq]
  exact mem_cube_onOp (s.waveRead p q o read) p q i _ (by simpa using hp) (hcube ▸ hc) hq hi hk
end

end Sys2Proof.Machine
end

section
/-! PROOFS. A wave's update lands (O44, R296-R299, R306, R369): the tile, its side-area and the ballast. -/

namespace Sys2Proof.Machine

/-! ### The tile -/

section
variable (s : State) (p q i : Nat)

/-- A tile after a change of it. -/
theorem onAcc_self (a : Nat) (f : Acc → Acc) (hp : p < s.pillars.length) (hq : q < (s.pillar p).seqs.length)
    (ha : a < (s.seq p q).accs.length) :
    ((s.onAcc p q a f).seq p q).accs.getD a Acc.zero = f ((s.seq p q).accs.getD a Acc.zero) := by
  rw [State.onAcc, onSeq_self s p q _ hp hq]
  exact upd_getD_self _ _ _ _ ha

theorem onAcc_accs_length (a : Nat) (f : Acc → Acc) :
    ((s.onAcc p q a f).seq p q).accs.length = (s.seq p q).accs.length :=
  onSeq_keeps s p q (fun x => x.accs.length) (fun _ => by simp) p q

theorem onRec_accs (f : Rec → Rec) (p' q' : Nat) : ((s.onRec p q i f).seq p' q').accs = (s.seq p' q').accs :=
  onSeq_keeps s p q Seq.accs (fun _ => by rfl) p' q'

theorem faultRec_accs (cause : Nat) (info : W64) (p' q' : Nat) :
    ((s.faultRec p q i cause info).seq p' q').accs = (s.seq p' q').accs :=
  (onSeq_keeps _ p q Seq.accs (fun _ => by rfl) p' q').trans (onRec_accs s p q i _ p' q')

/-- A complete park leaves the tile but for PARK (R306). -/
theorem parkDone_acc (a : Nat) (hp : p < s.pillars.length) (hq : q < (s.pillar p).seqs.length)
    (ha : a < (s.seq p q).accs.length) : ∃ b, ((s.parkDone p q i a).seq p q).accs.getD a Acc.zero =
    { (s.seq p q).accs.getD a Acc.zero with park := b } := by
  unfold State.parkDone
  split
  next r hr =>
    refine ⟨true, ?_⟩
    rw [faultRec_accs, onAcc_self _ p q a _ (by simpa [State.onRec] using hp)
      (by simpa [State.onRec, onSeq_seqs_length] using hq) (by rwa [onRec_accs]), onRec_accs]
  next => exact ⟨_, rfl⟩

@[simp] theorem parkDone_stacks (a : Nat) : (s.parkDone p q i a).stks = s.stks := by
  unfold State.parkDone
  split <;> rfl
end

/-! ### Ballast (R298, R369) -/

/-- A quarter of a word after another, or the same, is changed. -/
theorem setBits_quarter (b : W64) (l k v : Nat) (hl : l < 4) :
    bits (setBits b (16 * k) 16 v) (16 * l) 16 = if k = l then v % 2 ^ 16 else bits b (16 * l) 16 := by
  have hbit : ∀ j < 16, (setBits b (16 * k) 16 v).getLsbD (16 * l + j) =
      if k = l then v.testBit j else b.getLsbD (16 * l + j) := by
    intro j hj
    rw [setBits_getLsbD b (16 * k) 16 v (16 * l + j) (by omega)]
    by_cases h : k = l
    · subst h
      simp [hj]
    · rw [if_neg (by omega), if_neg h]
  have hx : (setBits b (16 * k) 16 v).extractLsb' (16 * l) 16 =
      if k = l then BitVec.ofNat 16 v else b.extractLsb' (16 * l) 16 := by
    refine BitVec.eq_of_getLsbD_eq fun j hj => ?_
    rw [BitVec.getLsbD_extractLsb', hbit j hj]
    split_ifs
    · simp only [hj, decide_true, Bool.true_and, BitVec.getLsbD_ofNat]
    · simp [hj]
  rw [bits, hx]
  split_ifs <;> simp [bits]

/-- The ballast of a layer after n cycles in each of some layers. -/
theorem addBallast_count (k : Stack) (ls : List Nat) (n l : Nat) (hd : ls.Nodup) (hl : l < 4) :
    bits (k.addBallast ls n).ballast (16 * l) 16 =
      if l ∈ ls then (bits k.ballast (16 * l) 16 + n) % 2 ^ 16 else bits k.ballast (16 * l) 16 := by
  show bits (ls.foldl (fun (b : W64) l => setBits b (16 * l) 16 (bits b (16 * l) 16 + n)) k.ballast) (16 * l) 16 = _
  generalize k.ballast = b
  induction ls generalizing b with
  | nil => rfl
  | cons x xs ih =>
    obtain ⟨hx, hxs⟩ := List.nodup_cons.1 hd
    rw [List.foldl_cons, ih hxs, setBits_quarter b l x _ hl]
    by_cases h : x = l
    · subst h
      simp [hx]
    · simp [h, Ne.symm h]

/-- The layers that run ballast in a wave (R298): the partner of one that works, present, and at rest. -/
theorem mem_ballast (o : CubeOp) (w l : Nat) (en : W64) (hl : l < 4) : l ∈ o.ballast w (bits en 0 4) ↔
    l ∉ (o.stepsAt w).map Prod.fst ∧ (if l % 2 = 0 then l + 1 else l - 1) ∈ (o.stepsAt w).map Prod.fst ∧
      en.getLsbD l = true := by
  have hpartner : l ^^^ 1 = if l % 2 = 0 then l + 1 else l - 1 := by interval_cases l <;> rfl
  have hen : (bits en 0 4).testBit l = en.getLsbD l := by
    rw [bits, BitVec.testBit_toNat, BitVec.getLsbD_extractLsb']
    simp [hl]
  simp only [CubeOp.ballast, List.mem_filter, List.mem_range, hl, true_and, Bool.and_eq_true, hpartner, hen,
    Bool.not_eq_true', List.contains_eq_mem, decide_eq_true_eq, decide_eq_false_iff_not, and_assoc]

/-! ### The update -/

/-- The package once a wave's update has landed, before a park that waited for it is complete. -/
def State.waveLanded (s : State) (p q i : Nat) (o : CubeOp) (w : Wave) : State :=
  (((s.onAcc p q o.acc fun a => { a with
    elems := o.addWave a.elems w.sums
    prog := w.w + 1
    side := if o.xc && decide (o.nw ≤ w.w + 1) then (o.withChecks w).addSide a.side else a.side }).onRec p q i fun r =>
      { r with progress := w.w + 1 }).onStack (stackOf p) fun k =>
        k.addBallast (o.ballast w.w (bits k.layers 0 4)) o.cycles).onOp p q i fun d =>
          { d.withChecks w with waves := d.waves.tail }

theorem landWave_cases (s : State) (p q i : Nat) (o : CubeOp) (w : Wave) :
    s.landWave p q i o w = s.waveLanded p q i o w ∨
      s.landWave p q i o w = (s.waveLanded p q i o w).parkDone p q i o.acc := by
  have h : s.landWave p q i o w = if o.park && o.waves.length ≤ 1 then
    (s.waveLanded p q i o w).parkDone p q i o.acc else s.waveLanded p q i o w := rfl
  rw [h]
  split_ifs
  · exact .inr rfl
  · exact .inl rfl

section
variable (s : State) (p q i : Nat) (o : CubeOp) (w : Wave)

/-- The tile after a wave's update (R296, R299). -/
theorem waveLanded_acc (hp : p < s.pillars.length) (hq : q < (s.pillar p).seqs.length)
    (ha : o.acc < (s.seq p q).accs.length) :
    let x := (s.seq p q).accs.getD o.acc Acc.zero
    ((s.waveLanded p q i o w).seq p q).accs.getD o.acc Acc.zero = { x with
      elems := o.addWave x.elems w.sums
      prog := w.w + 1
      side := if o.xc && decide (o.nw ≤ w.w + 1) then (o.withChecks w).addSide x.side else x.side } := by
  dsimp only
  rw [State.waveLanded, onOp_seq]
  show ((State.onRec _ p q i _).seq p q).accs.getD o.acc Acc.zero = _
  rw [onRec_accs, onAcc_self s p q o.acc _ hp hq ha]

theorem waveLanded_accs_length : ((s.waveLanded p q i o w).seq p q).accs.length = (s.seq p q).accs.length := by
  rw [State.waveLanded, onOp_seq]
  show ((State.onRec _ p q i _).seq p q).accs.length = _
  rw [onRec_accs, onAcc_accs_length]

theorem waveLanded_seqs_length : ((s.waveLanded p q i o w).pillar p).seqs.length = (s.pillar p).seqs.length := by
  rw [State.waveLanded, onOp_keeps _ p q i (fun P => P.seqs.length) (fun _ _ => rfl), onStack_pillar]
  exact (onSeq_seqs_length _ p q _ p).trans (onSeq_seqs_length s p q _ p)

theorem waveLanded_length : (s.waveLanded p q i o w).pillars.length = s.pillars.length :=
  (upd_length _ _ _).trans ((upd_length _ _ _).trans (upd_length _ _ _))

/-- The tile after a wave's landing, whatever park is complete with it (R296, R299, R306). -/
theorem landWave_acc (hp : p < s.pillars.length) (hq : q < (s.pillar p).seqs.length)
    (ha : o.acc < (s.seq p q).accs.length) :
    let x := (s.seq p q).accs.getD o.acc Acc.zero
    ∃ b, ((s.landWave p q i o w).seq p q).accs.getD o.acc Acc.zero = { x with
      elems := o.addWave x.elems w.sums
      prog := w.w + 1
      side := if o.xc && decide (o.nw ≤ w.w + 1) then (o.withChecks w).addSide x.side else x.side
      park := b } := by
  have hacc := waveLanded_acc s p q i o w hp hq ha
  rcases landWave_cases s p q i o w with h | h <;> rw [h]
  · exact ⟨_, hacc⟩
  · obtain ⟨b, hb⟩ := parkDone_acc (s.waveLanded p q i o w) p q i o.acc
      ((waveLanded_length s p q i o w).symm ▸ hp) ((waveLanded_seqs_length s p q i o w).symm ▸ hq)
      ((waveLanded_accs_length s p q i o w).symm ▸ ha)
    exact ⟨b, by rw [hb, hacc]⟩

theorem landWave_stacks : (s.landWave p q i o w).stks = (s.onStack (stackOf p) fun k =>
    k.addBallast (o.ballast w.w (bits k.layers 0 4)) o.cycles).stks := by
  rcases landWave_cases s p q i o w with h | h <;> rw [h]
  · rfl
  · rw [parkDone_stacks]
    rfl

/-- The ballast counted with a wave (R298, R369). -/
theorem landWave_ballast (hs : stackOf p < s.stks.length) (l : Nat) (hl : l < 4) :
    let ran := fun (v : State) => bits (v.stack (stackOf p)).ballast (16 * l) 16
    ran (s.landWave p q i o w) = if l ∈ o.ballast w.w (bits (s.stack (stackOf p)).layers 0 4) then
      (ran s + o.cycles) % 2 ^ 16 else ran s := by
  have h : (s.landWave p q i o w).stack (stackOf p) = (s.stack (stackOf p)).addBallast
      (o.ballast w.w (bits (s.stack (stackOf p)).layers 0 4)) o.cycles := by
    rw [State.stack, landWave_stacks]
    exact onStack_self s (stackOf p) _ hs
  dsimp only
  exact h ▸ addBallast_count _ _ _ l (List.Nodup.filter _ List.nodup_range) hl
end

/-- An element of the tile after a wave sum is added (R296). -/
theorem addWave_at0 (o : CubeOp) (elems : VReg) (sums : List W32) (h : sums.length ≤ elems.length) (e : Nat) :
    at0 (o.addWave elems sums) e = if e < sums.length then o.path.add (at0 elems e) (at0 sums e) else at0 elems e := by
  have hlen : (List.zipWith o.path.add (elems.take sums.length) sums).length = sums.length := by
    rw [List.length_zipWith, List.length_take]
    omega
  simp only [at0, CubeOp.addWave, List.getD_eq_getElem?_getD, List.getElem?_append, hlen]
  split_ifs with he
  · have he' : e < elems.length := Nat.lt_of_lt_of_le he h
    simp [he, he']
  · rw [List.getElem?_drop, Nat.add_sub_cancel' (Nat.not_lt.1 he)]

end Sys2Proof.Machine
end

section
/-! PROOFS. An item of the cube completes (O44, R297, R303-R305), and the bound check of a completed operation (R360). -/

namespace Sys2Proof.Machine

/-! ### Completion -/

theorem exec_cubeWaveLand_idle {s : State} (h : (s.pillar s.who.p).landing = none) : exec .cubeWaveLand s = .next s := by
  show execCubeWaveLand s = _
  simp only [execCubeWaveLand, h]

theorem exec_cubeWaveLand_due {s : State} {c : CubeItem} {o : CubeOp} {w : Wave}
    (h : (s.pillar s.who.p).landing = some (c, o, w)) :
    exec .cubeWaveLand s = .next (s.landWave s.who.p c.q c.record o w) := by
  show execCubeWaveLand s = _
  simp only [execCubeWaveLand, h]

theorem exec_cubeOpComplete_idle {s : State} (h : s.cubeDone s.who.p = none) : exec .cubeOpComplete s = .next s := by
  show execCubeOpComplete s = _
  simp only [execCubeOpComplete, h]

theorem exec_cubeOpComplete_done {s : State} {c : CubeItem} (h : s.cubeDone s.who.p = some c) :
    exec .cubeOpComplete s = .next (s.completeItem s.who.p c) := by
  show execCubeOpComplete s = _
  simp only [execCubeOpComplete, h]

/-- What the item complete in a pillar is (R297, R333). -/
theorem cubeDone_spec {s : State} {p : Nat} {c : CubeItem} (h : s.cubeDone p = some c) :
    c ∈ (s.pillar p).cube ∧ c.complete = true ∧ ∀ r, s.rec? p c.q c.record = some r → r.faulted = false := by
  have hmem := List.mem_of_find?_eq_some h
  have hsat := List.find?_some h
  rw [Bool.and_eq_true] at hsat
  obtain ⟨hcomplete, hrec⟩ := hsat
  refine ⟨hmem, hcomplete, fun r hr => ?_⟩
  simpa [hr] using hrec

section
variable (s : State) (p : Nat) {c : CubeItem}

theorem completeItem_idle (h : c.kind = .idle) : s.completeItem p c = (s.dropItem p c).endRec p c.q c.record := by
  simp only [State.completeItem, h]

section
variable {slot sw : Nat} {mask : BitVec 4} {off : Option Nat} {image : List Byte} {bad : List Nat}

/-- A load that names a layer which has failed faults UE (R13). -/
theorem completeItem_load_fails (h : c.kind = .load slot mask sw off image bad) {l : Nat}
    (hl : (layersOf mask).find? (fun l => (s.stack (stackOf p)).layerFailed l) = some l) : s.completeItem p c =
      (s.sufferUe p (poisonInfo 11 l 0)).faultRec p c.q c.record cUe (poisonInfo 11 l 0) := by
  simp only [State.completeItem, h, hl]

/-- A load with its offset or its image writes its slots (R289, R303). -/
theorem completeItem_load (h : c.kind = .load slot mask sw off image bad)
    (hl : (layersOf mask).find? (fun l => (s.stack (stackOf p)).layerFailed l) = none) (hi : off ≠ none ∨ image ≠ []) :
    s.completeItem p c =
      ((s.loadSlots p c.q slot mask sw off image bad).dropItem p c).endRec p c.q c.record := by
  have himage : s.loadImage p c.q c.record sw off image bad = (image, bad) := by
    have hcond : (off.isSome || !image.isEmpty) = true := by
      rcases hi with hi | hi
      · simp [Option.isSome_iff_ne_none.2 hi]
      · simp [hi]
    rw [State.loadImage, if_pos hcond]
  simp only [State.completeItem, h, hl, himage]
end

theorem completeItem_zero {a : Nat} {x : Bool} (h : c.kind = .zero a x) : s.completeItem p c =
    ((((s.onAcc p c.q a fun t => { t with
      elems := vfill 0, side := if x then List.replicate 80 0 else t.side }).onSeq p c.q fun y => { y with
        ueDue := y.ueDue.filter fun e => !(bits e.word 0 4 = 6 && bits e.word 8 5 = a) }).dropItem
          p c).settle p c.q).endRec p c.q c.record := by
  simp only [State.completeItem, h]

theorem completeItem_bind {a : Nat} {w : W64} (h : c.kind = .bind a w) : s.completeItem p c =
    ((s.onAcc p c.q a fun t => { t with bound := if bit w 3 then some (bits w 0 3) else none }).dropItem p c).endRec
      p c.q c.record := by
  simp only [State.completeItem, h]

/-- An operation with no bound leaves its tile as it is, and FMT when a format did not fit (R297). -/
theorem completeItem_op {o : CubeOp} (h : c.kind = .op o) (hb : o.bound = none) : s.completeItem p c =
    ((((s.onAcc p c.q o.acc fun t => { t with
      elems := ((s.seq p c.q).accs.getD o.acc Acc.zero).elems }).dropItem p c).settle p c.q).onSeq p c.q fun x =>
        x.setChk (if o.fmtErr then 2 else 0)).endRec p c.q c.record := by
  simp [State.completeItem, h, CubeOp.boundCheck, hb]
end

/-! ### The bound check (R360) -/

/-- The low bound of a bound register's word. -/
def boundLow (v : W64) : W32 := v.extractLsb' 0 30 ++ (0 : BitVec 2)
/-- The high bound of a bound register's word. -/
def boundHigh (v : W64) : W32 := v.extractLsb' 30 30 ++ (0 : BitVec 2)

/-- Whether an element breaks the bounds of a word, and what a clamp makes of it. -/
def boundTest (v : W64) (x : W32) : Bool × W32 := outOfBound (bit v 62) (boundLow v) (boundHigh v) x

/-- A field of 30 bits as a word with two bits 0 below it. -/
theorem boundWord_eq (v : W64) (lo : Nat) : BitVec.ofNat 32 (bits v lo 30 * 4) = v.extractLsb' lo 30 ++ (0 : BitVec 2) := by
  have h : bits v lo 30 < 2 ^ 30 := (v.extractLsb' lo 30).isLt
  refine BitVec.eq_of_toNat_eq ?_
  rw [BitVec.toNat_append, BitVec.toNat_ofNat]
  show bits v lo 30 * 4 % 2 ^ 32 = bits v lo 30 <<< 2 ||| 0
  rw [Nat.or_zero, Nat.shiftLeft_eq]
  omega

section
variable {o : CubeOp} {elems : VReg} {n k : Nat} {v : W64}

/-- A bound register fits the operation's path, and k is the first written element that breaks it. -/
structure CubeOp.breaks (o : CubeOp) (elems : VReg) (n : Nat) (v : W64) (k : Nat) : Prop where
  bound : o.bound = some (n, v)
  fits : o.path = .int ↔ bit v 62 = true
  first : (elems.take (64 * o.rows_)).findIdx? (fun x => (boundTest v x).1) = some k

theorem boundCheck_off (hb : o.bound = some (n, v)) (ha : bits v 60 2 = 0) : o.boundCheck elems = (elems, 0, none) := by
  simp only [CubeOp.boundCheck, hb, ha, if_true]

/-- The test as the check writes it. -/
theorem boundTest_eq (v : W64) (x : W32) : outOfBound (bit v 62) (BitVec.ofNat 32 (bits v 0 30 * 4))
    (BitVec.ofNat 32 (bits v 30 30 * 4)) x = boundTest v x := by
  rw [boundWord_eq, boundWord_eq]
  rfl

/-- A bound register that fits the operation's path gives no FMT (R360). -/
theorem boundFits (hf : o.path = .int ↔ bit v 62 = true) : ¬ ((o.path = .int) ≠ (bit v 62 = true)) :=
  not_not.2 (propext hf)

theorem boundCheck_good (hb : o.bound = some (n, v)) (hf : o.path = .int ↔ bit v 62 = true)
    (hg : (elems.take (64 * o.rows_)).findIdx? (fun x => (boundTest v x).1) = none) :
    o.boundCheck elems = (elems, 0, none) := by
  simp only [CubeOp.boundCheck, hb, boundTest_eq, if_neg (boundFits hf), hg, ite_self]

theorem CubeOp.breaks.counted (h : o.breaks elems n v k) (ha : bits v 60 2 = 1) :
    o.boundCheck elems = (elems, 8, none) := by
  simp only [CubeOp.boundCheck, h.bound, boundTest_eq, if_neg (boundFits h.fits), h.first, ha, if_true,
    if_neg Nat.one_ne_zero]

theorem CubeOp.breaks.clamped (h : o.breaks elems n v k) (ha : bits v 60 2 = 2) : o.boundCheck elems =
    ((elems.take (64 * o.rows_)).map (fun x => (boundTest v x).2) ++ elems.drop (64 * o.rows_), 16, none) := by
  simp only [CubeOp.boundCheck, h.bound, boundTest_eq, if_neg (boundFits h.fits), h.first, ha, if_true,
    if_neg (by decide : ¬ 2 = 0), if_neg (by decide : ¬ 2 = 1)]

theorem CubeOp.breaks.trapped (h : o.breaks elems n v k) (ha : bits v 60 2 = 3) : o.boundCheck elems =
    (elems, 0, some (BitVec.ofNat 64 (k % 1024 + n % 8 * 1024))) := by
  simp only [CubeOp.boundCheck, h.bound, boundTest_eq, if_neg (boundFits h.fits), h.first, ha, field_or_field,
    if_neg (by decide : ¬ 3 = 0), if_neg (by decide : ¬ 3 = 1), if_neg (by decide : ¬ 3 = 2)]
  rfl
end

/-! ### The first element of some that meets a test -/

section
variable {f : W32 → Bool} {elems : VReg} {m : Nat}

/-- Element e of the first m. -/
theorem getElem_take_at0 {elems : VReg} {m e : Nat} (h : e < (elems.take m).length) :
    (elems.take m)[e] = at0 elems e := by
  rw [List.getElem_take, at0, List.getD_eq_getElem]

theorem findIdx_take_none (h : m ≤ elems.length) :
    (elems.take m).findIdx? f = none ↔ ∀ e < m, f (at0 elems e) = false := by
  have hlen : (elems.take m).length = m := List.length_take_of_le h
  rw [List.findIdx?_eq_none_iff, List.forall_mem_iff_getElem]
  constructor
  · intro hall e he
    rw [← getElem_take_at0 (m := m) (hlen.symm ▸ he)]
    exact hall e _
  · intro hall e he
    rw [getElem_take_at0]
    exact hall e (hlen ▸ he)

theorem findIdx_take_some (h : m ≤ elems.length) (k : Nat) : (elems.take m).findIdx? f = some k ↔
    k < m ∧ f (at0 elems k) = true ∧ ∀ e < k, f (at0 elems e) = false := by
  have hlen : (elems.take m).length = m := List.length_take_of_le h
  rw [List.findIdx?_eq_some_iff_getElem]
  simp only [getElem_take_at0, hlen, Bool.not_eq_true, exists_prop]
end

/-- A list whose first m elements are changed. -/
theorem mapTake_at0 (f : W32 → W32) {elems : VReg} {m : Nat} (h : m ≤ elems.length) (e : Nat) :
    at0 ((elems.take m).map f ++ elems.drop m) e = if e < m then f (at0 elems e) else at0 elems e := by
  have hlen : ((elems.take m).map f).length = m := by rw [List.length_map, List.length_take_of_le h]
  simp only [at0, List.getD_eq_getElem?_getD, List.getElem?_append, hlen]
  split_ifs with he
  · have he' : e < elems.length := Nat.lt_of_lt_of_le he h
    simp [he, he']
  · rw [List.getElem?_drop, Nat.add_sub_cancel' (Nat.not_lt.1 he)]

/-! ### What breaks a bound -/

/-- An integer element breaks the bounds when it lies outside them. -/
theorem boundTest_int {v : W64} (hv : bit v 62 = true) (x : W32) : (boundTest v x).1 = true ↔
    ¬ ((boundLow v).toInt ≤ x.toInt ∧ x.toInt ≤ (boundHigh v).toInt) := by
  simp only [boundTest, outOfBound, hv, Bool.not_true, Bool.false_and, Bool.not_false, Bool.true_and, if_true,
    Bool.false_or, Bool.or_eq_true, decide_eq_true_eq]
  omega

/-- Between bounds in order a clamp gives the nearest value. -/
theorem boundTest_clamp {v : W64} (hv : bit v 62 = true) (hle : (boundLow v).toInt ≤ (boundHigh v).toInt) (x : W32) :
    ((boundTest v x).2).toInt = max (boundLow v).toInt (min (boundHigh v).toInt x.toInt) := by
  simp only [boundTest, outOfBound, hv, Bool.not_true, Bool.false_and, Bool.not_false, Bool.true_and, if_true,
    Bool.false_or, Bool.or_eq_true, Bool.and_eq_true, Bool.not_eq_true', decide_eq_true_eq, decide_eq_false_iff_not]
  split_ifs <;> omega

/-- FP32 less, false with a NaN (R209). -/
theorem boundTest_float {v : W64} (hv : bit v 62 = false) (x : W32) :
    let less := fun (x y : W32) => isNan32 x = false ∧ isNan32 y = false ∧ num32 x < num32 y
    (boundTest v x).1 = true ↔ isNan32 x = true ∨ less x (boundLow v) ∨ less (boundHigh v) x := by
  simp only [boundTest, outOfBound, hv, Bool.not_false, Bool.true_and, Bool.false_eq_true, if_false, Bool.or_eq_true,
    Bool.and_eq_true, Bool.not_eq_true', decide_eq_true_eq, and_assoc, or_assoc]

section
variable {o : CubeOp} {elems : VReg} {n : Nat} {v : W64}

/-- Elements of which none breaks the bounds stay as they are. -/
theorem boundCheck_of_good (hb : o.bound = some (n, v)) (hf : o.path = .int ↔ bit v 62 = true)
    (hl : 64 * o.rows_ ≤ elems.length) (hg : ∀ e < 64 * o.rows_, (boundTest v (at0 elems e)).1 = false) :
    o.boundCheck elems = (elems, 0, none) :=
  boundCheck_good hb hf ((findIdx_take_none hl).2 hg)

/-- Where an element breaks the bounds, one is the first. -/
theorem exists_breaks (hb : o.bound = some (n, v)) (hf : o.path = .int ↔ bit v 62 = true)
    (hl : 64 * o.rows_ ≤ elems.length) (hg : ¬ ∀ e < 64 * o.rows_, (boundTest v (at0 elems e)).1 = false) :
    ∃ k, o.breaks elems n v k := by
  rw [← findIdx_take_none (f := fun x => (boundTest v x).1) hl, ← ne_eq, Option.ne_none_iff_exists'] at hg
  obtain ⟨k, hk⟩ := hg
  exact ⟨k, hb, hf, hk⟩
end

/-- The bound check on the integer path (R360). -/
theorem boundCheck_int {o : CubeOp} {elems : VReg} {n : Nat} {v : W64} (hb : o.bound = some (n, v))
    (hp : o.path = .int) (hv : bit v 62 = true) (hl : 64 * o.rows_ ≤ elems.length) :
    let lo := (boundLow v).toInt
    let hi := (boundHigh v).toInt
    let good := ∀ e < 64 * o.rows_, lo ≤ (at0 elems e).toInt ∧ (at0 elems e).toInt ≤ hi
    (bits v 60 2 = 0 → o.boundCheck elems = (elems, 0, none)) ∧
    (bits v 60 2 ≠ 0 → good → o.boundCheck elems = (elems, 0, none)) ∧
    (bits v 60 2 = 1 → ¬ good → o.boundCheck elems = (elems, 8, none)) ∧
    (bits v 60 2 = 2 → lo ≤ hi → ¬ good → ∃ y, o.boundCheck elems = (y, 16, none) ∧ ∀ e,
      (at0 y e).toInt = if e < 64 * o.rows_ then max lo (min hi (at0 elems e).toInt) else (at0 elems e).toInt) ∧
    (bits v 60 2 = 3 → ∀ e < 64 * o.rows_, (∀ d < e, lo ≤ (at0 elems d).toInt ∧ (at0 elems d).toInt ≤ hi) →
      ¬ (lo ≤ (at0 elems e).toInt ∧ (at0 elems e).toInt ≤ hi) →
      o.boundCheck elems = (elems, 0, some (BitVec.ofNat 64 (e % 1024 + n % 8 * 1024)))) := by
  have hf : o.path = .int ↔ bit v 62 = true := iff_of_true hp hv
  have within : ∀ x : W32, (boundTest v x).1 = false ↔
      (boundLow v).toInt ≤ x.toInt ∧ x.toInt ≤ (boundHigh v).toInt := fun x => by
    rw [← Bool.not_eq_true, boundTest_int hv, not_not]
  simp only [← within]
  refine ⟨boundCheck_off hb, fun _ => boundCheck_of_good hb hf hl, fun ha hg => ?_, fun ha hle hg => ?_,
    fun ha e he hbefore hbad => ?_⟩
  · obtain ⟨k, hk⟩ := exists_breaks hb hf hl hg
    exact hk.counted ha
  · obtain ⟨k, hk⟩ := exists_breaks hb hf hl hg
    refine ⟨_, hk.clamped ha, fun e => ?_⟩
    rw [mapTake_at0 _ hl, apply_ite BitVec.toInt, boundTest_clamp hv hle]
  · have hk : o.breaks elems n v e :=
      ⟨hb, hf, (findIdx_take_some hl e).2 ⟨he, Bool.not_eq_false _ ▸ hbad, hbefore⟩⟩
    exact hk.trapped ha

/-- The check that counts, on the floating and the logarithmic path (R360). -/
theorem boundCheck_float {o : CubeOp} {elems : VReg} {n : Nat} {v : W64} (hb : o.bound = some (n, v))
    (hp : o.path ≠ .int) (hv : bit v 62 = false) (ha : bits v 60 2 = 1) (hl : 64 * o.rows_ ≤ elems.length) :
    let less := fun (x y : W32) => isNan32 x = false ∧ isNan32 y = false ∧ num32 x < num32 y
    let bad := ∃ e < 64 * o.rows_,
      isNan32 (at0 elems e) = true ∨ less (at0 elems e) (boundLow v) ∨ less (boundHigh v) (at0 elems e)
    (bad → o.boundCheck elems = (elems, 8, none)) ∧ (¬ bad → o.boundCheck elems = (elems, 0, none)) := by
  have hf : o.path = .int ↔ bit v 62 = true := iff_of_false hp (by simp [hv])
  simp only [← boundTest_float hv]
  constructor
  · rintro ⟨e, he, hbad⟩
    obtain ⟨k, hk⟩ := exists_breaks hb hf hl fun hall => by simp [hall e he] at hbad
    exact hk.counted ha
  · intro hgood
    exact boundCheck_of_good hb hf hl fun e he => by
      rw [← Bool.not_eq_true]
      exact fun hbad => hgood ⟨e, he, hbad⟩

end Sys2Proof.Machine
end

section
/-! PROOFS. The cube engine's events (O44): the statement from the lemmas on its start, its blocks, its waves, their
landing and the completion. -/

namespace Sys2Proof.Machine

/-- Pairs whose first parts differ as a list's elements do. -/
theorem pairwise_zip_fst {α β : Type} {R : α → α → Prop} {l : List α} (r : List β) (h : l.Pairwise R) :
    (l.zip r).Pairwise fun x y => R x.1 y.1 := by
  induction l generalizing r with
  | nil => exact List.Pairwise.nil
  | cons a l ih =>
    cases r with
    | nil => exact List.Pairwise.nil
    | cons b r =>
      obtain ⟨ha, hl⟩ := List.pairwise_cons.1 h
      exact List.pairwise_cons.2 ⟨fun x hx => ha _ (List.of_mem_zip hx).1, ih r hl⟩

theorem onHand_iff (src : ASource) : src.onHand = true ↔ src = .rowBuffer ∨ src = .chain := by
  cases src <;> simp [ASource.onHand]

/-- Settles O44: each event by what the engine's head, the wave's reads, the wave due or the item done is. -/
theorem cubeEvents : Obligations.CubeEvents := by
  unfold Obligations.CubeEvents
  intro s
  dsimp only
  refine ⟨fun h => ⟨exec_cubeOpStart_idle h, exec_cubeWaveStart_idle h⟩, fun c h => exec_cubeOpStart_head h,
    fun c o hc hk hr => ⟨fun lj hl => ?_, fun hl hs => ?_⟩, fun c o hc hk hr hl => ?_,
    fun u m order h xs x => ⟨rfl, tensorBlock_snoc_none rfl, fun va t y hx ht => ?_⟩,
    fun F off n => ⟨rfl, markedBlock_testBit F off n⟩, fun fs => ⟨lowestFault_eq_none fs, lowestFault_least fs⟩,
    fun new old n hn hl => ⟨rfl, fun g => over_testBit new old n g hn hl, clean_getElem? new⟩,
    fun u m i o read hp hm => ?_, fun h => exec_cubeWaveLand_idle h, fun c o w h => exec_cubeWaveLand_due h,
    fun u m i o w hp hm hst ha => ?_, addWave_at0, fun h => exec_cubeOpComplete_idle h, fun c h => cubeDone_spec h,
    fun c hc => ?_, fun o elems n v hb hp hv hl => boundCheck_int hb hp hv hl,
    fun o elems n v hb hp hv ha hl => boundCheck_float hb hp hv ha hl, rfl⟩
  · rw [← layerWord_eq]
    exact State.waveDue.layerFails ⟨hc, hk, hr⟩ hl
  · exact ⟨_, State.waveDue.parks ⟨hc, hk, hr⟩ hl (waveBlocks_noHandle s _ _ hs) (.inl hs)⟩
  · have due : s.waveDue c o := ⟨hc, hk, hr⟩
    refine ⟨fun hs => due.runs hl (waveBlocks_rowBuffer s _ _ hs), fun f off stride hs => ⟨fun hu => ?_, fun hu hx => ?_,
      fun hu hx => ⟨fun hbad => ?_, fun hbad => ?_⟩⟩, fun hs => due.runs hl (waveBlocks_chain s _ _ hs),
      fun h t0 t1 pl hs => ⟨fun hf => ?_, fun f hf hoff => ?_⟩⟩
    · exact due.parks hl (waveBlocks_unreadable s _ _ hs hu) (.inr (hostServes_cause _ (show cFstate ≠ cXlate by decide)))
    · exact due.parks hl (waveBlocks_stale s _ _ hs hu hx) (.inr (hostServes_cause _ (show cStale ≠ cXlate by decide)))
    · refine due.runs hl ((waveBlocks_frame s _ _ hs hu hx).trans ?_)
      rw [if_neg (mt List.any_eq_true.1 hbad)]
    · refine due.runs hl ((waveBlocks_frame s _ _ hs hu hx).trans ?_)
      rw [if_pos (List.any_eq_true.2 hbad)]
    · exact due.runs hl (waveBlocks_handle s _ _ hs ((lowestFault_eq_none _).2 hf))
    · exact due.parks hl (waveBlocks_handle_faults s _ _ hs hf) (.inr (hostServes_off _ _ hoff))
  · subst hx
    refine ⟨fun c i hy => tensorBlock_snoc_bad rfl (hy ▸ ht), fun pa leaf hy => ?_⟩
    have hok := tensorBlock_snoc_ok rfl (hy ▸ ht)
    refine ⟨fun hbad => hok.trans ?_, fun hbad => hok.trans ?_⟩
    · rw [show t.readBad _ m order va pa h.width = false from hbad]
      rfl
    · rw [show t.readBad _ m order va pa h.width = true from hbad]
      rfl
  · refine ⟨runWave_chainQ u _ m i o read hp, runWave_agenda u _ m i o read, fun hsrc hbad => ?_,
      fun hsrc => runWave_rows_kept u _ m i o read hsrc hp, fun hsrc hd x hx hk hk' hl hw => ?_, fun hbad => ?_,
      fun c hc hq hi hk => ?_⟩
    · refine runWave_pois u _ m i o read hp hm (.inl ?_)
      rw [(onHand_iff _).2 hsrc, Bool.true_and]
      simpa using hbad
    · obtain ⟨hbuf, hmarks⟩ := runWave_rows_loaded u _ m i o read hsrc hp
      have hd' := pairwise_zip_fst read hd
      rw [hbuf, hmarks]
      exact ⟨rowsLoaded_read _ hd' hx hk hw, rowsLoaded_marks _ hd' hx hk' hl⟩
    · refine runWave_pois u _ m i o read hp hm (.inr ?_)
      obtain ⟨b, hb, hrows⟩ := hbad
      exact List.any_eq_true.2 ⟨b, hb, by simpa using hrows⟩
    · refine ⟨_, _, runWave_cube u _ m i o read hp hc hq hi hk, rfl, rfl, rfl, ?_, rfl, rfl, rfl, rfl, rfl⟩
      simp [CubeOp.waveStarted, Pillar.slotsOf]
  · obtain ⟨b, hb⟩ := landWave_acc u _ m i o w hp hm ha
    rw [hb]
    refine ⟨rfl, rfl, ?_, fun l hl => ?_⟩
    · simp
    · refine (landWave_ballast u _ m i o w hst l hl).trans ?_
      simp only [mem_ballast o w.w l _ hl]
      rfl
  · have hdone := fun (t : State) (ht : s.completeItem s.who.p c = t) => ht ▸ exec_cubeOpComplete_done hc
    refine ⟨fun hk => hdone _ (completeItem_idle s _ hk), fun slot mask sw off image bad hk => ⟨fun l hl => ?_, fun hl hi =>
      hdone _ (completeItem_load s _ hk hl hi)⟩, fun a x hk => hdone _ (completeItem_zero s _ hk),
      fun a w hk => hdone _ (completeItem_bind s _ hk), fun o hk hb => hdone _ (completeItem_op s _ hk hb)⟩
    rw [← layerWord_eq]
    exact hdone _ (completeItem_load_fails s _ hk hl)

end Sys2Proof.Machine
end

section
/-! PROOFS. The atomic steps of a job control block (O46, R44, R45). -/

namespace Sys2Proof.Machine

/-! ### Bit fields -/

/-- A field reads back as its low bits. -/
theorem field_extract (v lo n : Nat) (h : lo + n ≤ 64) : (field v lo n).extractLsb' lo n = BitVec.ofNat n v := by
  have hv : v % 2 ^ n < 2 ^ n := Nat.mod_lt _ (Nat.two_pow_pos n)
  have hsmall : (v % 2 ^ n) <<< lo < 2 ^ 64 := by
    rw [Nat.shiftLeft_eq]
    calc v % 2 ^ n * 2 ^ lo < 2 ^ n * 2 ^ lo := Nat.mul_lt_mul_of_pos_right hv (Nat.two_pow_pos lo)
      _ = 2 ^ (lo + n) := by rw [← Nat.pow_add, Nat.add_comm]
      _ ≤ 2 ^ 64 := Nat.pow_le_pow_right (by decide) h
  refine BitVec.eq_of_toNat_eq ?_
  rw [BitVec.extractLsb'_toNat, field, BitVec.toNat_ofNat, Nat.mod_eq_of_lt hsmall, Nat.shiftLeft_shiftRight,
    BitVec.toNat_ofNat, Nat.mod_mod]

theorem bits_eq_zero {w : Nat} (x : BitVec w) (lo n : Nat) : bits x lo n = 0 ↔ x.extractLsb' lo n = 0 :=
  ⟨fun h => BitVec.eq_of_toNat_eq h, fun h => by rw [bits, h]; rfl⟩

/-! ### Completions -/

section
variable (j : Jcb) (n time : Nat)

theorem satAdd_zero {a : Nat} (h : a < 2 ^ 64) : satAdd a 0 = a := Nat.min_eq_left (by omega)

/-- An addition of nothing is no completion step (log 15). -/
theorem addCount_zero (h : j.count < 2 ^ 64) : j.addCount 0 time = j := by
  simp [Jcb.addCount, satAdd_zero h]

/-- A job that is complete, or that an addition does not complete, keeps its state and its time. -/
theorem addCount_open (h : j.state % 2 = 1 ∨ (j.addCount n time).count < j.expect) :
    (j.addCount n time).state = j.state ∧ (j.addCount n time).tdone = j.tdone := by
  have hnow : (decide (0 < n) && !j.complete && decide (j.expect ≤ satAdd j.count n)) = false := by
    rcases h with h | h
    · simp [Jcb.complete, h]
    · simp [Nat.not_le.2 (show satAdd j.count n < j.expect from h)]
  simp [Jcb.addCount, hnow]

/-- The addition that first reaches EXPECT completes the job. -/
theorem addCount_completes (hn : 0 < n) (ho : j.state % 2 = 0) (h : j.expect ≤ (j.addCount n time).count) :
    (j.addCount n time).state = j.state + 1 ∧ (j.addCount n time).tdone = time := by
  have hc : j.expect ≤ satAdd j.count n := h
  simp [Jcb.addCount, Jcb.complete, hn, ho, hc]

/-- A COUNT left above EXPECT sets OVER. -/
theorem addCount_err (hn : 0 < n) :
    (j.addCount n time).err = if j.expect < (j.addCount n time).count then j.err ||| 0x20 else j.err := by
  simp only [Jcb.addCount, hn, true_and]
  rfl

/-- Lost iterations are completions with LOSTN, FAIL and LOST. -/
theorem addLost_pos (hn : 0 < n) :
    j.addLost n time = ({ j with lostn := satAdd j.lostn n, err := j.err ||| 3 } : Jcb).addCount n time := by
  rw [Jcb.addLost, if_neg (by omega)]

theorem addLost_err (hn : 0 < n) :
    (j.addLost n time).err = if j.expect < (j.addLost n time).count then j.err ||| 0x23 else j.err ||| 3 := by
  rw [addLost_pos j n time hn, addCount_err _ n time hn]
  show (if _ then j.err ||| 3 ||| 0x20 else _) = _
  rw [BitVec.or_assoc]
  rfl

/-! ### Errors -/

section
variable {j} {c t : Nat}

theorem fail_first (h : j.err.extractLsb' 16 8 = 0) :
    j.fail c t = { j with err := j.err ||| 1 ||| field c 16 8, firstit := t } := by
  rw [Jcb.fail, if_pos ((bits_eq_zero _ _ _).2 h)]

theorem fail_again (h : j.err.extractLsb' 16 8 ≠ 0) : j.fail c t = { j with err := j.err ||| 1 } := by
  rw [Jcb.fail, if_neg (mt (bits_eq_zero _ _ _).1 h)]

theorem reject_first {r : Nat} (h : j.err.extractLsb' 8 8 = 0) :
    j.reject r = { j with err := j.err ||| 9 ||| field r 8 8 } := by
  rw [Jcb.reject, if_pos ((bits_eq_zero _ _ _).2 h)]

theorem reject_again {r : Nat} (h : j.err.extractLsb' 8 8 ≠ 0) : j.reject r = { j with err := j.err ||| 9 } := by
  rw [Jcb.reject, if_neg (mt (bits_eq_zero _ _ _).1 h)]
end
end

/-- A recorded cause below 256, read back over fields that were 0. -/
theorem or_field_extract (x y : W64) (v lo : Nat) (h : lo + 8 ≤ 64) (hv : v < 256) (hx : x.extractLsb' lo 8 = 0)
    (hy : y.extractLsb' lo 8 = 0) : ((x ||| y ||| field v lo 8).extractLsb' lo 8).toNat = v := by
  rw [BitVec.extractLsb'_or, BitVec.extractLsb'_or, hx, hy, field_extract v lo 8 h]
  simpa using hv

/-- An iteration error: FAIL, and the first of its kind with its cause and iteration (R44). -/
theorem fail_spec (j : Jcb) (c t : Nat) (hc : c < 256) :
    let k := j.fail c t
    k.err.getLsbD 0 = true ∧ k.count = j.count ∧ k.state = j.state ∧
      (j.err.extractLsb' 16 8 = 0 → (k.err.extractLsb' 16 8).toNat = c ∧ k.firstit = t) ∧
      (j.err.extractLsb' 16 8 ≠ 0 → k.err.extractLsb' 16 8 = j.err.extractLsb' 16 8 ∧ k.firstit = j.firstit) := by
  by_cases h : j.err.extractLsb' 16 8 = 0
  · rw [fail_first h]
    exact ⟨by simp, rfl, rfl, fun _ => ⟨or_field_extract _ _ c 16 (by decide) hc h (by decide), rfl⟩,
      fun h' => absurd h h'⟩
  · rw [fail_again h]
    refine ⟨by simp, rfl, rfl, fun h' => absurd h' h, fun _ => ⟨?_, rfl⟩⟩
    rw [BitVec.extractLsb'_or]
    exact BitVec.or_zero

/-- A rejected launch: FAIL, REJ and the first reason (R44). -/
theorem reject_spec (j : Jcb) (r : Nat) (hr : r < 256) :
    let k := j.reject r
    k.err.getLsbD 0 = true ∧ k.err.getLsbD 3 = true ∧ k.count = j.count ∧
      (k.err.extractLsb' 8 8).toNat = if j.err.extractLsb' 8 8 = 0 then r else (j.err.extractLsb' 8 8).toNat := by
  by_cases h : j.err.extractLsb' 8 8 = 0
  · rw [reject_first h, if_pos h]
    exact ⟨by simp, by simp, rfl, or_field_extract _ _ r 8 (by decide) hr h (by decide)⟩
  · rw [reject_again h, if_neg h]
    refine ⟨by simp, by simp, rfl, ?_⟩
    rw [BitVec.extractLsb'_or]
    exact congrArg BitVec.toNat BitVec.or_zero

/-- Settles O46: completions and losses by whether the addition completes the job, errors and rejections by whether one
of their kind was recorded before. -/
theorem jobControlBlock : Obligations.JobControlBlock := by
  unfold Obligations.JobControlBlock
  intro j n time _ hcount
  refine ⟨⟨rfl, rfl, rfl, rfl, ?_, fun h => addCount_open j n time (.inl h),
    fun _ _ h => addCount_open j n time (.inr h),
    fun hn ho h => addCount_completes j n time hn ho h, addCount_err j n time⟩, fun hn => ?_,
    fun c t _ hc => fail_spec j c t hc, fun r _ hr => reject_spec j r hr, rfl, rfl⟩
  · rintro rfl
    exact addCount_zero j time hcount
  · refine ⟨?_, ?_, addLost_err j n time hn, ?_⟩ <;> rw [addLost_pos j n time hn]
    · rfl
    · rfl
    · exact ⟨rfl, rfl, addCount_open _ n time, addCount_completes _ n time hn⟩
end Sys2Proof.Machine
end

section
/-! PROOFS. A cube operation at issue (O32, R292, R295, R304): its geometry and format entry, the checks in their order,
and what an accepted operation is. -/

namespace Sys2Proof.Machine

/-! ### Operands -/

/-- A field from bit 0 on, as a remainder. -/
theorem bits_low {w : Nat} (x : BitVec w) (n : Nat) : bits x 0 n = x.toNat % 2 ^ n := rfl

/-- A scalar source reads the queue, the named file and the popped message, and nothing else of the package (R92). -/
theorem src_congr {s t : State} (hq : t.me.queue = s.me.queue) (hn : t.me.named = s.me.named) (hm : t.cur.mq = s.cur.mq)
    (code : BitVec 5) : t.src code = s.src code := by
  simp only [State.src, hq, hn, hm]

/-- A change of a frame leaves every scalar source. -/
theorem onFrame_src (s : State) (p f : Nat) (g : Frame → Frame) (code : BitVec 5) :
    (s.onFrame p f g).src code = s.src code :=
  src_congr (by
    simpa only [State.me, onFrame_cur] using onFrame_keeps s p f g Seq.queue (fun _ _ => rfl) s.cur.p s.cur.q)
    (by simpa only [State.me, onFrame_cur] using onFrame_keeps s p f g Seq.named (fun _ _ => rfl) s.cur.p s.cur.q)
    (by rw [onFrame_cur]) code

/-- The pop takes the message that a look at the head of the queue shows. -/
theorem popMq_mq (s : State) : s.popMq.cur.mq = s.peekMq.cur.mq := by
  simp only [State.popMq, State.peekMq]
  cases hm : s.cur.mq <;> cases hq : s.mine.mq <;> simp [hm]

/-- A source reads the same before its syllable's pop, looking at the head, and after it. -/
theorem peekMq_src (s : State) {srcs : List (BitVec 5)} {b : BitVec 5} (hb : b ∈ srcs) :
    s.peekMq.src b = (s.sourced srcs).src b := by
  have hme : s.peekMq.me = (s.sourced srcs).me := by rw [sourced_me]; rfl
  by_cases h31 : b = 31
  · have hs : s.sourced srcs = s.popMq := if_pos (List.contains_iff_mem.2 (h31 ▸ hb))
    exact src_congr (by rw [hme]) (by rw [hme]) (by rw [hs, popMq_mq]) b
  · have hn : b.toNat ≠ 31 := fun h => h31 (BitVec.eq_of_toNat_eq h)
    simp only [State.src, hme, if_neg hn]

/-! ### What the checks look at -/

/-- The format entry of an operation whose control word is source b. -/
def State.cubeEntry (s : State) (b : BitVec 5) (byLoop : Bool) : W32 := s.entryOf (s.geoOf (s.src b)) byLoop

theorem cubeEntry_direct (s : State) (b : BitVec 5) : s.cubeEntry b false =
    s.me.fts.getD ((s.geoOf (s.src b)).extractLsb' 8 4).toNat 0 := rfl

theorem cubeEntry_looped (s : State) (b : BitVec 5) : s.cubeEntry b true =
    s.me.fts.getD (((s.me.loops[((s.geoOf (s.src b)).extractLsb' 12 3).toNat]?).map fun k =>
      (k.index.extractLsb' 0 4).toNat).getD 0) 0 := by
  simp only [State.cubeEntry, State.entryOf, bits, if_true]
  cases s.me.loops[((s.geoOf (s.src b)).extractLsb' 12 3).toNat]? <;> rfl

theorem cubeEntry_peek (s : State) {srcs : List (BitVec 5)} {b : BitVec 5} (hb : b ∈ srcs) (byLoop : Bool) :
    s.peekMq.cubeEntry b byLoop = (s.sourced srcs).cubeEntry b byLoop := by
  have hme : s.peekMq.me = (s.sourced srcs).me := by rw [sourced_me]; rfl
  simp only [State.cubeEntry, State.entryOf, State.geoOf, peekMq_src s hb, hme]

/-- Every layer of a mask is present (R13). -/
def State.layersPresent (s : State) (l : BitVec 4) : Prop := l.toNat &&& (s.myStack.layers.toNat % 16) = l.toNat

theorem layerAbsent_eq_false {s : State} {l : BitVec 4} (h : s.layersPresent l) : s.layerAbsent l = false := by
  rw [State.layerAbsent, bits_low, Nat.and_comm]
  exact decide_eq_false (not_not.2 h)

theorem layerAbsent_eq_true {s : State} {l : BitVec 4} (h : ¬ s.layersPresent l) : s.layerAbsent l = true := by
  rw [State.layerAbsent, bits_low, Nat.and_comm]
  exact decide_eq_true h

/-- Whether an operation takes A from a tensor (R304). -/
def AForm.isHandle : AForm → Bool
  | .handle _ => true
  | _ => false

/-- Whether the handle of an operation fits its format and plane; other forms have none (R304). -/
def State.formFits (s : State) (form : AForm) (b : BitVec 5) (byLoop : Bool) : Bool :=
  match form with
  | .handle a => handleFits (s.handleOf (stackOf s.cur.p) (s.src a)) (s.cubeEntry b byLoop) (bits (s.src b) 36 8)
  | _ => true

/-- A handle's element width is its format's, and it has the plane (R273, R304). -/
def Handle.fits (h : Handle) (fmt : W32) (pl : Nat) : Bool :=
  decide (h.width = fmtBytes (fmt.toNat % 16)) && (decide (pl = 0) || decide (2 < h.nd))

theorem formFits_handle (s : State) (a b : BitVec 5) (byLoop : Bool) : s.formFits (.handle a) b byLoop =
    (s.handleOf (stackOf s.cur.p) (s.src a)).all (Handle.fits · (s.cubeEntry b byLoop) (bits (s.src b) 36 8)) := by
  simp only [State.formFits]
  cases s.handleOf (stackOf s.cur.p) (s.src a) <;> rfl

/-- EINFO of an FSTATE at issue as a number (R258). -/
theorem fstateInfo_eq (f : Nat) (st : FState) (why : Nat) (hf : f < 64) :
    fstateInfo f st why = BitVec.ofNat 64 (f % 64 + st.code * 64 + why % 16 * 256) := by
  have hst : st.code < 4 := by cases st <;> decide
  have low : field f 0 6 ||| field st.code 6 2 = field (f + st.code * 64) 0 8 := by
    rw [field_or_field, field, Nat.shiftLeft_zero]
    congr 1
    omega
  rw [fstateInfo, low, field_or_field]
  congr 1
  omega

theorem fstateTwo_eq (s : State) : s.fstateTwo = s.raise (s.fstateOf 0 2) := by
  rw [State.fstateTwo, fstateInfo_eq 0 _ 2 (by decide)]
  rfl

theorem fstateFive_eq (s : State) {f : Nat} (hf : f < 64) : s.fstateFive f = s.raise (s.fstateOf f 5) := by
  rw [State.fstateFive, fstateInfo_eq f _ 5 hf]
  rfl

theorem unreadable_iff (F : Frame) : F.unreadable = true ↔ F.state = .empty ∨ F.state = .filling := by
  simp [Frame.unreadable]

theorem unreadable_eq_false {F : Frame} (h : F.state = .ready ∨ F.state = .draining) : F.unreadable = false := by
  rcases h with h | h <;> simp [Frame.unreadable, h]

/-! ### The checks in order (R304) -/

section
variable {u : State} {acc : BitVec 3} {form : AForm} {a b : BitVec 5} {l : BitVec 4} {xc east : BitVec 1}
  {byLoop : Bool}

theorem operate_absent (h : ¬ u.layersPresent l) :
    u.operate acc form b l xc east byLoop = u.raise ⟨cLayer, 0, none, none, false⟩ := by
  simp only [State.operate, layerAbsent_eq_true h, if_true]
  rfl

/-- Control fields outside their limits, or a handle that does not fit. -/
theorem operate_fstate (hp : u.layersPresent l)
    (h : (controlOk (u.geoOf (u.src b)) (u.src b) form.isHandle && u.formFits form b byLoop) = false) :
    u.operate acc form b l xc east byLoop = u.raise (u.fstateOf 0 2) := by
  rw [← fstateTwo_eq]
  cases form with
  | handle a => exact (if_neg (by simp [layerAbsent_eq_false hp])).trans (if_neg (by rw [Bool.not_eq_true]; exact h))
  | frame _ | hold | chain =>
    have hc : controlOk (u.geoOf (u.src b)) (u.src b) false = false := (Bool.and_true _).symm.trans h
    simp [State.operate, layerAbsent_eq_false hp, hc]

/-- The operation that an issue in a state forms, as the next item of the queue. -/
def State.accepts (u : State) (acc : BitVec 3) (b : BitVec 5) (l : BitVec 4) (xc east : BitVec 1) (byLoop : Bool)
    (src : ASource) (opa : W64) : State :=
  u.acceptOp acc.toNat l (u.geoOf (u.src b)) (u.cubeEntry b byLoop) src opa (u.src b) (xc = 1) (east = 1)

theorem operate_hold (hp : u.layersPresent l) (hc : controlOk (u.geoOf (u.src b)) (u.src b) false = true) :
    u.operate acc .hold b l xc east byLoop = u.accepts acc b l xc east byLoop .rowBuffer 0 := by
  simp only [State.operate, layerAbsent_eq_false hp, hc, if_true]
  rfl

theorem operate_chain (hp : u.layersPresent l) (hc : controlOk (u.geoOf (u.src b)) (u.src b) false = true) :
    u.operate acc .chain b l xc east byLoop = u.accepts acc b l xc east byLoop .chain 0 := by
  simp only [State.operate, layerAbsent_eq_false hp, hc, if_true]
  rfl

/-- The A source of a tensor form: the handle with the control word's place, or that there is none. -/
def handleSource (h : Option Handle) (ctl : W64) : ASource :=
  match h with
  | some h => .handle h (bits ctl 8 14) (bits ctl 22 14) (bits ctl 36 8)
  | none => .noHandle

theorem operate_handle (hp : u.layersPresent l) (hc : controlOk (u.geoOf (u.src b)) (u.src b) true = true)
    (hf : u.formFits (.handle a) b byLoop = true) : u.operate acc (.handle a) b l xc east byLoop =
      u.accepts acc b l xc east byLoop (handleSource (u.handleOf (stackOf u.cur.p) (u.src a)) (u.src b)) (u.src a) := by
  refine (if_neg (by simp [layerAbsent_eq_false hp])).trans ((if_pos ?_).trans rfl)
  rw [hc, Bool.true_and]
  exact hf

/-- What the checks of a frame form share: the layers are present and the control fields within their limits. -/
structure State.frameChecked (u : State) (b : BitVec 5) (l : BitVec 4) : Prop where
  present : u.layersPresent l
  control : controlOk (u.geoOf (u.src b)) (u.src b) false = true

theorem operate_outside (h : u.frameChecked b l) (hA : (u.src a).extractLsb' 28 36 ≠ 0) :
    u.operate acc (.frame a) b l xc east byLoop = u.raise ⟨cAddr, u.src a, none, none, false⟩ := by
  have hb : bits (u.src a) 28 36 ≠ 0 := mt (bits_eq_zero _ _ _).1 hA
  simp only [State.operate, layerAbsent_eq_false h.present, h.control, Bool.not_true, Bool.false_eq_true, if_false,
    if_pos hb]
  rfl

/-- An address in a frame, with its frame and its last byte. -/
theorem operate_frame (h : u.frameChecked b l) (hA : (u.src a).extractLsb' 28 36 = 0) :
    let f := frameNo (u.src a)
    let off := bits (u.src a) 0 22
    u.operate acc (.frame a) b l xc east byLoop =
      if (u.myFrame f).bytes < blocksEnd (u.geoOf (u.src b)) (u.cubeEntry b byLoop) off then
        u.raise ⟨cAddr, u.src a, none, none, false⟩
      else if (u.myFrame f).unreadable then u.fstateFive f
      else u.accepts acc b l xc east byLoop (.frame f off (bits (u.geoOf (u.src b)) 16 22)) (u.src a) := by
  have hb : bits (u.src a) 28 36 = 0 := (bits_eq_zero _ _ _).2 hA
  simp only [State.operate, layerAbsent_eq_false h.present, h.control, Bool.not_true, Bool.false_eq_true, if_false, hb,
    ne_eq, not_true_eq_false]
  rfl
end

/-! ### The syllable -/

section
variable {s : State} {g : Guard} {acc : BitVec 3} {form : AForm} {b : BitVec 5} {l : BitVec 4} {xc east : BitVec 1}
  {byLoop : Bool}

theorem cubeSyllable_unset (h : (s.peekMq.cubeEntry b byLoop).toNat % 16 = 0) :
    s.cubeSyllable g acc form b l xc east byLoop = .next (s.raise ⟨cIllegal, s.sylInfo 8, none, none, false⟩) :=
  if_pos h

theorem cubeSyllable_set (he : s.enabled g (form.codes ++ [b]))
    (h : ((s.sourced (form.codes ++ [b])).cubeEntry b byLoop).toNat % 16 ≠ 0) :
    s.cubeSyllable g acc form b l xc east byLoop =
      .next ((s.sourced (form.codes ++ [b])).operate acc form b l xc east byLoop) := by
  rw [← cubeEntry_peek s (List.mem_append_right _ List.mem_cons_self)] at h
  exact (if_neg h).trans (guarded_on s g _ _ he)
end

/-! ### Acceptance -/

/-- A frame form takes its frame's read role before the operation joins the queue. -/
theorem accepts_frame (u : State) (acc : BitVec 3) (b : BitVec 5) (l : BitVec 4) (xc east : BitVec 1) (byLoop : Bool)
    (f off stride : Nat) (opa : W64) :
    let v := u.onFrame u.cur.p f Frame.takeRole
    let o := u.newOp acc.toNat (u.geoOf (u.src b)) (u.cubeEntry b byLoop) l (.frame f off stride) (u.src b) (xc = 1)
      (east = 1) true
    u.accepts acc b l xc east byLoop (.frame f off stride) opa =
      (v.onAcc v.cur.p v.cur.q acc.toNat fun t =>
        { t with busy := true, prog := 0, park := false, nw := (o 0).nw }).enqueueCube opa (v.src b) 0
          fun i => .op (o i) := by
  dsimp only
  rw [onFrame_src]
  rfl

section
variable {s : State} {g : Guard} {acc : BitVec 3} {a b : BitVec 5} {l : BitVec 4} {xc east : BitVec 1} {byLoop : Bool}

theorem cubeFrame_accepted (he : s.enabled g [a, b]) :
    let u := s.sourced [a, b]
    let f := frameNo (u.src a)
    let off := bits (u.src a) 0 22
    u.frameChecked b l → (u.src a).extractLsb' 28 36 = 0 →
      (u.myFrame f).state = .ready ∨ (u.myFrame f).state = .draining →
    (u.cubeEntry b byLoop).toNat % 16 ≠ 0 →
    blocksEnd (u.geoOf (u.src b)) (u.cubeEntry b byLoop) off ≤ (u.myFrame f).bytes →
    s.cubeSyllable g acc (.frame a) b l xc east byLoop =
      .next (u.accepts acc b l xc east byLoop (.frame f off (bits (u.geoOf (u.src b)) 16 22)) (u.src a)) := by
  intro u f off hu hA hF hfmt hend
  rw [cubeSyllable_set (form := .frame a) he hfmt]
  have hread : ¬ (u.myFrame f).unreadable = true := by simp [unreadable_eq_false hF]
  exact congrArg _ ((operate_frame hu hA).trans ((if_neg (Nat.not_lt.2 hend)).trans (if_neg hread)))

theorem cubeHold_accepted (he : s.enabled g [b]) :
    let u := s.sourced [b]
    u.frameChecked b l → (u.cubeEntry b byLoop).toNat % 16 ≠ 0 → s.cubeSyllable g acc .hold b l xc east byLoop =
      .next (u.accepts acc b l xc east byLoop .rowBuffer 0) := by
  intro u hu hfmt
  rw [cubeSyllable_set (form := .hold) he hfmt]
  exact congrArg _ (operate_hold hu.present hu.control)

theorem cubeChain_accepted (he : s.enabled g [b]) :
    let u := s.sourced [b]
    u.frameChecked b l → (u.cubeEntry b byLoop).toNat % 16 ≠ 0 → s.cubeSyllable g acc .chain b l xc east byLoop =
      .next (u.accepts acc b l xc east byLoop .chain 0) := by
  intro u hu hfmt
  rw [cubeSyllable_set (form := .chain) he hfmt]
  exact congrArg _ (operate_chain hu.present hu.control)

theorem cubeHandle_accepted (he : s.enabled g [a, b]) :
    let u := s.sourced [a, b]
    u.layersPresent l → controlOk (u.geoOf (u.src b)) (u.src b) true = true →
    (u.cubeEntry b byLoop).toNat % 16 ≠ 0 → u.formFits (.handle a) b byLoop = true →
    s.cubeSyllable g acc (.handle a) b l xc east byLoop =
      .next (u.accepts acc b l xc east byLoop
        (handleSource (u.handleOf (stackOf u.cur.p) (u.src a)) (u.src b)) (u.src a)) := by
  intro u hp hc hfmt hf
  rw [cubeSyllable_set (form := .handle a) he hfmt]
  exact congrArg _ (operate_handle hp hc hf)
end

/-! ### Refusal -/

section
variable {s : State} {g : Guard} {acc : BitVec 3} {form : AForm} {a b : BitVec 5} {l : BitVec 4} {xc east : BitVec 1}
  {byLoop : Bool}

/-- The two checks that every form has: its layers, then its control fields with its handle. -/
theorem cubeForm_first {i : Instr} (hi : exec i s = s.cubeSyllable g acc form b l xc east byLoop)
    (he : s.enabled g (form.codes ++ [b])) {fits : Bool}
    (hfits : (s.sourced (form.codes ++ [b])).formFits form b byLoop = fits) :
    let u := s.sourced (form.codes ++ [b])
    ((u.cubeEntry b byLoop).toNat % 16 ≠ 0 → ¬ u.layersPresent l →
      exec i s = .next (u.raise ⟨cLayer, 0, none, none, false⟩)) ∧
    ((u.cubeEntry b byLoop).toNat % 16 ≠ 0 → u.layersPresent l →
      (controlOk (u.geoOf (u.src b)) (u.src b) form.isHandle && fits) = false →
      exec i s = .next (u.raise (u.fstateOf 0 2))) := by
  subst hfits
  rw [hi]
  exact ⟨fun hfmt hp => (cubeSyllable_set he hfmt).trans (congrArg _ (operate_absent hp)),
    fun hfmt hp h => (cubeSyllable_set he hfmt).trans (congrArg _ (operate_fstate hp h))⟩

/-- The checks of a frame form's address and frame. -/
theorem cubeFrame_refused {i : Instr} (hi : exec i s = s.cubeSyllable g acc (.frame a) b l xc east byLoop)
    (he : s.enabled g [a, b]) :
    let u := s.sourced [a, b]
    let A := u.src a
    let f := frameNo A
    let last := blocksEnd (u.geoOf (u.src b)) (u.cubeEntry b byLoop) (bits A 0 22)
    (u.cubeEntry b byLoop).toNat % 16 ≠ 0 → u.layersPresent l → controlOk (u.geoOf (u.src b)) (u.src b) false = true →
      (A.extractLsb' 28 36 ≠ 0 → exec i s = .next (u.raise ⟨cAddr, A, none, none, false⟩)) ∧
      (A.extractLsb' 28 36 = 0 → (u.myFrame f).bytes < last →
        exec i s = .next (u.raise ⟨cAddr, A, none, none, false⟩)) ∧
      (A.extractLsb' 28 36 = 0 → last ≤ (u.myFrame f).bytes →
        (u.myFrame f).state = .empty ∨ (u.myFrame f).state = .filling →
        exec i s = .next (u.raise (u.fstateOf f 5))) := by
  intro u A f last hfmt hp hc
  have hu : u.frameChecked b l := ⟨hp, hc⟩
  rw [hi, cubeSyllable_set (form := .frame a) he hfmt]
  refine ⟨fun hA => congrArg _ (operate_outside hu hA), fun hA hlast => congrArg _ ?_, fun hA hlast hF => congrArg _ ?_⟩
  · exact (operate_frame hu hA).trans (if_pos hlast)
  · rw [← fstateFive_eq u (show f < 64 from (A.extractLsb' 22 6).isLt)]
    exact (operate_frame hu hA).trans ((if_neg (Nat.not_lt.2 hlast)).trans (if_pos ((unreadable_iff _).2 hF)))
end

/-- The limits of the geometry and control words (R304). -/
theorem controlOk_iff (geo ctl : W64) (isHandle : Bool) : controlOk geo ctl isHandle = true ↔
    1 ≤ bits geo 0 6 ∧ bits geo 0 6 ≤ 32 ∧ geo.getLsbD 7 = false ∧ geo.getLsbD 15 = false ∧ bits geo 38 26 = 0 ∧
      bits geo 12 3 < 6 ∧ bits geo 16 22 % 64 = 0 ∧ bits ctl 44 20 = 0 ∧ (isHandle = false → bits ctl 8 36 = 0) := by
  have hor : (isHandle || decide (bits ctl 8 36 = 0)) = true ↔ (isHandle = false → bits ctl 8 36 = 0) := by
    cases isHandle <;> simp
  simp only [controlOk, Bool.and_eq_true, hor, bit, Bool.not_eq_true', decide_eq_true_eq]
  tauto

/-- Settles O32: each instruction is one form of the cube syllable, whose checks are taken in order. -/
theorem cubeIssue : Obligations.CubeIssue := by
  unfold Obligations.CubeIssue
  refine ⟨fun s g c a b l x e => ?_, fun s g c a b l x e => ?_, controlOk_iff⟩
  · intro geo direct looped present limits op accept
    refine ⟨fun he => ?_, fun he => ?_, fun he => ?_⟩
    · intro u A f off stride F taken hp hc hA hF
      have hu : u.frameChecked b l := ⟨hp, hc⟩
      refine ⟨fun fmt hfmt h16 hend => ?_, fun fmt hfmt h16 hend => ?_⟩
      · subst hfmt
        exact (cubeFrame_accepted (byLoop := false) he hu hA hF h16 hend).trans (congrArg _ (accepts_frame ..))
      · obtain rfl : fmt = u.cubeEntry b true := hfmt.trans (cubeEntry_looped u b).symm
        exact (cubeFrame_accepted (byLoop := true) he hu hA hF h16 hend).trans (congrArg _ (accepts_frame ..))
    · intro u hp hc
      have hu : u.frameChecked b l := ⟨hp, hc⟩
      refine ⟨fun h16 => ⟨cubeHold_accepted (byLoop := false) he hu h16, cubeChain_accepted (byLoop := false) he hu h16⟩,
        fun h16 => ?_⟩
      have hl : looped u = u.cubeEntry b true := (cubeEntry_looped u b).symm
      rw [hl] at h16 ⊢
      exact cubeHold_accepted (byLoop := true) he hu h16
    · intro u h t0 t1 pl hp hc h16
      have accepted : h.all (Handle.fits · (u.cubeEntry b false) pl) = true →
          exec (.cmmah g c a b l x e) s = .next (u.accepts c b l x e false (handleSource h (u.src b)) (u.src a)) :=
        fun hall => cubeHandle_accepted he hp hc h16 ((formFits_handle u a b false).trans hall)
      refine ⟨fun k hk hw hpl => ?_, fun hn => ?_⟩
      · have hfits : k.fits (u.cubeEntry b false) pl = true :=
          Bool.and_eq_true_iff.2 ⟨decide_eq_true hw, by simpa using hpl⟩
        rw [accepted (hk ▸ hfits), hk]
        rfl
      · rw [accepted (hn ▸ rfl), hn]
        rfl
  · intro geo direct looped present unset first
    have hl : ∀ u : State, looped u = u.cubeEntry b true := fun u => (cubeEntry_looped u b).symm
    refine ⟨fun h => ⟨fun k => ?_, ?_, ?_⟩, fun h k => ?_, fun he => ?_, fun he => ?_⟩
    · exact cubeSyllable_unset (byLoop := false) h
    · exact cubeSyllable_unset (byLoop := false) h
    · exact cubeSyllable_unset (byLoop := false) h
    · exact cubeSyllable_unset (byLoop := true) (hl s.peekMq ▸ h)
    · intro u
      rw [hl u]
      exact ⟨cubeForm_first (form := .hold) (byLoop := false) rfl he rfl,
        cubeForm_first (form := .hold) (byLoop := true) rfl he rfl,
        cubeForm_first (form := .chain) (byLoop := false) rfl he rfl⟩
    · intro u A f off pl frame
      rw [hl u]
      have frameForm : ∀ (i : Instr) (byLoop : Bool), exec i s = s.cubeSyllable g c (.frame a) b l x e byLoop →
          frame i (u.cubeEntry b byLoop) := fun i byLoop hi =>
        ⟨cubeForm_first (form := .frame a) hi he rfl, cubeFrame_refused hi he⟩
      exact ⟨frameForm _ false rfl, frameForm _ true rfl,
        cubeForm_first (form := .handle a) (byLoop := false) rfl he (formFits_handle u a b false)⟩
end Sys2Proof.Machine
end

section
/-! PROOFS. An engine command at issue (O33, R272-R279): the record it forms, its checks as the first that fails, and
the roles it takes when all pass. -/

namespace Sys2Proof.Machine

/-! ### The first of several checks -/

/-- The answer of the first element that gives one. -/
theorem findSome?_first {α β : Type} {f : α → Option β} {l before after : List α} {n : α} {x : β}
    (hl : l = before ++ n :: after) (hb : ∀ m ∈ before, f m = none) (hn : f n = some x) : l.findSome? f = some x := by
  rw [hl, List.findSome?_append, List.findSome?_eq_none_iff.2 hb, Option.none_or, List.findSome?_cons, hn]

theorem findSome?_two {α β : Type} (f : α → Option β) (m n : α) : [m, n].findSome? f = (f m).or (f n) := by
  cases hm : f m <;> cases hn : f n <;> simp [List.findSome?, hm, hn]

/-! ### Single bits -/

theorem bits_one {w : Nat} (x : BitVec w) (k : Nat) : bits x k 1 = (bit x k).toNat := by
  rw [bits, BitVec.extractLsb'_toNat, bit, BitVec.getLsbD, Nat.toNat_testBit, Nat.shiftRight_eq_div_pow]

theorem bits_two {w : Nat} (x : BitVec w) (k : Nat) : bits x k 2 = (bit x k).toNat + 2 * (bit x (k + 1)).toNat := by
  simp only [bits, BitVec.extractLsb'_toNat, bit, BitVec.getLsbD, Nat.toNat_testBit, Nat.shiftRight_eq_div_pow,
    pow_succ,
    ← Nat.div_div_eq_div_mul]
  omega

/-! ### The record -/

/-- A sequencer with fewer than 256 records has an index free (R332). -/
theorem freeRec_fresh {x : Seq} (h : x.recs.length < 256) : ∀ r ∈ x.recs, r.idx ≠ x.freeRec := by
  rw [Seq.freeRec]
  cases hf : (List.range 256).find? fun i => x.recs.all fun r => r.idx ≠ i with
  | some i => simpa using List.find?_some hf
  | none =>
    have hsub : List.range 256 ⊆ x.recs.map Rec.idx := fun i hi => by
      have hi' := List.find?_eq_none.1 hf i hi
      simpa using hi'
    have hlen := ((List.nodup_range (n := 256)).subperm hsub).length_le
    simp only [List.length_range, List.length_map] at hlen
    omega

/-- The commands that context mode makes its own (R344). -/
def EngineKind.direct : EngineKind → Bool
  | .copyin | .copyout => true
  | _ => false

/-- The command that an issue in a state forms (R272). -/
def State.engineOp (u : State) (kind : EngineKind) (f : BitVec 6) (b : BitVec 5) (lu fl : BitVec 1) (h : Handle)
    (ctx : Bool) : EngineOp where
  kind := kind
  frame := f.toNat
  fl := fl = 1
  lu := lu = 1
  word := u.src b
  handle := h
  ctx := ctx
  index := none
  done := []
  part := []
  stage := []
  held := []
  roleW := false
  roleF := false
  roleX := false
  ready := false
  reached := false
  heldSince := none
  told := false

/-- A command's record formed, and its acquire put in force (R245, R272). -/
def State.formEngine (u : State) (A W : W64) (e : EngineOp) : State :=
  let v := u.formRec A W (.engine e)
  if e.acq then v.onMe fun x => { x with fences := x.fences ++ [⟨0, e.scope, x.order, some (e.kind = .atomg)⟩] } else v

section
variable {u : State} {A W : W64} {e : EngineOp}

@[simp] theorem formEngine_cur : (u.formEngine A W e).cur = u.cur := by
  unfold State.formEngine
  dsimp only
  split <;> rfl

@[simp] theorem formEngine_nonce : (u.formEngine A W e).nonce = u.nonce := by
  unfold State.formEngine
  dsimp only
  split <;> rfl

/-- A change of the current sequencer leaves every frame. -/
theorem onMe_frame (f : Seq → Seq) (p n : Nat) : (u.onMe f).frame p n = u.frame p n :=
  congrArg (fun l => l.getD n Frame.cleared) (onPillar_keeps u u.cur.p Pillar.frames (fun _ => by rfl) p)

@[simp] theorem formEngine_frame (p n : Nat) : (u.formEngine A W e).frame p n = u.frame p n := by
  unfold State.formEngine
  dsimp only
  split
  · rw [onMe_frame, State.formRec, onMe_frame]
  · rw [State.formRec, onMe_frame]

@[simp] theorem formEngine_foundFrame (p n : Nat) : (u.formEngine A W e).foundFrame p n = u.foundFrame p n := by
  simp only [State.foundFrame, formEngine_cur, formEngine_frame]

/-- Of the records of the sequencer only the one just formed has its index. -/
theorem formEngine_recs (h : u.me.recs.length < 256) :
    ∀ r ∈ (u.formEngine A W e).me.recs, r.idx = u.me.freeRec → r.op = .engine e := by
  have formed : ∀ r ∈ (u.formRec A W (.engine e)).me.recs, r.idx = u.me.freeRec → r.op = .engine e := by
    intro r hr hi
    rcases onMe_me_cases u _ with hme | hme
    · rw [State.formRec, hme, List.mem_append, List.mem_singleton] at hr
      rcases hr with hr | rfl
      · exact absurd hi (freeRec_fresh h r hr)
      · rfl
    · rw [State.formRec, hme] at hr
      exact absurd hi (freeRec_fresh h r hr)
  unfold State.formEngine
  dsimp only
  split
  · rcases onMe_me_cases (u.formRec A W (.engine e)) (fun x => { x with
        fences := x.fences ++ [⟨0, e.scope, x.order, some (e.kind = .atomg)⟩] }) with hme | hme
    · rw [hme]
      exact formed
    · rw [hme]
      exact formed
  · exact formed
end

/-- A command in a state in which it takes effect: its record, then its checks (R272). -/
theorem command_enabled {s : State} {kind : EngineKind} {g : Guard} {f : BitVec 6} {a b : BitVec 5} {lu fl : BitVec 1}
    (he : s.enabled g [a, b]) :
    let u := s.sourced [a, b]
    let e := u.engineOp kind f b lu fl ((u.handleOf (stackOf u.cur.p) (u.src a)).getD Handle.absent)
      (u.me.contextMode && kind.direct)
    s.command kind g f a b lu fl = .next ((u.formEngine (u.src a) (u.src b) e).admitEngine
      u.cur.p u.cur.q u.me.freeRec e) := by
  intro u e
  have hctx : (decide (kind = .copyin) || decide (kind = .copyout)) = kind.direct := by cases kind <;> rfl
  rw [State.command, guarded_on s g _ _ he, hctx]
  show Host.Outcome.next ((u.formEngine (u.src a) (u.src b) e).admitEngine (u.formEngine (u.src a) (u.src b) e).cur.p
    (u.formEngine (u.src a) (u.src b) e).cur.q u.me.freeRec e) = _
  rw [formEngine_cur]

/-! ### The checks (R277, R279) -/

/-- The frame states a command needs, in order: each frame, and whether it is to be FILLING or readable. -/
def EngineOp.needs (e : EngineOp) : List (Nat × Bool) :=
  match e.kind with
  | .copyin => if e.ctx then [] else [(e.frame, true)]
  | .copyout => if e.ctx then [] else [(e.frame, false)]
  | .gather => [(e.frame, true), (e.ixf, false)]
  | .scatter => [(e.frame, false), (e.ixf, false)]
  | .atomg => if bits e.word 41 1 = 0 then [(e.frame, false), (e.rf, true)] else [(e.frame, false)]

/-- The bytes of its frames that a command touches, in order: the frame, the offset, the number of bytes. -/
def EngineOp.places (e : EngineOp) : List (Nat × Nat × Nat) :=
  match e.kind with
  | .copyin | .copyout => [(e.frame, e.fseg * e.tileBytes, e.tileBytes)]
  | .gather | .scatter =>
    [(e.frame, e.fseg * e.tileBytes, e.tileBytes), (e.ixf, 256 * bits e.word 20 8, 4 * 2 ^ bits e.word 40 4)]
  | .atomg =>
    if bits e.word 41 1 = 0 then [(e.frame, 16 * e.fseg, 16), (e.rf, 8 * e.fseg, 8)] else [(e.frame, 16 * e.fseg, 16)]

/-- One frame named as written and as read (log 47). -/
def EngineOp.twice (e : EngineOp) : Prop :=
  e.kind = .gather ∧ e.ixf = e.frame ∨ (e.kind = .atomg ∧ bits e.word 41 1 = 0) ∧ e.rf = e.frame

/-- A frame of the current pillar in the state a role needs, as the long word found it (R128). -/
def State.frameOpen (u : State) (n : Nat × Bool) : Prop :=
  let st := ((u.cur.found[n.1]?).getD (u.myFrame n.1)).state
  if n.2 then st = .filling else st = .ready ∨ st = .draining

/-- What the check of one frame's state answers. -/
def State.needFault (u : State) (n : Nat × Bool) : Option (Nat × W64) :=
  if n.2 then if (u.foundFrame u.cur.p n.1).state ≠ .filling then some (cFstate, u.frameInfo u.cur.p n.1 7) else none
  else if (u.foundFrame u.cur.p n.1).state = .empty ∨ (u.foundFrame u.cur.p n.1).state = .filling then
    some (cFstate, u.frameInfo u.cur.p n.1 5) else none

/-- What the check of one place answers. -/
def State.fitFault (u : State) (n : Nat × Nat × Nat) : Option (Nat × W64) :=
  if (u.myFrame n.1).bytes < n.2.1 + n.2.2 then some (cAddr, faddr n.1 n.2.1) else none

section
variable {u : State} {e : EngineOp}

/-- Whether an ATOMG's result frame is written, by the bit that says it is not. -/
theorem hasRf_eq (hk : e.kind = .atomg) : e.hasRf = decide (bits e.word 41 1 = 0) := by
  rw [EngineOp.hasRf, hk, bits_one]
  cases bit e.word 41 <;> rfl

theorem foundFrame_here (u : State) (n : Nat) :
    u.foundFrame u.cur.p n = (u.cur.found[n]?).getD (u.myFrame n) := if_pos rfl

theorem needFault_open {n : Nat × Bool} (h : u.frameOpen n) : u.needFault n = none := by
  obtain ⟨n, w⟩ := n
  cases w <;> simp only [State.frameOpen, ← foundFrame_here, if_true, Bool.false_eq_true, if_false] at h
  · rcases h with h | h <;> simp [State.needFault, h]
  · simp [State.needFault, h]

theorem needFault_closed {n : Nat × Bool} (h : ¬ u.frameOpen n) :
    u.needFault n = some (cFstate, u.frameInfo u.cur.p n.1 (if n.2 then 7 else 5)) := by
  obtain ⟨n, w⟩ := n
  cases w <;> simp only [State.frameOpen, ← foundFrame_here, if_true, Bool.false_eq_true, if_false] at h
  · cases hst : (u.foundFrame u.cur.p n).state <;> simp [State.needFault, hst] at h ⊢
  · simp [State.needFault, h]

theorem roleFault_twice (h : e.twice) : u.roleFault u.cur.p e = some (cFstate, u.frameInfo u.cur.p e.frame 9) := by
  rcases h with ⟨hk, hf⟩ | ⟨⟨hk, hr⟩, hf⟩
  · simp only [State.roleFault, hk, hf, if_true]
  · simp only [State.roleFault, hk, hasRf_eq hk, hr, hf, decide_true, if_true]

theorem roleFault_eq (h : ¬ e.twice) : u.roleFault u.cur.p e = e.needs.findSome? u.needFault := by
  have hgather : e.kind = .gather → e.frame ≠ e.ixf := fun hk hf => h (.inl ⟨hk, hf.symm⟩)
  have hatomg : e.kind = .atomg → bits e.word 41 1 = 0 → e.frame ≠ e.rf := fun hk hr hf => h (.inr ⟨⟨hk, hr⟩, hf.symm⟩)
  cases hk : e.kind with
  | copyin | copyout =>
    cases hc : e.ctx <;> simp [State.roleFault, EngineOp.needs, hk, hc, State.needFault]
  | gather => simp [State.roleFault, EngineOp.needs, hk, hgather hk, findSome?_two, State.needFault]
  | scatter => simp [State.roleFault, EngineOp.needs, hk, findSome?_two, State.needFault]
  | atomg =>
    by_cases hr : bits e.word 41 1 = 0
    · simp [State.roleFault, EngineOp.needs, hk, hasRf_eq hk, hr, hatomg hk hr, findSome?_two, State.needFault]
    · simp [State.roleFault, EngineOp.needs, hk, hasRf_eq hk, hr, State.needFault]

theorem placeFault_eq : u.placeFault u.cur.p e = e.places.findSome? u.fitFault := by
  cases hk : e.kind with
  | copyin | copyout =>
    simp only [State.placeFault, EngineOp.places, hk, List.findSome?_singleton]
    rfl
  | gather | scatter =>
    simp only [State.placeFault, EngineOp.places, hk, findSome?_two]
    rfl
  | atomg =>
    by_cases hr : bits e.word 41 1 = 0
    · simp only [State.placeFault, EngineOp.places, hk, hasRf_eq hk, hr, decide_true, if_true, findSome?_two]
      rfl
    · simp only [State.placeFault, EngineOp.places, hk, hasRf_eq hk, hr, decide_false, Bool.false_eq_true, if_false,
        List.findSome?_singleton, Option.or_none]
      rfl
end

/-! ### What a command comes to at issue -/

section
variable {u : State} {A W : W64} {e : EngineOp} {i : Nat}

/-- A handle operand that breaks R42 leaves no dimensions (log 25). -/
theorem admitEngine_xlate (h : e.handle.nd = 0) :
    (u.formEngine A W e).admitEngine u.cur.p u.cur.q i e =
      ({ u.formEngine A W e with nonce := u.nonce + 1 } : State).faultRec u.cur.p u.cur.q i cXlate
        (BitVec.ofNat 64 (Config.choice u.nonce)) := by
  simp [State.admitEngine, State.engineCheck, h, State.choose]

theorem formEngine_frameInfo (n why : Nat) :
    (u.formEngine A W e).frameInfo u.cur.p n why = u.frameInfo u.cur.p n why := by
  simp only [State.frameInfo, formEngine_foundFrame]

theorem formEngine_roleFault (p : Nat) : (u.formEngine A W e).roleFault p e = u.roleFault p e := by
  simp only [State.roleFault, State.frameInfo, formEngine_foundFrame]

theorem formEngine_placeFault (p : Nat) : (u.formEngine A W e).placeFault p e = u.placeFault p e := by
  simp only [State.placeFault, formEngine_frame]

/-- What the checks of a command with a handle answer (R279). -/
def State.checkFault (u : State) (e : EngineOp) : Option (Nat × W64) :=
  if e.fieldsOk then (u.roleFault u.cur.p e).or (u.placeFault u.cur.p e)
  else some (cFstate, u.frameInfo u.cur.p e.frame 2)

/-- The checks of a command with a handle, by what its record's formation leaves of the package. -/
theorem engineCheck_formEngine (h : 0 < e.handle.nd) : (u.formEngine A W e).engineCheck u.cur.p e =
    (u.formEngine A W e, u.checkFault e) := by
  simp only [State.engineCheck, if_neg (Nat.pos_iff_ne_zero.1 h), formEngine_frameInfo, formEngine_roleFault,
    formEngine_placeFault, State.checkFault]
  cases e.fieldsOk <;> rfl

theorem admitEngine_faults (h : 0 < e.handle.nd) {f : Nat × W64} (hf : u.checkFault e = some f) :
    (u.formEngine A W e).admitEngine u.cur.p u.cur.q i e =
      (u.formEngine A W e).faultRec u.cur.p u.cur.q i f.1 f.2 := by
  rw [State.admitEngine, engineCheck_formEngine h, hf]

/-- A command passes its checks (R279). -/
structure State.admits (u : State) (e : EngineOp) : Prop where
  dims : 0 < e.handle.nd
  fields : e.fieldsOk = true
  once : ¬ e.twice
  states : ∀ n ∈ e.needs, u.frameOpen n
  fits : ∀ n ∈ e.places, n.2.1 + n.2.2 ≤ (u.myFrame n.1).bytes

theorem admitEngine_starts (h : u.admits e) : (u.formEngine A W e).admitEngine u.cur.p u.cur.q i e =
    (u.formEngine A W e).startEngine u.cur.p u.cur.q i e := by
  have hrole : u.roleFault u.cur.p e = none := by
    rw [roleFault_eq h.once]
    exact List.findSome?_eq_none_iff.2 fun n hn => needFault_open (h.states n hn)
  have hplace : u.placeFault u.cur.p e = none := by
    rw [placeFault_eq]
    exact List.findSome?_eq_none_iff.2 fun n hn => if_neg (Nat.not_lt.2 (h.fits n hn))
  rw [State.admitEngine, engineCheck_formEngine h.dims, State.checkFault, h.fields, hrole, hplace]
  rfl

section
variable (hd : 0 < e.handle.nd) (hf : e.fieldsOk = true)
include hd hf

theorem admits_copyin (hk : e.kind = .copyin) (hs : e.ctx = true ∨ u.frameOpen (e.frame, true))
    (hp : (e.fseg + 1) * e.tileBytes ≤ (u.myFrame e.frame).bytes) : u.admits e where
  dims := hd
  fields := hf
  once := by simp [EngineOp.twice, hk]
  states := by rcases hs with h | h <;> simp [EngineOp.needs, hk, h]
  fits := by simpa [EngineOp.places, hk, Nat.add_mul] using hp

theorem admits_copyout (hk : e.kind = .copyout) (hs : e.ctx = true ∨ u.frameOpen (e.frame, false))
    (hp : (e.fseg + 1) * e.tileBytes ≤ (u.myFrame e.frame).bytes) : u.admits e where
  dims := hd
  fields := hf
  once := by simp [EngineOp.twice, hk]
  states := by rcases hs with h | h <;> simp [EngineOp.needs, hk, h]
  fits := by simpa [EngineOp.places, hk, Nat.add_mul] using hp

theorem admits_gather (hk : e.kind = .gather) (ho : e.ixf ≠ e.frame) (hs : u.frameOpen (e.frame, true))
    (hx : u.frameOpen (e.ixf, false)) (hp : (e.fseg + 1) * e.tileBytes ≤ (u.myFrame e.frame).bytes)
    (hq : 256 * bits e.word 20 8 + 4 * 2 ^ bits e.word 40 4 ≤ (u.myFrame e.ixf).bytes) : u.admits e where
  dims := hd
  fields := hf
  once := by simp [EngineOp.twice, hk, ho]
  states := by simp [EngineOp.needs, hk, hs, hx]
  fits := by simpa [EngineOp.places, hk, Nat.add_mul] using ⟨by simpa [Nat.add_mul] using hp, hq⟩

theorem admits_scatter (hk : e.kind = .scatter) (hs : u.frameOpen (e.frame, false)) (hx : u.frameOpen (e.ixf, false))
    (hp : (e.fseg + 1) * e.tileBytes ≤ (u.myFrame e.frame).bytes)
    (hq : 256 * bits e.word 20 8 + 4 * 2 ^ bits e.word 40 4 ≤ (u.myFrame e.ixf).bytes) : u.admits e where
  dims := hd
  fields := hf
  once := by simp [EngineOp.twice, hk]
  states := by simp [EngineOp.needs, hk, hs, hx]
  fits := by simpa [EngineOp.places, hk, Nat.add_mul] using ⟨by simpa [Nat.add_mul] using hp, hq⟩

theorem admits_atomg (hk : e.kind = .atomg) (hs : u.frameOpen (e.frame, false))
    (hp : 16 * (e.fseg + 1) ≤ (u.myFrame e.frame).bytes)
    (hr : bits e.word 41 1 = 0 →
      e.rf ≠ e.frame ∧ u.frameOpen (e.rf, true) ∧ 8 * (e.fseg + 1) ≤ (u.myFrame e.rf).bytes) : u.admits e := by
  by_cases hrf : bits e.word 41 1 = 0
  · obtain ⟨hne, hopen, hq⟩ := hr hrf
    exact ⟨hd, hf, by simp [EngineOp.twice, hk, hne], by simp [EngineOp.needs, hk, hrf, hs, hopen],
      by simpa [EngineOp.places, hk, hrf] using ⟨hp, hq⟩⟩
  · exact ⟨hd, hf, by simp [EngineOp.twice, hk, hrf], by simp [EngineOp.needs, hk, hrf, hs],
      by simpa [EngineOp.places, hk, hrf, Nat.mul_add] using hp⟩
end
end

/-! ### The roles taken -/

/-- Two updates that give the same at the place updated. -/
theorem upd_congr {α : Type} {l : List α} {n : Nat} {f g : α → α} (d : α) (h : f (l.getD n d) = g (l.getD n d)) :
    upd l n f = upd l n g := by
  induction l generalizing n with
  | nil => rfl
  | cons x xs ih =>
    cases n with
    | zero => exact congrArg (· :: xs) h
    | succ n => exact congrArg (x :: ·) (ih h)

theorem onSeq_congr {s : State} {p q : Nat} {f g : Seq → Seq} (h : f (s.seq p q) = g (s.seq p q)) :
    s.onSeq p q f = s.onSeq p q g := by
  have hp : upd (s.pillar p).seqs q f = upd (s.pillar p).seqs q g := upd_congr Seq.reset h
  simp only [State.onSeq, State.onPillar]
  exact congrArg (fun l => ({ s with pillars := l } : State))
    (upd_congr Pillar.reset (congrArg (fun l => ({ s.pillar p with seqs := l } : Pillar)) hp))

/-- Two changes of a command that give the same of the one its record holds. -/
theorem onEngine_congr {s : State} {p q i : Nat} {e : EngineOp} {f g : EngineOp → EngineOp}
    (hrec : ∀ r ∈ (s.seq p q).recs, r.idx = i → r.op = .engine e) (h : f e = g e) :
    s.onEngine p q i f = s.onEngine p q i g := by
  refine onSeq_congr (congrArg (fun l => ({ s.seq p q with recs := l } : Seq)) (List.map_congr_left fun r hr => ?_))
  split
  · simp only [hrec r hr ‹_›, h]
  · rfl

/-- The read roles of a command that starts (R253, R277). -/
def State.takeReads (s : State) (p : Nat) (e : EngineOp) : State :=
  let v := if e.taken.roleF then s.onFrame p e.frame Frame.takeRole else s
  if e.taken.roleX then v.onFrame p e.ixf Frame.takeRole else v

theorem takeReads_recs (s : State) (p q : Nat) (e : EngineOp) :
    ((s.takeReads p e).seq p q).recs = (s.seq p q).recs := by
  have taken : ∀ (v : State) (n : Nat), ((v.onFrame p n Frame.takeRole).seq p q).recs = (v.seq p q).recs :=
    fun v n => onFrame_keeps v p n _ Seq.recs (fun _ _ => rfl) p q
  simp only [State.takeReads]
  split_ifs <;> simp only [taken]

theorem startEngine_eq {s : State} {p q i : Nat} {e : EngineOp}
    (hrec : ∀ r ∈ (s.seq p q).recs, r.idx = i → r.op = .engine e) :
    s.startEngine p q i e = (s.takeReads p e).onEngine p q i fun d =>
      { d with
        ready := true, roleW := e.taken.roleW, roleF := e.taken.roleF, roleX := e.taken.roleX
        index := if e.indexed then some (s.indexNow p e) else none } := by
  refine onEngine_congr (s := s.takeReads p e) (e := e) ?_ rfl
  rw [takeReads_recs]
  exact hrec

theorem takeReads_copyout (s : State) (p : Nat) {e : EngineOp} (hk : e.kind = .copyout) :
    s.takeReads p e = if e.ctx then s else s.onFrame p e.frame Frame.takeRole := by
  simp only [State.takeReads, EngineOp.taken, hk]
  cases e.ctx <;> rfl

theorem taken_roleW_atomg {e : EngineOp} (hk : e.kind = .atomg) (hc : e.ctx = false) :
    e.taken.roleW = !bit e.word 41 := by
  simp only [EngineOp.taken, EngineOp.written, hk, hc]
  cases bit e.word 41 <;> rfl

/-- A command that passes its checks: its record, its acquire, and the roles of its frames taken. -/
theorem command_starts {s : State} {kind : EngineKind} {g : Guard} {f : BitVec 6} {a b : BitVec 5} {lu fl : BitVec 1}
    {h : Handle} (he : s.enabled g [a, b]) (hr : s.me.recs.length < 256) :
    let u := s.sourced [a, b]
    let p := u.cur.p
    ∀ ctx, (u.me.contextMode && kind.direct) = ctx → u.handleOf (stackOf p) (u.src a) = some h →
    let e := u.engineOp kind f b lu fl h ctx
    u.admits e → ∀ v w, (u.formEngine (u.src a) (u.src b) e).takeReads p e = v → e.taken.roleW = w →
    s.command kind g f a b lu fl = .next (v.onEngine p u.cur.q u.me.freeRec fun d =>
      { d with
        ready := true, roleW := w, roleF := e.taken.roleF, roleX := e.taken.roleX
        index := if e.indexed then some (u.indexNow p e) else none }) := by
  intro u p ctx hctx hh e had v w hv hw
  have hme : (u.formEngine (u.src a) (u.src b) e).seq p u.cur.q = (u.formEngine (u.src a) (u.src b) e).me := by
    rw [State.me, formEngine_cur]
  have hix : (u.formEngine (u.src a) (u.src b) e).indexNow p e = u.indexNow p e := by
    simp only [State.indexNow, formEngine_frame]
  have hrec := formEngine_recs (u := u) (A := u.src a) (W := u.src b) (e := e) (by rw [sourced_me]; exact hr)
  rw [command_enabled he, hh, hctx, ← hv, ← hw]
  refine congrArg _ ((admitEngine_starts had).trans ?_)
  rw [startEngine_eq (hme ▸ hrec), hix]

/-! ### The first failing check -/

/-- The limits of a command word's fields (R273, R274, R276, R279). -/
theorem fieldsOk_iff {e : EngineOp} {fl : BitVec 1} (hfl : e.fl = decide (fl = 1)) :
    let W := e.word
    let z := e.tileBytes
    e.fieldsOk = true ↔ bits W 46 3 ≠ 7 ∧ (bits W 44 2 = 0 → bits W 46 3 = 0) ∧ (bits W 28 8 ≠ 0 → 2 < e.handle.nd) ∧
      (fl = 0 → bits W 56 5 = 0) ∧ bits W 36 4 ≤ 10 ∧
      (e.kind ≠ .atomg → bits W 40 4 ≤ 10 ∧ z ≤ 4194304 ∧ (fl = 0 → bits W 49 7 = 0)) ∧
      (e.kind = .atomg → bits W 42 2 = 0 ∧ bits W 55 1 = 0 ∧ (bits W 41 1 = 1 → e.rf = 0) ∧
        (bits W 36 4 = 10 → (if bits W 40 1 = 1 then 8 else e.handle.width) = 4)) := by
  intro W z
  have hfl0 : fl = 0 ↔ e.fl = false := by
    rw [hfl]
    clear hfl
    revert fl
    decide
  have hplane :
      (decide (bits W 28 8 = 0) || decide (2 < e.handle.nd)) = true ↔ (bits W 28 8 ≠ 0 → 2 < e.handle.nd) := by
    rw [Bool.or_eq_true, decide_eq_true_eq, decide_eq_true_eq, or_iff_not_imp_left]
  have horder : (e.acq || e.rel || decide (bits W 46 3 = 0)) = true ↔ (bits W 44 2 = 0 → bits W 46 3 = 0) := by
    rw [bits_two, EngineOp.acq, EngineOp.rel]
    cases bit e.word 44 <;> cases bit e.word 45 <;> simp
  have hflag : ∀ n : Nat, (e.fl || decide (n = 0)) = true ↔ (fl = 0 → n = 0) := fun n => by
    rw [hfl0, Bool.or_eq_true, decide_eq_true_eq, or_iff_not_imp_left, Bool.not_eq_true]
  have hcut : e.fieldsOk = (decide (bits W 46 3 ≠ 7) && (e.acq || e.rel || decide (bits W 46 3 = 0)) &&
    (decide (bits W 28 8 = 0) || decide (2 < e.handle.nd)) && (e.fl || decide (bits W 56 5 = 0)) &&
    match e.kind with
      | .atomg => decide (bits W 36 4 ≤ 10) && decide (bits W 42 2 = 0) && !bit W 55 &&
          (!bit W 41 || decide (e.rf = 0)) &&
        (decide (bits W 36 4 ≠ 10) || decide (e.atomWidth = 4))
      | _ => decide (bits W 36 4 ≤ 10) && decide (bits W 40 4 ≤ 10) && decide (z ≤ 4194304) &&
        (e.fl || decide (bits W 49 7 = 0))) := rfl
  rw [hcut]
  simp only [Bool.and_eq_true, hplane, horder, hflag, decide_eq_true_eq, and_assoc]
  refine and_congr_right' (and_congr_right' (and_congr_right' (and_congr_right' ?_)))
  cases hk : e.kind with
  | atomg =>
    have hwidth : (decide (bits W 36 4 ≠ 10) || decide (e.atomWidth = 4)) = true ↔
        (bits W 36 4 = 10 → (if bits W 40 1 = 1 then 8 else e.handle.width) = 4) := by
      rw [Bool.or_eq_true, decide_eq_true_eq, decide_eq_true_eq, ← imp_iff_not_or, bits_one, EngineOp.atomWidth]
      cases bit e.word 40 <;> simp
    have hresult : (!bit W 41 || decide (e.rf = 0)) = true ↔ (bits W 41 1 = 1 → e.rf = 0) := by
      rw [bits_one]
      cases bit W 41 <;> simp
    have hzero : (!bit W 55) = true ↔ bits W 55 1 = 0 := by
      rw [bits_one]
      cases bit W 55 <;> simp
    simp only [Bool.and_eq_true, hwidth, hresult, hzero, decide_eq_true_eq, and_assoc, ne_eq, not_true_eq_false,
      false_imp_iff, true_and, true_imp_iff]
  | copyin | copyout | gather | scatter =>
    simp only [Bool.and_eq_true, hflag, decide_eq_true_eq, and_assoc, ne_eq, reduceCtorEq, not_false_eq_true,
      true_imp_iff, false_imp_iff, and_true]

section
variable {u : State} {e : EngineOp}

theorem checkFault_fields (h : e.fieldsOk = false) :
    u.checkFault e = some (cFstate, u.frameInfo u.cur.p e.frame 2) := by
  rw [State.checkFault, h]
  rfl

theorem checkFault_twice (h : e.fieldsOk = true) (ht : e.twice) :
    u.checkFault e = some (cFstate, u.frameInfo u.cur.p e.frame 9) := by
  rw [State.checkFault, if_pos h, roleFault_twice ht, Option.some_or]

theorem checkFault_state (h : e.fieldsOk = true) (ht : ¬ e.twice) {before after : List (Nat × Bool)} {n : Nat × Bool}
    (hl : e.needs = before ++ n :: after) (hb : ∀ m ∈ before, u.frameOpen m) (hn : ¬ u.frameOpen n) :
    u.checkFault e = some (cFstate, u.frameInfo u.cur.p n.1 (if n.2 then 7 else 5)) := by
  rw [State.checkFault, if_pos h, roleFault_eq ht,
    findSome?_first hl (fun m hm => needFault_open (hb m hm)) (needFault_closed hn), Option.some_or]

theorem checkFault_place (h : e.fieldsOk = true) (ht : ¬ e.twice) (hs : ∀ n ∈ e.needs, u.frameOpen n)
    {before after : List (Nat × Nat × Nat)} {n : Nat × Nat × Nat} (hl : e.places = before ++ n :: after)
    (hb : ∀ m ∈ before, m.2.1 + m.2.2 ≤ (u.myFrame m.1).bytes) (hn : ¬ n.2.1 + n.2.2 ≤ (u.myFrame n.1).bytes) :
    u.checkFault e = some (cAddr, faddr n.1 n.2.1) := by
  rw [State.checkFault, if_pos h, roleFault_eq ht,
    List.findSome?_eq_none_iff.2 fun n hn => needFault_open (hs n hn), Option.none_or, placeFault_eq,
    findSome?_first (f := u.fitFault) hl (fun m hm => if_neg (Nat.not_lt.2 (hb m hm))) (if_pos (Nat.not_le.1 hn))]
end

/-- FINFO of FSTATE for a frame of the current pillar, as a number (R258). -/
theorem frameInfo_eq (u : State) {n why : Nat} (hn : n < 64) (hw : why < 16) : u.frameInfo u.cur.p n why =
    BitVec.ofNat 64 (n + 64 * ((u.cur.found[n]?).getD (u.myFrame n)).state.code + 256 * why) := by
  rw [State.frameInfo, fstateInfo_eq n _ why hn, foundFrame_here]
  congr 1
  omega

/-- The frames that a command's roles name are frames. -/
theorem needs_lt {e : EngineOp} (hf : e.frame < 64) : ∀ n ∈ e.needs, n.1 < 64 := by
  have hixf : e.ixf < 64 := (e.word.extractLsb' 14 6).isLt
  have hrf : e.rf < 64 := (e.word.extractLsb' 49 6).isLt
  unfold EngineOp.needs
  split <;> try split
  all_goals simp [hf, hixf, hrf]

/-- A command that fails a check: its record, and the fault in it. -/
theorem command_faults {s : State} {kind : EngineKind} {g : Guard} {f : BitVec 6} {a b : BitVec 5} {lu fl : BitVec 1}
    {h : Handle} (he : s.enabled g [a, b]) :
    let u := s.sourced [a, b]
    let p := u.cur.p
    ∀ ctx, (u.me.contextMode && kind.direct) = ctx → u.handleOf (stackOf p) (u.src a) = some h → 0 < h.nd →
    let e := u.engineOp kind f b lu fl h ctx
    ∀ c : Nat × W64, u.checkFault e = some c → s.command kind g f a b lu fl =
      .next ((u.formEngine (u.src a) (u.src b) e).faultRec p u.cur.q u.me.freeRec c.1 c.2) := by
  intro u p ctx hctx hh hd e c hc
  rw [command_enabled he, hh, hctx]
  exact congrArg _ (admitEngine_faults hd hc)

/-- A handle operand that breaks R42: its record, and XLATE in it (log 25). -/
theorem command_xlate {s : State} {kind : EngineKind} {g : Guard} {f : BitVec 6} {a b : BitVec 5} {lu fl : BitVec 1}
    (he : s.enabled g [a, b]) :
    let u := s.sourced [a, b]
    let p := u.cur.p
    ∀ ctx, (u.me.contextMode && kind.direct) = ctx → u.handleOf (stackOf p) (u.src a) = none →
    let e := u.engineOp kind f b lu fl Handle.absent ctx
    s.command kind g f a b lu fl =
      .next (({ u.formEngine (u.src a) (u.src b) e with nonce := u.nonce + 1 } : State).faultRec p u.cur.q u.me.freeRec
        cXlate (BitVec.ofNat 64 (Config.choice u.nonce))) := by
  intro u p ctx hctx hh e
  rw [command_enabled he, hh, hctx]
  exact congrArg _ (admitEngine_xlate rfl)

/-- Settles O33: a command forms its record, then starts when every check passes, else faults with the first that
fails. -/
theorem engineIssue : Obligations.EngineIssue := by
  unfold Obligations.EngineIssue
  refine ⟨fun s g f a b lu fl h he => ?_, fun s g f a b lu fl kind he => ?_⟩
  · intro u A W i p F cmd issued reads roles words found open_ z hr hh hd
    refine ⟨?_, ?_, ?_, ?_, ?_⟩
    · rintro e rfl hf hs hp
      exact command_starts (kind := .copyin) he hr u.me.contextMode (Bool.and_true _) hh (admits_copyin hd hf rfl hs hp)
        _ _ rfl (Bool.and_true _)
    · rintro e rfl hf hs hp
      exact command_starts (kind := .copyout) he hr u.me.contextMode (Bool.and_true _) hh
        (admits_copyout hd hf rfl hs hp)
        _ _ (takeReads_copyout _ p rfl) (Bool.and_false _)
    · rintro e rfl hf ho hs hx hp hq
      exact command_starts (kind := .gather) he hr false (Bool.and_false _) hh (admits_gather hd hf rfl ho hs hx hp hq)
        _ _ rfl rfl
    · rintro e rfl hf hs hx hp hq
      exact command_starts (kind := .scatter) he hr false (Bool.and_false _) hh (admits_scatter hd hf rfl hs hx hp hq)
        _ _ rfl rfl
    · rintro e rfl hf hs hp hres
      have hbit : bits W 41 1 = 0 → W.getLsbD 41 = false := fun h0 => by simpa [bits_one, bit] using h0
      exact command_starts (kind := .atomg) he hr false (Bool.and_false _) hh
        (admits_atomg hd hf rfl hs hp fun h0 => hres (hbit h0)) _ _ rfl (taken_roleW_atomg rfl rfl)
  · intro u W p command issued after
    have hcommand : exec command s = s.command kind g f a b lu fl := by cases kind <;> rfl
    have hctx : (u.me.contextMode && kind.direct) =
        (u.me.contextMode && decide (kind = .copyin ∨ kind = .copyout)) := by cases kind <;> rfl
    refine ⟨fun hn => ⟨_, hcommand.trans (command_xlate he _ hctx hn)⟩, ?_⟩
    intro h hh hd e faults state why fseg z ixf rf result legal needs open_ places fits twice
    have hfaults : ∀ (c : Nat) (x info : W64), u.checkFault e = some (c, x) → x = info → faults c info := by
      rintro c x _ hc rfl
      exact hcommand.trans (command_faults he _ hctx hh hd (c, x) hc)
    have hfstate : ∀ n k, n < 64 → k < 16 → u.checkFault e = some (cFstate, u.frameInfo p n k) →
        faults cFstate (why n k) := fun n k hn hk hc => hfaults _ _ _ hc (frameInfo_eq u hn hk)
    have hlegal : e.fieldsOk = true ↔ legal := fieldsOk_iff (e := e) (fl := fl) rfl
    refine ⟨fun hl => ?_, fun hl ht => ?_, fun hl ht before n after hs hb hn => ?_,
      fun hl ht hs before n after hp hb hn => ?_⟩
    · exact hfstate _ _ f.isLt (by decide) (checkFault_fields (Bool.eq_false_iff.2 (mt hlegal.1 hl)))
    · exact hfstate _ _ f.isLt (by decide) (checkFault_twice (hlegal.2 hl) ht)
    · have hmem : n ∈ e.needs := (show e.needs = _ from hs) ▸ List.mem_append_right _ List.mem_cons_self
      exact hfstate _ _ (needs_lt f.isLt n hmem) (by split <;> decide) (checkFault_state (hlegal.2 hl) ht hs hb hn)
    · exact hfaults _ _ _ (checkFault_place (hlegal.2 hl) ht hs hp hb hn) (faddr_eq n.1 n.2.1)
end Sys2Proof.Machine
end

section
/-! PROOFS. The packets of the user queues (O39): the report of a new mark writes memory. -/

namespace Sys2Proof.Machine

/-- The part reports under ELOG to a ring at address 0 with room, and queue 0 of stack 0 holds a NOPKT that stack 0's
event is of. -/
def reportingPackage : State :=
  ({ State.reset with fnmode := 8 } : State).onQueue 0 0 fun x =>
    { x with packets := [⟨0, [], none, false, false, false, 0⟩] }

theorem reportingPackage_packet :
    (reportingPackage.queue 0 0).packet? 0 = some ⟨0, [], none, false, false, false, 0⟩ := by
  decide

/-- A mark new to the package's memory is reported: its entry goes into the ring, which is memory (R392, R393). -/
theorem markMem_writes_ring : (reportingPackage.markMem 64).mem.head? = some (0, 4) := by
  decide

/-- Refutes O39: a mark that a copy makes is posted to the housekeeping ring, which changes memory, and the statement
asks that a mark leave memory as it was. -/
theorem not_packetEvents : ¬ Obligations.PacketEvents := by
  unfold Obligations.PacketEvents
  intro h
  obtain ⟨-, -, -, -, -, -, -, hmark⟩ := h reportingPackage _ reportingPackage_packet
  obtain ⟨-, hmem, -⟩ := hmark 64
  have hempty : (reportingPackage.markMem 64).mem.head? = none := congrArg List.head? hmem
  rw [markMem_writes_ring] at hempty
  cases hempty
end Sys2Proof.Machine
end

section
/-! PROOFS. From a packet to the walker and to a placed iteration (O40, R29, R34, R60, R65, R71-R74). -/

namespace Sys2Proof.Machine

/-! ### A LAUNCH -/

section
variable {s t u : State} {st job pa : Nat} {bs : List Byte} {k : Packet}

/-- A record whose job control block lies on a writable SO page of device memory (R34). -/
theorem recordJcb_some (ha : addressOk (fieldAt bs 0x20 8, 64) = true)
    (h : s.soAddress st job (fieldAt bs 0x20 8) true = (t, some pa)) (hd : t.isDevice pa = true) :
    s.recordJcb st job bs = (t, some pa) := by
  simp [State.recordJcb, ha, h, Option.filter, hd]

/-- The record that a LAUNCH names: kept with the packet, or read now. -/
def State.recordRead (s : State) (st job : Nat) (k : Packet) (t : State) (bs : List Byte) : Prop :=
  (k.object = some bs ∧ t = s) ∨ (k.object = none ∧ s.readVirt st job (fieldAt k.bytes 8 8) 128 = (t, some bs))

theorem readObject_launch (htype : typeOf k.bytes ≠ 3) (hread : s.recordRead st job k t bs)
    (hj : t.recordJcb st job bs = (u, some pa)) : s.readObject st job k = (u, .ok bs) := by
  rcases hread with ⟨ho, rfl⟩ | ⟨ho, hr⟩
  · simp [State.readObject, ho, htype, hj]
  · simp [State.readObject, ho, htype, hr, hj]

/-- A LAUNCH whose record is read and whose job control block can be used, read again for the checks. -/
structure State.launchRead (s : State) (k : Packet) (t u : State) (jcb : Nat) (bs : List Byte) : Prop where
  packet : s.thePacket = some k
  object : s.readObject s.who.st (s.queue s.who.st s.who.q).job k = (t, .ok bs)
  block : t.recordJcb s.who.st (s.queue s.who.st s.who.q).job bs = (u, some jcb)

variable {jcb : Nat} {v : State}

theorem execLaunch_accepts (h : s.launchRead k t u jcb bs) {snap : Snapshot}
    (hc : u.checkRecord s.who.st (s.queue s.who.st s.who.q).job (bits (u.queue s.who.st s.who.q).qcfg 8 4) bs =
      (v, .ok snap)) (h0 : 0 < recTotal bs) : exec .launch s = .next (({ v with
        launches := v.launches ++ [v.newLaunch s.who.st s.who.q k.idx (s.queue s.who.st s.who.q).job bs jcb snap]
        nextLaunch := v.nextLaunch + 1 } : State).packetStarts s.who.st s.who.q k.idx) := by
  show execLaunch s = _
  simp only [execLaunch, State.withPacket, h.packet, h.object, h.block, hc, if_neg (Nat.pos_iff_ne_zero.1 h0)]

theorem execLaunch_rejects (h : s.launchRead k t u jcb bs) {n : Nat}
    (hc : u.checkRecord s.who.st (s.queue s.who.st s.who.q).job (bits (u.queue s.who.st s.who.q).qcfg 8 4) bs =
      (v, .error n)) :
    exec .launch s = .next ((v.report jcb (.reject n)).packetRuns s.who.st s.who.q k.idx) := by
  show execLaunch s = _
  simp only [execLaunch, State.withPacket, h.packet, h.object, h.block, hc]
end

/-- What holds a step on a job control block (R286). -/
theorem rejectWaits_iff (u : State) (a n : Nat) : u.reportWaits u.standing a (.reject n) = true ↔
    u.refreshing a = true ∨ ∃ x ∈ u.standing, x.meets (u.canonPa a) 64 = true := by
  rw [State.reportWaits, State.behind, Bool.or_eq_true, List.any_eq_true]
  rfl

/-! ### The choice among the queues -/

theorem roundRobin_one (q last : Nat) : roundRobin [q] last = some q := by
  unfold roundRobin
  cases h : [q].find? fun q => last < q with
  | none => rfl
  | some x => rw [List.mem_singleton.1 (List.mem_of_find?_eq_some h)]; rfl

/-- One queue ready, at its level below 4, is the one chosen (R60). -/
theorem chooseQueue_one {level : Nat → Nat} {last : List Nat} {r : Nat} (h : level r < 4) :
    chooseQueue level last [r] = some (level r, r) := by
  have atLevel : ∀ lv, (roundRobin ([r].filter fun q => level q = lv) (last.getD lv 0)).map (fun q => (lv, q)) =
      if level r = lv then some (lv, r) else none := fun lv => by
    by_cases hlv : level r = lv
    · simp only [List.filter, hlv, decide_true, roundRobin_one, Option.map_some, if_true]
    · simp only [List.filter, hlv, decide_false, if_false]
      rfl
  simp only [chooseQueue, atLevel]
  generalize level r = n at h ⊢
  interval_cases n <;> rfl

theorem execPacketChoice_one {s : State} {r : Nat} (hup : s.who.up = false)
    (hr : (s.noteReady s.who.st).readyQueues s.who.st = [r]) :
    let u := s.noteReady s.who.st
    let x := u.queue s.who.st r
    x.aged = true ∨ s.time ≤ x.waitStart + 200000 → x.level < 4 →
    exec .packetChoice s = .next (((u.onStack s.who.st fun k =>
      { k with lastQ := upd k.lastQ x.level fun _ => r }).onQueue
      s.who.st r fun x => { x with aged := false, waitStart := s.time }).takePacket s.who.st r) := by
  intro u x hage hlevel
  have hkeep : (!x.aged && decide (x.waitStart + 200000 < s.time)) = false := by
    rcases hage with h | h
    · simp [h]
    · simp [Nat.not_lt.2 h]
  have hfold : [r].foldl (fun v q =>
      if !(v.queue s.who.st q).aged && decide ((v.queue s.who.st q).waitStart + 200000 < v.time)
      then v.onQueue s.who.st q fun x => { x with aged := true } else v) u = u := by
    show (if (!x.aged && decide (x.waitStart + 200000 < s.time)) = true then _ else u) = u
    rw [hkeep]
    rfl
  show execPacketChoice s = _
  simp only [execPacketChoice, hup, Bool.false_eq_true, if_false, hr]
  rw [hfold]
  rw [chooseQueue_one (level := fun q => (u.queue s.who.st q).level) hlevel]
  rfl

/-- A queue found ready takes the time it became so (R60). -/
theorem noteReady_queue {s : State} {st r : Nat} (hst : st < s.stks.length) (hq : r < (s.stack st).queues.length)
    (hr : r ∈ s.readyQueues st) : (s.noteReady st).queue st r =
      if (s.queue st r).ready then s.queue st r else { s.queue st r with ready := true, waitStart := s.time } := by
  have hc : (s.readyQueues st).contains r = true := List.contains_iff_mem.2 hr
  rw [State.queue, State.noteReady, onStack_self s st _ hst, List.getD_eq_getElem?_getD, List.getElem?_mapIdx,
    List.getElem?_eq_getElem hq]
  rw [show s.queue st r = (s.stack st).queues[r] from List.getD_eq_getElem _ _ hq]
  simp only [Option.map_some, Option.getD_some, hc]
  cases ((s.stack st).queues[r]).ready <;> simp

/-- A granule of the next packet's slot is read (R65). -/
theorem execPacketChoice_granule {s t : State} {bs : List Byte} (hup : s.who.up = true)
    (hk : s.who.k ∈ (s.queue s.who.st s.who.q).unread)
    (hr : s.readVirt s.who.st (s.queue s.who.st s.who.q).job
      ((s.queue s.who.st s.who.q).slotAt (s.queue s.who.st s.who.q).next + 8 * s.who.k) 8 = (t, some bs)) :
    exec .packetChoice s = .next (t.onQueue s.who.st s.who.q fun x =>
      { x with slot := x.slot ++ [(s.who.k, bs)] }) := by
  show execPacketChoice s = _
  simp [execPacketChoice, hup, State.readGranule, hk, hr]

/-! ### Placing -/

theorem execPlaceIteration_next {s : State} {id : Nat} {ms : List (Nat × Nat)} {l : Launch}
    (hp : s.nextPlacement s.who.st = some (id, ms)) (hl : s.launch? id = some l) : exec .placeIteration s =
      .next (((ms.map fun m => (m, (s.f0Check l m.1).join)).foldl
        (fun u x => u.placeNext id s.who.st x.1 x.2) s).onStack
        s.who.st fun k => { k with lastPlace := some (s.pillar (32 * s.who.st)).ic }) := by
  show execPlaceIteration s = _
  simp only [execPlaceIteration, hp, hl, Option.bind_some]

section
variable {s : State} {l : Launch} {p : Nat}

/-- f0 with the launch's own block is placed on as it is (R74). -/
theorem f0Check_own (hr : (s.frame p 0).state = .ready) (ho : (s.pillar p).f0Launch = some l.id) :
    s.f0Check l p = some none := by
  simp only [State.f0Check, hr, ho, and_self, if_true]

/-- Another f0 is refilled once no iteration of another launch runs there, an EMPTY one when there is room (R74). -/
theorem f0Check_other (ho : ¬ ((s.frame p 0).state = .ready ∧ (s.pillar p).f0Launch = some l.id))
    (h : (s.frame p 0).state = .ready ∨ (s.frame p 0).state = .empty) : s.f0Check l p =
      if s.othersRun l.id p then none
      else if (s.frame p 0).state = .empty ∧ 4096 ≤ (s.pillar p).unitsUsed then some (some 3) else some none := by
  rcases h with h | h <;> simp only [State.f0Check, h] at ho ⊢ <;> rw [if_neg ho]

/-- The walker waits for a FILLING or DRAINING f0, for at most WDL (R74). -/
theorem f0Check_waits (h : (s.frame p 0).state = .filling ∨ (s.frame p 0).state = .draining) {t : Nat}
    (ht : (s.pillar p).f0Wait = some t) : s.f0Check l p =
      if t + (s.stack (stackOf p)).wdl < s.time then some (some 4) else none := by
  rcases h with h | h <;> simp [State.f0Check, h, ht]
end

theorem place_named (x : Seq) (l : Launch) (p t : Nat) (f : Option Nat) : (x.place l p t f).named =
    List.replicate 9 0 ++ (List.range 6).map (fun i => indexValue l.levels t i) ++ [0] := rfl

/-- s0 to s8 are 0 in an iteration's first long word (R73). -/
theorem place_named_zero (x : Seq) (l : Launch) (p t : Nat) (f : Option Nat) {i : Nat} (h : i < 9) :
    at0 (x.place l p t f).named i = 0 := by
  rw [place_named]
  interval_cases i <;> rfl

/-- s9 + L is the index of level L (R29, R73). -/
theorem place_named_index (x : Seq) (l : Launch) (p t : Nat) (f : Option Nat) {i : Nat} (h : i < 6) :
    at0 (x.place l p t f).named (9 + i) = indexValue l.levels t i := by
  rw [place_named]
  interval_cases i <;> rfl

/-- What a sequencer's entry into a launch leaves of it (R73). -/
theorem enterLaunch_keeps {α : Type} (π : Seq → α) (hπ : ∀ x d l a b c f,
    π { x with domains := d, lastLaunch := l, ax1 := a, syncs := b, axes := c, fts := f } = π x)
    (x : Seq) (l : Launch) :
    π (x.enterLaunch l) = π x := by
  unfold Seq.enterLaunch
  split
  · rfl
  · exact hπ ..
end Sys2Proof.Machine
end

section
/-! PROOFS. A stack cleared for another job (O40, R75, R301, R316, R323): each of its pillars once, whatever the
order. -/

namespace Sys2Proof.Machine

/-- One pillar cleared for another job, as clearing its stack clears it. -/
def State.clearPillar (s : State) (p : Nat) : State :=
  (((s.onPillar p Pillar.cleared).refillPools p).disown 3 p fun _ => true).wake p

theorem clearStack_eq (s : State) (st : Nat) : s.clearStack st =
    ((pillarsOf st).foldl State.clearPillar s).onStack st fun k => { k with
      handles := [], tlb := k.tlb.filter fun t => some t.job ≠ k.job, cleared := true } := rfl

/-- A pillar without its sequencers. -/
def Pillar.apart (P : Pillar) : Pillar := { P with seqs := [] }

/-- A sequencer without its event latch. -/
def Seq.asleep (x : Seq) : Seq := { x with latch := false }

theorem foldl_add_zero {l : List Nat} (h : ∀ n ∈ l, n = 0) : l.foldl (· + ·) 0 = 0 := by
  induction l with
  | nil => rfl
  | cons n l ih =>
    rw [List.foldl_cons, h n List.mem_cons_self]
    exact ih fun m hm => h m (List.mem_cons_of_mem _ hm)

/-- No message of a stack's sequencers is on its way to a pillar. -/
theorem msendsTo_zero {s : State} {st : Nat} (p : Nat)
    (h : ∀ m ∈ seqsOf st, ∀ r ∈ (s.seq m.1 m.2).recs, ∀ n c v, r.op ≠ .msend n c v) : s.msendsTo p st = 0 := by
  refine foldl_add_zero fun n hn => ?_
  obtain ⟨m, hm, rfl⟩ := List.mem_map.1 hn
  refine List.length_eq_zero_iff.2 (List.filter_eq_nil_iff.2 fun r hr => ?_)
  cases hop : r.op with
  | msend n c v => exact absurd hop (h m hm r hr n c v)
  | _ => simp

theorem seqsOf_subset {st : Nat} (h : st < 4) : ∀ m ∈ seqsOf st, m ∈ allSeqs := by
  intro m hm
  obtain ⟨p, hp, hq⟩ := List.mem_flatMap.1 hm
  obtain ⟨i, hi, rfl⟩ := List.mem_map.1 hp
  have hi' : i < 32 := List.mem_range.1 hi
  exact List.mem_flatMap.2 ⟨32 * st + i, List.mem_range.2 (by omega), hq⟩

section
variable {s : State} {p : Nat}

@[simp] theorem clearPillar_mem : (s.clearPillar p).mem = s.mem := rfl
@[simp] theorem clearPillar_stks : (s.clearPillar p).stks = s.stks := rfl

@[simp] theorem clearPillar_length : (s.clearPillar p).pillars.length = s.pillars.length := by
  simp [State.clearPillar, State.wake, State.wakeSeq, State.refillPools]

theorem onSeq_apart (s : State) (p q : Nat) (f : Seq → Seq) (p' : Nat) :
    ((s.onSeq p q f).pillar p').apart = (s.pillar p').apart :=
  onPillar_keeps s p Pillar.apart (fun _ => by rfl) p'

theorem wake_apart (s : State) (p p' : Nat) : ((s.wake p).pillar p').apart = (s.pillar p').apart := by
  rw [State.wake, State.wakeSeq, State.wakeSeq, onSeq_apart, onSeq_apart]

theorem clearPillar_other {p' : Nat} (h : p' ≠ p) : (s.clearPillar p).pillar p' = s.pillar p' := by
  rw [State.clearPillar, State.wake, State.wakeSeq, State.wakeSeq, onSeq_pillar_ne _ _ _ _ _ h,
    onSeq_pillar_ne _ _ _ _ _ h]
  show ((({ s.onPillar p Pillar.cleared with
    credits := s.credits.filter fun c => c.1 ≠ p } : State).onPillar p _).pillar p') = _
  rw [onPillar_ne _ _ _ _ h]
  exact onPillar_ne s p p' Pillar.cleared h

/-- The pillar before its sequencers are woken. -/
theorem refilled_pillar (hp : p < s.pillars.length) :
    ((((s.onPillar p Pillar.cleared).refillPools p).disown 3 p fun _ => true).pillar p) =
      { (s.pillar p).cleared with
        pools := (List.range 4).map fun st => 16 - (s.onPillar p Pillar.cleared).msendsTo p st } := by
  show ((({ s.onPillar p Pillar.cleared with
    credits := s.credits.filter fun c => c.1 ≠ p } : State).onPillar p _).pillar p) = _
  rw [onPillar_self _ _ _ (by simpa using hp)]
  rw [show ({ s.onPillar p Pillar.cleared with credits := s.credits.filter fun c => c.1 ≠ p } : State).pillar p =
    (s.pillar p).cleared from onPillar_self s p Pillar.cleared hp]

theorem clearPillar_apart (hp : p < s.pillars.length) : ((s.clearPillar p).pillar p).apart =
    ({ (s.pillar p).cleared with
      pools := (List.range 4).map fun st => 16 - (s.onPillar p Pillar.cleared).msendsTo p st } : Pillar).apart := by
  rw [State.clearPillar, wake_apart, refilled_pillar hp]

theorem clearPillar_seq (hp : p < s.pillars.length) {q : Nat} (hq : q < (s.pillar p).seqs.length) :
    ((s.clearPillar p).seq p q).asleep = (s.seq p q).cleared.asleep := by
  rw [State.clearPillar, wake_keeps _ p Seq.asleep (fun _ _ => rfl), State.seq, refilled_pillar hp]
  congr 1
  show ((s.pillar p).seqs.map Seq.cleared).getD q Seq.reset = _
  rw [State.seq, List.getD_eq_getElem _ _ hq, List.getD_eq_getElem _ _ (by simpa using hq), List.getElem_map]

/-- A sequencer's records among those of its pillar. -/
theorem seq_recs (s : State) (p q : Nat) : (s.seq p q).recs = ((s.pillar p).seqs.map Seq.recs).getD q [] :=
  (List.getD_map (f := Seq.recs) ..).symm

/-- A change of a pillar that leaves its sequencers' records leaves every sequencer's. -/
theorem onPillar_recs {f : Pillar → Pillar} (hf : ∀ P, (f P).seqs.map Seq.recs = P.seqs.map Seq.recs) (p' q' : Nat) :
    ((s.onPillar p f).seq p' q').recs = (s.seq p' q').recs := by
  rw [seq_recs, seq_recs, onPillar_keeps s p (fun P => P.seqs.map Seq.recs) hf p']

theorem cleared_recs (P : Pillar) : P.cleared.seqs.map Seq.recs = P.seqs.map Seq.recs := by
  show (P.seqs.map Seq.cleared).map Seq.recs = _
  rw [List.map_map]
  rfl

/-- Clearing leaves every sequencer's records. -/
theorem clearPillar_recs (p' q' : Nat) : ((s.clearPillar p).seq p' q').recs = (s.seq p' q').recs := by
  rw [State.clearPillar, wake_keeps _ p Seq.recs (fun _ _ => rfl)]
  exact (onPillar_recs (s := { s.onPillar p Pillar.cleared with credits := s.credits.filter fun c => c.1 ≠ p })
    (fun _ => by rfl) p' q').trans (onPillar_recs cleared_recs p' q')
end

/-- Of pillars cleared one after another each is cleared once, from the state it had. -/
theorem foldl_clearPillar {ps : List Nat} (hn : ps.Nodup) {p : Nat} (hp : p ∈ ps) (s : State) :
    ∃ u : State, u.pillar p = s.pillar p ∧ u.pillars.length = s.pillars.length ∧
      (∀ p' q', (u.seq p' q').recs = (s.seq p' q').recs) ∧
      (ps.foldl State.clearPillar s).pillar p = (u.clearPillar p).pillar p := by
  have others : ∀ (qs : List Nat) (v : State), p ∉ qs → (qs.foldl State.clearPillar v).pillar p = v.pillar p := by
    intro qs
    induction qs with
    | nil => exact fun _ _ => rfl
    | cons q qs ih =>
      intro v h
      rw [List.mem_cons, not_or] at h
      rw [List.foldl_cons, ih _ h.2, clearPillar_other h.1]
  induction ps generalizing s with
  | nil => cases hp
  | cons q qs ih =>
    obtain ⟨hq, hqs⟩ := List.nodup_cons.1 hn
    by_cases e : p = q
    · subst e
      exact ⟨s, rfl, rfl, fun _ _ => rfl, others qs _ hq⟩
    · obtain ⟨u, h1, h2, h3, h4⟩ := ih hqs ((List.mem_cons.1 hp).resolve_left e) (s.clearPillar q)
      exact ⟨u, h1.trans (clearPillar_other e), h2.trans clearPillar_length,
        fun p' q' => (h3 p' q').trans (clearPillar_recs p' q'), h4⟩

theorem foldl_clearPillar_same (ps : List Nat) (s : State) :
    (ps.foldl State.clearPillar s).mem = s.mem ∧ (ps.foldl State.clearPillar s).stks = s.stks := by
  induction ps generalizing s with
  | nil => exact ⟨rfl, rfl⟩
  | cons q qs ih => exact ih _

theorem pillarsOf_nodup (st : Nat) : (pillarsOf st).Nodup :=
  (List.nodup_range (n := 32)).map fun _ _ h => Nat.add_left_cancel h

/-- With no message on its way every pool of a cleared pillar has its 16 credits. -/
theorem cleared_pools {s : State} (p : Nat)
    (hm : ∀ m ∈ allSeqs, ∀ r ∈ (s.seq m.1 m.2).recs, ∀ n c v, r.op ≠ .msend n c v) :
    (List.range 4).map (fun st => 16 - (s.onPillar p Pillar.cleared).msendsTo p st) = [16, 16, 16, 16] := by
  have hzero : ∀ st < 4, (s.onPillar p Pillar.cleared).msendsTo p st = 0 := fun st hst =>
    msendsTo_zero p fun m hmem => by
      rw [onPillar_recs cleared_recs]
      exact hm m (seqsOf_subset hst m hmem)
  simp [List.range, List.range.loop, hzero]

/-- A pillar of a stack that is cleared: what it shares, by the pillar it was and its credits, and each sequencer. -/
theorem clearStack_pillar {s : State} {st p : Nat} (hp : p ∈ pillarsOf st) (hl : p < s.pillars.length) :
    (∃ pools, ((s.clearStack st).pillar p).apart = ({ (s.pillar p).cleared with pools := pools } : Pillar).apart ∧
      ((∀ m ∈ allSeqs, ∀ r ∈ (s.seq m.1 m.2).recs, ∀ n c v, r.op ≠ .msend n c v) → pools = [16, 16, 16, 16])) ∧
    ∀ q < (s.pillar p).seqs.length, ((s.clearStack st).seq p q).asleep = (s.seq p q).cleared.asleep := by
  obtain ⟨u, hpillar, hlen, hrecs, hfold⟩ := foldl_clearPillar (pillarsOf_nodup st) hp s
  have hu : p < u.pillars.length := by rw [hlen]; exact hl
  have hcleared : (s.clearStack st).pillar p = (u.clearPillar p).pillar p := by
    rw [clearStack_eq, onStack_pillar, hfold]
  refine ⟨⟨(List.range 4).map fun st => 16 - (u.onPillar p Pillar.cleared).msendsTo p st, ?_, fun hm => ?_⟩,
    fun q hq => ?_⟩
  · rw [hcleared, clearPillar_apart hu, hpillar]
  · refine cleared_pools p fun m hmem => ?_
    rw [hrecs]
    exact hm m hmem
  · have hseq := clearPillar_seq (s := u) (q := q) hu (by rw [hpillar]; exact hq)
    rw [State.seq, hcleared, ← State.seq, hseq, State.seq, hpillar, State.seq]
end Sys2Proof.Machine
end

section
/-! PROOFS. The indices of a launch of two levels (O40, R29): the level whose ORD is the greatest varies fastest. -/

namespace Sys2Proof.Machine
variable {t lv c0 c1 : Nat} {s0 s1 d0 d1 : Int}

/-- Level 1 innermost: it counts within level 0. -/
theorem indices_inner : indices [(0, s0, c0, d0, 0), (1, s1, c1, d1, 1)] t = [(1, t % c1), (0, t / c1 % c0)] := rfl

/-- Level 0 innermost: it counts within level 1. -/
theorem indices_outer : indices [(0, s0, c0, d0, 1), (1, s1, c1, d1, 0)] t = [(0, t % c0), (1, t / c0 % c1)] := rfl

/-- A level that no part of the grid names has the index 0. -/
theorem indexValue_none {levels : List (Nat × Int × Nat × Int × Nat)} (h : ∀ l ∈ levels, l.1 ≠ lv) :
    indexValue levels t lv = 0 := by
  have hfind : levels.find? (fun l => l.1 = lv) = none :=
    List.find?_eq_none.2 fun l hl => by simpa using h l hl
  rw [indexValue, hfind]

theorem indexValue_inner {i0 i1 : Nat} (h0 : i0 < c0) (h1 : i1 < c1) :
    let inner := [(0, s0, c0, d0, 0), (1, s1, c1, d1, 1)]
    indexValue inner (i0 * c1 + i1) 0 = ofInt64 (s0 + i0 * d0) ∧
    indexValue inner (i0 * c1 + i1) 1 = ofInt64 (s1 + i1 * d1) := by
  have hslow : (i0 * c1 + i1) / c1 % c0 = i0 := by
    rw [Nat.mul_comm, Nat.mul_add_div (by omega), Nat.div_eq_of_lt h1, Nat.add_zero, Nat.mod_eq_of_lt h0]
  have hfast : (i0 * c1 + i1) % c1 = i1 := by rw [Nat.mul_add_mod_self_right, Nat.mod_eq_of_lt h1]
  constructor
  · show ofInt64 (s0 + ((i0 * c1 + i1) / c1 % c0 : Nat) * d0) = _
    rw [hslow]
  · show ofInt64 (s1 + ((i0 * c1 + i1) % c1 : Nat) * d1) = _
    rw [hfast]

theorem indexValue_outer {i0 i1 : Nat} (h0 : i0 < c0) (h1 : i1 < c1) :
    let outer := [(0, s0, c0, d0, 1), (1, s1, c1, d1, 0)]
    indexValue outer (i1 * c0 + i0) 0 = ofInt64 (s0 + i0 * d0) ∧
    indexValue outer (i1 * c0 + i0) 1 = ofInt64 (s1 + i1 * d1) := by
  have hslow : (i1 * c0 + i0) / c0 % c1 = i1 := by
    rw [Nat.mul_comm, Nat.mul_add_div (by omega), Nat.div_eq_of_lt h0, Nat.add_zero, Nat.mod_eq_of_lt h1]
  have hfast : (i1 * c0 + i0) % c0 = i0 := by rw [Nat.mul_add_mod_self_right, Nat.mod_eq_of_lt h0]
  constructor
  · show ofInt64 (s0 + ((i1 * c0 + i0) % c0 : Nat) * d0) = _
    rw [hfast]
  · show ofInt64 (s1 + ((i1 * c0 + i0) / c0 % c1 : Nat) * d1) = _
    rw [hslow]
end Sys2Proof.Machine
end

section
/-! PROOFS. From a packet to a running iteration, and its indices: O40 from the lemmas above. -/

namespace Sys2Proof.Machine
variable {s : State}

/-- A LAUNCH read up to its job control block, a writable SO page of device memory (R34, R61). -/
theorem launchRead_of {k : Packet} {bs : List Byte} {t0 t u : State} {pa jcb : Nat} (hk : s.thePacket = some k)
    (htype : typeOf k.bytes ≠ 3) (hread : s.recordRead s.who.st (s.queue s.who.st s.who.q).job k t0 bs)
    (ha : addressOk (fieldAt bs 0x20 8, 64) = true)
    (ht : t0.soAddress s.who.st (s.queue s.who.st s.who.q).job (fieldAt bs 0x20 8) true = (t, some pa))
    (hpa : t.isDevice pa = true)
    (hu : t.soAddress s.who.st (s.queue s.who.st s.who.q).job (fieldAt bs 0x20 8) true = (u, some jcb))
    (hjcb : u.isDevice jcb = true) : s.launchRead k t u jcb bs where
  packet := hk
  object := readObject_launch htype hread (recordJcb_some ha ht hpa)
  block := recordJcb_some ha hu hjcb

/-- A rejection is reported at once, or kept standing while its block's HBM stack or bytes are held (R286). -/
theorem report_reject (u : State) (a n : Nat) :
    let waits := u.refreshing a = true ∨ ∃ x ∈ u.standing, x.meets (u.canonPa a) 64 = true
    (¬ waits → u.report a (.reject n) = u.jcbStep a fun j => j.reject n) ∧
    (waits → u.report a (.reject n) = { u with standing := u.standing ++ [.report (u.canonPa a) (.reject n)] }) :=
  ⟨fun h => if_neg fun h' => h ((rejectWaits_iff u a n).1 h'), fun h => if_pos ((rejectWaits_iff u a n).2 h)⟩

/-- f0 when the launch does not own it, or while it is FILLING or DRAINING (R74). -/
theorem f0Check_cases (l : Launch) (p : Nat) :
    let F := s.frame p 0
    let own := F.state = .ready ∧ (s.pillar p).f0Launch = some l.id
    (own → s.f0Check l p = some none) ∧
    (¬ own → F.state = .ready ∨ F.state = .empty → s.f0Check l p =
      if s.othersRun l.id p then none
      else if F.state = .empty ∧ 4096 ≤ (s.pillar p).unitsUsed then some (some 3) else some none) ∧
    (F.state = .filling ∨ F.state = .draining → ∀ t, (s.pillar p).f0Wait = some t → s.f0Check l p =
      if t + (s.stack (stackOf p)).wdl < s.time then some (some 4) else none) :=
  ⟨fun h => f0Check_own h.1 h.2, f0Check_other, fun h _ ht => f0Check_waits h ht⟩

/-- A field that neither a sequencer's entry into a launch nor the start of an iteration writes (R73). -/
theorem place_vregs (x : Seq) (l : Launch) (p t : Nat) (f : Option Nat) : (x.place l p t f).vregs = x.vregs :=
  enterLaunch_keeps Seq.vregs (fun _ _ _ _ _ _ _ => rfl) x l

theorem place_accs (x : Seq) (l : Launch) (p t : Nat) (f : Option Nat) : (x.place l p t f).accs = x.accs :=
  enterLaunch_keeps Seq.accs (fun _ _ _ _ _ _ _ => rfl) x l

theorem place_bnds (x : Seq) (l : Launch) (p t : Nat) (f : Option Nat) : (x.place l p t f).bnds = x.bnds :=
  enterLaunch_keeps Seq.bnds (fun _ _ _ _ _ _ _ => rfl) x l

theorem place_tvec (x : Seq) (l : Launch) (p t : Nat) (f : Option Nat) : (x.place l p t f).tvec = x.tvec :=
  enterLaunch_keeps Seq.tvec (fun _ _ _ _ _ _ _ => rfl) x l

/-- A clear leaves the memory (R75). -/
theorem clearStack_mem (st : Nat) : (s.clearStack st).mem = s.mem := by
  rw [clearStack_eq, onStack_mem, (foldl_clearPillar_same (pillarsOf st) s).1]

theorem clearStack_stks_length (st : Nat) : (s.clearStack st).stks.length = s.stks.length := by
  rw [clearStack_eq, onStack_length, (foldl_clearPillar_same (pillarsOf st) s).2]

/-- A cleared stack has no handle (R75). -/
theorem clearStack_handles {st : Nat} (h : st < s.stks.length) : ((s.clearStack st).stack st).handles = [] := by
  rw [clearStack_eq, onStack_self _ _ _ (by rw [(foldl_clearPillar_same _ s).2]; exact h)]

/-- A stack cleared for a job is that job's (R75). -/
theorem cleared_stack {st : Nat} (job : Nat) (h : st < s.stks.length) :
    let t := (s.clearStack st).onStack st fun k => { k with job := some job }
    (t.stack st).job = some job ∧ (t.stack st).handles = [] := by
  intro t
  have hst : t.stack st = { (s.clearStack st).stack st with job := some job } :=
    onStack_self _ _ _ (by rw [clearStack_stks_length]; exact h)
  rw [hst]
  exact ⟨rfl, clearStack_handles h⟩

/-- A sequencer of a cleared stack: its vector and cube state is 0 (R75). -/
theorem cleared_seq {x y : Seq} (h : y.asleep = x.cleared.asleep) :
    y.vregs = List.replicate 32 (vfill 0) ∧ y.vpreds = List.replicate 8 pZero ∧
    y.dirs = List.replicate 8 (List.replicate 1024 0) ∧ y.norms = List.replicate 8 (List.replicate 16 0) ∧
    y.geos = List.replicate 8 0 ∧ y.bnds = List.replicate 8 0 ∧ ∀ a ∈ y.accs, a = Acc.zero := by
  have haccs : y.accs = x.accs.map fun _ => Acc.zero := congrArg Seq.accs h
  refine ⟨congrArg Seq.vregs h, congrArg Seq.vpreds h, congrArg Seq.dirs h, congrArg Seq.norms h,
    congrArg Seq.geos h, congrArg Seq.bnds h, fun a ha => ?_⟩
  rw [haccs] at ha
  obtain ⟨_, _, rfl⟩ := List.mem_map.1 ha
  rfl

/-- What the sequencers of a cleared pillar share, in their first state (R75, R301, R316, R323). -/
theorem cleared_pillar {P Q : Pillar} {pools : List Nat}
    (h : P.apart = ({ Q.cleared with pools := pools } : Pillar).apart) :
    P.frames = List.replicate 64 Frame.cleared ∧ P.flags = List.replicate 32 0 ∧ P.mq = [] ∧ P.chainQ = [] ∧
    P.trays = List.replicate 4 [] ∧ P.bslots = List.replicate 4 (List.replicate 32 BSlot.zero) ∧ P.icache = [] ∧
    P.newPosts = [] ∧ P.rowBad = List.replicate 32 0 :=
  ⟨congrArg Pillar.frames h, congrArg Pillar.flags h, congrArg Pillar.mq h, congrArg Pillar.chainQ h,
    congrArg Pillar.trays h, congrArg Pillar.bslots h, congrArg Pillar.icache h, congrArg Pillar.newPosts h,
    congrArg Pillar.rowBad h⟩

/-- Settles O40: a LAUNCH by its record's checks, the choice by the one ready queue, a placement field by field, a
clear pillar by pillar, and the indices by division. -/
theorem launchAndIndices : Obligations.LaunchAndIndices := by
  refine ⟨fun s => ⟨?launch, report_reject, ?granule, ?choice, ?ready, ?placement, f0Check_cases, ?place, ?clear⟩,
    ?indices⟩
  case launch =>
    intro k bs t0 t u pa jcb hk htype hread ha ht hpa hu hjcb
    have h := launchRead_of hk htype hread ha ht hpa hu hjcb
    exact ⟨fun _ _ hc h0 => execLaunch_accepts h hc h0, fun _ _ hc => execLaunch_rejects h hc⟩
  case granule => exact fun hup hk _ _ hr => execPacketChoice_granule hup hk hr
  case choice => exact fun hup _ hr => execPacketChoice_one hup hr
  case ready => exact fun _ hst hq hr => noteReady_queue hst hq hr
  case placement => exact fun _ _ _ hp hl => execPlaceIteration_next hp hl
  case place =>
    intro x l p t f
    exact ⟨rfl, rfl, rfl, rfl, rfl, rfl, rfl, rfl, rfl, rfl, rfl, rfl, rfl, rfl, rfl,
      fun _ => place_named_zero x l p t f, fun _ => place_named_index x l p t f,
      place_vregs x l p t f, place_accs x l p t f, place_bnds x l p t f, place_tvec x l p t f⟩
  case clear =>
    refine ⟨_, rfl, rfl, (onStack_mem ..).trans (clearStack_mem _), cleared_stack _, fun p hp hl => ?_⟩
    obtain ⟨⟨pools, hshared, hpools⟩, hseqs⟩ := clearStack_pillar hp hl
    -- With the cleared state opaque no step below unfolds the fold over the stack's pillars.
    generalize s.clearStack s.who.st = cleared at hshared hseqs ⊢
    obtain ⟨hframes, hflags, hmq, hchain, htrays, hslots, hcache, hposts, hbad⟩ := cleared_pillar hshared
    refine ⟨hframes, hflags, hmq, hchain, htrays, hslots, hcache, hposts, hbad, fun hm => ?_,
      fun m hm => cleared_seq (hseqs m hm)⟩
    exact (congrArg Pillar.pools hshared).trans (hpools hm)
  case indices =>
    intro c0 c1 s0 s1 d0 d1 i0 i1 h0 h1
    obtain ⟨inner0, inner1⟩ := indexValue_inner (s0 := s0) (s1 := s1) (d0 := d0) (d1 := d1) h0 h1
    obtain ⟨outer0, outer1⟩ := indexValue_outer (s0 := s0) (s1 := s1) (d0 := d0) (d1 := d1) h0 h1
    refine ⟨inner0, inner1, outer0, outer1, fun lv hlv _ => indexValue_none ?_⟩
    simp only [List.forall_mem_cons, List.not_mem_nil, false_implies, implies_true, and_true]
    omega
end Sys2Proof.Machine
end

section
/-! PROOFS. The notify registers of a user queue (O41): SKIP of a WLOAD left part-way whose slot is to be read again. -/

namespace Sys2Proof.Machine

/-- A WLOAD of 32 bytes that has started; its source, address 0, lies on no page. -/
def unmappedWload : Packet :=
  ⟨0, [2] ++ List.replicate 23 0 ++ [32] ++ List.replicate 39 0, none, true, false, false, 0⟩

/-- That WLOAD under way in queue 0 of stack 0, with its place in the stack's order of WLOADs (R59). -/
def wloadUnderWay : State :=
  (State.reset.onStack 0 fun k => { k with wloads := [(0, 0)], hdmaLeft := 32 }).onQueue 0 0 fun x =>
    { x with en := true, state := .running, widx := 1, next := 1, packets := [unmappedWload] }

/-- The same after the fault (R62): the slot is to be read again, and the WLOAD keeps its place (R59, R64, log 71). -/
def wloadHalted : State := wloadUnderWay.haltBulk 0 0 unmappedWload 6

/-- The WLOAD's next piece finds its source unmapped, so the model itself comes to the halted state. -/
theorem execWload_wloadUnderWay : exec .wload wloadUnderWay = .next wloadHalted := rfl

/-- The queue has halted for packet 0, with a code that SKIP acts on (R64). -/
theorem wloadHalted_queue :
    (wloadHalted.queue 0 0).state = .halted ∧ (wloadHalted.queue 0 0).errc ≠ 10 ∧
    (wloadHalted.queue 0 0).fault = some 0 := by
  decide

/-- Stack 0's WLOADs chosen and not complete after a step. -/
def wloadsAfter : Outcome → List (Nat × Nat)
  | .next t => (t.stack 0).wloads
  | _ => []

/-- SKIP counts the WLOAD as completed, so its stack waits for it no more (R59, R64). -/
theorem wloadsAfter_skipPacket : wloadsAfter (exec .skipPacket wloadHalted) = [] := by
  decide

/-- Refutes O41: where the packet of the halt is no longer held, the statement takes nothing off the order of WLOADs,
but SKIP of a WLOAD whose slot is to be read again takes that WLOAD off it. -/
theorem not_queueEvents : ¬ Obligations.QueueEvents := by
  unfold Obligations.QueueEvents
  intro h
  obtain ⟨-, -, -, -, -, -, -, -, -, -, ⟨-, hhalted⟩, -⟩ := h wloadHalted
  obtain ⟨hstate, herrc, hfault⟩ := wloadHalted_queue
  obtain ⟨-, -, hskip⟩ := hhalted hstate herrc
  obtain ⟨-, habsent⟩ := hskip 0 hfault
  have hkept : wloadsAfter (exec .skipPacket wloadHalted) = [(0, 0)] := by
    rw [habsent (by decide)]
    decide
  rw [wloadsAfter_skipPacket] at hkept
  cases hkept
end Sys2Proof.Machine
end

section
/-! PROOFS. Sending and trays at issue (O36, R317-R325). -/

namespace Sys2Proof.Machine

/-! ### Messages, barriers and job control -/

/-- A pillar's address is a doubleword below 128 (R317). -/
theorem pillarTarget_iff (t : W64) : bits t 7 57 = 0 ↔ t.toNat < 128 := by
  have h := t.isLt
  simp only [bits, BitVec.extractLsb'_toNat, Nat.shiftRight_eq_div_pow]
  omega

section
variable {s : State} {g : Guard} {a b : BitVec 5}

theorem exec_msend (sc : BitVec 3) (h : s.enabled g [a, b]) : exec (.msend g a b sc) s =
    .next (let u := s.sourced [a, b]
      if bits (u.src a) 7 57 ≠ 0 then u.raise (cause cAddr (u.src a))
      else (u.onPillar (u.src a).toNat fun P => { P with pools := upd P.pools (stackOf u.cur.p) (· - 1) }).formRec
        (u.src a) (u.src b) (.msend (u.src a).toNat sc.toNat (u.src b))) := by
  show execMsend g a b sc s = _
  exact guarded_on s g [a, b] _ h

theorem exec_jpost (h : s.enabled g [a, b]) : exec (.jpost g a b) s =
    .next ((s.sourced [a, b]).formRec ((s.sourced [a, b]).src a) ((s.sourced [a, b]).src b) (.jcb false)) := by
  show execJpost g a b s = _
  exact guarded_on s g [a, b] _ h

theorem exec_jraise (h : s.enabled g [a, b]) : exec (.jraise g a b) s =
    .next ((s.sourced [a, b]).formRec ((s.sourced [a, b]).src a) ((s.sourced [a, b]).src b) (.jcb true)) := by
  show execJraise g a b s = _
  exact guarded_on s g [a, b] _ h

/-- A DSYNC is stopped by a failed gang latched (R314, R361). -/
theorem exec_dsync (l : BitVec 3) (h : s.enabled g []) : exec (.dsync g l) s =
    .next (if s.me.gang.isEmpty then
      (s.formRec 0 0 (.dsync l.toNat (s.me.syncs.getD (l.toNat - 1) 0))).onMe fun x => { x with
        syncing := some l.toNat
        axes := if l.toNat = 1 then x.ax1 :: x.axes else x.axes }
      else s.raise (cause cGang 0)) := by
  show execDsync g l s = _
  unfold execDsync State.gangSafe
  exact guarded_on s g [] _ h
end

/-! ### Trays -/

theorem deferTo_fits {P : Pillar} {tray : Nat} {items : List (List W32)}
    (h : (P.trays.getD tray []).length + items.length ≤ 4096) :
    P.deferTo tray items = some { P with trays := upd P.trays tray (· ++ items) } := if_neg (Nat.not_lt.2 h)

theorem deferTo_full {P : Pillar} {tray : Nat} {items : List (List W32)}
    (h : 4096 < (P.trays.getD tray []).length + items.length) : P.deferTo tray items = none := if_pos h

section
variable {s : State} {g : Guard} {v : BitVec 5} {c m : BitVec 3} {t : BitVec 2}

/-- The items of a DEFER: of each enabled element the values of the named registers, in the order of the names
(R325). -/
theorem deferItems_names (s : State) (names : List (BitVec 5)) (mask : PReg) :
    deferItems (names.map s.vreg) mask =
      ((List.range 1024).filter fun e => mask.on e).map fun e => names.map fun n => at0 (s.vreg n) e := by
  simp only [deferItems, List.map_map]
  rfl

theorem exec_defer_fits (h : s.enabled g []) {P : Pillar}
    (hfits : s.mine.deferTo t.toNat (deferItems ((trayNames v c).map s.vreg) (s.vpred m)) = some P) :
    exec (.defer g v c m t) s =
      .next (((s.onMine fun _ => P).wakeSeq s.cur.p s.cur.q).serveTray s.cur.p t.toNat) := by
  show execDefer g v c m t s = _
  unfold execDefer
  rw [guarded_on s g [] _ h]
  simp only [sourced_nil, hfits]

theorem exec_defer_full (h : s.enabled g [])
    (hfull : s.mine.deferTo t.toNat (deferItems ((trayNames v c).map s.vreg) (s.vpred m)) = none) :
    exec (.defer g v c m t) s =
      .next ((s.formRec 0 0 (.defer t.toNat (deferItems ((trayNames v c).map s.vreg) (s.vpred m)))).faultRec
        s.cur.p s.cur.q s.me.freeRec cFstate deferInfo) := by
  show execDefer g v c m t s = _
  unfold execDefer
  rw [guarded_on s g [] _ h]
  simp only [sourced_nil, hfull]

theorem exec_drain (h : s.enabled g []) : exec (.drain g v c m t) s =
    .next (((s.formRec 0 0 (.drain t.toNat ((trayNames v c).map fun r => physV s.me.rbase r.toNat) m.toNat
      none)).onMine fun P => { P with drains := upd P.drains t.toNat (· ++ [(s.cur.q, s.me.freeRec)]) }).serveTray
        s.cur.p t.toNat) := by
  show execDrain g v c m t s = _
  exact guarded_on s g [] _ h
end

/-- Settles O36: each syllable under its guard, an MSEND by its target, a DSYNC by its gang, a DEFER by its tray's
room. -/
theorem sendingAndTrays : Obligations.SendingAndTrays := by
  unfold Obligations.SendingAndTrays
  refine ⟨fun s g a b sc l => ⟨fun h => ?_, fun h => ?_⟩, fun s g v c m t h => ?_⟩
  · refine ⟨fun hin => ?_, fun hout => ?_, exec_jpost h, exec_jraise h⟩
    · rw [exec_msend sc h]
      exact congrArg _ (if_neg (not_not.2 ((pillarTarget_iff _).2 hin)))
    · rw [exec_msend sc h]
      exact congrArg _ (if_pos fun hz => absurd ((pillarTarget_iff _).1 hz) (Nat.not_lt.2 hout))
  · refine ⟨fun hg => ?_, fun hg => ?_⟩
    · exact (exec_dsync l h).trans (congrArg _ (if_pos (List.isEmpty_iff.2 hg)))
    · exact (exec_dsync l h).trans (congrArg _ (if_neg fun he => hg (List.isEmpty_iff.1 he)))
  · dsimp only
    rw [← trayNames, ← deferItems_names]
    exact ⟨fun hfits => exec_defer_fits h (deferTo_fits hfits), fun hfull => exec_defer_full h (deferTo_full hfull),
      exec_drain h⟩
end Sys2Proof.Machine
end

section
/-! PROOFS. What arrives and completes between sequencers (O47, R78, R309-R325, R384): posts, messages, credits,
barriers, steps at a job control block and tray deliveries. -/

namespace Sys2Proof.Machine

/-! ### Posts and credits -/

theorem dropAt_append {α : Type} (before after : List α) (x : α) :
    dropAt (before ++ x :: after) before.length = before ++ after := by
  induction before with
  | nil => rfl
  | cons y ys ih => exact congrArg (y :: ·) ih

theorem exec_kpostrArrive {s : State} {before after : List Post} {n : Post} (h : s.posts = before ++ n :: after)
    (hk : before.length = s.who.k) :
    exec .kpostrArrive s = .next (({ s with posts := before ++ after } : State).postFlag n.toP n.k n.amount) := by
  have hn : s.posts[s.who.k]? = some n := by rw [h, ← hk]; simp
  show execKpostrArrive s = _
  unfold execKpostrArrive
  rw [hn, h, ← hk, dropAt_append]

theorem exec_creditReturn {s : State} {before after : List (Nat × Nat × Nat)} {dest st at_ : Nat}
    (h : s.credits = before ++ (dest, st, at_) :: after) (hk : before.length = s.who.k) :
    exec .creditReturn s = .next (({ s with credits := before ++ after } : State).onPillar dest fun P =>
      { P with pools := upd P.pools st (· + 1) }) := by
  have hn : s.credits[s.who.k]? = some (dest, st, at_) := by rw [h, ← hk]; simp
  show execCreditReturn s = _
  unfold execCreditReturn
  rw [hn, h, ← hk, dropAt_append]

section
variable (u : State) {f k : Nat} (v : W32) (hf : f < u.pillars.length)
include hf

/-- A pillar, its sequencers apart, after an amount is added to one of its flags. -/
theorem addFlag_apart : ((u.addFlag f k v).pillar f).apart =
    ({ u.pillar f with flags := upd (u.pillar f).flags k fun _ => u.flag f k + v } : Pillar).apart := by
  rw [State.addFlag, State.setFlag, wake_apart, onPillar_self _ _ _ hf]

theorem addFlag_here : f < (u.addFlag f k v).pillars.length := by
  simpa only [State.addFlag, State.setFlag, State.wake, State.wakeSeq, onSeq_length, onPillar_length] using hf

theorem postFlag_flags : ((u.postFlag f k v).pillar f).flags = upd (u.pillar f).flags k fun _ => u.flag f k + v := by
  rw [State.postFlag, onPillar_self _ _ _ (addFlag_here u v hf)]
  exact (congrArg Pillar.flags (addFlag_apart u v hf) :)

/-- A post is noted for the next ic (R309). -/
theorem postFlag_newPosts : ((u.postFlag f k v).pillar f).newPosts =
    (u.pillar f).newPosts.filter (fun n => (u.pillar f).ic ≤ n.1) ++ [((u.pillar f).ic + 1, k, v)] := by
  have hic : ((u.addFlag f k v).pillar f).ic = (u.pillar f).ic := (congrArg Pillar.ic (addFlag_apart u v hf) :)
  have hposts : ((u.addFlag f k v).pillar f).newPosts = (u.pillar f).newPosts :=
    (congrArg Pillar.newPosts (addFlag_apart u v hf) :)
  rw [State.postFlag, onPillar_self _ _ _ (addFlag_here u v hf), hic, hposts]

theorem postFlag_flag (hk : k < (u.pillar f).flags.length) : (u.postFlag f k v).flag f k = u.flag f k + v := by
  rw [State.flag, postFlag_flags u v hf, at0_upd_self _ _ _ hk]

theorem postFlag_flag_ne {j : Nat} (hj : j ≠ k) : (u.postFlag f k v).flag f j = u.flag f j := by
  rw [State.flag, postFlag_flags u v hf, at0_upd_ne _ _ _ _ hj]
  rfl
end

/-! ### Messages, barriers and trays -/

section
variable {s : State} {r : Rec} (hr : s.rec? s.who.p s.who.q s.who.rec_ = some r)
include hr

theorem exec_msendDeliver {t sc : Nat} {v : W64} (ho : r.op = .msend t sc v) : exec .msendDeliver s =
    .next (((s.onPillar t fun P => { P with mq := P.mq ++ [(v, stackOf s.who.p)] }).wake t).endRec s.who.p s.who.q
      r.idx) := by
  show execMsendDeliver s = _
  unfold execMsendDeliver
  simp only [hr, ho]

theorem exec_trayDelivery {t d : Nat} {regs : List Nat} {items : List (List W32)}
    (ho : r.op = .drain t regs d (some items)) : exec .trayDelivery s =
      .next ((((s.onSeq s.who.p s.who.q fun x => { x with
        inflight := x.inflight ++ (drainResults regs d items).map fun w =>
          ⟨(s.pillar s.who.p).ic + 1, r.slot, r.order, w⟩ }).onPillar s.who.p fun P =>
            { P with drains := upd P.drains t fun l => l.filter (· ≠ (s.who.q, r.idx)) }).postFlag s.who.p (28 + t)
              (BitVec.ofNat 32 items.length)).endRec s.who.p s.who.q r.idx) := by
  show execTrayDelivery s = _
  unfold execTrayDelivery
  simp only [hr, ho]
end

theorem exec_dsyncComplete_fabric {s : State} (h : s.who.up = true) : exec .dsyncComplete s =
    .next (s.onLaunch s.who.l fun l =>
      { l with fabric := (s.who.k, s.who.n) :: l.fabric.filter fun f => f.1 ≠ s.who.k }) := by
  show execDsyncComplete s = _
  unfold execDsyncComplete
  exact congrArg _ (if_pos h)

theorem exec_dsyncComplete_own {s : State} (h : s.who.up = false) {r : Rec} {lv c : Nat}
    (hd : (s.seq s.who.p s.who.q).dsyncRec = some (r, lv, c)) : exec .dsyncComplete s =
      .next ((s.onSeq s.who.p s.who.q fun x => { x with
        syncing := none
        syncs := upd x.syncs (lv - 1) (· + 1) }).endRec s.who.p s.who.q r.idx) := by
  show execDsyncComplete s = _
  unfold execDsyncComplete
  simp only [h, Bool.false_eq_true, if_false, hd]

theorem exec_dsyncComplete_none {s : State} (h : s.who.up = false)
    (hd : (s.seq s.who.p s.who.q).dsyncRec = none) : exec .dsyncComplete s = .next s := by
  show execDsyncComplete s = _
  unfold execDsyncComplete
  simp only [h, Bool.false_eq_true, if_false, hd]

/-! ### Steps at a job control block (R321) -/

section
variable {s t : State} {r : Rec} {isRaise : Bool} (hr : s.rec? s.who.p s.who.q s.who.rec_ = some r)
  (ho : r.op = .jcb isRaise)
include hr ho

theorem exec_jcbStep_performs {pa : Nat} {leaf : W64} (ha : s.jcbAddress s.who.p s.who.q r.opa = (t, .ok pa leaf)) :
    exec .jcbStep s = .next (t.jcbPerform s.who.p s.who.q r isRaise pa) := by
  show execJcbStep s = _
  unfold execJcbStep
  simp only [hr, ho, ha]

/-- An address that cannot be used is a recorded fault, unless the host serves it (R322, R349). -/
theorem exec_jcbStep_faults {c : Nat} {info : W64} (ha : s.jcbAddress s.who.p s.who.q r.opa = (t, .bad c info))
    (hh : t.hostServes c info = false) : exec .jcbStep s = .next (t.faultRec s.who.p s.who.q r.idx c info) := by
  show execJcbStep s = _
  unfold execJcbStep
  simp only [hr, ho, ha, hostAsk_declined _ _ _ hh]
end

/-- A step at a block is by what it makes of the block as it stands. -/
theorem jcbStep_congr {t : State} {pa : Nat} {f g : Jcb → Jcb} (h : f (t.readJcb pa) = g (t.readJcb pa)) :
    t.jcbStep pa f = t.jcbStep pa g := by
  rw [State.jcbStep, State.jcbStep, h]

section
variable {t : State} {p q pa : Nat} {r : Rec}

/-- The step of a JRAISE, whatever it makes of the block. -/
theorem jcbPerform_jraise {f : Jcb → Jcb}
    (h : (if ((t.seq p q).iter.any fun i => i.posted.contains (t.canonPa pa)) || (t.readJcb pa).complete then
      { t.readJcb pa with err := (t.readJcb pa).err ||| 4 } else (t.readJcb pa).raise r.opb.toNat) = f (t.readJcb pa)) :
    t.jcbPerform p q r true pa = (t.jcbStep pa f).endRec p q r.idx := by
  unfold State.jcbPerform
  dsimp only
  rw [if_pos rfl]
  exact congrArg (fun u : State => u.endRec p q r.idx) (jcbStep_congr h)

theorem jcbPerform_raises (hp : ((t.seq p q).iter.any fun i => i.posted.contains (t.canonPa pa)) = false)
    (hc : (t.readJcb pa).state % 2 = 0) : t.jcbPerform p q r true pa =
      (t.jcbStep pa fun j => j.raise r.opb.toNat).endRec p q r.idx :=
  jcbPerform_jraise (if_neg (by rw [hp, Jcb.complete, hc]; decide))

/-- A JRAISE behind the iteration's own JPOST, or of a complete block, only sets its ERR bit (R321). -/
theorem jcbPerform_late (h : ((t.seq p q).iter.any fun i => i.posted.contains (t.canonPa pa)) = true ∨
    (t.readJcb pa).state % 2 = 1) : t.jcbPerform p q r true pa =
      (t.jcbStep pa fun j => { j with err := j.err ||| 4 }).endRec p q r.idx :=
  jcbPerform_jraise (if_pos (by simpa only [Bool.or_eq_true, Jcb.complete, decide_eq_true_eq] using h))
end

/-! ### The items of a DRAIN (R325) -/

/-- A row made bit by bit holds at each place the value of the test. -/
theorem bit_rowOf (f : Nat → Bool) (n k : Nat) (hk : k < 64) :
    bit ((List.range n).foldl (fun (w : W64) c => if f c then w ||| BitVec.ofNat 64 (2 ^ c) else w) 0) k =
      (decide (k < n) && f k) := by
  induction n with
  | zero => exact BitVec.getLsbD_zero
  | succ n ih =>
    have hor (w : W64) : bit (w ||| BitVec.ofNat 64 (2 ^ n)) k = (bit w k || decide (n = k)) := by
      rw [bit, BitVec.getLsbD_or, BitVec.getLsbD_ofNat, Nat.testBit_two_pow, decide_eq_true hk, Bool.true_and, ← bit]
    rw [List.range_succ, List.foldl_append, List.foldl_cons, List.foldl_nil]
    by_cases hnk : n = k
    · subst hnk
      simp only [apply_ite (bit · n), hor, ih, lt_irrefl, decide_false, Bool.false_and, Bool.false_or]
      cases f n <;> simp
    · have hlt : k < n + 1 ↔ k < n := by omega
      simp only [apply_ite (bit · k), hor, ih, hnk, hlt, decide_false, Bool.or_false, ite_self]

theorem of_on (f : Nat → Bool) {e : Nat} (he : e < 1024) : (PReg.of f).on e = f e := by
  have hrow : e / 64 < 16 := by omega
  have hcol : e % 64 < 64 := Nat.mod_lt _ (by decide)
  rw [PReg.on, PReg.of, List.getD_eq_getElem?_getD, List.getElem?_map, List.getElem?_range hrow]
  simp only [Option.map_some, Option.getD_some]
  rw [bit_rowOf (fun c => f (64 * (e / 64) + c)) 64 _ hcol, Nat.div_add_mod]
  simp [hcol]

theorem firstN_on (n : Nat) {e : Nat} (he : e < 1024) : (firstN n).on e = decide (e < n) := of_on _ he

/-- A predicate written on every bit is the new one. -/
theorem mergePred_ones_on (old new : PReg) {e : Nat} (he : e < 1024) : (mergePred pOnes old new).on e = new.on e := by
  have hrow : e / 64 < 16 := by omega
  have hones : at0 pOnes (e / 64) = BitVec.allOnes 64 := at0_replicate 16 _ _ hrow
  rw [PReg.on, mergePred, List.getD_eq_getElem?_getD, List.getElem?_map, List.getElem?_range hrow]
  simp only [Option.map_some, Option.getD_some, hones]
  rw [BitVec.not_allOnes, BitVec.and_zero, BitVec.zero_or, BitVec.and_allOnes]
  rfl

/-- The one vector and the flush predicate of a DRAIN land together (R162, R325). -/
theorem landUpTo_drain {x : Seq} {reg d t o : Nat} {items : List (List W32)} (hd : 0 < d)
    (hx : x.inflight = (drainResults [reg] d items).map fun w => ⟨t, 7, o, w⟩) :
    x.landUpTo t = { x with
      inflight := []
      vregs := upd x.vregs reg fun old =>
        mergeMask (firstN items.length) old (VReg.of fun e => (items.getD e []).getD 0 0)
      vpreds := upd x.vpreds d fun old => mergePred pOnes old (firstN items.length) } := by
  have hl : x.inflight = [⟨t, 7, o, .vec reg (VReg.of fun e => (items.getD e []).getD 0 0) (firstN items.length)⟩,
      ⟨t, 7, o, .vpred d (firstN items.length) pOnes⟩] := by
    rw [hx, drainResults, if_neg (Nat.ne_of_gt hd)]
    rfl
  simp [Seq.landUpTo, hl, sortLandings, insertLanding, Landing.before, Payload.land]

/-- What a DRAIN of one register leaves: the items from the first element on, the register's old values behind them, and
in the flush predicate as many bits set (R325). -/
theorem landUpTo_drain_elements {x : Seq} {reg d t o : Nat} {items : List (List W32)} (hreg : reg < x.vregs.length)
    (hd : 0 < d) (hdl : d < x.vpreds.length)
    (hx : x.inflight = (drainResults [reg] d items).map fun w => ⟨t, 7, o, w⟩) {e : Nat} (he : e < 1024) :
    (at0 ((x.landUpTo t).vregs.getD reg []) e =
      if e < items.length then (items.getD e []).getD 0 0 else at0 (x.vregs.getD reg []) e) ∧
    ((x.landUpTo t).vpreds.getD d pZero).on e = decide (e < items.length) := by
  rw [landUpTo_drain hd hx]
  constructor
  · rw [upd_getD_self _ _ _ _ hreg, at0, mergeMask_getD _ _ _ _ he, firstN_on _ he, vreg_of_getD _ _ he]
    simp only [decide_eq_true_eq]
    rfl
  · rw [upd_getD_self _ _ _ _ hdl, mergePred_ones_on _ _ he, firstN_on _ he]

/-- Settles O47: a post and a credit by its place among those on their way, an operation's end by its record, a step at
a block by its address and the block's state, a delivery by the two results that land. -/
theorem syncEvents : Obligations.SyncEvents := by
  unfold Obligations.SyncEvents
  intro s
  refine ⟨fun _ _ _ h hk => exec_kpostrArrive h hk, fun u f k v hf hk => ?_,
    fun _ _ _ _ _ h hk => exec_creditReturn h hk, fun _ _ _ _ hr ho => exec_msendDeliver hr ho,
    exec_dsyncComplete_fabric, fun h _ _ _ hd => exec_dsyncComplete_own h hd, exec_dsyncComplete_none, fun r hr => ?_,
    fun _ _ _ _ _ hr ho => exec_trayDelivery hr ho, fun x reg d t o items hreg hd hdl hv hx => ?_⟩
  · refine ⟨postFlag_flag u v hf hk, fun j hj => postFlag_flag_ne u v hf hj, ?_, fun n hn hic => ?_⟩
    · rw [postFlag_newPosts u v hf]
      exact List.mem_append_right _ (List.mem_singleton_self _)
    · rw [postFlag_newPosts u v hf]
      exact List.mem_append_left _ (List.mem_filter.2 ⟨hn, decide_eq_true hic⟩)
  · refine ⟨fun t pa leaf ho ha => exec_jcbStep_performs hr ho ha,
      fun t pa leaf ho ha => ⟨fun hp hc => ?_, fun hlate => ?_⟩,
      fun isRaise t c info ho ha hoff => exec_jcbStep_faults hr ho ha (hostServes_off c info hoff)⟩
    · rw [exec_jcbStep_performs hr ho ha, jcbPerform_raises hp hc]
      rfl
    · rw [exec_jcbStep_performs hr ho ha, jcbPerform_late hlate]
  · have hdrain := fun e he => landUpTo_drain_elements (hv ▸ hreg) hd hdl hx (e := e) he
    refine ⟨fun e he => (hdrain e he).1, ?_, ?_, fun e he => (hdrain e he).2, ?_, ?_⟩ <;> rw [landUpTo_drain hd hx]
    exact fun r hne => upd_getD_ne _ _ _ _ _ hne
end Sys2Proof.Machine
end

section
/-! PROOFS. Elections (O42): the fall of a participant in a state where two launches bear one number. -/

namespace Sys2Proof.Machine

/-- A participant on stack 0 of a package, nothing granted to it, that last heard the participants at these TIMEs. -/
def partOfPackage (pkg : Nat) (heard : List Nat) : Part := ⟨pkg, 0, [], [], [], heard, 0, none, 0, 0, 0, [], false, 0⟩

/-- Launch 0 with one iteration to grant, led by participant 1; participant 0 is another package's, and the two of this
package heard it last at a and at b. -/
def launchHearing (a b : Nat) : Launch where
  id := 0
  stack := 0
  queue := 0
  packet := 0
  job := 0
  hdr := 0
  entry := 0
  jcb := 0
  domain := 0
  levels := []
  args := []
  argMarks := []
  fts := []
  total := 1
  nextT := 0
  leader := 1
  epoch := 0
  electing := false
  candidate := none
  gathered := []
  requests := []
  grants := []
  abandoned := false
  fabric := []
  parts := [partOfPackage 1 [0, 0, 0], partOfPackage 0 [a, 0, 0], partOfPackage 0 [b, 0, 0]]
  lostN := 0
  ended := false

/-- TIME 30,000 ns, with two launches of number 0: in the first only participant 1 has heard nothing of participant 0
for 30 us, in the second only participant 2. -/
def oneNumberTwice : State :=
  { State.reset with tick := 60000, launches := [launchHearing 0 30000, launchHearing 30000 0] }

/-- The TIMEs at which the participants of each launch heard one another, after a step. -/
def heardAfter : Outcome → List (List (List Nat))
  | .next t => t.launches.map fun l => l.parts.map Part.heard
  | _ => []

/-- In each launch the participant that sees the silence tells the other one: 1 tells 2 in the first, 2 tells 1 in the
second (R82). -/
theorem heardAfter_participantFailed : heardAfter (exec .participantFailed oneNumberTwice) =
    [[[0, 0, 0], [0, 0, 0], [30000, 30000, 0]], [[0, 0, 0], [30000, 0, 30000], [0, 0, 0]]] := by
  decide

theorem launchHearing_none_failed : ∀ y ∈ (launchHearing 0 30000).parts, y.failed = none := by decide

/-- Refutes O42: the clause on a participant's fall takes the teller from the first launch of the number for every
launch that bears it, and asks no distinct numbers, as the gang clause does; the model takes each launch's own. -/
theorem not_chunksAndGangs : ¬ Obligations.ChunksAndGangs := by
  unfold Obligations.ChunksAndGangs
  intro h
  obtain ⟨-, hEvents⟩ := h
  obtain ⟨-, -, -, -, -, -, -, -, -, -, -, -, hFall, -⟩ := hEvents oneNumberTwice (launchHearing 0 30000) rfl
  obtain ⟨-, hTold⟩ := hFall (partOfPackage 1 [0, 0, 0]) rfl rfl rfl
  have hSees : ∃ y, (launchHearing 0 30000).part? 1 = some y ∧ y.pkg = 0 ∧ y.failed = none ∧
      y.heard.getD 0 0 + 30000 ≤ 30000 := ⟨partOfPackage 0 [0, 0, 0], rfl, rfl, rfl, by decide⟩
  have hFirst : ∀ k < 1, k = 0 := fun k hk => Nat.lt_one_iff.1 hk
  obtain ⟨-, -, hNoElection⟩ := hTold 1 (.inr ⟨rfl, ⟨by decide, hSees⟩, fun k hk hs => hs.1 (hFirst k hk)⟩)
  have hAlone : ¬ ∃ y ∈ (launchHearing 0 30000).parts, ∃ t, y.failed = some t ∧ 30000 ≤ t + 30000 := by
    rintro ⟨y, hy, t, ht, -⟩
    rw [launchHearing_none_failed y hy] at ht
    cases ht
  have hStep := hNoElection hAlone (by decide)
  have hClaim : heardAfter (exec .participantFailed oneNumberTwice) =
      [[[0, 0, 0], [0, 0, 0], [30000, 30000, 0]], [[0, 0, 0], [30000, 0, 0], [0, 30000, 0]]] := by
    rw [hStep]
    decide
  rw [heardAfter_participantFailed] at hClaim
  exact absurd hClaim (by decide)
end Sys2Proof.Machine
end

section
/-! PROOFS. The CSR instructions (O5). -/

namespace Sys2Proof.Machine

section
variable {s : State} {g : Guard} {srcs : List (BitVec 5)} {d : BitVec 5} {n : BitVec 10} {change : State → State}

/-- A CSR instruction that may name its CSR (R101): the old value after 2 ic, and the change (R183). -/
theorem csrOp_allowed (h : s.enabled g srcs) (hn : n.toNat < 0x100 ∨ s.me.mode = true) :
    s.csrOp g srcs d n change =
      .next ((change (s.sourced srcs)).toDest 2 d ((s.sourced srcs).csrRead s.cur.p s.cur.q n.toNat)) := by
  have hok : ¬ (0x100 ≤ n.toNat ∧ (s.sourced srcs).me.mode = false) := by
    rw [sourced_me]
    rcases hn with hn | hn
    · omega
    · simp [hn]
  rw [State.csrOp, guarded_on s g srcs _ h, if_neg hok, sourced_cur_p, sourced_cur_q]

/-- A CSR instruction that names a supervisor CSR in user mode (R101). -/
theorem csrOp_refused (h : s.enabled g srcs) (hn : 0x100 ≤ n.toNat) (hm : s.me.mode = false) :
    s.csrOp g srcs d n change =
      .next ((s.sourced srcs).raise ⟨cPriv, (s.sourced srcs).sylInfo 0, none, none, false⟩) := by
  have hno : 0x100 ≤ n.toNat ∧ (s.sourced srcs).me.mode = false := ⟨hn, by rw [sourced_me, hm]⟩
  rw [State.csrOp, guarded_on s g srcs _ h, if_pos hno, cause]

end

/-- Settles O5: each CSR instruction is the one operation of R183 with its own change. -/
theorem csrAccess : Obligations.CsrAccess := by
  unfold Obligations.CsrAccess
  intro s g d a n hn
  refine ⟨fun h => csrOp_allowed h hn, fun h => ?_⟩
  have noted (c : CsrChange) := csrOp_allowed (d := d) (change := fun u => u.csrNote n.toNat c (u.src a)) h hn
  exact ⟨noted .write, noted .set, noted .clear⟩

end Sys2Proof.Machine
end

section
/-! PROOFS. Privilege (O6, R101, R102, R105, R192): what user mode may not reach of a sequencer, and which of the shared
operations leave it as it was. -/

namespace Sys2Proof.Machine

/-- What a sequencer keeps from user mode: its mode, the trap registers, TVEC and the scratch registers, and the changes
of supervisor CSRs on their way (R101, R102, R105). -/
def Seq.privileged (x : Seq) : Seq :=
  { Seq.reset with
    mode := x.mode, pmode := x.pmode, bd := x.bd, tvec := x.tvec, epc := x.epc, ebt := x.ebt, ecause := x.ecause
    einfo := x.einfo, sscr0 := x.sscr0, sscr1 := x.sscr1, csrws := x.csrws.filter fun w => 0x100 ≤ w.num }

/-- What every sequencer keeps from user mode, and which one's long word is being issued. -/
def State.privileges (s : State) : (Nat × Nat) × (Nat → Nat → Seq) :=
  ((s.cur.p, s.cur.q), fun p q => (s.seq p q).privileged)

/-- A state that a syllable goes on to without a privileged effect, unless the syllable raises a cause. -/
def State.keepsPrivilege (s t : State) : Prop := t.cur.trap = none → t.privileges = s.privileges

theorem privileges_me {s t : State} (h : t.privileges = s.privileges) : t.me.privileged = s.me.privileged := by
  have hcur : (t.cur.p, t.cur.q) = (s.cur.p, s.cur.q) := congrArg Prod.fst h
  have hseq : ∀ p q, (t.seq p q).privileged = (s.seq p q).privileged :=
    fun p q => congrFun (congrFun (congrArg Prod.snd h) p) q
  injection hcur with hp hq
  rw [State.me, hseq, hp, hq, State.me]

section
variable (s : State) (p q i : Nat)

/-! ### Places -/

theorem privileges_of_seq {s t : State} (hc : t.cur = s.cur)
    (hs : ∀ p q, (t.seq p q).privileged = (s.seq p q).privileged) :
    t.privileges = s.privileges := by
  rw [State.privileges, State.privileges, hc]
  exact congrArg _ (funext fun p => funext fun q => hs p q)

theorem onSeq_privileges {f : Seq → Seq} (hf : ∀ x, (f x).privileged = x.privileged) :
    (s.onSeq p q f).privileges = s.privileges :=
  privileges_of_seq rfl fun p' q' => onSeq_keeps s p q Seq.privileged hf p' q'

theorem onMe_privileges {f : Seq → Seq} (hf : ∀ x, (f x).privileged = x.privileged) :
    (s.onMe f).privileges = s.privileges := onSeq_privileges s _ _ hf

theorem onPillar_privileges {f : Pillar → Pillar} (hf : ∀ P, (f P).seqs = P.seqs) :
    (s.onPillar p f).privileges = s.privileges :=
  privileges_of_seq rfl fun p' q' =>
    congrArg (fun l => (l.getD q' Seq.reset).privileged) (onPillar_keeps s p Pillar.seqs hf p')

theorem foldl_privileges {α : Type} {f : State → α → State} (hf : ∀ s a, (f s a).privileges = s.privileges)
    (l : List α) :
    (l.foldl f s).privileges = s.privileges := by
  induction l generalizing s with
  | nil => rfl
  | cons a l ih => rw [List.foldl_cons, ih, hf]

/-! ### Results, latches and positions -/

@[simp] theorem sourced_privileges (srcs : List (BitVec 5)) : (s.sourced srcs).privileges = s.privileges := by
  have hpop : s.popMq.privileges = s.privileges := by
    rw [State.privileges, State.privileges, popMq_cur_p, popMq_cur_q]
    exact congrArg _ (funext fun p => funext fun q => congrArg Seq.privileged (popMq_seq s p q))
  rcases sourced_cases s srcs with h | h <;> rw [h]
  exact hpop

@[simp] theorem result_privileges (lat : Nat) (x : Payload) : (s.result lat x).privileges = s.privileges :=
  onMe_privileges s fun _ => rfl

@[simp] theorem toDest_privileges (lat : Nat) (d : BitVec 5) (v : W64) :
    (s.toDest lat d v).privileges = s.privileges := by
  unfold State.toDest
  split_ifs <;> simp

@[simp] theorem toVec_privileges (lat : Nat) (d : BitVec 5) (v : VReg) (m : PReg) :
    (s.toVec lat d v m).privileges = s.privileges := result_privileges s _ _

@[simp] theorem toDir_privileges (ld ln : Nat) (d : BitVec 3) (rows : List DirRow) :
    (s.toDir ld ln d rows).privileges = s.privileges := by
  unfold State.toDir
  dsimp only
  split <;> simp

@[simp] theorem keepV_privileges (h : BitVec 2) (a : BitVec 5) : (s.keepV h a).privileges = s.privileges :=
  onMe_privileges s fun _ => rfl

@[simp] theorem keepF_privileges (h : BitVec 2) (a : BitVec 5) : (s.keepF h a).privileges = s.privileges :=
  onMe_privileges s fun _ => rfl

@[simp] theorem stepW_privileges (wi : BitVec 1) : (s.stepW wi).privileges = s.privileges := by
  unfold State.stepW
  split
  · exact onMe_privileges s fun _ => rfl
  · rfl

@[simp] theorem stepR_privileges (ri : BitVec 1) : (s.stepR ri).privileges = s.privileges := by
  unfold State.stepR
  split
  · exact onMe_privileges s fun _ => rfl
  · rfl

@[simp] theorem postInc_privileges (a : BitVec 5) (w : BitVec 3) (t : BitVec 1) (im : BitVec 5) :
    (s.postInc a w t im).privileges = s.privileges := by
  unfold State.postInc
  split <;> simp

/-! ### Frames, flags and records -/

@[simp] theorem wakeSeq_privileges : (s.wakeSeq p q).privileges = s.privileges := onSeq_privileges s p q fun _ => rfl

@[simp] theorem wake_privileges : (s.wake p).privileges = s.privileges := by
  rw [State.wake, wakeSeq_privileges, wakeSeq_privileges]

@[simp] theorem onFrame_privileges (f : Nat) (g : Frame → Frame) : (s.onFrame p f g).privileges = s.privileges :=
  privileges_of_seq (onFrame_cur s p f g) fun p' q' => onFrame_keeps s p f g Seq.privileged (fun _ _ => rfl) p' q'

@[simp] theorem disown_privileges (typ : Nat) (sel : Nat × Nat → Bool) :
    (s.disown typ p sel).privileges = s.privileges := rfl

@[simp] theorem clearFrame_privileges (f : Nat) : (s.clearFrame p f).privileges = s.privileges := by
  rw [State.clearFrame, State.noRenewal, disown_privileges, onPillar_privileges _ _ fun _ => by rfl, onFrame_privileges]

@[simp] theorem frameStore_privileges (f off : Nat) (bs : List Byte) :
    (s.frameStore f off bs).privileges = s.privileges :=
  onFrame_privileges s _ _ _

@[simp] theorem setFlag_privileges (k : Nat) (v : W32) : (s.setFlag p k v).privileges = s.privileges := by
  rw [State.setFlag, wake_privileges, onPillar_privileges _ _ fun _ => by rfl]

@[simp] theorem changeFlag_privileges (k : Nat) (set : Bool) (v : W32) :
    (s.changeFlag k set v).privileges = s.privileges := by
  unfold State.changeFlag State.applyChange State.addFlag
  dsimp only
  split_ifs
  · exact setFlag_privileges _ _ _ _
  · exact setFlag_privileges _ _ _ _
  · exact onMe_privileges s fun _ => rfl

@[simp] theorem formRec_privileges (a b : W64) (op : Op) : (s.formRec a b op).privileges = s.privileges :=
  onMe_privileges s fun _ => rfl

@[simp] theorem onRec_privileges (f : Rec → Rec) : (s.onRec p q i f).privileges = s.privileges :=
  onSeq_privileges s p q fun _ => rfl

@[simp] theorem dropRec_privileges : (s.dropRec p q i).privileges = s.privileges :=
  onSeq_privileges s p q fun _ => rfl

@[simp] theorem faultRec_privileges (c : Nat) (v : W64) : (s.faultRec p q i c v).privileges = s.privileges := by
  rw [State.faultRec, wakeSeq_privileges, onRec_privileges]

@[simp] theorem settle_privileges : (s.settle p q).privileges = s.privileges := onSeq_privileges s p q fun _ => rfl

@[simp] theorem serveTray_privileges (t : Nat) : (s.serveTray p t).privileges = s.privileges := by
  unfold State.serveTray
  dsimp only
  rw [foldl_privileges _ fun s a => onRec_privileges s _ _ _ _, onPillar_privileges _ _ fun _ => by rfl]

/-! ### Engine commands and the cube -/

@[simp] theorem onEngine_privileges (f : EngineOp → EngineOp) : (s.onEngine p q i f).privileges = s.privileges :=
  onRec_privileges s _ _ _ _

@[simp] theorem startEngine_privileges (e : EngineOp) : (s.startEngine p q i e).privileges = s.privileges := by
  unfold State.startEngine
  dsimp only
  split_ifs <;> simp

@[simp] theorem admitEngine_privileges (e : EngineOp) : (s.admitEngine p q i e).privileges = s.privileges := by
  unfold State.admitEngine State.engineCheck
  split_ifs
  · exact faultRec_privileges { s with nonce := s.nonce + 1 } p q i _ _
  · exact faultRec_privileges s p q i _ _
  · cases h : (s.roleFault p e).or (s.placeFault p e) <;> simp

@[simp] theorem onAcc_privileges (a : Nat) (f : Acc → Acc) : (s.onAcc p q a f).privileges = s.privileges :=
  onSeq_privileges s p q fun _ => rfl

@[simp] theorem enqueueCube_privileges (a b : W64) (work : Nat) (kind : Nat → CubeKind) :
    (s.enqueueCube a b work kind).privileges = s.privileges := by
  rw [State.enqueueCube, State.onMine, onPillar_privileges _ _ fun _ => by rfl, formRec_privileges]

@[simp] theorem acceptOp_privileges (acc : Nat) (mask : BitVec 4) (geo : W64) (fmt : W32) (src : ASource)
    (opa ctl : W64) (xc east : Bool) :
    (s.acceptOp acc mask geo fmt src opa ctl xc east).privileges = s.privileges := by
  unfold State.acceptOp
  cases src <;> simp

@[simp] theorem cancelEngine_privileges (e : EngineOp) : (s.cancelEngine p e).privileges = s.privileges := by
  unfold State.cancelEngine
  cases e.written <;> dsimp only <;> split_ifs <;> simp

@[simp] theorem removeCube_privileges : (s.removeCube p q i).privileges = s.privileges := by
  unfold State.removeCube
  split
  · rfl
  next c _ =>
    rw [settle_privileges, onPillar_privileges _ _ fun _ => by rfl]
    cases c.kind with
    | op o =>
      rw [onSeq_privileges _ _ _ fun _ => by rfl]
      dsimp only
      split
      · split
        · exact onFrame_privileges s p _ _
        · rfl
      · rfl
    | _ => rfl

@[simp] theorem cancelRec_privileges (r : Rec) : (s.cancelRec p q r).privileges = s.privileges := by
  unfold State.cancelRec
  cases r.op with
  | msend t _ _ => rw [dropRec_privileges, onPillar_privileges _ _ fun _ => by rfl]
  | dsync lv _ => rw [dropRec_privileges, onSeq_privileges _ _ _ fun _ => by rfl]
  | drain t _ _ _ => rw [serveTray_privileges, dropRec_privileges, onPillar_privileges _ _ fun _ => by rfl]
  | _ => simp

@[simp] theorem cancelCommands_privileges (sel : EngineOp → Bool) : (s.cancelCommands sel).privileges = s.privileges :=
  foldl_privileges s (fun s r => cancelRec_privileges s _ _ r) _

/-! ### The flow of long words -/

@[simp] theorem branchTo_privileges (a : W64) :
    (s.branchTo a).privileges = s.privileges := onMe_privileges s fun _ => rfl

/-- A loop-back's rotation is a change of RBASE, which is no supervisor CSR (R95, R101). -/
@[simp] theorem endCheck_privileges (x : W64) : (s.endCheck x).privileges = s.privileges := by
  refine onMe_privileges s fun m => ?_
  rcases loopEnd m.loops x with ⟨ls, _ | ⟨b, rot⟩⟩
  · rfl
  · cases rot
    · rfl
    · simp [Seq.privileged]

@[simp] theorem latchGang_privileges (id n : Nat) (but : Nat × Nat → Bool) (butAway : Away → Bool) :
    (s.latchGang id n but butAway).privileges = s.privileges := by
  refine foldl_privileges s (fun u m => ?_) (s.membersOf id)
  split
  · rfl
  · exact onSeq_privileges u _ _ fun _ => rfl

@[simp] theorem failMember_privileges : (s.failMember p q).privileges = s.privileges := by
  unfold State.failMember
  split
  · rfl
  · split_ifs
    · rw [latchGang_privileges, onSeq_privileges _ _ _ fun _ => by rfl]
    · rfl

@[simp] theorem abandon_privileges : (s.abandon p q).privileges = s.privileges := by
  rw [State.abandon, onSeq_privileges _ _ _ fun _ => by rfl, State.cancelAll,
    foldl_privileges _ fun s r => cancelRec_privileges s _ _ r, failMember_privileges]

/-- A change noted of a CSR that user mode may name (R101). -/
theorem csrNote_privileges {n : Nat} (hn : n < 0x100) (c : CsrChange) (v : W64) :
    (s.csrNote n c v).privileges = s.privileges :=
  onMe_privileges s fun x => by simp [Seq.privileged, Nat.not_le.2 hn]
end

end Sys2Proof.Machine
end

section
/-! PROOFS. Privilege (O6), syllable by syllable: each meaning of Dispatch.lean keeps the privileges or raises
a cause. -/

namespace Sys2Proof.Machine

section
variable {s t u : State} {g : Guard} {srcs : List (BitVec 5)} {k : State → State}

theorem keeps_of_eq (h : t.privileges = s.privileges) : s.keepsPrivilege t := fun _ => h

/-- A syllable that raises has no effect of its own (R328). -/
theorem raise_keeps (s u : State) (r : Raise) : s.keepsPrivilege (u.raise r) := fun h => nomatch h

theorem keeps_from (h : s.privileges = u.privileges) (k : s.keepsPrivilege t) : u.keepsPrivilege t :=
  fun ht => (k ht).trans h

theorem guarded_keeps (h : s.guarded g srcs k = .next t) (hk : ∀ u : State, u.keepsPrivilege (k u)) :
    s.keepsPrivilege t := by
  rcases guarded_cases h with rfl | ⟨_, rfl⟩
  · exact keeps_of_eq rfl
  · exact keeps_from (sourced_privileges s srcs) (hk _)

theorem guarded_keeps_of_eq (h : s.guarded g srcs k = .next t) (hk : ∀ u : State, (k u).privileges = u.privileges) :
    s.keepsPrivilege t := guarded_keeps h fun u => keeps_of_eq (hk u)

theorem next_keeps {u : State} (h : (.next u : Outcome) = .next t) (hu : s.keepsPrivilege u) : s.keepsPrivilege t := by
  injection h with h
  exact h ▸ hu

/-! ### Results -/

theorem scalar_keeps {lat : Nat} {d : BitVec 5} {f : State → W64} (h : s.scalar g srcs lat d f = .next t) :
    s.keepsPrivilege t := guarded_keeps_of_eq h fun u => toDest_privileges u _ _ _

theorem compare_keeps {p : BitVec 4} {f : State → Bool} (h : s.compare g srcs p f = .next t) : s.keepsPrivilege t :=
  guarded_keeps_of_eq h fun u => result_privileges u _ _

theorem elementwise_keeps {lat : Nat} {d a : BitVec 5} {h : BitVec 2} {m : BitVec 3} {f : State → VReg → VReg}
    (e : s.elementwise g lat d a h m f = .next t) : s.keepsPrivilege t :=
  guarded_keeps_of_eq e fun u => by simp

theorem vv1_keeps {lat : Nat} {d a : BitVec 5} {h : BitVec 2} {m : BitVec 3} {f : W32 → W32}
    (e : s.vv1 g lat d a h m f = .next t) : s.keepsPrivilege t := elementwise_keeps e

theorem vv2_keeps {lat : Nat} {d a b : BitVec 5} {h : BitVec 2} {m : BitVec 3} {f : W32 → W32 → W32}
    (e : s.vv2 g lat d a b h m f = .next t) : s.keepsPrivilege t := elementwise_keeps e

theorem vv3_keeps {lat : Nat} {d a b : BitVec 5} {h : BitVec 2} {m : BitVec 3} {f : W32 → W32 → W32 → W32}
    (e : s.vv3 g lat d a b h m f = .next t) : s.keepsPrivilege t := elementwise_keeps e

theorem special_keeps {d a : BitVec 5} {h : BitVec 2} {m : BitVec 3} {f : W32 → W32}
    (e : s.special g d a h m f = .next t) : s.keepsPrivilege t :=
  guarded_keeps_of_eq e fun u => by simp

theorem lanes_keeps {lat : Nat} {d a : BitVec 5} {m : BitVec 3} {f : VReg → Nat → Nat → W32}
    (e : s.lanes g lat d a m f = .next t) : s.keepsPrivilege t :=
  guarded_keeps_of_eq e fun u => by simp

theorem reduced_keeps {lat : Nat} {d a : BitVec 5} {m : BitVec 3} {f : VReg → VReg}
    (e : s.reduced g lat d a m f = .next t) : s.keepsPrivilege t :=
  guarded_keeps_of_eq e fun u => by simp

theorem vcompare_keeps {d : BitVec 3} {a b : BitVec 5} {m : BitVec 3} {f : W32 → W32 → Bool}
    (e : s.vcompare g d a b m f = .next t) : s.keepsPrivilege t :=
  guarded_keeps_of_eq e fun u => by simp

theorem vplogic_keeps {d a b : BitVec 3} {f : W64 → W64 → W64} (e : s.vplogic g d a b f = .next t) :
    s.keepsPrivilege t :=
  guarded_keeps_of_eq e fun u => by simp

theorem trnFlag_privileges (u : State) (sel : BitVec 5) (m : BitVec 3) (v : VReg) :
    (u.trnFlag sel m v).privileges = u.privileges := by
  unfold State.trnFlag
  split
  · exact onMe_privileges u fun _ => rfl
  · rfl

theorem vcvt_keeps {d a : BitVec 5} {f x : BitVec 4} {o : BitVec 2} (h : execVcvt g d a f x o s = .next t) :
    s.keepsPrivilege t :=
  guarded_keeps h fun u => by
    dsimp only
    split
    · exact raise_keeps u u _
    · exact keeps_of_eq (toVec_privileges u _ _ _ _)

theorem vacc_keeps {v : BitVec 5} {a : BitVec 3} {c sd : BitVec 1} {m : BitVec 3} 
    (h : execVacc g v a c sd m s = .next t) :
    s.keepsPrivilege t :=
  guarded_keeps_of_eq h fun u => by
    dsimp only
    split <;> exact Eq.trans (result_privileges _ _ _) (onMe_privileges u fun _ => rfl)

/-! ### The M slot -/

theorem frameAccess_keeps (u : State) (f off n align : Nat) (reads : Bool) (hk : ∀ u : State, u.keepsPrivilege (k u)) :
    u.keepsPrivilege (u.frameAccess f off n align reads k) := by
  unfold State.frameAccess State.readPoison
  dsimp only
  split_ifs
  · exact raise_keeps u u _
  · exact raise_keeps u u _
  · split
    · exact raise_keeps u u _
    · exact keeps_from (onMe_privileges u (f := fun x => x.setPois 2) fun _ => rfl) (hk _)
  · exact hk u

theorem scalarAccess_keeps (u : State) (ea : W64) (n : Nat) (reads : Bool) {k : State → Nat → Nat → State}
    (hk : ∀ (u : State) f off, (k u f off).privileges = u.privileges) :
    u.keepsPrivilege (u.scalarAccess ea n reads k) := by
  unfold State.scalarAccess
  split
  · exact raise_keeps u u _
  · exact frameAccess_keeps u _ _ _ _ _ fun v => keeps_of_eq (hk v _ _)

theorem vectorAccess_keeps (u : State) (f : BitVec 6) (a : W64) (used n align : Nat) (reads : Bool)
    {k : State → Nat → State} (hk : ∀ (u : State) off, (k u off).privileges = u.privileges) :
    u.keepsPrivilege (u.vectorAccess f a used n align reads k) := by
  unfold State.vectorAccess
  split
  · exact raise_keeps u u _
  · exact frameAccess_keeps u _ _ _ _ _ fun v => keeps_of_eq (hk v _)

theorem indexed_keeps (u : State) (f : BitVec 6) (ix : VReg) (reads : Bool)
    (hk : ∀ u : State, (k u).privileges = u.privileges) : u.keepsPrivilege (u.indexed f ix reads k) := by
  unfold State.indexed State.readPoison
  dsimp only
  split
  · exact raise_keeps u u _
  · split
    · exact raise_keeps u u _
    · split
      · split
        · exact raise_keeps u u _
        · exact keeps_of_eq ((hk _).trans (onMe_privileges u fun _ => rfl))
      · exact keeps_of_eq (hk u)

theorem load_keeps {d a : BitVec 5} {w : BitVec 3} {x p : BitVec 1} {im : BitVec 5}
    (h : s.load g d a w x p im = .next t) : s.keepsPrivilege t :=
  guarded_keeps h fun u => scalarAccess_keeps u _ _ _ fun v f off => by
    dsimp only
    split_ifs <;> simp

theorem store_keeps {d a : BitVec 5} {w : BitVec 3} {p : BitVec 1} {im : BitVec 5}
    (h : s.store g d a w p im = .next t) : s.keepsPrivilege t :=
  guarded_keeps h fun u => scalarAccess_keeps u _ _ _ fun v f off => by simp

theorem atomic_keeps (u : State) (d a : BitVec 5) (f : State → W64 → W64) : u.keepsPrivilege (u.atomic d a f) :=
  scalarAccess_keeps u _ _ _ fun v _ _ => by simp

theorem falloc_keeps {f : BitVec 6} {a b : BitVec 5} {x : BitVec 1} (h : execFalloc g f a b x s = .next t) :
    s.keepsPrivilege t :=
  guarded_keeps h fun u => by
    dsimp only
    split_ifs
    · exact raise_keeps u u _
    · exact raise_keeps u u _
    · exact raise_keeps u u _
    · exact keeps_of_eq (onFrame_privileges u _ _ _)
    · exact keeps_of_eq (onFrame_privileges u _ _ _)

theorem ffree_keeps {f : BitVec 6} (h : execFfree g f s = .next t) : s.keepsPrivilege t :=
  guarded_keeps h fun u => by
    split
    · exact keeps_of_eq rfl
    · exact keeps_of_eq (clearFrame_privileges u _ _)
    · exact raise_keeps u u _

theorem frenew_keeps {f : BitVec 6} {a : BitVec 5} (h : execFrenew g f a s = .next t) : s.keepsPrivilege t :=
  guarded_keeps h fun u => by
    dsimp only
    split
    · exact raise_keeps u u _
    · split
      · exact raise_keeps u u _
      · exact keeps_of_eq (onFrame_privileges u _ _ _)

theorem fsetx_keeps {f : BitVec 6} {a b : BitVec 5} {x : BitVec 1} (h : execFsetx g f a b x s = .next t) :
    s.keepsPrivilege t :=
  guarded_keeps h fun u => by
    dsimp only
    split
    · exact raise_keeps u u _
    · split
      · exact raise_keeps u u _
      · split <;> exact keeps_of_eq (onFrame_privileges u _ _ _)

/-! ### The C and Y slots -/

theorem operate_keeps (u : State) (acc : BitVec 3) (form : AForm) (b : BitVec 5) (l : BitVec 4) (xc east : BitVec 1)
    (byLoop : Bool) : u.keepsPrivilege (u.operate acc form b l xc east byLoop) := by
  unfold State.operate
  dsimp only
  split
  · exact raise_keeps u u _
  cases form with
  | frame a =>
    dsimp only
    split_ifs
    · exact raise_keeps u u _
    · exact raise_keeps u u _
    · exact raise_keeps u u _
    · exact raise_keeps u u _
    · exact keeps_of_eq (acceptOp_privileges u _ _ _ _ _ _ _ _ _)
  | hold =>
    dsimp only
    split
    · exact keeps_of_eq (acceptOp_privileges u _ _ _ _ _ _ _ _ _)
    · exact raise_keeps u u _
  | handle a =>
    dsimp only
    split
    · exact keeps_of_eq (acceptOp_privileges u _ _ _ _ _ _ _ _ _)
    · exact raise_keeps u u _
  | chain =>
    dsimp only
    split
    · exact keeps_of_eq (acceptOp_privileges u _ _ _ _ _ _ _ _ _)
    · exact raise_keeps u u _

theorem cubeSyllable_keeps {acc : BitVec 3} {form : AForm} {b : BitVec 5} {l : BitVec 4} {xc east : BitVec 1}
    {byLoop : Bool} (h : s.cubeSyllable g acc form b l xc east byLoop = .next t) : s.keepsPrivilege t := by
  unfold State.cubeSyllable at h
  dsimp only at h
  split at h
  · exact next_keeps h (raise_keeps s s _)
  · exact guarded_keeps h fun u => operate_keeps u _ _ _ _ _ _ _

theorem cbld_keeps {sl : BitVec 5} {l : BitVec 4} {a b : BitVec 5} (h : execCbld g sl l a b s = .next t) :
    s.keepsPrivilege t :=
  guarded_keeps h fun u => by
    dsimp only
    split_ifs
    · exact raise_keeps u u _
    · exact raise_keeps u u _
    · exact keeps_of_eq (enqueueCube_privileges u _ _ _ _)

theorem cbldf_keeps {sl : BitVec 5} {l : BitVec 4} {a b : BitVec 5} (h : execCbldf g sl l a b s = .next t) :
    s.keepsPrivilege t :=
  guarded_keeps h fun u => by
    dsimp only
    split_ifs
    · exact raise_keeps u u _
    · exact raise_keeps u u _
    · exact raise_keeps u u _
    · exact raise_keeps u u _
    · exact raise_keeps u u _
    · exact raise_keeps u u _
    · exact keeps_of_eq (enqueueCube_privileges u _ _ _ _)

theorem gangSafe_keeps (h : s.gangSafe g srcs k = .next t) (hk : ∀ u : State, u.keepsPrivilege (k u)) :
    s.keepsPrivilege t :=
  guarded_keeps h fun u => by
    split
    · exact hk u
    · exact raise_keeps u u _

theorem command_keeps {kind : EngineKind} {f : BitVec 6} {a b : BitVec 5} {lu fl : BitVec 1}
    (h : s.command kind g f a b lu fl = .next t) : s.keepsPrivilege t := by
  refine guarded_keeps_of_eq h fun u => ?_
  rw [admitEngine_privileges]
  split
  · exact Eq.trans (onMe_privileges _ fun _ => rfl) (formRec_privileges u _ _ _)
  · exact formRec_privileges u _ _ _

theorem deferTo_seqs {P Q : Pillar} {tray : Nat} {items : List (List W32)} (h : P.deferTo tray items = some Q) :
    Q.seqs = P.seqs := by
  unfold Pillar.deferTo at h
  split at h
  · cases h
  · injection h with h
    rw [← h]

/-- The current pillar replaced by one with the same sequencers. -/
theorem onMine_seqs_privileges {Q : Pillar} (h : Q.seqs = u.mine.seqs) :
    (u.onMine fun _ => Q).privileges = u.privileges := by
  have hQ : u.onMine (fun _ => Q) = u.onMine fun P => { Q with seqs := P.seqs } :=
    congrArg (fun l => { u with pillars := l })
      (upd_congr Pillar.reset (show Q = { Q with seqs := u.mine.seqs } by rw [← h]))
  rw [hQ, State.onMine, onPillar_privileges _ _ fun _ => by rfl]

theorem defer_keeps {v : BitVec 5} {c m : BitVec 3} {y : BitVec 2} (h : execDefer g v c m y s = .next t) :
    s.keepsPrivilege t :=
  guarded_keeps_of_eq h fun u => by
    dsimp only
    split
    next P hP =>
      rw [serveTray_privileges, wakeSeq_privileges, onMine_seqs_privileges (deferTo_seqs hP)]
    · rw [faultRec_privileges, formRec_privileges]

theorem drain_keeps {v : BitVec 5} {c m : BitVec 3} {y : BitVec 2} (h : execDrain g v c m y s = .next t) :
    s.keepsPrivilege t :=
  guarded_keeps_of_eq h fun u => by
    rw [serveTray_privileges, State.onMine, onPillar_privileges _ _ fun _ => by rfl, formRec_privileges]

theorem kpostr_keeps {x : BitVec 5} {a b : BitVec 5} {sc : BitVec 3} (h : execKpostr g x a b sc s = .next t) :
    s.keepsPrivilege t :=
  gangSafe_keeps h fun u => by
    dsimp only
    split
    · exact raise_keeps u u _
    · exact keeps_of_eq rfl

theorem msend_keeps {a b : BitVec 5} {sc : BitVec 3} (h : execMsend g a b sc s = .next t) : s.keepsPrivilege t :=
  guarded_keeps h fun u => by
    dsimp only
    split
    · exact raise_keeps u u _
    · exact keeps_of_eq (Eq.trans (formRec_privileges _ _ _ _) (onPillar_privileges u _ fun _ => rfl))

theorem ecancelF_keeps {a : BitVec 5} (h : execEcancelF g a s = .next t) : s.keepsPrivilege t :=
  guarded_keeps h fun u => by
    dsimp only
    split
    · exact raise_keeps u u _
    · exact keeps_of_eq (cancelCommands_privileges u _)

/-! ### The S0 slot -/

theorem enterLoop_keeps {n : State → W32} {r : BitVec 1} {e : BitVec 9} (h : s.enterLoop g srcs n r e = .next t) :
    s.keepsPrivilege t := by
  unfold State.enterLoop at h
  split at h
  · exact next_keeps h (raise_keeps s s _)
  · refine guarded_keeps_of_eq h fun u => ?_
    dsimp only
    split <;> exact onMe_privileges u fun _ => rfl

theorem lbreak_keeps (h : execLbreak g s = .next t) : s.keepsPrivilege t :=
  guarded_keeps_of_eq h fun u => by
    split
    · rfl
    · rw [endCheck_privileges, onMe_privileges _ fun _ => by rfl]

theorem done_keeps (h : execDone g s = .next t) : s.keepsPrivilege t :=
  guarded_keeps h fun u => by
    have waits (v : State) : (v.onMe fun x => { x with run := .atDone v.cur.addr }).privileges = v.privileges :=
      onMe_privileges v fun _ => rfl
    dsimp only
    split
    · exact keeps_of_eq ((waits _).trans (abandon_privileges u _ _))
    · split
      · exact raise_keeps u u _
      · exact keeps_of_eq (waits u)

theorem raises_keeps {r : State → Raise} (h : s.guarded g srcs (fun u => u.raise (r u)) = .next t) :
    s.keepsPrivilege t :=
  guarded_keeps h fun u => raise_keeps u u _

theorem cropen_keeps {a : BitVec 5} {o : BitVec 2} (h : execCropen g a o s = .next t) : s.keepsPrivilege t :=
  guarded_keeps h fun u => by
    dsimp only
    split
    · exact raise_keeps u u _
    · exact keeps_of_eq (onMe_privileges u fun _ => rfl)

theorem chkerr_keeps (h : execChkerr g s = .next t) : s.keepsPrivilege t :=
  guarded_keeps h fun u => by
    split
    · exact raise_keeps u u _
    · split
      · exact raise_keeps u u _
      · exact keeps_of_eq rfl

theorem halt_keeps (h : execHalt g s = .next t) : s.keepsPrivilege t :=
  guarded_keeps h fun u => by
    split
    · exact raise_keeps u u _
    · exact keeps_of_eq (onMe_privileges u fun _ => rfl)

/-- A CSR instruction of user mode: it raises PRIV, or changes no supervisor CSR (R101). -/
theorem csrOp_keeps {d : BitVec 5} {n : BitVec 10} (h : s.csrOp g srcs d n k = .next t) (hm : s.me.mode = false)
    (hk : n.toNat < 0x100 → ∀ u : State, (k u).privileges = u.privileges) : s.keepsPrivilege t := by
  rcases guarded_cases h with rfl | ⟨_, rfl⟩
  · exact keeps_of_eq rfl
  refine keeps_from (sourced_privileges s srcs) ?_
  split
  · exact raise_keeps _ _ _
  next hn =>
    have hlow : n.toNat < 0x100 := Nat.lt_of_not_le fun hle => hn ⟨hle, by rw [sourced_me, hm]⟩
    exact keeps_of_eq ((toDest_privileges _ _ _ _).trans (hk hlow _))

theorem csrr_keeps {d : BitVec 5} {n : BitVec 10} (h : s.csrOp g [] d n id = .next t) : s.keepsPrivilege t :=
  guarded_keeps h fun u => by
    split
    · exact raise_keeps u u _
    · exact keeps_of_eq (toDest_privileges u _ _ _)

/-- ERET in user mode raises PRIV (R101). -/
theorem eret_keeps (h : execEret g s = .next t) (hm : s.me.mode = false) : s.keepsPrivilege t := by
  rcases guarded_cases h with rfl | ⟨_, rfl⟩
  · exact keeps_of_eq rfl
  · rw [sourced_nil, if_pos hm]
    exact raise_keeps s s _
end

/-! ### Every syllable -/

/-- The syllables that change in supervisor mode what user mode may not: the return, and the writes of CSRs (R101). -/
def changesPrivilege : Instr → Bool
  | .eret .. | .csrw .. | .csrs .. | .csrc .. => true
  | _ => false

/-- What no syllable of user mode changes, and in supervisor mode only ERET and the writes of CSRs (R101, R102). -/
theorem exec_keepsPrivilege {s t : State} {i : Instr} {g : Guard} (hg : guardOfSyllable i = some g)
    (hm : s.me.mode = false ∨ changesPrivilege i = false) (h : exec i s = .next t) : s.keepsPrivilege t := by
  cases i with
  | nop | pmark | cwait | fwait =>
    exact next_keeps h (keeps_of_eq rfl)
  | add | sub | addi | mul | mulh | mulhn | div | divn | rem | remn | andOp | orOp | xorOp | andi | ori | xori | shl
  | shr | sar | shli | shri | sari | rotl | minOp | maxOp | minn | maxn | sel | bfx | bfxs | bfi | clz | ctz | popc
  | bswap | li | lih | mov | addx | time | cyc | fadr =>
    dsimp only [exec] at h
    exact scalar_keeps h
  | cmpeq | cmpne | cmplt | cmple | cmpltn | cmplen | cmpeqi | cmplti | cand | cor | cxor | cnot =>
    dsimp only [exec] at h
    exact compare_keeps h
  | csrr =>
    dsimp only [exec] at h
    exact csrr_keeps h
  | csrw | csrs | csrc =>
    dsimp only [exec] at h
    exact csrOp_keeps h (hm.resolve_right nofun) fun hn u => csrNote_privileges u hn _ _
  | eret =>
    dsimp only [exec] at h
    exact eret_keeps h (hm.resolve_right nofun)
  | br | bri =>
    dsimp only [exec] at h
    exact guarded_keeps_of_eq h fun u => branchTo_privileges u _
  | call | calli =>
    dsimp only [exec] at h
    exact guarded_keeps_of_eq h fun u => by simp
  | loop | loopi =>
    dsimp only [exec] at h
    exact enterLoop_keeps h
  | lbreak =>
    dsimp only [exec] at h
    exact lbreak_keeps h
  | lidx =>
    dsimp only [exec] at h
    exact guarded_keeps_of_eq h fun u => toDest_privileges u _ _ _
  | trap | syscall | bkpt =>
    dsimp only [exec] at h
    exact raises_keeps h
  | done =>
    dsimp only [exec] at h
    exact done_keeps h
  | cropen =>
    dsimp only [exec] at h
    exact cropen_keeps h
  | chkerr =>
    dsimp only [exec] at h
    exact chkerr_keeps h
  | halt =>
    dsimp only [exec] at h
    exact halt_keeps h
  | crclose | waitev | fence | cabort =>
    dsimp only [exec] at h
    exact guarded_keeps_of_eq h fun u => onMe_privileges u fun _ => rfl
  | fencei =>
    dsimp only [exec] at h
    exact guarded_keeps_of_eq h fun u =>
      Eq.trans (onMe_privileges _ fun _ => rfl) (onPillar_privileges u _ fun _ => rfl)
  | ld | ldaq =>
    dsimp only [exec] at h
    exact load_keeps h
  | st | strl =>
    dsimp only [exec] at h
    exact store_keeps h
  | ldv | ldvt | ldvr | ldvb =>
    dsimp only [exec] at h
    exact guarded_keeps h fun u => vectorAccess_keeps u _ _ _ _ _ _ fun v _ => toVec_privileges v _ _ _ _
  | ldp =>
    dsimp only [exec] at h
    exact guarded_keeps h fun u => vectorAccess_keeps u _ _ _ _ _ _ fun v _ => result_privileges v _ _
  | stv | stvr | stp =>
    dsimp only [exec] at h
    exact guarded_keeps h fun u => vectorAccess_keeps u _ _ _ _ _ _ fun v _ => frameStore_privileges v _ _ _
  | ldvx =>
    dsimp only [exec] at h
    exact guarded_keeps h fun u => indexed_keeps u _ _ _ fun v => toVec_privileges v _ _ _ _
  | stvx =>
    dsimp only [exec] at h
    exact guarded_keeps h fun u => indexed_keeps u _ _ _ fun v => onFrame_privileges v _ _ _
  | atom | cas =>
    dsimp only [exec] at h
    exact guarded_keeps h fun u => atomic_keeps u _ _ _
  | falloc =>
    dsimp only [exec] at h
    exact falloc_keeps h
  | ffree =>
    dsimp only [exec] at h
    exact ffree_keeps h
  | frenew =>
    dsimp only [exec] at h
    exact frenew_keeps h
  | fsetx =>
    dsimp only [exec] at h
    exact fsetx_keeps h
  | fstat | xvse | xpsa | xpsc | xpsr | xns | xsve | xsvr | xspr | xsn =>
    dsimp only [exec] at h
    exact guarded_keeps_of_eq h fun u => by simp
  | xsva =>
    dsimp only [exec] at h
    exact guarded_keeps_of_eq h fun u => Eq.trans (stepW_privileges _ _)
      (Eq.trans (result_privileges _ _ _) (onMe_privileges u fun _ => rfl))
  | vabs | vneg | vmov =>
    dsimp only [exec] at h
    exact vv1_keeps h
  | vadd | vsub | vmul | vmin | vmax | viadd | visub | vimul | viadds | vand | vor | vxor | vshl | vshr | vsar
  | vimin | vimax =>
    dsimp only [exec] at h
    exact vv2_keeps h
  | vfma | vfms =>
    dsimp only [exec] at h
    exact vv3_keeps h
  | vaddw | vperm =>
    dsimp only [exec] at h
    exact elementwise_keeps h
  | vcmp | vicmp =>
    dsimp only [exec] at h
    exact vcompare_keeps h
  | vpand | vpor | vpxor | vpnot =>
    dsimp only [exec] at h
    exact vplogic_keeps h
  | fexp2 | flog2 | frcp | frsq | fsqrt | ftanh | fsigm | ferf | fsin | fcos =>
    dsimp only [exec] at h
    exact special_keeps h
  | vrotr | vrotc | vbcr | vbcc | vtrn | vshfr | vshfc =>
    dsimp only [exec] at h
    exact lanes_keeps h
  | vredr | vredc | vscanr | vscanc =>
    dsimp only [exec] at h
    exact reduced_keeps h
  | vsel | viota | vli | vliF | dfromv | dtov | dtovN | dadd | dscale | ddot | ddotB | dmov | dneg | dwsum =>
    dsimp only [exec] at h
    exact guarded_keeps_of_eq h fun u => by simp [State.cosines]
  | vpack | vunpk =>
    dsimp only [exec] at h
    exact guarded_keeps_of_eq h fun u => by simp [trnFlag_privileges]
  | vcvt =>
    dsimp only [exec] at h
    exact vcvt_keeps h
  | vacc =>
    dsimp only [exec] at h
    exact vacc_keeps h
  | vdrain =>
    dsimp only [exec] at h
    exact guarded_keeps_of_eq h fun u => Eq.trans (toVec_privileges _ _ _ _ _) (onMe_privileges u fun _ => rfl)
  | cset | cfmt =>
    dsimp only [exec] at h
    exact guarded_keeps_of_eq h fun u => Eq.trans (enqueueCube_privileges _ _ _ _ _) (onMe_privileges u fun _ => rfl)
  | czero =>
    dsimp only [exec] at h
    exact guarded_keeps_of_eq h fun u => Eq.trans (enqueueCube_privileges _ _ _ _ _) (onAcc_privileges u _ _ _ _)
  | cbnd =>
    dsimp only [exec] at h
    exact guarded_keeps_of_eq h fun u => enqueueCube_privileges u _ _ _ _
  | cbld =>
    dsimp only [exec] at h
    exact cbld_keeps h
  | cbldf =>
    dsimp only [exec] at h
    exact cbldf_keeps h
  | cmma | cmmat | cmmah | cchain =>
    dsimp only [exec] at h
    exact cubeSyllable_keeps h
  | cprog | wswin =>
    dsimp only [exec] at h
    exact guarded_keeps_of_eq h fun u => result_privileges u _ _
  | kwait =>
    dsimp only [exec] at h
    exact gangSafe_keeps h fun u => keeps_of_eq rfl
  | kpost | kset =>
    dsimp only [exec] at h
    exact gangSafe_keeps h fun u => keeps_of_eq (changeFlag_privileges u _ _ _)
  | krd =>
    dsimp only [exec] at h
    exact gangSafe_keeps h fun u => keeps_of_eq (result_privileges u _ _)
  | kpostr =>
    dsimp only [exec] at h
    exact kpostr_keeps h
  | copyin | copyout | gather | scatter | atomg =>
    dsimp only [exec] at h
    exact command_keeps h
  | msend =>
    dsimp only [exec] at h
    exact msend_keeps h
  | defer =>
    dsimp only [exec] at h
    exact defer_keeps h
  | drain =>
    dsimp only [exec] at h
    exact drain_keeps h
  | jraise | jpost =>
    dsimp only [exec] at h
    exact guarded_keeps_of_eq h fun u => formRec_privileges u _ _ _
  | dsync =>
    dsimp only [exec] at h
    exact gangSafe_keeps h fun u => keeps_of_eq (Eq.trans (onMe_privileges _ fun _ => rfl) (formRec_privileges u _ _ _))
  | ecancel | ecancelK =>
    dsimp only [exec] at h
    exact guarded_keeps_of_eq h fun u => cancelCommands_privileges u _
  | ecancelF =>
    dsimp only [exec] at h
    exact ecancelF_keeps h
  | _ => nomatch hg

theorem privileged_field {α : Type} (π : Seq → α) {x y : Seq} (h : x.privileged = y.privileged)
    (hπ : ∀ x : Seq, π x.privileged = π x := by intro; rfl) : π x = π y := by
  rw [← hπ x, h, hπ y]

theorem exec_eret_refused {s : State} {g : Guard} (h : s.enabled g []) (hm : s.me.mode = false) :
    exec (.eret g) s = .next (s.raise ⟨cPriv, s.sylInfo 0, none, none, false⟩) := by
  show execEret g s = _
  rw [execEret, guarded_on s g [] _ h, sourced_nil, if_pos hm, cause]

theorem exec_halt_refused {s : State} {g : Guard} (h : s.enabled g []) (hm : s.me.mode = false) :
    exec (.halt g) s = .next (s.raise ⟨cPriv, s.sylInfo 0, none, none, false⟩) := by
  show execHalt g s = _
  rw [execHalt, guarded_on s g [] _ h, sourced_nil, if_pos hm, cause]

/-- Only ERET changes the mode, and in supervisor mode alone (R101, R102, R192). -/
theorem exec_mode {s t : State} {i : Instr} {g : Guard} (hg : guardOfSyllable i = some g) (h : exec i s = .next t)
    (ht : t.cur.trap = none) (hm : t.me.mode ≠ s.me.mode) : i = .eret g ∧ s.me.mode = true := by
  have kept (hp : s.me.mode = false ∨ changesPrivilege i = false) : False :=
    hm (privileged_field Seq.mode (privileges_me (exec_keepsPrivilege hg hp h ht)))
  have hsup : s.me.mode = true := Bool.eq_true_of_not_eq_false fun hu => kept (.inl hu)
  have settled (ha : s.adds t) : False := by
    obtain ⟨-, -, -, -, -, hs, -⟩ := ha
    exact hm (show t.me.settled.mode = s.me.settled.mode by rw [hs])
  cases i with
  | eret g' =>
    injection hg with hg
    exact ⟨hg ▸ rfl, hsup⟩
  | csrw g' d a n => exact (settled (csrw_adds g' d a n h ht)).elim
  | csrs g' d a n => exact (settled (csrs_adds g' d a n h ht)).elim
  | csrc g' d a n => exact (settled (csrc_adds g' d a n h ht)).elim
  | _ => exact (kept (.inr rfl)).elim

/-- Settles O6: PRIV is the first thing that such a syllable comes to; every other syllable of user mode keeps the
privileges, by its own meaning, and in supervisor mode a CSR write changes nothing but what is on its way. -/
theorem privilege : Obligations.Privilege := by
  unfold Obligations.Privilege
  refine ⟨fun s g d a n hm hn => ⟨fun h => ?_, fun h => ?_⟩, fun s t i g hg hm _ h ht w hw => ?_,
    fun s t i g hg _ h ht => ⟨exec_mode hg h ht, fun hm => ?_⟩⟩
  · exact ⟨csrOp_refused h hn hm, exec_eret_refused h hm, exec_halt_refused h hm⟩
  · have refused (c : CsrChange) :=
      csrOp_refused (d := d) (change := fun u => u.csrNote n.toNat c (u.src a)) h hn hm
    exact ⟨refused .write, refused .set, refused .clear⟩
  · by_cases hw' : w.num < 0x100
    · exact .inr hw'
    · have hsup : t.me.csrws.filter (fun w => 0x100 ≤ w.num) = s.me.csrws.filter fun w => 0x100 ≤ w.num :=
        congrArg Seq.csrws (privileges_me (exec_keepsPrivilege hg (.inl hm) h ht))
      have hin : w ∈ t.me.csrws.filter fun w => 0x100 ≤ w.num := List.mem_filter.2 ⟨hw, by simpa using hw'⟩
      exact .inl (List.mem_of_mem_filter (hsup ▸ hin))
  · have hk := privileges_me (exec_keepsPrivilege hg (.inl hm) h ht)
    exact ⟨(privileged_field Seq.mode hk).trans hm, privileged_field Seq.tvec hk, privileged_field Seq.epc hk,
      privileged_field Seq.ebt hk, privileged_field Seq.ecause hk, privileged_field Seq.einfo hk,
      privileged_field Seq.sscr0 hk, privileged_field Seq.sscr1 hk, privileged_field Seq.pmode hk,
      privileged_field Seq.bd hk⟩

end Sys2Proof.Machine
end

section
/-! PROOFS. Results landing (O37, R91, R158, R162): the order of landing, what each kind of result writes, alone and
over an earlier one. -/

namespace Sys2Proof.Machine

/-! ### The order of landing -/

/-- One result lands before another: by ic, then slot, then issue (R162). -/
def Landing.first (a b : Landing) : Prop :=
  a.land < b.land ∨ (a.land = b.land ∧ (a.slot < b.slot ∨ (a.slot = b.slot ∧ a.order < b.order)))

theorem before_iff (a b : Landing) : a.before b = true ↔
    a.land < b.land ∨ (a.land = b.land ∧ (a.slot < b.slot ∨ (a.slot = b.slot ∧ a.order ≤ b.order))) := by
  simp [Landing.before]

theorem before_of_first {a b : Landing} (h : a.first b) : a.before b = true := by
  rw [before_iff]
  unfold Landing.first at h
  omega

theorem not_before_of_first {a b : Landing} (h : a.first b) : ¬ b.before a = true := by
  rw [before_iff]
  unfold Landing.first at h
  omega

theorem before_trans {a b c : Landing} (h : a.before b = true) (k : b.before c = true) : a.before c = true := by
  rw [before_iff] at *
  omega

theorem before_of_not {a b : Landing} (h : ¬ a.before b = true) : b.before a = true := by
  rw [before_iff] at *
  omega

theorem insertLanding_perm (x : Landing) (l : List Landing) : (insertLanding x l).Perm (x :: l) := by
  induction l with
  | nil => exact .refl _
  | cons y ys ih =>
    rw [insertLanding]
    split
    · exact (ih.cons y).trans (.swap x y ys)
    · exact .refl _

theorem insertLanding_sorted (x : Landing) {l : List Landing} (h : l.Pairwise fun a b => a.before b = true) :
    (insertLanding x l).Pairwise fun a b => a.before b = true := by
  induction l with
  | nil => exact List.pairwise_singleton _ _
  | cons y ys ih =>
    obtain ⟨hy, hys⟩ := List.pairwise_cons.1 h
    rw [insertLanding]
    split
    next hyx =>
      refine List.pairwise_cons.2 ⟨fun z hz => ?_, ih hys⟩
      rcases List.mem_cons.1 ((insertLanding_perm x ys).mem_iff.1 hz) with rfl | hz
      · exact hyx
      · exact hy z hz
    next hyx =>
      have hxy := before_of_not hyx
      refine List.pairwise_cons.2 ⟨fun z hz => ?_, h⟩
      rcases List.mem_cons.1 hz with rfl | hz
      · exact hxy
      · exact before_trans hxy (hy z hz)

theorem sortLandings_append (xs : List Landing) (x : Landing) :
    sortLandings (xs ++ [x]) = insertLanding x (sortLandings xs) := by
  simp [sortLandings]

theorem sortLandings_perm (xs : List Landing) : (sortLandings xs).Perm xs := by
  induction xs using List.reverseRecOn with
  | nil => exact .refl _
  | append_singleton xs x ih =>
    rw [sortLandings_append]
    exact (insertLanding_perm x _).trans ((ih.cons x).trans (List.perm_append_singleton x xs).symm)

theorem sortLandings_sorted (xs : List Landing) : (sortLandings xs).Pairwise fun a b => a.before b = true := by
  induction xs using List.reverseRecOn with
  | nil => exact List.Pairwise.nil
  | append_singleton xs x ih =>
    rw [sortLandings_append]
    exact insertLanding_sorted x ih

/-- Results of which any two come one first have one landing order. -/
theorem sortLandings_eq {xs ls : List Landing} (hp : ls.Perm xs) (hs : ls.Pairwise Landing.first) :
    sortLandings xs = ls := by
  have hperm : (sortLandings xs).Perm ls := (sortLandings_perm xs).trans hp.symm
  have apart : ls.Pairwise fun a b => a.before b = true → b.before a = true → a = b :=
    hs.imp fun h _ hba => absurd hba (not_before_of_first h)
  have alike := List.Pairwise.forall_of_forall_of_flip (fun _ _ _ _ => rfl) apart
    (apart.imp fun h hba hab => (h hab hba).symm)
  exact hperm.eq_of_pairwise (fun a b ha hb => alike (hperm.mem_iff.1 ha) hb) (sortLandings_sorted xs)
    (hs.imp before_of_first)

/-! ### What lands -/

/-- What is not yet due of a sequencer, nothing landed (R158). -/
def Seq.undue (x : Seq) (t : Nat) : Seq := { x with inflight := x.inflight.filter fun l => t < l.land }

theorem landUpTo_sorted {x : Seq} {t : Nat} {ls : List Landing} (hp : ls.Perm (x.inflight.filter fun l => l.land ≤ t))
    (hs : ls.Pairwise Landing.first) : x.landUpTo t = ls.foldl (fun y l => l.what.land y) (x.undue t) := by
  rw [Seq.landUpTo, sortLandings_eq hp hs, Seq.undue]

theorem landUpTo_one {x : Seq} {t : Nat} {l : Landing} (h : (x.inflight.filter fun l => l.land ≤ t) = [l]) :
    x.landUpTo t = l.what.land (x.undue t) :=
  landUpTo_sorted (ls := [l]) (h ▸ .refl _) (List.pairwise_singleton _ _)

theorem landUpTo_two {x : Seq} {t : Nat} {a b : Landing} (h : (x.inflight.filter fun l => l.land ≤ t).Perm [a, b])
    (hab : a.first b) : x.landUpTo t = b.what.land (a.what.land (x.undue t)) :=
  landUpTo_sorted (ls := [a, b]) h.symm (List.pairwise_pair.2 hab)

/-- A landing leaves what is in flight (R158). -/
theorem land_inflight (w : Payload) (x : Seq) : (w.land x).inflight = x.inflight := by
  cases w <;> rfl

theorem landUpTo_inflight (x : Seq) (t : Nat) : (x.landUpTo t).inflight = x.inflight.filter fun l => t < l.land := by
  have kept (ls : List Landing) (y : Seq) : (ls.foldl (fun y l => l.what.land y) y).inflight = y.inflight := by
    induction ls generalizing y with
    | nil => rfl
    | cons l ls ih => rw [List.foldl_cons, ih, land_inflight]
  exact kept _ _

theorem take_append_take {α : Type} (n : Nat) (l m : List α) : (l ++ m.take n).take n = (l ++ m).take n := by
  rw [List.take_append, List.take_append, List.take_take, Nat.min_eq_left (Nat.sub_le _ _)]

/-- Pushes land one on another, the last of them in q0, and the queue keeps 16 entries (R91). -/
theorem foldl_push {ls : List Landing} {vs : List W64} (hw : ls.map Landing.what = vs.map Payload.push) {x : Seq}
    (hq : x.queue.length = 16) :
    ls.foldl (fun y l => l.what.land y) x = { x with queue := (vs.reverse ++ x.queue).take 16 } := by
  induction vs generalizing ls x with
  | nil =>
    rw [List.map_nil, List.map_eq_nil_iff] at hw
    subst hw
    simp [← hq]
  | cons v vs ih =>
    obtain ⟨l, ls, rfl, hv, hvs⟩ := List.map_eq_cons_iff.1 hw
    have hstep : l.what.land x = { x with queue := (v :: x.queue).take 16 } := by rw [hv]; rfl
    rw [List.foldl_cons, hstep, ih hvs (by simp [hq])]
    rw [List.reverse_cons, List.append_assoc, List.singleton_append]
    exact congrArg (fun q => { x with queue := q }) (take_append_take 16 vs.reverse (v :: x.queue))

/-! ### Where two results write -/

/-- An update of one place gives it one value. -/
theorem upd_const {α : Type} (l : List α) (n : Nat) (f : α → α) (d : α) : upd l n f = upd l n fun _ => f (l.getD n d) :=
  upd_congr d rfl

theorem at0_mergeMask (m : PReg) (o v : VReg) {e : Nat} (he : e < 1024) :
    at0 (mergeMask m o v) e = if m.on e then at0 v e else at0 o e := mergeMask_getD m o v e he

/-- Two masked writes: the later value where both write, the earlier one's where it alone does (R162). -/
theorem mergeMask_mergeMask (m n : PReg) (o v w : VReg) : mergeMask n (mergeMask m o v) w =
    VReg.of fun e => if n.on e then at0 w e else if m.on e then at0 v e else at0 o e := by
  refine List.map_congr_left fun e he => ?_
  change (if n.on e then at0 w e else at0 (mergeMask m o v) e) = _
  rw [at0_mergeMask m o v (List.mem_range.1 he)]

theorem landElems_landElems (c : Acc) (m n : PReg) (v w : VReg) : (c.landElems v m).landElems w n =
    { c with elems := VReg.of fun e => if n.on e then at0 w e else if m.on e then at0 v e else at0 c.elems e } := by
  simp only [Acc.landElems, mergeMask_mergeMask]

theorem at0_mergeRows (rows : BitVec 16) (o v : List W16) (width : Nat) {i : Nat} (hi : i < 16 * width) :
    at0 (mergeRows rows o v width) i = if bit rows (i / width) then at0 v i else at0 o i := by
  rw [at0, mergeRows, List.getD_eq_getElem?_getD, List.getElem?_map, List.getElem?_range hi]
  rfl

theorem mergeRows_mergeRows (m n : BitVec 16) (o v w : List W16) (width : Nat) :
    mergeRows n (mergeRows m o v width) w width = (List.range (16 * width)).map fun i =>
      if bit n (i / width) then at0 w i else if bit m (i / width) then at0 v i else at0 o i := by
  refine List.map_congr_left fun i hi => ?_
  rw [at0_mergeRows m o v width (List.mem_range.1 hi)]

theorem mergeRows_mergeRows_wide (m n : BitVec 16) (o v w : List W16) : mergeRows n (mergeRows m o v 64) w 64 =
    (List.range 1024).map fun i =>
      if n.getLsbD (i / 64) then at0 w i else if m.getLsbD (i / 64) then at0 v i else at0 o i :=
  mergeRows_mergeRows m n o v w 64

theorem mergeRows_one (rows : BitVec 16) (o v : List W16) : mergeRows rows o v 1 =
    (List.range 16).map fun i => if rows.getLsbD i then at0 v i else at0 o i := by
  simp only [mergeRows, Nat.div_one, Nat.mul_one, bit]

theorem mergeRows_mergeRows_one (m n : BitVec 16) (o v w : List W16) : mergeRows n (mergeRows m o v 1) w 1 =
    (List.range 16).map fun i => if n.getLsbD i then at0 w i else if m.getLsbD i then at0 v i else at0 o i := by
  simp only [mergeRows_mergeRows, Nat.div_one, Nat.mul_one, bit]

theorem mergePred_on (m o v : PReg) {e : Nat} (he : e < 1024) :
    (mergePred m o v).on e = if m.on e then v.on e else o.on e := by
  have hrow : e / 64 < 16 := by omega
  rw [PReg.on, mergePred, List.getD_eq_getElem?_getD, List.getElem?_map, List.getElem?_range hrow]
  change bit ((at0 o (e / 64) &&& ~~~at0 m (e / 64)) ||| (at0 v (e / 64) &&& at0 m (e / 64))) (e % 64) = _
  have hm : m.on e = (at0 m (e / 64)).getLsbD (e % 64) := rfl
  have hcol : e % 64 < 64 := Nat.mod_lt _ (by decide)
  simp only [bit, BitVec.getLsbD_or, BitVec.getLsbD_and, BitVec.getLsbD_not, hm, hcol]
  cases (at0 m (e / 64)).getLsbD (e % 64) <;> simp [PReg.on, bit, at0]

/-- `CHKINT` after a landing: the bits [7:0] that come are set, and PSITE comes with the poison bit when it was 0
(R353). -/
theorem chkSet_low (old b : W64) : (chkSet old b).extractLsb' 0 8 = old.extractLsb' 0 8 ||| b.extractLsb' 0 8 := by
  ext i hi
  unfold chkSet
  split <;> interval_cases i <;> simp

theorem chkSet_site (old b : W64) (hb : b.getLsbD 0 = true) :
    (chkSet old b).extractLsb' 8 4 = if old.getLsbD 0 then old.extractLsb' 8 4 else b.extractLsb' 8 4 := by
  unfold chkSet bit
  cases ho : old.getLsbD 0
  · rw [if_pos (by simp [hb])]
    ext i hi
    interval_cases i <;> simp
  · rw [if_neg (by simp)]
    ext i hi
    interval_cases i <;> simp

/-- Settles O37: the results due land in their order; each kind is one update of its own part, two of one part the
update of both. -/
theorem landings : Obligations.Landings := by
  unfold Obligations.Landings
  intro x t
  refine ⟨landUpTo_inflight x t, fun ls vs hp hs hw hq => (landUpTo_sorted hp hs).trans (foldl_push hw hq),
    fun l hl => ?_, fun a b hp hab => ?_⟩
  · have hy := landUpTo_one hl
    refine ⟨fun r v hw => ?_, fun c b hw => ?_, fun r v m hw => ?_, fun r v m hw => ?_, fun r v m hw => ?_,
      fun r vs hw => ?_, fun r v rows hw => ?_, fun r v rows hw => ?_, fun b hw => ?_⟩
    all_goals rw [hy, hw]
    · rfl
    · rfl
    · rfl
    · exact ⟨mergePred m (x.vpreds.getD r pZero) v,
        congrArg (fun l => { x.undue t with vpreds := l }) (upd_const x.vpreds r _ pZero),
          fun e he => mergePred_on m _ v he⟩
    · rfl
    · rfl
    · rfl
    · simp only [← mergeRows_one]
      rfl
    · exact ⟨_, _, rfl, chkSet_low _ b, chkSet_low _ b, chkSet_site _ b⟩
  · have hy := landUpTo_two hp hab
    refine ⟨fun r v w ha hb => ?_, fun c v w ha hb => ?_, fun r v w m n ha hb => ?_, fun r v w m n ha hb => ?_,
      fun r v w m n ha hb => ?_, fun r v w m n ha hb => ?_, fun r v w m n ha hb => ?_⟩
    all_goals rw [hy, ha, hb]
    · exact congrArg (fun l => { x.undue t with named := l }) (upd_upd ..)
    · exact congrArg (fun l => { x.undue t with preds := l }) (upd_upd ..)
    · simp only [← mergeMask_mergeMask]
      exact congrArg (fun l => { x.undue t with vregs := l }) (upd_upd ..)
    · refine ⟨mergePred n (mergePred m (x.vpreds.getD r pZero) v) w, congrArg (fun l => { x.undue t with vpreds := l })
        ((upd_upd ..).trans (upd_const x.vpreds r _ pZero)), fun e he => ?_⟩
      rw [mergePred_on n _ w he, mergePred_on m _ v he]
    · have ht := upd_upd x.accs r (fun c => c.landElems v m) fun c => c.landElems w n
      simp only [landElems_landElems] at ht
      exact congrArg (fun l => { x.undue t with accs := l }) ht
    · simp only [← mergeRows_mergeRows_wide]
      exact congrArg (fun l => { x.undue t with dirs := l })
        (upd_upd x.dirs r (fun o => mergeRows m o v 64) fun o => mergeRows n o w 64)
    · simp only [← mergeRows_mergeRows_one]
      exact congrArg (fun l => { x.undue t with norms := l })
        (upd_upd x.norms r (fun o => mergeRows m o v 1) fun o => mergeRows n o w 1)

end Sys2Proof.Machine
end

section
/-! PROOFS. Pre-emption (O48): the request, the stop of a sequencer (R335, R339), the kill, the restore, and the
invalidation of translations (R348). -/

namespace Sys2Proof.Machine

/-! ### The request and the kill -/

section
variable {s : State} {j : Nat}

theorem exec_preemptRequest_none (h : (s.stack s.who.st).job = none) : exec .preemptRequest s =
    .next (s.onStack s.who.st fun k => { k with stopped := true, restored := false }) := by
  show execPreemptRequest s = _
  simp only [execPreemptRequest, h]

theorem exec_preemptRequest_some (h : (s.stack s.who.st).job = some j) : exec .preemptRequest s =
    .next (if (s.stack s.who.st).req then s
      else if (s.stack s.who.st).holdsJob j && !s.runsOn (s.ownedStacks s.who.st j) j then
        s.onStack s.who.st fun k => { k with stopped := true, restored := false }
      else (s.ownedStacks s.who.st j).foldl (fun s t =>
        if (s.stack t).job = some j ∧ !(s.stack t).req then
          (s.onStack t fun k => { k with
            req := true
            stopped := false
            restored := false
            reqAt := some (s.time, j)
            parked := mark k.parked j }).wakeStack t
        else s.onStack t fun k => { k with parked := mark k.parked j }) s) := by
  show execPreemptRequest s = _
  simp only [execPreemptRequest, h]

theorem exec_preemptKill_some {at_ : Nat} (h : (s.stack s.who.st).reqAt = some (at_, j)) :
    exec .preemptKill s = .next (if (s.preemptGroup s.who.st).any fun t => (pillarsOf t).any fun p =>
      [0, 1].any fun q => !(s.seq p q).hasStopped then s.killJob cPreempt j (s.preemptGroup s.who.st) else s) := by
  show execPreemptKill s = _
  simp only [execPreemptKill, h]

/-- Whether some sequencer of a stack has still to stop (R340). -/
theorem some_runs_iff (s : State) (st : Nat) :
    ((pillarsOf st).any fun p => [0, 1].any fun q => !(s.seq p q).hasStopped) = true ↔
      ∃ p ∈ pillarsOf st, ∃ q < 2, (s.seq p q).hasStopped = false := by
  have two (f : Nat → Bool) : ([0, 1].any fun q => !f q) = true ↔ ∃ q < 2, f q = false := by
    simp only [List.any_cons, List.any_nil, Bool.or_false, Bool.or_eq_true, Bool.not_eq_true']
    refine ⟨fun h => h.elim (fun h => ⟨0, by decide, h⟩) fun h => ⟨1, by decide, h⟩, fun ⟨q, hq, h⟩ => ?_⟩
    interval_cases q
    · exact .inl h
    · exact .inr h
  simp only [List.any_eq_true, two]
end

/-! ### The stop of a sequencer -/

/-- A sequencer as its CSR changes, none of them on its way, are flushed at a stop (R335, R353). -/
def Seq.flushed (x : Seq) : Seq := { x with csrws := [], chkint := chkSet x.chkint x.chkNow }

/-- A sequencer with the busy bits of the tiles gone that nothing writes any more (R157). -/
def Seq.unbusied (x : Seq) (written : Nat → Bool) : Seq :=
  { x with accs := x.accs.mapIdx fun a t => { t with busy := t.busy && written a } }

/-- A sequencer's place in its program and what a stop does not touch of it. -/
def Seq.course (x : Seq) : W64 × Bool × List Rec × List Region × W64 × W64 × Run :=
  (x.pc, x.mode, x.recs, x.regions, x.ecause, x.epc, x.run)

theorem land_course (w : Payload) (x : Seq) : (w.land x).course = x.course := by
  cases w <;> rfl

theorem landUpTo_course (x : Seq) (t : Nat) : (x.landUpTo t).course = x.course := by
  have kept (ls : List Landing) (y : Seq) : (ls.foldl (fun y l => l.what.land y) y).course = y.course := by
    induction ls generalizing y with
    | nil => rfl
    | cons l ls ih => rw [List.foldl_cons, ih, land_course]
  exact kept _ _

theorem landUpTo_nil {x : Seq} (t : Nat) (h : x.inflight = []) : x.landUpTo t = x := by
  rw [Seq.landUpTo, h]
  exact congrArg (fun l => { x with inflight := l }) h.symm

theorem capture_course (x : Seq) (t : Nat) : (x.capture t).course = x.course := landUpTo_course x t

section
variable {s : State} {p q : Nat}

theorem csrPut_mem (s : State) (p q n : Nat) (v : W64) : (s.csrPut p q n v).mem = s.mem := by
  unfold State.csrPut State.writeDomm
  dsimp only
  repeat' split
  all_goals rfl

theorem csrApply_mem (s : State) (p q : Nat) (w : CsrWrite) : (s.csrApply p q w).mem = s.mem := by
  unfold State.csrApply
  split
  · exact csrPut_mem s _ _ _ _
  · exact csrPut_mem s _ _ _ _
  · split
    · rfl
    · exact csrPut_mem s _ _ _ _
  · rfl

theorem flushAtTrap_mem (s : State) (p q : Nat) : (s.flushAtTrap p q).mem = s.mem := by
  have kept (l : List CsrWrite) (u : State) : (l.foldl (fun u w => u.csrApply p q w) u).mem = u.mem := by
    induction l generalizing u with
    | nil => rfl
    | cons w l ih => rw [List.foldl_cons, ih, csrApply_mem]
  exact kept _ _

/-- A stop with no CSR change on its way is a change of the one sequencer. -/
theorem stop_seq (hp : p < s.pillars.length) (hq : q < (s.pillar p).seqs.length) (hc : (s.seq p q).csrws = [])
    (f : Seq → Seq) :
    ∃ written, (((s.flushAtTrap p q).onSeq p q f).settle p q).seq p q = (f (s.seq p q).flushed).unbusied written := by
  have hflush : s.flushAtTrap p q = (s.onSeq p q fun x => { x with csrws := [] }).onSeq p q fun x =>
      { x with chkint := chkSet x.chkint x.chkNow } := by
    rw [State.flushAtTrap, State.csrFlush, hc]
    rfl
  rw [hflush]
  refine ⟨_, (onSeq_self _ p q _ ?_ ?_).trans (congrArg (fun x => Seq.unbusied x _) ?_)⟩
  · simpa using hp
  · simpa [onSeq_seqs_length] using hq
  · rw [onSeq_self _ p q f (by simpa using hp) (by simpa [onSeq_seqs_length] using hq),
      onSeq_self _ p q _ (by simpa using hp) (by simpa [onSeq_seqs_length] using hq), onSeq_self s p q _ hp hq]
    rfl

theorem exec_preemptStop (s : State) :
    exec .preemptStop s = .next (((s.flushAtTrap s.who.p s.who.q).onSeq s.who.p s.who.q fun x =>
      x.stopAt ((s.pillar s.who.p).ic + 1)).settle s.who.p s.who.q) := rfl

theorem stopIdle_idle (h : (s.seq p q).run = .idle) : s.stopIdle p q = ((s.flushAtTrap p q).onSeq p q fun x =>
    { x.capture (s.pillar p).ic with notBefore := (s.pillar p).ic + 4 }).settle p q := by
  rw [State.stopIdle]
  exact if_pos h

theorem unbusied_elems (x : Seq) (written : Nat → Bool) :
    (x.unbusied written).accs.map Acc.elems = x.accs.map Acc.elems := by
  refine List.ext_getElem? fun i => ?_
  cases h : x.accs[i]? <;> simp [Seq.unbusied, h]
end

/-! ### The restore -/

section
variable (s : State) (p : Nat)

theorem foldl_stks {α : Type} {f : State → α → State} (hf : ∀ s a, (f s a).stks = s.stks) (l : List α) :
    (l.foldl f s).stks = s.stks := by
  induction l generalizing s with
  | nil => rfl
  | cons a l ih => rw [List.foldl_cons, ih, hf]

theorem restoreFrame_stks (f base : Nat) : (s.restoreFrame p f base).stks = s.stks := by
  unfold State.restoreFrame
  dsimp only
  split_ifs <;> simp

theorem restoreSeq_stks (q base job : Nat) : (s.restoreSeq p q base job).stks = s.stks := by
  unfold State.restoreSeq
  dsimp only
  rw [foldl_stks _ fun u r => by split <;> rfl]
  rfl

theorem restorePillar_stks (job : Nat) : (s.restorePillar p job).stks = s.stks := by
  have hframes := foldl_stks s (f := fun u f => u.restoreFrame p f (s.imageAt p)) (fun u f => restoreFrame_stks u p f _)
    (List.range 64)
  unfold State.restorePillar
  dsimp only
  rw [onPillar_stacks, restoreSeq_stks, restoreSeq_stks, onPillar_stacks, hframes]
end

/-- An honoured restore of job j (R345) with no sequencer entered yet: the stack drained for the job, its pillars'
images loaded, the request's bits set. -/
def State.reloaded (s : State) (st j : Nat) : State :=
  ((pillarsOf st).foldl (fun s p => s.restorePillar p j) (if (s.stack st).job = some j then s
    else (s.clearStack st).onStack st fun k => { k with job := some j })).onStack st fun k =>
      { k with restored := true, stopped := false, parked := k.parked.filter (· ≠ j) }

/-- The two sequencers of a restored pillar entered (R345). -/
def State.entered (s : State) (p : Nat) : State :=
  ([0, 1].foldl (fun s q => s.onSeq p q fun x =>
    if x.iter.isNone || x.run = .halted then x else x.enterPreempt true (s.pillar p).ic) s).wake p

theorem exec_restore (s : State) : exec .restore s = .next (if !s.mayRestore s.who.st then s
    else if !s.imageFits s.who.st then s.killJob cPreempt (s.imageJob s.who.st) [s.who.st]
    else (pillarsOf s.who.st).foldl State.entered (s.reloaded s.who.st (s.imageJob s.who.st))) := rfl

theorem entered_stks (s : State) (p : Nat) : (s.entered p).stks = s.stks := by
  rw [State.entered, wake_stacks, List.foldl_cons, List.foldl_cons, List.foldl_nil, onSeq_stacks, onSeq_stacks]

/-- The sequencers' entries leave the stack as the restore's own step set it (R345). -/
theorem reloaded_stack (s : State) {st : Nat} (j : Nat) (h : st < s.stks.length) :
    let k := ((pillarsOf st).foldl State.entered (s.reloaded st j)).stack st
    k.restored = true ∧ k.stopped = false ∧ j ∉ k.parked := by
  have hl : st < ((pillarsOf st).foldl (fun s p => s.restorePillar p j) (if (s.stack st).job = some j then s
      else (s.clearStack st).onStack st fun k => { k with job := some j })).stks.length := by
    rw [foldl_stks _ fun u p => restorePillar_stks u p j]
    split
    · exact h
    · rwa [onStack_length, clearStack_stks_length]
  have hk : ((pillarsOf st).foldl State.entered (s.reloaded st j)).stack st = (s.reloaded st j).stack st := by
    rw [State.stack, foldl_stks _ entered_stks, State.stack]
  have hset (k : Stack) : let y := { k with restored := true, stopped := false, parked := k.parked.filter (· ≠ j) }
      y.restored = true ∧ y.stopped = false ∧ j ∉ y.parked := ⟨rfl, rfl, by simp⟩
  dsimp only
  rw [hk, State.reloaded, onStack_self _ st _ hl]
  exact hset _

theorem exec_contextSave (s : State) : exec .contextSave s = .next (if s.mayContextSave s.who.st then
    (s.preemptGroup s.who.st).foldl (fun s t => s.saveStack t) s else s) := rfl

theorem exec_preemptKill_none {s : State} (h : (s.stack s.who.st).reqAt = none) : exec .preemptKill s = .next s := by
  show execPreemptKill s = _
  simp only [execPreemptKill, h]

/-! ### Entries and invalidation -/

theorem enterPreempt_words (x : Seq) (resume : Bool) (ic : Nat) :
    ((x.enterPreempt resume ic).ecause.extractLsb' 0 8).toNat = cPreempt ∧
      (x.enterPreempt resume ic).einfo.getLsbD 0 = resume ∧
      (x.enterPreempt resume ic).einfo.getLsbD 1 = x.iter.isNone := by
  refine ⟨by simp only [Seq.enterPreempt]; decide, ?_⟩
  simp only [Seq.enterPreempt]
  cases resume <;> cases x.iter.isNone <;> decide

theorem exec_tlbInvalidate (s : State) : exec .tlbInvalidate s = .next (s.onStack s.who.st fun k =>
    { k with
      inval := setBits k.inval 17 1 0
      tlb := k.tlb.filter fun t => !(t.job = bits k.inval 0 16 &&
        (bit k.inval 16 || (t.va ≤ k.iva.toNat && k.iva.toNat < t.va + t.size))) }) := rfl

/-! ### The stop's sequencer -/

section
variable {s : State} {p q : Nat}

/-- What a stop keeps of a sequencer none of whose CSR changes are on their way (R335, R339). -/
theorem stopped_seq (hp : p < s.pillars.length) (hq : q < (s.pillar p).seqs.length) (hc : (s.seq p q).csrws = [])
    (t : Nat) :
    let y := (((s.flushAtTrap p q).onSeq p q fun x => x.stopAt t).settle p q).seq p q
    y.run = .stopped ∧ y.inflight = [] ∧ y.course = ({ s.seq p q with run := .stopped } : Seq).course ∧
      ((s.seq p q).inflight = [] → y.accs.map Acc.elems = (s.seq p q).accs.map Acc.elems ∧
        y.named = (s.seq p q).named ∧ y.queue = (s.seq p q).queue) := by
  obtain ⟨written, hy⟩ := stop_seq hp hq hc fun x => x.stopAt t
  dsimp only
  rw [hy]
  have hcourse := capture_course (s.seq p q).flushed t
  simp only [Seq.course, Prod.mk.injEq] at hcourse
  obtain ⟨hpc, hmode, hrecs, hregions, hecause, hepc, -⟩ := hcourse
  refine ⟨rfl, rfl, ?_, fun hi => ?_⟩
  · simp only [Seq.course, Prod.mk.injEq]
    exact ⟨hpc, hmode, hrecs, hregions, hecause, hepc, rfl⟩
  have hland : (s.seq p q).flushed.landUpTo t = (s.seq p q).flushed := landUpTo_nil t hi
  rw [unbusied_elems, Seq.stopAt, Seq.capture, hland]
  exact ⟨rfl, rfl, rfl⟩
end

/-- Settles O48: each event by its case; a stop and an entry change one sequencer, a restore leaves the stacks to its
last step. -/
theorem preemptionEvents : Obligations.PreemptionEvents := by
  unfold Obligations.PreemptionEvents
  intro s
  refine ⟨⟨exec_preemptRequest_none, fun j hj => ⟨fun hr => ?_, fun hr hh ho => ?_, fun hr hh hst ho => ?_⟩⟩,
    ⟨_, exec_preemptStop s, ?_, fun hp hq hc => ?_⟩, fun hm => ?_, fun hm hg => ?_, fun x resume ic => ?_,
    fun p q hp hq hc hi => ?_, fun hr => ?_, fun at_ j hr hg => ⟨fun hn => ?_, fun hn => ?_⟩, fun hm => ?_,
    fun hm hf => ?_, fun hm hf => ?_, ?_⟩
  · rw [exec_preemptRequest_some hj, if_pos hr]
  · rw [exec_preemptRequest_some hj, if_neg (by simp [hr]), if_pos (by simp [hh, ho])]
  · have hgo : ¬ ((s.stack s.who.st).holdsJob j && !s.runsOn [s.who.st] j) = true := by
      rcases hh with hh | hh <;> simp [hh]
    rw [exec_preemptRequest_some hj, if_neg (by simp [hr]), ho, if_neg hgo, List.foldl_cons, List.foldl_nil,
      if_pos ⟨hj, by simp [hr]⟩]
    rfl
  · exact flushAtTrap_mem s _ _
  · obtain ⟨hrun, hfl, hcourse, hkept⟩ := stopped_seq hp hq hc ((s.pillar s.who.p).ic + 1)
    simp only [Seq.course, Prod.mk.injEq] at hcourse
    obtain ⟨hpc, hmode, hrecs, hregions, hecause, hepc, -⟩ := hcourse
    exact ⟨hrun, hpc, hmode, hrecs, hregions, hecause, hepc, hfl, hkept⟩
  · rw [exec_contextSave, if_neg (by simp [hm])]
  · rw [exec_contextSave, if_pos hm, hg, List.foldl_cons, List.foldl_nil]
  · obtain ⟨hcause, hresume, hnone⟩ := enterPreempt_words x resume ic
    exact ⟨hcause, hresume, hnone, rfl, rfl, rfl, rfl, rfl, rfl, rfl, rfl, rfl, rfl⟩
  · obtain ⟨written, hy⟩ := stop_seq hp hq hc fun x =>
      { x.capture (s.pillar p).ic with notBefore := (s.pillar p).ic + 4 }
    have hcourse := capture_course (s.seq p q).flushed (s.pillar p).ic
    simp only [Seq.course, Prod.mk.injEq] at hcourse
    obtain ⟨hpc, -, -, -, -, -, hrun⟩ := hcourse
    dsimp only
    rw [stopIdle_idle hi, hy]
    exact ⟨rfl, rfl, hrun.trans hi, hpc⟩
  · exact exec_preemptKill_none hr
  · rw [exec_preemptKill_some hr, hg, if_pos (by simpa using (some_runs_iff s s.who.st).2 hn)]
  · have hno : ¬ ((pillarsOf s.who.st).any fun p => [0, 1].any fun q => !(s.seq p q).hasStopped) = true := by
      rw [some_runs_iff]
      rintro ⟨p, hp, q, hq, h⟩
      simp [hn p hp q hq] at h
    rw [exec_preemptKill_some hr, hg, if_neg (by simpa using hno)]
  · rw [exec_restore, if_pos (by simp [hm])]
  · rw [exec_restore, if_neg (by simp [hm]), if_pos (by simp [hf])]
  · rw [exec_restore, if_neg (by simp [hm]), if_neg (by simp [hf])]
    exact ⟨_, rfl, fun h4 hs => reloaded_stack s _ (hs.1 ▸ h4)⟩
  · rw [exec_tlbInvalidate]
    refine congrArg (fun f => Host.Outcome.next (s.onStack s.who.st f)) (funext fun k => ?_)
    refine congrArg (fun l => { k with inval := setBits k.inval 17 1 0, tlb := l }) (List.filter_congr fun e _ => ?_)
    rw [Bool.eq_iff_iff]
    simp only [Bool.not_eq_true', ← Bool.not_eq_true, Bool.and_eq_true, Bool.or_eq_true, decide_eq_true_eq]
    rfl

end Sys2Proof.Machine
end

section
/-! PROOFS. The crossings between the scalar side and the vector side (O20). -/

namespace Sys2Proof.Machine

/-- The predicate of one element as a predicate made bit by bit. -/
theorem elementMask_eq_of (w : Nat) : elementMask w = PReg.of fun e => e = w := by
  refine List.map_congr_left fun r _ => BitVec.eq_of_getLsbD_eq fun k hk => ?_
  have hbit := bit_rowOf (fun c => decide (64 * r + c = w)) 64 k hk
  rw [bit] at hbit
  rw [hbit]
  by_cases hr : r = w / 64
  · rw [if_pos hr, BitVec.getLsbD_ofNat, Nat.testBit_two_pow, decide_eq_true hk, Bool.true_and, Bool.true_and,
      decide_eq_decide]
    omega
  · rw [if_neg hr, decide_eq_false (by omega : ¬ 64 * r + k = w), Bool.and_false]
    exact BitVec.getLsbD_zero

/-- The bits counted in a word are the places where it has a one. -/
theorem popN_eq_countP {w : Nat} (x : BitVec w) (n : Nat) : popN x n = (List.range n).countP fun i => x.getLsbD i :=
  List.countP_eq_length_filter.symm

theorem count_eq_sum (p : PReg) : p.count = (p.map fun x => (List.range 64).countP fun i => x.getLsbD i).sum := by
  simp only [PReg.count, popN_eq_countP, List.sum_eq_foldl, List.foldl_map]

section
variable {s : State} {a : BitVec 5}

theorem sourced_wElem (s : State) (srcs : List (BitVec 5)) : (s.sourced srcs).wElem = s.wElem := by
  rw [State.wElem, sourced_me, State.wElem]

/-- What a crossing out of a scalar source makes: its value in the places of the W position, then the step of W. -/
theorem scalar_crossing {g : Guard} (h : s.enabled g [a]) (inc : BitVec 1) (k : State → Nat → State) :
    s.guarded g [a] (fun u => (k u u.wElem).stepW inc) = .next ((k (s.sourced [a]) s.me.wpos.toNat).stepW inc) := by
  rw [guarded_on s g [a] _ h, sourced_wElem, State.wElem]

/-- What a crossing out of the vector side makes: its value pushed, then the step of R. -/
theorem vector_crossing {g : Guard} (h : s.enabled g []) (inc : BitVec 1) (v : State → W64) :
    s.guarded g [] (fun u => (u.result 3 (.push (v u))).stepR inc) = .next ((s.result 3 (.push (v s))).stepR inc) :=
  guarded_on s g [] _ h
end

/-- Settles O20: each crossing by its own equation; the two places where the statement spells a value out are the
predicate of one element and the count of a predicate. -/
theorem crossings : Obligations.Crossings := by
  unfold Obligations.Crossings
  intro s g t a inc
  refine ⟨fun h => ⟨?_, ?_, ?_, ?_, ?_⟩, fun h => ⟨?_, ?_, ?_, ?_, ?_⟩⟩
  · rw [← elementMask_eq_of]
    exact scalar_crossing h inc fun u w => u.toVec 3 t (vfill (u.src32 a)) (elementMask w)
  · exact scalar_crossing h inc fun u w => u.toVec 3 t (vfill (u.src32 a)) (oneRow (w / 64))
  · rw [← elementMask_eq_of]
    exact scalar_crossing h inc fun u w => (u.onMe fun q => { q with
      accs := upd q.accs (t.toNat % 8) fun x => { x with busy := true } }).result 3
        (.acc (t.toNat % 8) (vfill (u.src32 a)) (elementMask w))
  · exact scalar_crossing h inc fun u w =>
      u.result 3 (.vpred (t.toNat % 8) (List.replicate 16 (u.src a)) (oneRow (w / 64)))
  · exact scalar_crossing h inc fun u w => u.result 3
      (.norm (t.toNat % 8) (List.replicate 16 ((u.src a).extractLsb' 0 16)) (BitVec.ofNat 16 (2 ^ (w / 64))))
  · exact vector_crossing h inc fun u => (at0 (u.vreg t) u.rElem).zeroExtend 64
  · have hany : (s.vpred (t.extractLsb' 0 3)).any (· ≠ 0) = true ↔ ∃ x ∈ s.vpred (t.extractLsb' 0 3), x ≠ 0 := by simp
    simp only [← hany]
    exact vector_crossing h inc fun u => if (u.vpred (t.extractLsb' 0 3)).any (· ≠ 0) then 1 else 0
  · rw [← count_eq_sum]
    exact vector_crossing h inc fun u => BitVec.ofNat 64 (u.vpred (t.extractLsb' 0 3)).count
  · exact vector_crossing h inc fun u => at0 (u.vpred (t.extractLsb' 0 3)) (u.rElem / 64)
  · exact vector_crossing h inc fun u => (at0 (u.norms (t.extractLsb' 0 3)) (u.rElem / 64)).signExtend 64

end Sys2Proof.Machine
end

section
/-! PROOFS. Vector moves, selection, permutation, compares and predicate logic (O24). -/

namespace Sys2Proof.Machine

/-! ### What an enabled instruction of each form makes -/

section
variable {s : State} {g : Guard} (he : s.enabled g [])
include he

theorem elementwise_on (lat : Nat) (d a : BitVec 5) (h : BitVec 2) (m : BitVec 3) (f : State → VReg → VReg) :
    s.elementwise g lat d a h m f = .next ((s.keepV h a).toVec lat d (f s (s.holdV h a)) (s.vpred m)) :=
  guarded_on s g [] _ he

theorem vv1_on (lat : Nat) (d a : BitVec 5) (h : BitVec 2) (m : BitVec 3) (f : W32 → W32) :
    s.vv1 g lat d a h m f = .next ((s.keepV h a).toVec lat d ((s.holdV h a).map f) (s.vpred m)) :=
  elementwise_on he lat d a h m fun _ x => x.map f

theorem vcompare_on (d : BitVec 3) (a b : BitVec 5) (m : BitVec 3) (f : W32 → W32 → Bool) :
    s.vcompare g d a b m f = .next (s.result 3 (.vpred d.toNat
      (PReg.of fun e => f (at0 (s.vreg a) e) (at0 (s.vreg b) e)) (s.vpred m))) :=
  guarded_on s g [] _ he

theorem vplogic_on (d a b : BitVec 3) (f : W64 → W64 → W64) :
    s.vplogic g d a b f = .next (s.result 2 (.vpred d.toNat (List.zipWith f (s.vpred a) (s.vpred b)) pOnes)) :=
  guarded_on s g [] _ he

theorem execVsel_on (d a b : BitVec 5) (h : BitVec 2) (m : BitVec 3) :
    execVsel g d a b h m s = .next ((s.keepV h a).toVec 2 d (mergeMask (s.vpred m) (s.vreg b) (s.holdV h a)) pOnes) :=
  guarded_on s g [] _ he

theorem execViota_on (d : BitVec 5) (m : BitVec 3) :
    execViota g d m s = .next (s.toVec 2 d (VReg.of fun e => BitVec.ofNat 32 e) (s.vpred m)) :=
  guarded_on s g [] _ he

theorem execVli_on (d : BitVec 5) (i : BitVec 13) :
    execVli g d i s = .next (s.toVec 2 d (vfill (i.signExtend 32)) pOnes) :=
  guarded_on s g [] _ he

theorem execVliF_on (d : BitVec 5) (i : BitVec 13) :
    execVliF g d i s = .next (s.toVec 2 d (vfill (i.zeroExtend 32 <<< 19)) pOnes) :=
  guarded_on s g [] _ he
end

/-! ### The values -/

/-- The immediate of VLI.F in the top bits of an element (R211). -/
theorem top_immediate (i : BitVec 13) : i.zeroExtend 32 <<< 19 = BitVec.ofNat 32 (i.toNat * 2 ^ 19) := by
  refine BitVec.eq_of_toNat_eq ?_
  simp [BitVec.toNat_shiftLeft, Nat.shiftLeft_eq]

/-- Settles O24: each instruction by what its form makes at an enabled guard. -/
theorem vectorMovesAndPredicates : Obligations.VectorMovesAndPredicates := by
  unfold Obligations.VectorMovesAndPredicates
  refine ⟨fun s g d a b h m i he => ⟨?_, ?_, ?_, ?_, ?_, ?_⟩, fun s g d p q c a b m he => ⟨?_, fun hc => ?_, ?_, ?_,
    ?_, ?_⟩⟩
  · refine (vv1_on he 2 d a h m fun x => x).trans ?_
    rw [List.map_id']
  · exact execVsel_on he d a b h m
  · exact elementwise_on he 6 d a h m fun s x => (s.vreg b).map fun i => at0 x (bits i 0 10)
  · exact execViota_on he d m
  · exact execVli_on he d i
  · refine (execVliF_on he d i).trans ?_
    rw [top_immediate]
  · exact vcompare_on he d a b m (floatCompare c.toNat)
  · refine (vcompare_on he d a b m (intCompare c.toNat)).trans ?_
    generalize c.toNat = n at hc ⊢
    interval_cases n <;> rfl
  · exact vplogic_on he d p q fun x y => x &&& y
  · exact vplogic_on he d p q fun x y => x ||| y
  · exact vplogic_on he d p q fun x y => x ^^^ y
  · refine (vplogic_on he d p p fun x _ => ~~~x).trans ?_
    rw [List.zipWith_self]
    rfl

end Sys2Proof.Machine
end

section
/-! PROOFS. Roots and nearest integers (R120, R230): the root found bit by bit, the division rounded to nearest, and the
reciprocal square root of 26 significant bits. -/

namespace Sys2Proof.Machine

/-! ### The integer root -/

/-- The bit-by-bit search keeps the root between its value and the next power of two beyond it. -/
theorem iroot_search (p n : Nat) : ∀ K y, y ^ p ≤ n → n < (y + 2 ^ K) ^ p →
    let z := (List.range K).reverse.foldl (fun y k => if (y + 2 ^ k) ^ p ≤ n then y + 2 ^ k else y) y
    z ^ p ≤ n ∧ n < (z + 1) ^ p
  | 0, y, hlow, hhigh => ⟨hlow, hhigh⟩
  | K + 1, y, hlow, hhigh => by
    rw [List.range_succ, List.reverse_append, List.reverse_singleton, List.singleton_append, List.foldl_cons]
    split
    next h => exact iroot_search p n K (y + 2 ^ K) h (by rwa [add_assoc, ← two_mul, ← pow_succ'])
    next h => exact iroot_search p n K y hlow (not_le.1 h)

theorem iroot_spec {p : Nat} (hp : 0 < p) (n : Nat) : iroot p n ^ p ≤ n ∧ n < (iroot p n + 1) ^ p := by
  refine iroot_search p n (Nat.log2 n / p + 1) 0 (by simp [hp.ne']) ?_
  rw [zero_add, ← pow_mul]
  exact Nat.lt_log2_self.trans_le (Nat.pow_le_pow_right (by decide) (Nat.lt_mul_of_div_lt (Nat.lt_succ_self _) hp))

/-! ### The nearest integer -/

/-- An integer nearest to a fraction, the even one of two. -/
def Nearest (c x : Int) (one : Nat) : Prop :=
  2 * (x - c * one).natAbs ≤ one ∧ (2 * (x - c * one).natAbs = one → c % 2 = 0)

theorem divRne_nearest (n : Nat) {d : Nat} (hd : 0 < d) : Nearest (divRne n d) n d := by
  have hn : ((n / d : Nat) : Int) * d + (n % d : Nat) = n := by exact_mod_cast Nat.div_add_mod' n d
  have hr := Nat.mod_lt n hd
  unfold Nearest divRne
  dsimp only
  split
  next h =>
    have hx : (n : Int) - ((n / d + 1 : Nat) : Int) * d = (n % d : Nat) - d := by
      push_cast at hn ⊢
      linear_combination -hn
    rw [hx]
    simp only [Bool.or_eq_true, Bool.and_eq_true, decide_eq_true_eq] at h
    omega
  next h =>
    have hx : (n : Int) - ((n / d : Nat) : Int) * d = (n % d : Nat) := by linear_combination -hn
    rw [hx]
    simp only [Bool.or_eq_true, Bool.and_eq_true, decide_eq_true_eq] at h
    omega

theorem Nearest.neg {c x : Int} {one : Nat} (h : Nearest c x one) : Nearest (-c) (-x) one := by
  have hd : -x - -c * one = -(x - c * one) := by ring
  rw [Nearest, hd, Int.natAbs_neg, Int.neg_emod_two]
  exact h

/-- The nearest integer depends on the fraction alone. -/
theorem Nearest.scale {c x x' : Int} {one one' : Nat} (h : Nearest c x one) (hone : 0 < one) (hone' : 0 < one')
    (hx : x * one' = x' * one) : Nearest c x' one' := by
  obtain ⟨hle, htie⟩ := h
  have hd : 2 * (x' - c * one').natAbs * one = 2 * (x - c * one).natAbs * one' := by
    zify
    rw [mul_assoc, mul_assoc, ← Nat.abs_cast one, ← abs_mul, Nat.abs_cast, ← Nat.abs_cast one', ← abs_mul, Nat.abs_cast]
    congr 2
    linear_combination -hx
  refine ⟨Nat.le_of_mul_le_mul_right ?_ hone, fun h => htie (Nat.eq_of_mul_eq_mul_right hone' ?_)⟩
  · rw [hd, mul_comm one']
    exact Nat.mul_le_mul_right _ hle
  · rw [← hd, h, mul_comm]

theorem rneInt_nearest (m e : Int) : Nearest (rneInt m e) (m * 2 ^ e.toNat) (2 ^ (-e).toNat) := by
  unfold rneInt
  split
  next he =>
    rw [Int.toNat_of_nonpos (by omega : -e ≤ 0), Nearest]
    simp
  next he =>
    have hn := divRne_nearest m.natAbs (d := 2 ^ (-e).toNat) (by positivity)
    rw [Int.toNat_of_nonpos (by omega : e ≤ 0), pow_zero, mul_one]
    split
    next hm =>
      have := hn.neg
      rwa [show -(m.natAbs : Int) = m by omega] at this
    next hm => rwa [show (m.natAbs : Int) = m by omega] at hn

/-! ### The reciprocal square root -/

/-- Y stands for the square root of B / n: the root itself when Y is even, else the odd number beside it. -/
def StickyRoot (n B Y : Nat) : Prop := if Y % 2 = 0 then Y ^ 2 * n = B else (Y - 1) ^ 2 * n < B ∧ B < (Y + 1) ^ 2 * n

section
variable {n B Y c : Nat}

/-- Against an even number a sticky root compares as the root does. -/
theorem StickyRoot.le_iff (h : StickyRoot n B Y) (hn : 0 < n) (hc : c % 2 = 0) : c ≤ Y ↔ c ^ 2 * n ≤ B := by
  rw [StickyRoot] at h
  split at h
  next => rw [← h, Nat.mul_le_mul_right_iff hn, Nat.pow_le_pow_iff_left (by decide)]
  next hy =>
    obtain ⟨hlow, hhigh⟩ := h
    refine ⟨fun hle => (Nat.mul_le_mul_right n (Nat.pow_le_pow_left (by omega : c ≤ Y - 1) 2)).trans hlow.le,
      fun hle => ?_⟩
    have hlt := hle.trans_lt hhigh
    rw [Nat.mul_lt_mul_right hn, Nat.pow_lt_pow_iff_left (by decide)] at hlt
    omega

theorem StickyRoot.ge_iff (h : StickyRoot n B Y) (hn : 0 < n) (hc : c % 2 = 0) : Y ≤ c ↔ B ≤ c ^ 2 * n := by
  rw [StickyRoot] at h
  split at h
  next => rw [← h, Nat.mul_le_mul_right_iff hn, Nat.pow_le_pow_iff_left (by decide)]
  next hy =>
    obtain ⟨hlow, hhigh⟩ := h
    refine ⟨fun hle => hhigh.le.trans (Nat.mul_le_mul_right n (Nat.pow_le_pow_left (by omega : Y + 1 ≤ c) 2)),
      fun hle => ?_⟩
    have hlt := hlow.trans_le hle
    rw [Nat.mul_lt_mul_right hn, Nat.pow_lt_pow_iff_left (by decide)] at hlt
    omega
end

theorem rsqrtSticky_root {n : Nat} (hn : 0 < n) (e : Int) (extra : Nat) :
    StickyRoot n (4 * 4 ^ extra) (rsqrtSticky n e extra).1 := by
  have hbig : 1 <<< (2 * extra) = 4 ^ extra := by rw [Nat.one_shiftLeft, pow_mul]; rfl
  obtain ⟨hlow, hhigh⟩ := iroot_spec (p := 2) (by decide) (4 ^ extra / n)
  rw [Nat.le_div_iff_mul_le hn] at hlow
  rw [Nat.div_lt_iff_lt_mul hn] at hhigh
  rw [rsqrtSticky, StickyRoot]
  dsimp only
  rw [hbig]
  generalize iroot 2 (4 ^ extra / n) = y at hlow hhigh ⊢
  split
  next h =>
    rw [if_pos (by omega), ← h]
    ring
  next h =>
    have hlt : y ^ 2 * n < 4 ^ extra := lt_of_le_of_ne hlow (by rwa [sq])
    rw [if_neg (by omega), Nat.add_sub_cancel]
    constructor <;> nlinarith

/-- The fraction N / one has r as the reciprocal of its square root, rounded to nearest with 26 bits (R230). -/
def Root26 (r N one : Nat) : Prop :=
  2 ^ 50 * N ≤ one ∧ one < 2 ^ 52 * N ∧ (2 * r - 1) ^ 2 * N ≤ 4 * one ∧ 4 * one ≤ (2 * r + 1) ^ 2 * N ∧
    ((2 * r - 1) ^ 2 * N = 4 * one ∨ 4 * one = (2 * r + 1) ^ 2 * N → r % 2 = 0)

/-- Two fractions that are equal compare with a third in the same way. -/
theorem mul_le_mul_of_ratio {N one A B : Nat} (h : N * B = one * A) (hB : 0 < B) (hone : 0 < one) (p q : Nat) :
    (p * N ≤ q * one ↔ p * A ≤ q * B) ∧ (q * one ≤ p * N ↔ q * B ≤ p * A) := by
  have hN : p * N * B = p * A * one := by rw [mul_assoc, h, mul_comm one, mul_assoc]
  have hq : q * one * B = q * B * one := by rw [mul_assoc, mul_comm one, mul_assoc]
  constructor
  · rw [← Nat.mul_le_mul_right_iff hB, hN, hq, Nat.mul_le_mul_right_iff hone]
  · rw [← Nat.mul_le_mul_right_iff hB, hN, hq, Nat.mul_le_mul_right_iff hone]

theorem Root26.scale {r N one A B : Nat} (hr : Root26 r A B) (h : N * B = one * A) (hB : 0 < B) (hone : 0 < one) :
    Root26 r N one := by
  have le (p q : Nat) := (mul_le_mul_of_ratio h hB hone p q).1
  have ge (p q : Nat) := (mul_le_mul_of_ratio h hB hone p q).2
  have hlow := le (2 ^ 50) 1
  have hhigh := le (2 ^ 52) 1
  rw [one_mul, one_mul] at hlow hhigh
  obtain ⟨h1, h2, h3, h4, htie⟩ := hr
  refine ⟨hlow.2 h1, lt_of_not_ge fun hge => absurd (hhigh.1 hge) (not_le.2 h2), (le _ _).2 h3, (ge _ _).2 h4,
    fun ht => htie (ht.imp (fun ht => ?_) fun ht => ?_)⟩
  · exact le_antisymm h3 ((ge _ _).1 ht.ge)
  · exact le_antisymm h4 ((le _ _).1 ht.ge)

/-- A sticky root of 26 bits and more below them, the lowest in units of 2 u, rounds to 26 bits as the root does. -/
theorem StickyRoot.round {n B Y u : Nat} (h : StickyRoot n B Y) (hn : 0 < n) (hu : 0 < u) (heven : u % 2 = 0)
    (hfloor : 2 ^ 26 * u ≤ Y) (hceil : Y < 2 ^ 27 * u) : Root26 (divRne Y (2 * u)) (n * (2 * u) ^ 2) B := by
  obtain ⟨hle, htie⟩ := divRne_nearest Y (d := 2 * u) (by omega)
  generalize divRne Y (2 * u) = r at hle htie ⊢
  have heven (c : Nat) : c * u % 2 = 0 := by rw [Nat.mul_mod, heven]; simp
  have hsq (c : Nat) : 4 * ((c * u) ^ 2 * n) = c ^ 2 * (n * (2 * u) ^ 2) := by ring
  have hle_iff (c : Nat) : c * u ≤ Y ↔ c ^ 2 * (n * (2 * u) ^ 2) ≤ 4 * B := by
    rw [h.le_iff hn (heven c), ← hsq, Nat.mul_le_mul_left_iff (by decide)]
  have hge_iff (c : Nat) : Y ≤ c * u ↔ 4 * B ≤ c ^ 2 * (n * (2 * u) ^ 2) := by
    rw [h.ge_iff hn (heven c), ← hsq, Nat.mul_le_mul_left_iff (by decide)]
  have hlow : (2 * r - 1) * u = 2 * (r * u) - u := by rw [Nat.sub_mul, mul_assoc, one_mul]
  have hhigh : (2 * r + 1) * u = 2 * (r * u) + u := by rw [Nat.add_mul, mul_assoc, one_mul]
  have hr : (r : Int) * (2 * u : Nat) = 2 * (r * u : Nat) := by
    push_cast
    ring
  rw [hr] at hle htie
  refine ⟨?_, ?_, ?_, ?_, fun ht => Int.natCast_inj.1 (htie ?_)⟩
  · have := (hle_iff (2 ^ 26)).1 hfloor
    omega
  · have := mt (hle_iff (2 ^ 27)).2 (not_le.2 hceil)
    omega
  · exact (hle_iff _).1 (by omega)
  · exact (hge_iff _).1 (by omega)
  · rcases ht with ht | ht
    · have := (hge_iff _).2 ht.ge
      omega
    · have := (hle_iff _).2 ht.ge
      omega

theorem log2_floor_ceil {Y k : Nat} (hY : 2 ^ k ≤ Y) :
    2 ^ k * 2 ^ (Nat.log2 Y - k) ≤ Y ∧ Y < 2 ^ (k + 1) * 2 ^ (Nat.log2 Y - k) := by
  have h0 : Y ≠ 0 := (hY.trans_lt' (by positivity)).ne'
  have hk : k ≤ Nat.log2 Y := (Nat.le_log2 h0).2 hY
  rw [← pow_add, ← pow_add, Nat.add_sub_cancel' hk, show k + 1 + (Nat.log2 Y - k) = Nat.log2 Y + 1 by omega]
  exact ⟨Nat.log2_self_le h0, Nat.lt_log2_self⟩

/-- Rounding a number of at least 26 bits to 26 bits drops its low bits (R230). -/
theorem round26_eq {Y : Nat} (T : Int) (hY : 2 ^ 25 ≤ Y) :
    round26 Y T = (divRne Y (2 ^ (Nat.log2 Y - 25)), T + (Nat.log2 Y - 25 : Nat)) := by
  have h0 : Y ≠ 0 := by omega
  have hlog : 25 ≤ Nat.log2 Y := (Nat.le_log2 h0).2 hY
  have hratio : log2Ratio Y 1 = Nat.log2 Y := by
    have h1 : Nat.log2 1 = 0 := by decide
    have hle : ¬ Y < 2 ^ Nat.log2 Y := not_lt.2 (Nat.log2_self_le h0)
    simp [log2Ratio, pow2, h1, Nat.shiftLeft_eq, hle]
  have ht : log2Ratio Y 1 + T - (26 - 1 : Nat) = T + (Nat.log2 Y - 25 : Nat) := by
    rw [hratio]
    omega
  simp only [round26, roundTo, ht]
  simp [pow2, Nat.shiftLeft_eq]

/-- The fraction bits `rsqrt26` asks for leave more than 26 bits of the root (R230). -/
theorem extra_bits_suffice (n : Nat) : (2 ^ 27) ^ 2 * n ≤ 4 * 4 ^ (Nat.log2 n / 2 + 40) := by
  have hb : 4 * 4 ^ (Nat.log2 n / 2 + 40) = 2 ^ (2 * (Nat.log2 n / 2 + 40) + 2) := by
    rw [pow_add 2 _ 2, pow_mul]
    exact mul_comm _ _
  calc (2 ^ 27) ^ 2 * n ≤ 2 ^ 54 * 2 ^ (Nat.log2 n + 1) := Nat.mul_le_mul_left _ Nat.lt_log2_self.le
    _ = 2 ^ (54 + (Nat.log2 n + 1)) := (pow_add _ _ _).symm
    _ ≤ _ := by
      rw [hb]
      exact Nat.pow_le_pow_right (by decide) (by omega)

theorem mul_two_pow_eq {a b c x f j : Nat} (m : Nat) (h : a + c + 2 + 2 * x = f + b + 2 * j) :
    m * 2 ^ a * 2 ^ c * (4 * 4 ^ x) = 2 ^ f * (m * 2 ^ b * (2 ^ j) ^ 2) :=
  calc m * 2 ^ a * 2 ^ c * (4 * 4 ^ x) = m * 2 ^ (a + c + 2 + 2 * x) := by
        rw [pow_add, pow_add, pow_add, pow_mul]
        ring
    _ = m * 2 ^ (f + b + 2 * j) := by rw [h]
    _ = 2 ^ f * (m * 2 ^ b * (2 ^ j) ^ 2) := by ring

/-- `rsqrt26` makes the exponent even and rounds a sticky root (R230). -/
theorem rsqrt26_eq (m : Nat) (e : Int) : ∃ b : Nat, (e - b) % 2 = 0 ∧ rsqrt26 m e = round26
    (rsqrtSticky (m * 2 ^ b) (e - b) (Nat.log2 (m * 2 ^ b) / 2 + 40)).1
    (-((e - b) / 2) - (Nat.log2 (m * 2 ^ b) / 2 + 40 : Nat) - 1) := by
  by_cases h : e % 2 = 0
  · exact ⟨0, by omega, by simp [rsqrt26, rsqrtSticky, h]⟩
  · exact ⟨1, by omega, by simp [rsqrt26, rsqrtSticky, h, mul_comm]⟩

/-- The rounded reciprocal root of m × 2^e' belongs to every way to write that number as S × 4^e (R230). -/
theorem rsqrt26_root {m S : Nat} {e e' : Int} (hm : 0 < m) (he : 2 * e ≤ e') (hS : m * 2 ^ (e' - 2 * e).toNat = S) :
    Root26 (rsqrt26 m e').1 (S * 2 ^ (2 * (e + (rsqrt26 m e').2)).toNat)
      (2 ^ (-(2 * (e + (rsqrt26 m e').2))).toNat) := by
  obtain ⟨b, hb, hr⟩ := rsqrt26_eq m e'
  have hn : 0 < m * 2 ^ b := by positivity
  have hroot := rsqrtSticky_root hn (e' - b) (Nat.log2 (m * 2 ^ b) / 2 + 40)
  have hY := (hroot.le_iff hn (by decide)).2 (extra_bits_suffice _)
  rw [hr]
  generalize (rsqrtSticky (m * 2 ^ b) (e' - b) (Nat.log2 (m * 2 ^ b) / 2 + 40)).1 = Y at hroot hY ⊢
  generalize Nat.log2 (m * 2 ^ b) / 2 + 40 = x at hroot ⊢
  have hlog : 27 ≤ Nat.log2 Y := (Nat.le_log2 (by omega)).2 hY
  have hu : 2 * 2 ^ (Nat.log2 Y - 26) = 2 ^ (Nat.log2 Y - 25) := by rw [← pow_succ']; congr 1; omega
  have heven : 2 ^ (Nat.log2 Y - 26) % 2 = 0 := by
    rw [show Nat.log2 Y - 26 = Nat.log2 Y - 27 + 1 by omega, pow_succ, Nat.mul_mod_left]
  obtain ⟨hfloor, hceil⟩ := log2_floor_ceil (k := 26) (by omega : 2 ^ 26 ≤ Y)
  have hround := hroot.round hn (by positivity) heven hfloor hceil
  rw [hu] at hround
  rw [round26_eq _ (by omega)]
  refine hround.scale ?_ (by positivity) (by positivity)
  rw [← hS]
  exact mul_two_pow_eq m (by omega)

end Sys2Proof.Machine
end

section
/-! PROOFS. The directional registers (O30): what a row is formed into (R230), and the instructions. -/

namespace Sys2Proof.Machine

/-! ### Components in a common unit and the sum of their squares -/

/-- A finite value is k units of 2^e, its own exponent being no lower. -/
def Val.inUnits (e : Int) (x : Val) (k : Int) : Prop :=
  ∃ neg m f, x = .fin neg m f ∧ e ≤ f ∧ k = signedMag neg m * 2 ^ (f - e).toNat

/-- An exact sum is S units of 4^e. -/
def Exact.inUnits (e : Int) (x : Exact) (S : Nat) : Prop :=
  (x.m = 0 ∧ S = 0) ∨ (0 < x.m ∧ 2 * e ≤ x.e ∧ x.m * 2 ^ (x.e - 2 * e).toNat = S)

theorem signedMag_natAbs (neg : Bool) (m : Nat) : (signedMag neg m).natAbs = m := by
  cases neg <;> simp [signedMag]

theorem add_square_inUnits {e k : Int} {acc : Exact} {x : Val} {S : Nat} (ha : acc.inUnits e S) (hx : x.inUnits e k) :
    (acc.add (x.mul x)).inUnits e (S + k.natAbs ^ 2) := by
  obtain ⟨neg, m, f, rfl, hf, rfl⟩ := hx
  have hk : (signedMag neg m * 2 ^ (f - e).toNat).natAbs ^ 2 = m * m * 2 ^ (f + f - 2 * e).toNat := by
    rw [Int.natAbs_mul, signedMag_natAbs, Int.natAbs_pow, mul_pow, ← pow_mul, sq m]
    congr 2
    omega
  have hmul : Val.mul (.fin neg m f) (.fin neg m f) = .fin false (m * m) (f + f) := by simp [Val.mul]
  rw [hk, hmul]
  simp only [Exact.add]
  split_ifs with hm h0
  next => rwa [hm, Nat.zero_mul, Nat.add_zero]
  next =>
    have hS : S = 0 := by
      rcases ha with ⟨-, hS⟩ | ⟨hpos, -, -⟩
      · exact hS
      · omega
    subst hS
    refine .inr ⟨Int.natCast_pos.2 (Nat.pos_of_ne_zero hm), by dsimp only; omega, ?_⟩
    simp [signedMag]
  next =>
    rcases ha with ⟨h, -⟩ | ⟨hpos, hae, hS⟩
    · exact absurd h h0
    refine .inr ⟨add_pos_of_pos_of_nonneg (by positivity) ?_, ?_, ?_⟩
    · simp only [signedMag, Bool.false_eq_true, if_false]
      positivity
    · simp only [addDyadic]
      omega
    · have h1 : (acc.e - 2 * e).toNat = (acc.e - min acc.e (f + f)).toNat + (min acc.e (f + f) - 2 * e).toNat := by
        omega
      have h2 : (f + f - 2 * e).toNat = (f + f - min acc.e (f + f)).toNat + (min acc.e (f + f) - 2 * e).toNat := by
        omega
      simp only [addDyadic, signedMag]
      rw [h1] at hS
      rw [Nat.cast_add, ← hS, h2, pow_add, pow_add]
      push_cast
      ring

theorem sumSquares_inUnits {e : Int} {xs : List Val} {ks : List Int} (h : List.Forall₂ (Val.inUnits e) xs ks) :
    (xs.foldl (fun a x => a.add (x.mul x)) Exact.zero).inUnits e (ks.map fun k => k.natAbs ^ 2).sum := by
  have sums (acc : Exact) (S : Nat) (ha : acc.inUnits e S) :
      (xs.foldl (fun a x => a.add (x.mul x)) acc).inUnits e (S + (ks.map fun k => k.natAbs ^ 2).sum) := by
    induction h generalizing acc S with
    | nil => exact ha
    | cons hx _ ih =>
      rw [List.foldl_cons, List.map_cons, List.sum_cons, ← add_assoc]
      exact ih _ _ (add_square_inUnits ha hx)
  simpa using sums Exact.zero 0 (.inl ⟨rfl, rfl⟩)

/-! ### The logarithm -/

theorem log128_near {m S : Nat} {e e' : Int} (hm : 0 < m) (he : 2 * e ≤ e') (hS : m * 2 ^ (e' - 2 * e).toNat = S) :
    let d := 2 * log128 m e' - 512 * e
    0 ≤ d + 1 ∧ 2 ^ (d - 1).toNat ≤ S ^ 256 ∧ S ^ 256 ≤ 2 ^ (d + 1).toNat := by
  have h0 : m ^ 256 ≠ 0 := by positivity
  have hfloor := Nat.log2_self_le h0
  have hceil := (Nat.lt_log2_self (n := m ^ 256)).le
  have hpow : S ^ 256 = m ^ 256 * 2 ^ (256 * (e' - 2 * e)).toNat := by
    rw [← hS, mul_pow, ← pow_mul]
    congr 2
    omega
  have hl : 2 * log128 m e' = 256 * e' + Nat.log2 (m ^ 256) ∨ 2 * log128 m e' = 256 * e' + Nat.log2 (m ^ 256) + 1 := by
    rw [log128, Int.fdiv_eq_ediv_of_nonneg _ (by decide)]
    omega
  dsimp only
  rw [hpow]
  refine ⟨by omega, ?_, ?_⟩
  · calc 2 ^ (2 * log128 m e' - 512 * e - 1).toNat ≤ 2 ^ (Nat.log2 (m ^ 256) + (256 * (e' - 2 * e)).toNat) :=
          Nat.pow_le_pow_right (by decide) (by omega)
      _ ≤ _ := by rw [pow_add]; exact Nat.mul_le_mul_right _ hfloor
  · calc _ ≤ 2 ^ (Nat.log2 (m ^ 256) + 1 + (256 * (e' - 2 * e)).toNat) := by
          rw [pow_add]; exact Nat.mul_le_mul_right _ hceil
      _ ≤ _ := Nat.pow_le_pow_right (by decide) (by omega)

/-! ### The row -/

/-- A value's component: times r × 2^t in Q14, rounded to nearest (R230). -/
def Val.component (r : Nat) (t : Int) : Val → Int
  | .fin neg a k => rneInt (signedMag neg a * r) (k + t + 14)
  | _ => 0

theorem component_nearest {e k : Int} {x : Val} (hx : x.inUnits e k) (r : Nat) (t : Int) :
    Nearest (x.component r t) (k * r * 2 ^ (e + t + 14).toNat) (2 ^ (-(e + t + 14)).toNat) := by
  obtain ⟨neg, m, f, rfl, hf, rfl⟩ := hx
  refine (rneInt_nearest (signedMag neg m * r) (f + t + 14)).scale (by positivity) (by positivity) ?_
  have hexp : (f + t + 14).toNat + (-(e + t + 14)).toNat =
      (f - e).toNat + (e + t + 14).toNat + (-(f + t + 14)).toNat := by
    omega
  push_cast
  calc signedMag neg m * r * 2 ^ (f + t + 14).toNat * 2 ^ (-(e + t + 14)).toNat
      = signedMag neg m * r * 2 ^ ((f + t + 14).toNat + (-(e + t + 14)).toNat) := by rw [pow_add]; ring
    _ = signedMag neg m * 2 ^ (f - e).toNat * r * 2 ^ (e + t + 14).toNat * 2 ^ (-(f + t + 14)).toNat := by
      rw [hexp, pow_add, pow_add]
      ring

/-- The row formed of finite values; `inf` tells whether they stand for an infinite vector (R230). -/
def DirRow.formed (inf : Bool) (ys : List Val) : DirRow :=
  if (sumSquares ys).1 = 0 then DirRow.zero false else
  let k := rsqrt26 (sumSquares ys).1 (sumSquares ys).2
  let ks := ys.map (Val.component k.1 k.2)
  if 262144 < ((ks.map fun c => c * c).sum - 268435456).natAbs then DirRow.zero true
  else ⟨ks.map (BitVec.ofInt 16), if inf then 0x7FFF else satLn (log128 (sumSquares ys).1 (sumSquares ys).2),
    sumSquares ys, false⟩

theorem renorm_nan {xs : List Val} (h : .nan ∈ xs) : renorm xs = DirRow.zero true :=
  if_pos (List.any_eq_true.2 ⟨_, h, by simp⟩)

theorem renorm_formed {xs : List Val} (h : .nan ∉ xs) {inf : Bool}
    (hinf : (xs.any fun x => x = .inf false || x = .inf true) = inf) :
    renorm xs = DirRow.formed inf (if inf then xs.map infUnit else xs) := by
  have hsum (ks : List Int) : (ks.map fun c => c * c).sum = ks.foldl (fun a k => a + k * k) 0 := by
    rw [List.sum_eq_foldl, List.foldl_map]
  have hn : ¬ (xs.any fun x => x = .nan) = true := by simpa using h
  rw [renorm, if_neg hn, hinf, DirRow.formed]
  simp only [hsum]
  rfl

theorem satLn_ne_zeroRow (k : Int) : satLn k ≠ 0x8000 := by
  unfold satLn
  split_ifs with h1 h2
  · decide
  · decide
  · intro h
    have hk := congrArg BitVec.toInt h
    rw [BitVec.toInt_ofInt, Int.bmod_eq_of_le (by omega) (by omega)] at hk
    have h8000 : (0x8000 : W16).toInt = -32768 := by decide
    omega

/-- An infinite vector's row is that of its components' signs, its norm the largest (R230). -/
theorem formed_infinite (ys : List Val) : DirRow.formed true ys = { DirRow.formed false ys with
    norm := if (DirRow.formed false ys).norm = 0x8000 then 0x8000 else 0x7FFF } := by
  unfold DirRow.formed
  dsimp only
  split
  next => rfl
  split
  next => rfl
  next => simp only [Bool.false_eq_true, if_false, if_true, satLn_ne_zeroRow]

theorem infUnit_finite (x : Val) : infUnit x ≠ .nan ∧ infUnit x ≠ .inf false ∧ infUnit x ≠ .inf true := by
  cases x <;> simp [infUnit]

theorem renorm_infinite {xs : List Val} (h : .nan ∉ xs) (hinf : .inf false ∈ xs ∨ .inf true ∈ xs) :
    renorm xs = { renorm (xs.map infUnit) with
      norm := if (renorm (xs.map infUnit)).norm = 0x8000 then 0x8000 else 0x7FFF } := by
  have hunits (v : Val) (hv : v = .nan ∨ v = .inf false ∨ v = .inf true) : v ∉ xs.map infUnit := by
    rintro hm
    obtain ⟨x, -, rfl⟩ := List.mem_map.1 hm
    obtain ⟨h1, h2, h3⟩ := infUnit_finite x
    exact hv.elim h1 (Or.rec h2 h3)
  have hany : (xs.any fun x => x = .inf false || x = .inf true) = true := by
    rcases hinf with h | h
    · exact List.any_eq_true.2 ⟨_, h, by simp⟩
    · exact List.any_eq_true.2 ⟨_, h, by simp⟩
  have hnone : ((xs.map infUnit).any fun x => x = .inf false || x = .inf true) = false := by
    rw [List.any_eq_false]
    intro x hx
    simp only [Bool.or_eq_true, decide_eq_true_eq]
    rintro (rfl | rfl)
    · exact hunits _ (.inr (.inl rfl)) hx
    · exact hunits _ (.inr (.inr rfl)) hx
  rw [renorm_formed h hany, renorm_formed (hunits _ (.inl rfl)) hnone, if_pos rfl, if_neg Bool.false_ne_true]
  exact formed_infinite _

section
variable {xs : List Val} {ks : List Int} {e : Int} (h : List.Forall₂ (Val.inUnits e) xs ks)
include h

theorem renorm_finite : renorm xs = DirRow.formed false xs := by
  have hfin : ∀ x ∈ xs, ∃ neg m f, x = .fin neg m f := by
    induction h with
    | nil => simp
    | cons hx _ ih =>
      obtain ⟨neg, m, f, hx, -⟩ := hx
      exact List.forall_mem_cons.2 ⟨⟨neg, m, f, hx⟩, ih⟩
  have hn : .nan ∉ xs := fun hm => by
    obtain ⟨neg, m, f, hx⟩ := hfin _ hm
    cases hx
  have hany : (xs.any fun x => x = .inf false || x = .inf true) = false := by
    rw [List.any_eq_false]
    intro x hx
    obtain ⟨neg, m, f, rfl⟩ := hfin x hx
    simp
  rw [renorm_formed hn hany]
  rfl

/-- The sum of the squares as `sumSquares` gives it and in the common unit (R230). -/
theorem sumSquares_units : ((sumSquares xs).1 = 0 ∧ (ks.map fun k => k.natAbs ^ 2).sum = 0) ∨
    (0 < (sumSquares xs).1 ∧ 2 * e ≤ (sumSquares xs).2 ∧
      (sumSquares xs).1 * 2 ^ ((sumSquares xs).2 - 2 * e).toNat = (ks.map fun k => k.natAbs ^ 2).sum) := by
  rw [sumSquares]
  dsimp only
  rcases sumSquares_inUnits h with ⟨hm, hS⟩ | ⟨hpos, he, hS⟩
  · exact .inl ⟨by rw [hm]; rfl, hS⟩
  · refine .inr ⟨by omega, he, ?_⟩
    rw [← Int.natCast_inj, Nat.cast_mul, Int.toNat_of_nonneg hpos.le, Nat.cast_pow]
    exact hS

theorem component_nearest_getD (r : Nat) (t : Int) {i : Nat} (hi : i < xs.length) :
    Nearest ((xs.map (Val.component r t)).getD i 0) (ks.getD i 0 * r * 2 ^ (e + t + 14).toNat)
      (2 ^ (-(e + t + 14)).toNat) := by
  obtain ⟨hlen, hget⟩ := List.forall₂_iff_get.1 h
  have hx := hget i hi (hlen ▸ hi)
  simp only [List.get_eq_getElem] at hx
  rw [List.getD_eq_getElem _ _ (by simpa using hi), List.getElem_map, List.getD_eq_getElem _ _ (hlen ▸ hi)]
  exact component_nearest hx r t
end

theorem formed_zero {xs : List Val} (h : (sumSquares xs).1 = 0) : DirRow.formed false xs = DirRow.zero false := if_pos h

/-- A row of finite values that are not all zero: its squared length decides between the row and its fault (R230). -/
theorem formed_off {xs : List Val} (h : 0 < (sumSquares xs).1) :
    let k := rsqrt26 (sumSquares xs).1 (sumSquares xs).2
    let cs := xs.map (Val.component k.1 k.2)
    let off := ((cs.map fun c => c * c).sum - 2 ^ 28).natAbs
    (2 ^ 18 < off → DirRow.formed false xs = DirRow.zero true) ∧
      (off ≤ 2 ^ 18 → DirRow.formed false xs = ⟨cs.map (BitVec.ofInt 16),
        satLn (log128 (sumSquares xs).1 (sumSquares xs).2), sumSquares xs, false⟩) := by
  simp only [DirRow.formed, if_neg h.ne', Bool.false_eq_true, if_false]
  exact ⟨fun ho => if_pos (by omega), fun ho => if_neg (by omega)⟩

/-! ### The instructions -/

theorem isZeroRow_iff (d n : List W16) (r : Nat) :
    isZeroRow d n r = true ↔ at0 n r = 0x8000 ∨ ∀ c ∈ (d.drop (64 * r)).take 64, c = 0 := by
  rw [isZeroRow, Bool.or_eq_true, decide_eq_true_eq, List.all_eq_true, storedRow]
  simp only [decide_eq_true_eq]

section
variable {s : State} {g : Guard} (he : s.enabled g [])
include he

/-- What an enabled direction instruction of 16 rows makes. -/
theorem toDir_on (ld ln : Nat) (d : BitVec 3) (f : State → Nat → DirRow) :
    s.guarded g [] (fun u => u.toDir ld ln d ((List.range 16).map (f u))) =
      .next (s.toDir ld ln d ((List.range 16).map (f s))) :=
  guarded_on s g [] _ he

/-- What an enabled direction instruction makes that writes a vector register. -/
theorem dirVec_on (lat : Nat) (x : BitVec 5) (v : State → VReg) :
    s.guarded g [] (fun u => u.toVec lat x (v u) pOnes) = .next (s.toVec lat x (v s) pOnes) :=
  guarded_on s g [] _ he
end

/-- Settles O30: each instruction by its own equation at an enabled guard; a row of values in a common unit by its exact
sum of squares, the sticky root rounded to 26 bits, and the nearest integers of its components and its logarithm. -/
theorem directions : Obligations.Directions := by
  unfold Obligations.Directions
  refine ⟨fun s g d a b x k he => ?_, fun xs hxs => ⟨renorm_nan, renorm_infinite, fun ks e hks hu => ?_⟩⟩
  · simp only [← isZeroRow_iff]
    refine ⟨?_, ?_, ?_, ?_, ?_, ?_, ?_, ?_, ?_, ?_⟩
    · exact toDir_on he 12 9 d fun u r => renorm ((((u.vreg x).drop (64 * r)).take 64).map val32)
    · exact toDir_on he 14 11 d fun u r =>
        if (val32 (at0 (u.vreg x) (64 * r))).isFin && (val32 (at0 (u.vreg x) (64 * r + 1))).isFin then
          renorm (weighted (val32 (at0 (u.vreg x) (64 * r))) (val32 (at0 (u.vreg x) (64 * r + 1)))
            (readRow (u.dir a) (u.norms a) r) (readRow (u.dir b) (u.norms b) r))
        else DirRow.zero true
    · exact toDir_on he 14 11 d fun u => addRows (u.dir a) (u.norms a) (u.dir b) (u.norms b)
    · exact guarded_on s g [] (fun u => u.result 2 (.norm d.toNat ((List.range 16).map fun r =>
        if at0 (u.norms d) r = 0x8000 then 0x8000
        else satLn ((at0 (u.norms d) r).toInt + (at0 (u.vreg x) (64 * r)).toInt)) 0xFFFF)) he
    · exact toDir_on he 2 2 d fun u r => ⟨storedRow (u.dir a) r, at0 (u.norms a) r, (0, 0), false⟩
    · exact toDir_on he 2 2 d fun u r => ⟨if isZeroRow (u.dir a) (u.norms a) r then storedRow (u.dir a) r
        else (storedRow (u.dir a) r).map negComp, at0 (u.norms a) r, (0, 0), false⟩
    · exact dirVec_on he 6 x fun u => (List.range 16).flatMap fun r =>
        (readRow (u.dir a) (u.norms a) r).map fun c => to32 (q14Val c)
    · exact dirVec_on he 6 x fun u => (List.range 16).flatMap fun r =>
        (readRow (u.dir a) (u.norms a) r).map (scaledComp (at0 (u.norms a) r))
    · exact dirVec_on he 8 x fun u => (List.range 16).flatMap fun r =>
        List.replicate 64 (cosine (readRow (u.dir a) (u.norms a) r) (readRow (u.dir b) (u.norms b) r))
    · exact dirVec_on he 8 x fun u => (List.range 16).flatMap fun r =>
        List.replicate 64 (cosine (readRow (u.dir a) (u.norms a) r) (readRow (u.dir b) (u.norms b) k.toNat))
  have h : List.Forall₂ (Val.inUnits e) xs ks := by
    refine List.forall₂_iff_get.2 ⟨hxs.trans hks.symm, fun i hi hi' => ?_⟩
    obtain ⟨neg, m, f, hx, hf, hk⟩ := hu i (hxs ▸ hi)
    rw [List.getElem?_eq_getElem hi, Option.some_inj] at hx
    rw [List.getD_eq_getElem _ _ hi'] at hk
    exact ⟨neg, m, f, hx, hf, hk⟩
  dsimp only
  rw [renorm_finite h]
  rcases sumSquares_units h with ⟨hm, hS⟩ | ⟨hm, he, hS⟩
  · exact ⟨fun _ => formed_zero hm, fun hpos => absurd hS hpos.ne'⟩
  · obtain ⟨hfault, hrow⟩ := formed_off hm
    refine ⟨fun h0 => ?_, fun _ => ⟨(rsqrt26 (sumSquares xs).1 (sumSquares xs).2).1,
      (rsqrt26 (sumSquares xs).1 (sumSquares xs).2).2, log128 (sumSquares xs).1 (sumSquares xs).2,
      xs.map (Val.component (rsqrt26 (sumSquares xs).1 (sumSquares xs).2).1
        (rsqrt26 (sumSquares xs).1 (sumSquares xs).2).2),
      by rw [List.length_map, hxs], rsqrt26_root hm he hS, fun i hi => ?_, log128_near hm he hS, hfault, fun ho => ?_⟩⟩
    · rw [h0] at hS
      have : 0 < (sumSquares xs).1 * 2 ^ ((sumSquares xs).2 - 2 * e).toNat := by positivity
      omega
    · exact component_nearest_getD h _ _ (hxs ▸ hi)
    · rw [hrow ho]
      exact ⟨rfl, rfl, rfl⟩

end Sys2Proof.Machine
end

section
/-! PROOFS. VPACK, VUNPK and the trit code (O26, R117, R213). -/

namespace Sys2Proof.Machine

/-! ### Five trits in a byte (R117) -/

theorem trnEncode_five (t0 t1 t2 t3 t4 : Int) : trnEncode [t0, t1, t2, t3, t4] =
    (t0 + 1).toNat + (t1 + 1).toNat * 3 + (t2 + 1).toNat * 9 + (t3 + 1).toNat * 27 + (t4 + 1).toNat * 81 := by
  simp [trnEncode, List.range_succ]

theorem trnDecode_eq {b : Nat} (h : b < 243) : trnDecode b =
    [((b % 3 : Nat) : Int) - 1, ((b / 3 % 3 : Nat) : Int) - 1, ((b / 9 % 3 : Nat) : Int) - 1,
      ((b / 27 % 3 : Nat) : Int) - 1, ((b / 81 % 3 : Nat) : Int) - 1] := by
  rw [trnDecode, if_neg (by omega)]
  simp [List.range_succ]

/-- A trit is a digit of base 3, less one. -/
theorem exists_digit {x : Int} (h : x = -1 ∨ x = 0 ∨ x = 1) : ∃ d : Nat, d < 3 ∧ x = d - 1 :=
  ⟨(x + 1).toNat, by omega, by omega⟩

theorem trnDecode_trnEncode {t : List Int} (hl : t.length = 5) (ht : ∀ x ∈ t, x = -1 ∨ x = 0 ∨ x = 1) :
    trnEncode t < 243 ∧ trnDecode (trnEncode t) = t := by
  obtain ⟨t0, t1, t2, t3, t4, rfl⟩ : ∃ t0 t1 t2 t3 t4, t = [t0, t1, t2, t3, t4] :=
    match t, hl with
    | [t0, t1, t2, t3, t4], _ => ⟨t0, t1, t2, t3, t4, rfl⟩
  simp only [List.forall_mem_cons] at ht
  obtain ⟨h0, h1, h2, h3, h4, -⟩ := ht
  obtain ⟨d0, hd0, rfl⟩ := exists_digit h0
  obtain ⟨d1, hd1, rfl⟩ := exists_digit h1
  obtain ⟨d2, hd2, rfl⟩ := exists_digit h2
  obtain ⟨d3, hd3, rfl⟩ := exists_digit h3
  obtain ⟨d4, hd4, rfl⟩ := exists_digit h4
  have hn : trnEncode [(d0 : Int) - 1, d1 - 1, d2 - 1, d3 - 1, d4 - 1] = d0 + d1 * 3 + d2 * 9 + d3 * 27 + d4 * 81 := by
    rw [trnEncode_five]
    simp only [sub_add_cancel, Int.toNat_natCast]
  have hlt : d0 + d1 * 3 + d2 * 9 + d3 * 27 + d4 * 81 < 243 := by omega
  rw [hn, trnDecode_eq hlt]
  refine ⟨hlt, ?_⟩
  simp only [List.cons.injEq, and_true, sub_left_inj, Int.natCast_inj]
  omega

theorem trnEncode_trnDecode {b : Nat} (h : b < 243) : trnEncode (trnDecode b) = b ∧ (trnDecode b).length = 5 ∧
    ∀ x ∈ trnDecode b, x = -1 ∨ x = 0 ∨ x = 1 := by
  rw [trnDecode_eq h, trnEncode_five]
  refine ⟨by omega, rfl, ?_⟩
  simp only [List.forall_mem_cons]
  exact ⟨by omega, by omega, by omega, by omega, by omega, by simp⟩

/-! ### One sub-element (R213) -/

/-- A field of a word as a word of its own. -/
theorem zeroExtend_extractLsb' (x : W32) (lo n : Nat) :
    (x.extractLsb' lo n).zeroExtend 32 = BitVec.ofNat 32 (x.toNat / 2 ^ lo % 2 ^ n) := by
  refine BitVec.eq_of_toNat_eq ?_
  simp [Nat.shiftRight_eq_div_pow]

section
variable {b : BitVec 5}

theorem unpack_half (h : b.extractLsb' 0 2 = 1) :
    unpack b = fun x => BitVec.ofNat 32 (x.toNat / 2 ^ (16 * (b.extractLsb' 2 3).toNat) % 2 ^ 16) := by
  funext x
  rw [← zeroExtend_extractLsb', unpack, bits, h]
  rfl

theorem unpack_byte (h : b.extractLsb' 0 2 = 2) :
    unpack b = fun x => BitVec.ofNat 32 (x.toNat / 2 ^ (8 * (b.extractLsb' 2 3).toNat) % 2 ^ 8) := by
  funext x
  rw [← zeroExtend_extractLsb', unpack, bits, h]
  rfl

theorem unpack_trit (h : b.extractLsb' 0 2 = 3) :
    unpack b = fun x => BitVec.ofInt 32 ((trnDecode (x.toNat % 256)).getD (b.extractLsb' 2 3).toNat 0) := by
  funext x
  rw [unpack, bits, h]
  rfl

theorem pack_half (h : b.extractLsb' 0 2 = 1) :
    pack b = fun r x => setBits r (16 * (b.extractLsb' 2 3).toNat) 16 x.toNat := by
  funext r x
  rw [pack, bits, h]
  rfl

theorem pack_byte (h : b.extractLsb' 0 2 = 2) :
    pack b = fun r x => setBits r (8 * (b.extractLsb' 2 3).toNat) 8 x.toNat := by
  funext r x
  rw [pack, bits, h]
  rfl

theorem sign_eq (x : W32) : (if x.toInt < 0 then -1 else if x = 0 then 0 else 1 : Int) = x.toInt.sign := by
  split_ifs with hneg hzero
  · exact (Int.sign_eq_neg_one_of_neg hneg).symm
  · rw [hzero]
    rfl
  · have hne : x.toInt ≠ 0 := fun h => hzero (BitVec.eq_of_toInt_eq h)
    exact (Int.sign_eq_one_of_pos (by omega)).symm

theorem pack_trit (h : b.extractLsb' 0 2 = 3) : pack b = fun r x => BitVec.ofNat 32
    (trnEncode (upd (trnDecode (r.toNat % 256)) (b.extractLsb' 2 3).toNat fun _ => x.toInt.sign)) := by
  funext r x
  rw [← sign_eq, pack, bits, h]
  rfl

/-! ### The instructions -/

variable {s : State} {g : Guard}

theorem execVunpk_on (he : s.enabled g []) (d a b : BitVec 5) (h : BitVec 2) (m : BitVec 3) :
    execVunpk g d a b h m s = .next (((s.trnFlag b m (s.holdV h a)).keepV h a).toVec 4 d
      ((s.holdV h a).map (unpack b)) (s.vpred m)) :=
  guarded_on s g [] _ he

theorem execVpack_on (he : s.enabled g []) (d a b : BitVec 5) (h : BitVec 2) (m : BitVec 3) :
    execVpack g d a b h m s = .next (((s.trnFlag b m (s.vreg d)).keepV h a).toVec 4 d
      (List.zipWith (pack b) (s.vreg d) (s.holdV h a)) (s.vpred m)) :=
  guarded_on s g [] _ he

/-- Only the unpacking and the packing of trits look for reserved codes. -/
theorem trnFlag_of_ne (h : b.extractLsb' 0 2 ≠ 3) (m : BitVec 3) (v : VReg) : s.trnFlag b m v = s := by
  have hb : bits b 0 2 ≠ 3 := fun hb => h (BitVec.eq_of_toNat_eq hb)
  rw [State.trnFlag, decide_eq_false hb]
  rfl

theorem trnFlag_trit (h : b.extractLsb' 0 2 = 3) (m : BitVec 3) (v : VReg) : s.trnFlag b m v =
    if (List.range 1024).any fun e => (s.vpred m).on e && decide (243 ≤ (at0 v e).toNat % 256) then
      s.onMe (fun x => x.setFmt) else s := by
  have hres (x : W32) : trnReserved (bits x 0 8) = decide (243 ≤ x.toNat % 256) := rfl
  have hb : bits b 0 2 = 3 := congrArg BitVec.toNat h
  simp only [State.trnFlag, anyEnabled, hres, hb, decide_true, Bool.true_and]
end

/-- Settles O26: each instruction by its own equation and the sub-element it moves; the trits as digits of base 3. -/
theorem packingAndTrits : Obligations.PackingAndTrits := by
  unfold Obligations.PackingAndTrits
  refine ⟨fun s g d a b h m he => ?_, fun t => trnDecode_trnEncode, fun b => trnEncode_trnDecode⟩
  have hunpk : exec (.vunpk g d a b h m) s = _ := execVunpk_on he d a b h m
  have hpack : exec (.vpack g d a b h m) s = _ := execVpack_on he d a b h m
  dsimp only
  rw [hunpk, hpack]
  refine ⟨fun hb _ => ?_, fun hb _ => ?_, fun hb _ => ?_⟩
  · rw [trnFlag_of_ne (hb ▸ by decide), trnFlag_of_ne (hb ▸ by decide), unpack_half hb, pack_half hb]
    exact ⟨rfl, rfl⟩
  · rw [trnFlag_of_ne (hb ▸ by decide), trnFlag_of_ne (hb ▸ by decide), unpack_byte hb, pack_byte hb]
    exact ⟨rfl, rfl⟩
  · rw [trnFlag_trit hb, trnFlag_trit hb, unpack_trit hb, pack_trit hb]
    exact ⟨rfl, rfl⟩

end Sys2Proof.Machine
end

section
/-! PROOFS. Rounding of exact values, and the smaller and the larger of two floats (O22, R112, R120, R206). -/

namespace Sys2Proof.Machine

/-! ### Rounding what needs none (R120) -/

theorem divRne_one (n : Nat) : divRne n 1 = n := by simp [divRne, Nat.mod_one]

theorem log2Ratio_one {n : Nat} (hn : n ≠ 0) : log2Ratio n 1 = Nat.log2 n := by
  have h1 : Nat.log2 1 = 0 := by decide
  have hle : ¬ n < 2 ^ Nat.log2 n := not_lt.2 (Nat.log2_self_le hn)
  simp [log2Ratio, pow2, h1, Nat.shiftLeft_eq, hle]

/-- A number whose last place is the spacing at its size stands as it is. -/
theorem roundTo_self {p n : Nat} {low e : Int} (hn : n ≠ 0)
    (he : max ((Nat.log2 n : Int) + e - (p - 1 : Nat)) low = e) :
    roundTo p (some low) n 1 e = (n, e) := by
  simp only [roundTo, log2Ratio_one hn, he]
  simp [pow2, divRne_one]

/-- The exponent of a format's smallest spacing (R110, R120). -/
def Fp.low (f : Fp) : Int := 1 - (f.bias : Int) - (f.prec - 1 : Nat)

section
variable {f : Fp}

theorem Fp.encode_zero (d : Nat) (e : Int) : f.encode 0 d e = some 0 := if_pos rfl

/-- A subnormal number is its own code (R111). -/
theorem Fp.encode_subnormal {m : Nat} (hm : m < 2 ^ (f.prec - 1)) (hinf : 2 ^ (f.prec - 1) ≤ f.inf) :
    f.encode m 1 f.low = some m := by
  rcases Nat.eq_zero_or_pos m with rfl | hpos
  · exact Fp.encode_zero 1 _
  have hlog : Nat.log2 m < f.prec - 1 := (Nat.log2_lt hpos.ne').2 hm
  have hround := roundTo_self (p := f.prec) (low := f.low) (e := f.low) hpos.ne' (by omega)
  rw [Fp.low] at hround ⊢
  simp only [Fp.encode, hround, if_neg hpos.ne', if_pos hm, if_neg (not_le.2 (hm.trans_le hinf))]

/-- A normal number's code counts the spacings above the smallest in its exponent field (R111). -/
theorem Fp.encode_normal {m i : Nat} (hm : 2 ^ (f.prec - 1) ≤ m) (hm' : m < 2 ^ (f.prec - 1 + 1))
    (hinf : m + i * 2 ^ (f.prec - 1) < f.inf) : f.encode m 1 (f.low + i) = some (m + i * 2 ^ (f.prec - 1)) := by
  have hpos : m ≠ 0 := (hm.trans_lt' (by positivity)).ne'
  have hlog : Nat.log2 m = f.prec - 1 := (Nat.log2_eq_iff hpos).2 ⟨hm, hm'⟩
  have hround := roundTo_self (p := f.prec) (low := f.low) (e := f.low + i) hpos (by rw [hlog]; omega)
  rw [Fp.low] at hround ⊢
  simp only [Fp.encode, hround, if_neg hpos, if_neg (not_lt.2 hm), add_sub_cancel_left, Int.toNat_natCast,
    if_neg (not_le.2 hinf)]

theorem Fp.encode_lt_inf {n d c : Nat} {e : Int} (hinf : 0 < f.inf) (h : f.encode n d e = some c) : c < f.inf := by
  simp only [Fp.encode] at h
  split at h
  · obtain rfl := Option.some_inj.1 h
    exact hinf
  · rw [Option.ite_none_left_eq_some] at h
    obtain ⟨hlt, hc⟩ := h
    rw [Option.some_inj.1 hc] at hlt
    exact not_le.1 hlt

/-- A code is its sign and its magnitude. -/
theorem Fp.signed_mod {b : Nat} (hb : b < 2 * f.signBit) :
    f.signed (decide (f.signBit ≤ b)) (b % f.signBit) = b := by
  rw [Fp.signed]
  split
  next h =>
    have hle := of_decide_eq_true h
    rw [Nat.mod_eq_sub_mod hle, Nat.mod_eq_of_lt (by omega)]
    omega
  next h => exact Nat.mod_eq_of_lt (not_le.1 fun hle => h (decide_eq_true hle))

/-- The number that a finite magnitude code stands for has that code (R111). -/
theorem Fp.encode_fields {c : Nat} (hbias : 0 < f.bias) (hc : c < f.inf) :
    (c / 2 ^ (f.prec - 1) = 0 → f.encode (c % 2 ^ (f.prec - 1)) 1 f.low = some c) ∧
    (c / 2 ^ (f.prec - 1) ≠ 0 → f.encode (2 ^ (f.prec - 1) + c % 2 ^ (f.prec - 1)) 1
      (f.low + (c / 2 ^ (f.prec - 1) : Nat) - 1) = some c) := by
  have hK : 0 < 2 ^ (f.prec - 1) := by positivity
  have hfr := Nat.mod_lt c hK
  have hsplit := Nat.div_add_mod' c (2 ^ (f.prec - 1))
  refine ⟨fun h0 => ?_, fun h0 => ?_⟩
  · rw [h0, Nat.zero_mul, Nat.zero_add] at hsplit
    rw [hsplit] at hfr ⊢
    refine Fp.encode_subnormal hfr ?_
    rw [Fp.inf, Fp.codes]
    exact Nat.le_mul_of_pos_left _ (by omega)
  · obtain ⟨i, hi⟩ := Nat.exists_eq_succ_of_ne_zero h0
    have hcode : 2 ^ (f.prec - 1) + c % 2 ^ (f.prec - 1) + i * 2 ^ (f.prec - 1) = c := by
      rw [hi, Nat.succ_mul] at hsplit
      omega
    have hround := Fp.encode_normal (f := f) (i := i) (Nat.le_add_right _ (c % 2 ^ (f.prec - 1)))
      (by rw [pow_succ]; omega) (hcode.symm ▸ hc)
    rw [hcode] at hround
    rw [hi, ← hround]
    congr 1
    push_cast
    ring

/-- The NaNs have the largest exponent field and a fraction that is not 0 (R111). -/
theorem Fp.decode_eq_nan_iff (b : Nat) : f.decode b = .nan ↔
    b % f.signBit / 2 ^ (f.prec - 1) = f.codes - 1 ∧ b % f.signBit % 2 ^ (f.prec - 1) ≠ 0 := by
  unfold Fp.decode
  dsimp only
  split_ifs with hex hfr hzero
  · exact ⟨nofun, fun h => absurd hfr h.2⟩
  · exact ⟨fun _ => ⟨hex, hfr⟩, fun _ => rfl⟩
  · exact ⟨nofun, fun h => absurd h.1 hex⟩
  · exact ⟨nofun, fun h => absurd h.1 hex⟩

/-- The code of a format that is no NaN is the rounding of its own value (R112, R120). -/
theorem Fp.ofVal_decode {b : Nat} (hbias : 0 < f.bias) (hb : b < 2 * f.signBit) (hnan : f.decode b ≠ .nan) :
    f.ofVal (f.decode b) = b := by
  have hK : 0 < 2 ^ (f.prec - 1) := by positivity
  have hsign := Fp.signed_mod hb
  have hc : b % f.signBit < f.codes * 2 ^ (f.prec - 1) := Nat.mod_lt _ (by omega)
  unfold Fp.decode at hnan ⊢
  dsimp only at hnan ⊢
  generalize b % f.signBit = c at hsign hc hnan ⊢
  have hex : c / 2 ^ (f.prec - 1) < f.codes := Nat.div_lt_of_lt_mul (by rwa [mul_comm])
  have hsplit := Nat.div_add_mod' c (2 ^ (f.prec - 1))
  split at hnan
  next h =>
    split at hnan
    next hfr =>
      rw [if_pos h, if_pos hfr]
      rw [h, hfr] at hsplit
      exact (congrArg (f.signed _) hsplit).trans hsign
    next => exact absurd rfl hnan
  next h =>
    have hfin : c < f.inf := (Nat.div_lt_iff_lt_mul hK).1 (by omega)
    obtain ⟨hsub, hnormal⟩ := Fp.encode_fields hbias hfin
    rw [Fp.low] at hsub hnormal
    rw [if_neg h]
    split
    next h0 => rw [Fp.ofVal, Fp.round, hsub h0]; exact hsign
    next h0 => rw [Fp.ofVal, Fp.round, hnormal h0]; exact hsign
end

/-! ### The elements of FP32 -/

theorem isNan32_iff (x : W32) : isNan32 x = true ↔ val32 x = .nan := by
  have hS : fp32.signBit = 2147483648 := by decide
  have hfrac : 2 ^ (fp32.prec - 1) = 8388608 := by decide
  have hcodes : fp32.codes - 1 = 255 := by decide
  rw [val32, Fp.decode_eq_nan_iff, hS, hfrac, hcodes, isNan32, decide_eq_true_eq]
  omega

theorem to32_val32 {x : W32} (h : isNan32 x = false) : to32 (val32 x) = x := by
  have hnan : fp32.decode x.toNat ≠ .nan := fun hv => Bool.false_ne_true (h.symm.trans ((isNan32_iff x).2 hv))
  rw [to32, val32, Fp.ofVal_decode (by decide) x.isLt hnan, BitVec.ofNat_toNat, BitVec.setWidth_eq]

theorem to32_val32_nan {x : W32} (h : isNan32 x = true) : to32 (val32 x) = 0x7FC00000 := by
  rw [(isNan32_iff x).1 h]
  rfl

theorem signed_fp32_lt (neg : Bool) {c : Nat} (hc : c ≤ fp32.inf) : fp32.signed neg c < 2 ^ 32 := by
  have hinf : fp32.inf = 0x7F800000 := by decide
  have hS : fp32.signBit = 0x80000000 := by decide
  rw [Fp.signed]
  split <;> omega

theorem ofVal_fp32_lt (v : Val) : fp32.ofVal v < 2 ^ 32 := by
  cases v with
  | nan => decide
  | inf neg => exact signed_fp32_lt neg le_rfl
  | fin neg m e =>
    refine signed_fp32_lt neg ?_
    cases h : fp32.encode m 1 e with
    | none => exact le_rfl
    | some c => exact (Fp.encode_lt_inf (by decide) h).le

theorem convert_fp32 (v : Val) : convert v 0 1 = some (to32 v).toNat := by
  have hval : convert v 0 1 = some (fp32.ofVal v) := by
    cases v with
    | nan => rfl
    | inf neg => rfl
    | fin neg m e =>
      have ho : overflow neg 0 1 = some (fp32.signed neg fp32.inf) := rfl
      simp only [convert, fpOf, Fp.ofVal, Fp.round, ho]
      cases fp32.encode m 1 e <;> rfl
  rw [hval, to32, BitVec.toNat_ofNat, Nat.mod_eq_of_lt (ofVal_fp32_lt v)]

/-! ### The smaller and the larger element (R206) -/

theorem key32_of_msb {x : W32} (h : x.msb = true) : key32 x = 2147483647 - (x.toNat : Int) ∧ 2147483648 ≤ x.toNat := by
  have hle := BitVec.toNat_ge_of_msb_true h
  rw [key32, if_pos h]
  omega

theorem key32_of_not_msb {x : W32} (h : x.msb = false) : key32 x = x.toNat := by
  rw [key32, h, if_neg Bool.false_ne_true]

/-- The order of the keys, bit pattern by bit pattern: a larger magnitude is lower among the negative ones. -/
theorem key32_le_iff (x y : W32) : key32 x ≤ key32 y ↔
    if x.msb then (if y.msb then y.toNat ≤ x.toNat else True) else (if y.msb then False else x.toNat ≤ y.toNat) := by
  cases hx : x.msb <;> cases hy : y.msb <;> simp only [if_true, if_false, Bool.false_eq_true, iff_true, iff_false]
  · rw [key32_of_not_msb hx, key32_of_not_msb hy, Int.ofNat_le]
  · obtain ⟨hk, hle⟩ := key32_of_msb hy
    rw [key32_of_not_msb hx, hk]
    omega
  · obtain ⟨hk, hle⟩ := key32_of_msb hx
    rw [key32_of_not_msb hy, hk]
    omega
  · rw [(key32_of_msb hx).1, (key32_of_msb hy).1]
    omega

section
variable {a b : W32}

theorem fmin32_nan (h : (isNan32 a || isNan32 b) = true) : fmin32 a b = 0x7FC00000 := if_pos h

theorem fmax32_nan (h : (isNan32 a || isNan32 b) = true) : fmax32 a b = 0x7FC00000 := if_pos h

theorem fmin32_least (h : (isNan32 a || isNan32 b) = false) : (fmin32 a b = a ∨ fmin32 a b = b) ∧
    key32 (fmin32 a b) ≤ key32 a ∧ key32 (fmin32 a b) ≤ key32 b := by
  rw [fmin32, h, if_neg Bool.false_ne_true]
  split_ifs with hlt
  · exact ⟨.inr rfl, hlt.le, le_rfl⟩
  · exact ⟨.inl rfl, le_rfl, not_lt.1 hlt⟩

theorem fmax32_greatest (h : (isNan32 a || isNan32 b) = false) : (fmax32 a b = a ∨ fmax32 a b = b) ∧
    key32 a ≤ key32 (fmax32 a b) ∧ key32 b ≤ key32 (fmax32 a b) := by
  rw [fmax32, h, if_neg Bool.false_ne_true]
  split_ifs with hlt
  · exact ⟨.inr rfl, hlt.le, le_rfl⟩
  · exact ⟨.inl rfl, le_rfl, not_lt.1 hlt⟩
end

/-- The nearest quotient, by the distances above and below it. -/
theorem divRne_distance (n : Nat) {d : Nat} (hd : 0 < d) :
    2 * (n - d * divRne n d) ≤ d ∧ 2 * (d * divRne n d - n) ≤ d ∧
      (2 * (n - d * divRne n d) = d ∨ 2 * (d * divRne n d - n) = d → divRne n d % 2 = 0) := by
  obtain ⟨hle, htie⟩ := divRne_nearest n hd
  have hcast : (divRne n d : Int) * d = (d * divRne n d : Nat) := by
    push_cast
    ring
  rw [hcast] at hle htie
  refine ⟨by omega, by omega, fun h => ?_⟩
  have := htie (by omega)
  omega

/-- Settles O22: an element decodes to a number that its own code rounds back to, and the smaller and the larger follow
the order of the keys. -/
theorem roundingAndMinMax : Obligations.RoundingAndMinMax := by
  unfold Obligations.RoundingAndMinMax
  simp only [← key32_le_iff]
  refine ⟨⟨fun x => to32_val32, fun x => to32_val32_nan, fun n d => divRne_distance n⟩, convert_fp32, fun a b =>
    ⟨fun h => ⟨fmin32_nan h, fmax32_nan h⟩, fun h => ?_⟩⟩
  obtain ⟨hmin, hmina, hminb⟩ := fmin32_least h
  exact ⟨hmin, hmina, hminb, fmax32_greatest h⟩

end Sys2Proof.Machine
end

section
/-! PROOFS. What a cube operation reads (O45, R288, R289, R295): its k-steps by layer and wave, and the codes of its
blocks and slots. -/

namespace Sys2Proof.Machine

/-! ### The distribution of the k-steps (R295) -/

/-- The first k-step of the i-th of n layers that share NK k-steps. -/
def shareBase (NK n : Nat) : Nat → Nat
  | 0 => 0
  | i + 1 => shareBase NK n i + (NK - shareBase NK n i + (n - i - 1)) / (n - i)

/-- The k-steps of the i-th of n layers. -/
def shareCount (NK n i : Nat) : Nat := (NK - shareBase NK n i + (n - i - 1)) / (n - i)

theorem shares_eq {NK n : Nat} (ls : List Nat) (i : Nat) (hn : n = i + ls.length) :
    shares (NK - shareBase NK n i) (shareBase NK n i) ls =
      (List.range ls.length).map fun k => (ls.getD k 0, shareBase NK n (i + k), shareCount NK n (i + k)) := by
  induction ls generalizing i with
  | nil => rfl
  | cons l ls ih =>
    have hrest : n - i = ls.length + 1 := by
      rw [hn, List.length_cons]
      omega
    have hcount : (NK - shareBase NK n i + ls.length) / (ls.length + 1) = shareCount NK n i := by
      rw [shareCount, hrest, Nat.add_sub_cancel]
    have hbase : shareBase NK n i + shareCount NK n i = shareBase NK n (i + 1) := rfl
    rw [shares, hcount, Nat.sub_sub, hbase, ih (i + 1) (by omega), List.length_cons, List.range_succ_eq_map,
      List.map_cons, List.map_map]
    refine congrArg₂ _ rfl (List.map_congr_left fun k _ => ?_)
    simp only [Function.comp, List.getD_cons_succ, Nat.succ_eq_add_one, Nat.add_assoc, Nat.add_comm 1]

section
variable (o : CubeOp)

theorem dist_eq : o.dist = (List.range (layersOf o.mask).length).map fun i => ((layersOf o.mask).getD i 0,
    shareBase o.nk (layersOf o.mask).length i, shareCount o.nk (layersOf o.mask).length i) := by
  have h := shares_eq (NK := o.nk) (layersOf o.mask) 0 (Nat.zero_add _).symm
  simp only [Nat.zero_add] at h
  exact h

theorem nw_eq (h : 0 < (layersOf o.mask).length) : o.nw = shareCount o.nk (layersOf o.mask).length 0 := by
  rw [CubeOp.nw, dist_eq, List.head?_map, List.head?_range, if_neg h.ne']
  rfl

theorem stepsAt_eq (w : Nat) : o.stepsAt w = ((List.range (layersOf o.mask).length).filter fun i =>
    w < shareCount o.nk (layersOf o.mask).length i).map fun i =>
      ((layersOf o.mask).getD i 0, shareBase o.nk (layersOf o.mask).length i + w) := by
  rw [CubeOp.stepsAt, dist_eq, List.filter_map, List.map_map]
  rfl

/-! ### The path (R293) -/

theorem path_log_iff : o.path = .log ↔ o.afmt = 7 ∧ o.bfmt = 7 := by
  rw [CubeOp.path]
  split_ifs with hlog hint
  · exact ⟨fun _ => hlog, fun _ => rfl⟩
  · exact ⟨nofun, fun h => absurd h hlog⟩
  · exact ⟨nofun, fun h => absurd h hlog⟩

theorem path_int_iff : o.path = .int ↔ o.afmt ∈ [5, 6, 8] ∧ o.bfmt ∈ [4, 5, 6, 8] ∧ o.scale = 0 := by
  simp only [CubeOp.path, List.contains_iff_mem]
  split_ifs with hlog hint
  · refine ⟨nofun, fun h => absurd h.1 ?_⟩
    rw [hlog.1]
    decide
  · exact ⟨fun _ => hint, fun _ => rfl⟩
  · exact ⟨nofun, fun h => absurd h hint⟩
end

/-! ### Codes (R288, R289) -/

theorem getD_map_range {α : Type} {n i : Nat} (f : Nat → α) (d : α) (h : i < n) :
    ((List.range n).map f).getD i d = f i := by
  rw [List.getD_eq_getElem _ _ (by simpa using h), List.getElem_map, List.getElem_range]

theorem blockCodes_getD {A rows m k : Nat} (block : List Byte) (hA : A ≠ 4) (hm : m < rows) (hk : k < 64) :
    let byte := fun (i : Nat) => (at0 block i).toNat
    ((blockCodes A rows block).getD m []).getD k 0 = if A = 8 then byte (16 * m + k / 5)
      else if A = 1 ∨ A = 2 then byte (2 * (64 * m + k)) + 256 * byte (2 * (64 * m + k) + 1)
      else byte (64 * m + k) := by
  have hwide : ([1, 2, 4].contains A = true) ↔ A = 1 ∨ A = 2 := by simp [hA]
  rw [blockCodes, matrixCodes, getD_map_range _ _ hm, getD_map_range _ _ hk, codeAt]
  simp only [hwide]

section
variable {b : BSlot} {B k j : Nat} (hk : k < 64) (hj : j < 64)
include hk hj

/-- A slot whose tag does not fit reads as zeros (R289); a zero trit's digit is 1. -/
theorem columns_unfit (h : b.tag ≠ tagOf B) : ((b.columns B).getD j []).getD k 0 = if B = 8 then 1 else 0 := by
  rw [BSlot.columns, if_pos h, List.getD_replicate _ hj, List.getD_replicate _ hk]

theorem columns_fit (h : b.tag = tagOf B) : ((b.columns B).getD j []).getD k 0 =
    let code := codeAt B (fun i => if b.badRows.contains k then 0 else Mem.read b.data i) k j
    if B = 8 then ((trnDecode code).getD (j % 5) 0 + 1).toNat else code := by
  rw [BSlot.columns, if_neg (not_not.2 h), getD_map_range _ _ hj, getD_map_range _ _ hk]
end

/-- The byte of a poisoned row reads as 0 (R354). -/
theorem toNat_unlessBad (b : BSlot) (k i : Nat) :
    (if b.badRows.contains k then 0 else Mem.read b.data i).toNat =
      if k ∈ b.badRows then 0 else (Mem.read b.data i).toNat := by
  simp only [List.contains_iff_mem, apply_ite BitVec.toNat]
  rfl

theorem trnDecode_getD (b : Nat) {i : Nat} (h : i < 5) :
    (trnDecode b).getD i 0 = if 243 ≤ b then 0 else ((b / 3 ^ i % 3 : Nat) : Int) - 1 := by
  rw [trnDecode]
  split
  · exact List.getD_replicate (n := 5) 0 h
  · exact getD_map_range _ _ h

/-- The digit of a trit, which a slot's codes are for TRN. -/
theorem trit_digit (b : Nat) {i : Nat} (h : i < 5) :
    ((trnDecode b).getD i 0 + 1).toNat = if 243 ≤ b then 1 else b / 3 ^ i % 3 := by
  rw [trnDecode_getD b h]
  split <;> omega

theorem columns_getD {b : BSlot} {B k j : Nat} (hk : k < 64) (hj : j < 64) :
    let byte := fun (i : Nat) => if k ∈ b.badRows then 0 else (Mem.read b.data i).toNat
    let code := ((b.columns B).getD j []).getD k 0
    (b.tag ≠ (if B = 8 then Tag.trn else if B ∈ [1, 2, 4] then .bits16 else .bits8) → code = if B = 8 then 1 else 0) ∧
    (B = 8 → b.tag = .trn → code =
      if 243 ≤ byte (16 * k + j / 5) then 1 else byte (16 * k + j / 5) / 3 ^ (j % 5) % 3) ∧
    (B ∈ [1, 2, 4] → b.tag = .bits16 → code = byte (2 * (64 * k + j)) + 256 * byte (2 * (64 * k + j) + 1)) ∧
    (B ∈ [5, 6, 7] → b.tag = .bits8 → code = byte (64 * k + j)) := by
  have htag : tagOf B = if B = 8 then Tag.trn else if B ∈ [1, 2, 4] then .bits16 else .bits8 := by
    simp only [tagOf, List.contains_iff_mem]
  dsimp only
  simp only [← toNat_unlessBad]
  refine ⟨fun h => columns_unfit hk hj (htag ▸ h), fun hB h => ?_, fun hB h => ?_, fun hB h => ?_⟩
  · subst hB
    rw [columns_fit hk hj h]
    simp only [codeAt, if_true, trit_digit _ (Nat.mod_lt j (by decide))]
  · have h8 : B ≠ 8 := by rintro rfl; simp at hB
    rw [columns_fit hk hj (by rw [htag, if_neg h8, if_pos hB, h])]
    simp only [codeAt, if_neg h8, List.contains_iff_mem, if_pos hB]
  · have h8 : B ≠ 8 := by rintro rfl; simp at hB
    have hwide : B ∉ [1, 2, 4] := by
      intro hw
      fin_cases hB <;> simp at hw
    rw [columns_fit hk hj (by rw [htag, if_neg h8, if_neg hwide, h])]
    simp only [codeAt, if_neg h8, List.contains_iff_mem, if_neg hwide]

end Sys2Proof.Machine
end

section
/-! PROOFS. Exact values as rational numbers (O45, R121, R294, R299): products, and sums kept with their NaNs and
infinities. -/

namespace Sys2Proof.Machine

/-! ### Values -/

/-- The number a finite value stands for. -/
def Val.real (v : Val) : ℚ :=
  match v with
  | .fin neg m e => (if neg then -(m : ℚ) else m) * (2 : ℚ) ^ e
  | _ => 0

theorem cast_signedMag (neg : Bool) (m : Nat) : ((signedMag neg m : Int) : ℚ) = if neg then -(m : ℚ) else m := by
  cases neg <;> simp [signedMag]

theorem real_fin (neg : Bool) (m : Nat) (e : Int) : (Val.fin neg m e).real = signedMag neg m * (2 : ℚ) ^ e := by
  rw [cast_signedMag]
  rfl

theorem abs_signedMag (neg : Bool) (m : Nat) : |((signedMag neg m : Int) : ℚ)| = m := by
  rw [← Int.cast_abs, Int.abs_eq_natAbs, signedMag_natAbs, Int.cast_natCast]

theorem real_fin_eq_zero {neg : Bool} {m : Nat} {e : Int} : (Val.fin neg m e).real = 0 ↔ m = 0 := by
  rw [real_fin, mul_eq_zero_iff_right (zpow_ne_zero e two_ne_zero), ← abs_eq_zero, abs_signedMag, Nat.cast_eq_zero]

theorem real_valInt (k e : Int) : (valInt k e).real = k * (2 : ℚ) ^ e := by
  have hk : signedMag (decide (k < 0)) k.natAbs = k := by
    rw [signedMag]
    split
    next h => have := of_decide_eq_true h; omega
    next h => have := mt decide_eq_true h; omega
  rw [valInt, real_fin, hk]

/-! ### Products (R121) -/

theorem mul_eq_nan_iff (x y : Val) : x.mul y = .nan ↔ x = .nan ∨ y = .nan ∨
    (∃ neg, x = .inf neg) ∧ (∃ neg e, y = .fin neg 0 e) ∨ (∃ neg e, x = .fin neg 0 e) ∧ ∃ neg, y = .inf neg := by
  cases x <;> cases y <;> simp [Val.mul]

/-- The sign of a value. -/
def Val.sign (v : Val) : Bool :=
  match v with
  | .inf s => s
  | .fin s _ _ => s
  | .nan => false

theorem mul_infinite {x y : Val} (hx : x ≠ .nan) (hy : y ≠ .nan) (hinf : (∃ neg, x = .inf neg) ∨ ∃ neg, y = .inf neg)
    (hxy : x.mul y ≠ .nan) : x.mul y = .inf (x.sign != y.sign) := by
  match x, y with
  | .nan, _ => exact absurd rfl hx
  | .inf _, .nan | .fin .., .nan => exact absurd rfl hy
  | .inf _, .inf _ => rfl
  | .inf _, .fin _ _ _ => exact if_neg fun h => hxy (if_pos h)
  | .fin _ _ _, .inf _ => exact if_neg fun h => hxy (if_pos h)
  | .fin .., .fin .. => exact hinf.elim nofun nofun

theorem real_mul {x y : Val} (hx : ¬ ∃ neg, x = .inf neg) (hy : ¬ ∃ neg, y = .inf neg) :
    (x.mul y).real = x.real * y.real := by
  match x, y with
  | .nan, _ => exact (zero_mul _).symm
  | .fin .., .nan => exact (mul_zero _).symm
  | .inf a, _ => exact absurd ⟨a, rfl⟩ hx
  | .fin .., .inf b => exact absurd ⟨b, rfl⟩ hy
  | .fin a m e, .fin b n f =>
    rw [Val.mul, real_fin, real_fin, real_fin, zpow_add₀ two_ne_zero]
    cases a <;> cases b <;> simp [signedMag] <;> ring

/-- A value that is another one times 2^sc. -/
structure Val.ScaledBy (v w : Val) (sc : Int) : Prop where
  nan : w = .nan ↔ v = .nan
  inf : ∀ neg, w = .inf neg ↔ v = .inf neg
  real : w.real = v.real * (2 : ℚ) ^ sc

theorem scaledBy_mul_pow (v : Val) (sc : Int) : v.ScaledBy (v.mul (.fin false 1 sc)) sc := by
  cases v with
  | nan => exact ⟨Iff.rfl, fun _ => Iff.rfl, (zero_mul _).symm⟩
  | inf a =>
    have h : (Val.inf a).mul (.fin false 1 sc) = .inf a := by simp [Val.mul]
    rw [h]
    exact ⟨Iff.rfl, fun _ => Iff.rfl, (zero_mul _).symm⟩
  | fin a m e =>
    refine ⟨by simp [Val.mul], by simp [Val.mul], ?_⟩
    rw [real_mul (by simp) (by simp), real_fin false]
    simp [signedMag]

theorem scaledBy_zero (v : Val) : v.ScaledBy v 0 := ⟨Iff.rfl, fun _ => Iff.rfl, by rw [zpow_zero, mul_one]⟩

/-! ### Exact sums (R294, R299) -/

/-- The number an exact sum's finite terms come to. -/
def Exact.real (x : Exact) : ℚ := x.m * (2 : ℚ) ^ x.e

theorem addDyadic_real (m1 e1 m2 e2 : Int) : ((addDyadic m1 e1 m2 e2).1 : ℚ) * (2 : ℚ) ^ (addDyadic m1 e1 m2 e2).2 =
    m1 * (2 : ℚ) ^ e1 + m2 * (2 : ℚ) ^ e2 := by
  have hpow (e : Int) (h : min e1 e2 ≤ e) : (2 : ℚ) ^ (e - min e1 e2).toNat * (2 : ℚ) ^ min e1 e2 = 2 ^ e := by
    rw [← zpow_natCast, ← zpow_add₀ two_ne_zero]
    congr 1
    omega
  simp only [addDyadic]
  push_cast
  rw [add_mul, mul_assoc, mul_assoc, hpow e1 (min_le_left _ _), hpow e2 (min_le_right _ _)]

theorem add_fin_real (x : Exact) (neg : Bool) (m : Nat) (e : Int) :
    (x.add (.fin neg m e)).real = x.real + (Val.fin neg m e).real := by
  rw [Exact.add]
  split_ifs with hm hx
  · rw [real_fin_eq_zero.2 hm, add_zero]
  · rw [Exact.real, Exact.real, hx, Int.cast_zero, zero_mul, zero_add, real_fin]
  · rw [real_fin, Exact.real, addDyadic_real, Exact.real]

theorem merge_real (x y : Exact) : (x.merge y).real = x.real + y.real := by
  simp only [Exact.merge, Exact.real]
  split_ifs with hx hy
  · rw [hx, Int.cast_zero, zero_mul, zero_add]
  · rw [hy, Int.cast_zero, zero_mul, add_zero]
  · exact addDyadic_real ..

/-- An exact sum of values, each times 2^sc. -/
structure Exact.Sums (sc : Int) (x : Exact) (vs : List Val) : Prop where
  nan : x.nan = true ↔ .nan ∈ vs
  pinf : x.pinf = true ↔ .inf false ∈ vs
  ninf : x.ninf = true ↔ .inf true ∈ vs
  real : x.real = (vs.map fun v => v.real * (2 : ℚ) ^ sc).sum

section
variable {sc : Int} {x y : Exact} {vs ws : List Val}

theorem sums_zero : Exact.Sums sc Exact.zero [] := by
  refine ⟨by simp [Exact.zero], by simp [Exact.zero], by simp [Exact.zero], ?_⟩
  simp [Exact.zero, Exact.real]

theorem Exact.Sums.add (h : x.Sums sc vs) {v w : Val} (hw : v.ScaledBy w sc) : (x.add w).Sums sc (vs ++ [v]) := by
  obtain ⟨hnan, hp, hn, hreal⟩ := h
  obtain ⟨hwnan, hwinf, hwreal⟩ := hw
  have hsum : ((vs ++ [v]).map fun v => v.real * (2 : ℚ) ^ sc).sum = x.real + w.real := by
    rw [List.map_append, List.sum_append, List.map_singleton, List.sum_singleton, ← hreal, hwreal]
  cases w with
  | nan =>
    obtain rfl := hwnan.1 rfl
    exact ⟨by simp [Exact.add], by simpa [Exact.add] using hp, by simpa [Exact.add] using hn,
      by rw [hsum]; exact (add_zero _).symm⟩
  | inf neg =>
    obtain rfl := (hwinf neg).1 rfl
    cases neg
    · exact ⟨by simpa [Exact.add] using hnan, by simp [Exact.add], by simpa [Exact.add] using hn,
        by rw [hsum]; exact (add_zero _).symm⟩
    · exact ⟨by simpa [Exact.add] using hnan, by simpa [Exact.add] using hp, by simp [Exact.add],
        by rw [hsum]; exact (add_zero _).symm⟩
  | fin neg m e =>
    have hvnan : v ≠ .nan := fun h => by simpa using hwnan.2 h
    have hvinf (s : Bool) : v ≠ .inf s := fun h => by simpa using (hwinf s).2 h
    have hflags : (x.add (.fin neg m e)).nan = x.nan ∧ (x.add (.fin neg m e)).pinf = x.pinf ∧
        (x.add (.fin neg m e)).ninf = x.ninf := by
      rw [Exact.add]
      split_ifs <;> exact ⟨rfl, rfl, rfl⟩
    obtain ⟨h1, h2, h3⟩ := hflags
    refine ⟨?_, ?_, ?_, by rw [hsum, add_fin_real]⟩
    · rw [h1, hnan, List.mem_append, List.mem_singleton, or_iff_left hvnan.symm]
    · rw [h2, hp, List.mem_append, List.mem_singleton, or_iff_left (hvinf false).symm]
    · rw [h3, hn, List.mem_append, List.mem_singleton, or_iff_left (hvinf true).symm]

theorem Exact.Sums.merge (hx : x.Sums sc vs) (hy : y.Sums sc ws) : (x.merge y).Sums sc (vs ++ ws) := by
  refine ⟨?_, ?_, ?_, ?_⟩
  · rw [List.mem_append, ← hx.nan, ← hy.nan]
    exact Bool.or_eq_true _ _ ▸ Iff.rfl
  · rw [List.mem_append, ← hx.pinf, ← hy.pinf]
    exact Bool.or_eq_true _ _ ▸ Iff.rfl
  · rw [List.mem_append, ← hx.ninf, ← hy.ninf]
    exact Bool.or_eq_true _ _ ▸ Iff.rfl
  · rw [merge_real, hx.real, hy.real, List.map_append, List.sum_append]

/-- A sum carried through a list, each step adding its own values. -/
theorem Exact.Sums.foldl {β : Type} {f : Exact → β → Exact} {Q : β → List Val} (bs : List β)
    (hstep : ∀ b ∈ bs, ∀ x vs, Exact.Sums sc x vs → Exact.Sums sc (f x b) (vs ++ Q b)) (hx : x.Sums sc vs) :
    (bs.foldl f x).Sums sc (vs ++ bs.flatMap Q) := by
  induction bs generalizing x vs with
  | nil => simpa using hx
  | cons b bs ih =>
    rw [List.foldl_cons, List.flatMap_cons, ← List.append_assoc]
    exact ih (fun c hc => hstep c (List.mem_cons_of_mem _ hc)) (hstep b List.mem_cons_self _ _ hx)

theorem exactSum_sums (vs : List Val) : Exact.Sums 0 (vs.foldl Exact.add Exact.zero) vs := by
  have h := sums_zero.foldl (sc := 0) (Q := fun v => [v]) vs fun v _ _ _ hx => hx.add (scaledBy_zero v)
  rwa [List.nil_append, List.flatMap_singleton'] at h
end

end Sys2Proof.Machine
end

section
/-! PROOFS. The k-step sums of a cube operation (O45, R115, R293, R294): the integer, the logarithmic and the floating
path, each from the exact products. -/

namespace Sys2Proof.Machine

theorem foldl_add_eq_sum {α : Type} (f : α → Int) (l : List α) : l.foldl (fun n x => n + f x) 0 = (l.map f).sum := by
  rw [List.sum_eq_foldl, List.foldl_map]

/-- A sum rounded once to FP32: an integer of units of 2^u. -/
def rounded32 (S u : Int) : W32 := to32 (.fin (decide (S < 0)) S.natAbs u)

/-! ### Terms cut to a unit -/

/-- Rounding towards zero. -/
def truncQ (x : ℚ) : Int := if x < 0 then ⌈x⌉ else ⌊x⌋

theorem truncQ_intCast (k : Int) : truncQ k = k := by
  rw [truncQ, Int.ceil_intCast, Int.floor_intCast, ite_self]

theorem truncQ_signedMag_div (neg : Bool) (m n : Nat) :
    truncQ (((signedMag neg m : Int) : ℚ) / n) = signedMag neg (m / n) := by
  have hfloor : ⌊(m : ℚ) / n⌋ = ((m / n : Nat) : Int) := Rat.floor_natCast_div_natCast m n
  have hpos : (0 : ℚ) ≤ m / n := by positivity
  cases neg
  · have hm : ((signedMag false m : Int) : ℚ) = m := rfl
    rw [hm, truncQ, if_neg (not_lt.2 hpos), hfloor]
    rfl
  · have hm : ((signedMag true m : Int) : ℚ) / n = -((m : ℚ) / n) := by simp [signedMag, neg_div]
    rw [hm, truncQ]
    split
    next => rw [Int.ceil_neg, hfloor]; rfl
    next h =>
      have h0 : ((m / n : Nat) : Int) = 0 := by rw [← hfloor, le_antisymm (by linarith) hpos, Int.floor_zero]
      rw [Int.floor_neg, le_antisymm (by linarith : (m : ℚ) / n ≤ 0) hpos, Int.ceil_zero, signedMag, if_pos rfl, h0]

theorem truncTo_of_le {u e : Int} (h : u ≤ e) (neg : Bool) (m : Nat) :
    (((Val.fin neg m e).truncTo u : Int) : ℚ) = (Val.fin neg m e).real / (2 : ℚ) ^ u := by
  have hpow : ((m <<< (e - u).toNat : Nat) : ℚ) = m * (2 : ℚ) ^ (e - u) := by
    rw [Nat.shiftLeft_eq, Nat.cast_mul, Nat.cast_pow, ← zpow_natCast, Int.toNat_of_nonneg (by omega)]
    rfl
  rw [Val.truncTo, if_pos h, real_fin, mul_div_assoc, ← zpow_sub₀ two_ne_zero, cast_signedMag, cast_signedMag, hpow]
  split <;> ring

theorem truncTo_eq (u : Int) {p : Val} (hfin : ∃ neg m e, p = .fin neg m e) :
    p.truncTo u = truncQ (p.real / (2 : ℚ) ^ u) := by
  obtain ⟨neg, m, e, rfl⟩ := hfin
  rcases le_or_gt u e with h | h
  · rw [← truncTo_of_le h, truncQ_intCast]
  · have hpow : (2 : ℚ) ^ e / 2 ^ u = 1 / (2 ^ (u - e).toNat : Nat) := by
      rw [← zpow_sub₀ two_ne_zero, Nat.cast_pow, ← zpow_natCast, Int.toNat_of_nonneg (by omega), one_div, ← zpow_neg,
        neg_sub]
      rfl
    rw [Val.truncTo, if_neg (not_le.2 h), Nat.shiftRight_eq_div_pow, real_fin, mul_div_assoc, hpow, mul_one_div,
      truncQ_signedMag_div]

/-! ### The integer path -/

theorem intStep_eq {ps : List Val} (hfin : ∀ p ∈ ps, ∃ neg m, p = .fin neg m 0) {S : Int}
    (hS : (S : ℚ) = (ps.map Val.real).sum) : intStep ps = BitVec.ofInt 32 S := by
  have hreal (p : Val) (hp : p ∈ ps) : p.real = (p.truncTo 0 : Int) := by
    obtain ⟨neg, m, rfl⟩ := hfin p hp
    rw [truncTo_of_le le_rfl, zpow_zero, div_one]
  have hsum : (ps.map (Val.truncTo 0)).sum = S := by
    rw [List.map_congr_left hreal] at hS
    refine Int.cast_injective (α := ℚ) (Eq.trans ?_ hS.symm)
    rw [Int.cast_list_sum, List.map_map]
    rfl
  refine congrArg (BitVec.ofInt 32) ((List.foldl_ext _ (fun n p => n + p.truncTo 0) 0 fun n p hp => ?_).trans
    ((foldl_add_eq_sum _ ps).trans hsum))
  obtain ⟨neg, m, rfl⟩ := hfin p hp
  rfl

/-! ### The logarithmic path (R115) -/

/-- The product of two LG6 codes: the sum of their quarter-exponents. -/
def logProduct (a b : Nat) : Val :=
  let term := if a % 32 = 0 ∨ b % 32 = 0 then 0 else
    let qe := ((a % 32 : Nat) : Int) - 16 + (((b % 32 : Nat) : Int) - 16)
    [0x8000, 0x9838, 0xB505, 0xD745].getD (qe % 4).toNat 0 * 2 ^ (qe / 4 + 9).toNat
  if a % 64 = 32 ∨ b % 64 = 32 then Val.nan else .fin (decide (a / 32 % 2 ≠ b / 32 % 2)) term (-24)

theorem qtab_eq (f : Nat) (h : f < 4) : [0x8000, 0x9838, 0xB505, 0xD745].getD f 0 = qtab f := by
  interval_cases f <;> rfl

theorem lgTerm_eq (a b : Nat) : (lgTerm a b = none ∧ logProduct a b = .nan) ∨
    ∃ neg m, logProduct a b = .fin neg m (-24) ∧ lgTerm a b = some (signedMag neg m) := by
  have hnan : a % 64 = 32 ∨ b % 64 = 32 → a % 32 = 0 ∨ b % 32 = 0 := by omega
  have hqe : ((a % 32 : Nat) : Int) - 16 + (((b % 32 : Nat) : Int) - 16) = ((a % 32 + b % 32 : Nat) : Int) - 32 := by
    push_cast
    ring
  have hlow : (((a % 32 + b % 32 : Nat) : Int) - 32) % 4 = ((a % 32 + b % 32) % 4 : Nat) := by omega
  have hhigh : (((a % 32 + b % 32 : Nat) : Int) - 32) / 4 + 9 = ((a % 32 + b % 32) / 4 + 1 : Nat) := by omega
  rw [lgTerm, logProduct]
  dsimp only
  by_cases h0 : a % 32 = 0 ∨ b % 32 = 0
  · rw [if_pos h0, if_pos h0]
    split
    · exact .inl ⟨rfl, rfl⟩
    · exact .inr ⟨_, 0, rfl, by simp [signedMag]⟩
  · rw [if_neg h0, if_neg h0, if_neg (mt hnan h0), hqe, hlow, hhigh, Int.toNat_natCast, Int.toNat_natCast,
      qtab_eq _ (Nat.mod_lt _ (by decide)), ← Nat.shiftLeft_eq]
    refine .inr ⟨_, _, rfl, ?_⟩
    have hsign : xor (decide (a / 32 % 2 = 1)) (decide (b / 32 % 2 = 1)) = decide (a / 32 % 2 ≠ b / 32 % 2) := by
      rcases Nat.mod_two_eq_zero_or_one (a / 32) with ha | ha <;>
        rcases Nat.mod_two_eq_zero_or_one (b / 32) with hb | hb <;> rw [ha, hb] <;> rfl
    rw [hsign]

theorem logStep_nan {sc : Int} {as bs : List Nat} (h : none ∈ List.zipWith lgTerm as bs) :
    logStep sc as bs = 0x7FC00000 := by
  rw [logStep]
  exact if_pos (List.any_eq_true.2 ⟨none, h, rfl⟩)

theorem logStep_rounded {sc : Int} {as bs : List Nat} {ts : List Int} (h : List.zipWith lgTerm as bs = ts.map some) :
    logStep sc as bs = rounded32 ts.sum (sc - 24) := by
  have hsome : ((ts.map some).any Option.isNone) = false := by simp
  rw [logStep, h, hsome]
  simp only [foldl_add_eq_sum, List.map_map]
  rw [show ts.map ((fun t : Option Int => t.getD 0) ∘ some) = ts from List.map_id' ts]
  rfl

/-! ### The floating path (R294) -/

section
variable {win : Nat} {sc : Int} {ps : List Val}

theorem floatStep_nan (h : .nan ∈ ps ∨ .inf false ∈ ps ∧ .inf true ∈ ps) : floatStep win sc ps = 0x7FC00000 := by
  obtain ⟨hnan, hp, hn, -⟩ := exactSum_sums ps
  rw [← hnan, ← hp, ← hn, ← Bool.and_eq_true, ← Bool.or_eq_true] at h
  exact if_pos h

theorem floatStep_inf {neg : Bool} (hnan : .nan ∉ ps) (h : .inf neg ∈ ps) (h' : .inf (!neg) ∉ ps) :
    floatStep win sc ps = if neg then 0xFF800000 else 0x7F800000 := by
  obtain ⟨h1, h2, h3, -⟩ := exactSum_sums ps
  have h1 := Bool.eq_false_iff.2 (mt h1.1 hnan)
  rw [floatStep]
  dsimp only
  cases neg
  · rw [h1, h2.2 h, Bool.eq_false_iff.2 (mt h3.1 h')]
    rfl
  · rw [h1, h3.2 h, Bool.eq_false_iff.2 (mt h2.1 h')]
    rfl

/-- Of finite terms the largest exponent decides. -/
theorem floatStep_finite (hfin : ∀ p ∈ ps, ∃ neg m e, p = .fin neg m e) : floatStep win sc ps =
    (ps.filterMap Val.top).max?.elim 0 fun top =>
      rounded32 (ps.map (Val.truncTo (top - win))).sum (top - win + sc) := by
  obtain ⟨h1, h2, h3, -⟩ := exactSum_sums ps
  have hno (v : Val) (hv : ∀ neg m e, v ≠ .fin neg m e) : v ∉ ps := fun hm => by
    obtain ⟨neg, m, e, h⟩ := hfin v hm
    exact hv neg m e h
  rw [floatStep]
  simp only [Bool.eq_false_iff.2 (mt h1.1 (hno _ nofun)), Bool.eq_false_iff.2 (mt h2.1 (hno _ nofun)),
    Bool.eq_false_iff.2 (mt h3.1 (hno _ nofun)), foldl_add_eq_sum]
  cases (ps.filterMap Val.top).max? <;> rfl

/-- The exponent of a nonzero term. -/
theorem top_bounds {p : Val} {t : Int} (h : p.top = some t) :
    (2 : ℚ) ^ t ≤ |p.real| ∧ |p.real| < (2 : ℚ) ^ (t + 1) := by
  match p with
  | .fin neg m e =>
    rw [Val.top, Option.ite_none_left_eq_some, Option.some_inj] at h
    obtain ⟨hm, rfl⟩ := h
    have hlow : (2 : ℚ) ^ Nat.log2 m ≤ m := by exact_mod_cast Nat.log2_self_le hm
    have hhigh : (m : ℚ) < 2 ^ (Nat.log2 m + 1) := by exact_mod_cast Nat.lt_log2_self
    have hpos : (0 : ℚ) < 2 ^ e := by positivity
    rw [real_fin, abs_mul, abs_signedMag, abs_of_pos hpos, add_right_comm, zpow_add₀ two_ne_zero, zpow_add₀ two_ne_zero]
    exact ⟨mul_le_mul_of_nonneg_right (by exact_mod_cast hlow) hpos.le,
      mul_lt_mul_of_pos_right (by exact_mod_cast hhigh) hpos⟩

theorem top_eq_none {neg : Bool} {m : Nat} {e : Int} : (Val.fin neg m e).top = none ↔ (Val.fin neg m e).real = 0 := by
  rw [real_fin_eq_zero, Val.top]
  split <;> simp_all

theorem floatStep_zero (hfin : ∀ p ∈ ps, ∃ neg m e, p = .fin neg m e) (h : ∀ p ∈ ps, p.real = 0) :
    floatStep win sc ps = 0 := by
  have hnil : ps.filterMap Val.top = [] := by
    refine List.filterMap_eq_nil_iff.2 fun p hp => ?_
    obtain ⟨neg, m, e, rfl⟩ := hfin p hp
    exact top_eq_none.2 (h _ hp)
  rw [floatStep_finite hfin, hnil]
  rfl

theorem max_top_eq (hfin : ∀ p ∈ ps, ∃ neg m e, p = .fin neg m e) {e : Int} (hmin : ∃ p ∈ ps, (2 : ℚ) ^ e ≤ |p.real|)
    (hmax : ∀ p ∈ ps, |p.real| < (2 : ℚ) ^ (e + 1)) : (ps.filterMap Val.top).max? = some e := by
  have hlt {s t : Int} (h : (2 : ℚ) ^ s < 2 ^ (t + 1)) : s ≤ t :=
    Int.lt_add_one_iff.1 ((zpow_lt_zpow_iff_right₀ one_lt_two).1 h)
  rw [List.max?_eq_some_iff]
  refine ⟨?_, fun t ht => ?_⟩
  · obtain ⟨p, hp, hle⟩ := hmin
    obtain ⟨neg, m, f, rfl⟩ := hfin p hp
    refine List.mem_filterMap.2 ⟨_, hp, ?_⟩
    cases ht : (Val.fin neg m f).top with
    | none =>
      rw [top_eq_none.1 ht, abs_zero] at hle
      exact absurd hle (not_le.2 (by positivity))
    | some t =>
      obtain ⟨hlow, hhigh⟩ := top_bounds ht
      exact congrArg some (le_antisymm (hlt (hlow.trans_lt (hmax _ hp))) (hlt (hle.trans_lt hhigh)))
  · obtain ⟨p, hp, ht⟩ := List.mem_filterMap.1 ht
    exact hlt ((top_bounds ht).1.trans_lt (hmax p hp))

theorem floatStep_rounded (hfin : ∀ p ∈ ps, ∃ neg m e, p = .fin neg m e) {e : Int}
    (hmin : ∃ p ∈ ps, (2 : ℚ) ^ e ≤ |p.real|) (hmax : ∀ p ∈ ps, |p.real| < (2 : ℚ) ^ (e + 1)) : floatStep win sc ps =
      rounded32 (ps.map fun p => truncQ (p.real / (2 : ℚ) ^ (e - win))).sum (e - win + sc) := by
  rw [floatStep_finite hfin, max_top_eq hfin hmin hmax, Option.elim_some,
    List.map_congr_left fun p hp => truncTo_eq (e - win) (hfin p hp)]
end

end Sys2Proof.Machine
end

section
/-! PROOFS. What a cube operation computes, by element (O45, R293-R296, R299): the sum of an element of a k-step, and
the column and row sums of the exact products. -/

namespace Sys2Proof.Machine

/-! ### The factors and the products of one element (R293, R117) -/

/-- The factor of column k of A, its scale apart. -/
def aFactor (A k a : Nat) : Val :=
  if A = 8 then valInt (if 243 ≤ a then 0 else ((a / 3 ^ (k % 5) % 3 : Nat) : Int) - 1) 0 else fmtVal A a

/-- The factor of an element of B, for TRN a digit, its scale apart. -/
def bFactor (B b : Nat) : Val := if B = 8 then valInt ((b : Int) - 1) 0 else fmtVal B b

/-- The k-th product of a row of A and a column of B. -/
def cubeProduct (A B : Nat) (ra cb : List Nat) (k : Nat) : Val :=
  if A = 7 ∧ B = 7 then logProduct (ra.getD k 0) (cb.getD k 0)
  else (aFactor A k (ra.getD k 0)).mul (bFactor B (cb.getD k 0))

theorem factor_eq (A k a : Nat) : factor A k a = aFactor A k a := by
  rw [factor, aFactor, trnDecode_getD a (Nat.mod_lt k (by decide))]

section
variable {ra cb : List Nat} (ha : ra.length = 64) (hb : cb.length = 64)
include ha hb

theorem zipWith_eq_map_range {α : Type} (f : Nat → Nat → α) :
    List.zipWith f ra cb = (List.range 64).map fun k => f (ra.getD k 0) (cb.getD k 0) := by
  refine List.ext_getElem (by simp [ha, hb]) fun k h h' => ?_
  rw [List.length_map, List.length_range] at h'
  rw [List.getElem_zipWith, List.getElem_map, List.getElem_range, List.getD_eq_getElem _ _ (by omega),
    List.getD_eq_getElem _ _ (by omega)]

theorem products_eq {A B : Nat} (h : ¬ (A = 7 ∧ B = 7)) :
    products (factors A ra) (columnFactors B cb) = (List.range 64).map (cubeProduct A B ra cb) := by
  refine List.ext_getElem (by simp [products, factors, columnFactors, ha, hb]) fun k hk hk' => ?_
  rw [List.length_map, List.length_range] at hk'
  simp only [products, factors, columnFactors, List.getElem_zipWith, List.getElem_mapIdx, List.getElem_map, factor_eq,
    List.getElem_range]
  rw [cubeProduct, if_neg h, List.getD_eq_getElem _ _ (by omega), List.getD_eq_getElem _ _ (by omega)]
  rfl
end

theorem logProduct_real {a b : Nat} (h : logProduct a b ≠ .nan) : lgTerm a b = some ((lgTerm a b).getD 0) ∧
    (((lgTerm a b).getD 0 : Int) : ℚ) = (logProduct a b).real * 2 ^ 24 := by
  obtain ⟨-, hnan⟩ | ⟨neg, m, hv, ht⟩ := lgTerm_eq a b
  · exact absurd hnan h
  · rw [ht, hv, real_fin, mul_assoc]
    refine ⟨rfl, ?_⟩
    rw [show (2 : ℚ) ^ (-24 : Int) * 2 ^ 24 = 1 by norm_num, mul_one]
    rfl

/-- An integer factor has no scale of its own (R113, R117). -/
theorem aFactor_int {A : Nat} (hA : A ∈ [5, 6, 8]) (k a : Nat) : ∃ n, aFactor A k a = valInt n 0 := by
  fin_cases hA <;> exact ⟨_, rfl⟩

theorem bFactor_int {B : Nat} (hB : B ∈ [4, 5, 6, 8]) (b : Nat) : ∃ n, bFactor B b = valInt n 0 := by
  fin_cases hB <;> exact ⟨_, rfl⟩

/-! ### One element of a k-step -/

section
variable (o : CubeOp)

/-- The k-step sum of one element, from its row's and its column's codes (R293). -/
def CubeOp.elemSum (ra cb : List Nat) : W32 :=
  match o.path with
  | .log => logStep o.scale ra cb
  | .int => intStep (products (factors o.afmt ra) (columnFactors o.bfmt cb))
  | .float => floatStep o.window o.scale (products (factors o.afmt ra) (columnFactors o.bfmt cb))

theorem stepSums_eq (k : KStep) : o.stepSums k = k.a.flatMap fun ra => k.b.map fun cb => o.elemSum ra cb := by
  cases h : o.path <;> simp only [CubeOp.stepSums, CubeOp.elemSum, h, List.map_map] <;> rfl

theorem stepSums_single (ra cb : List Nat) : o.stepSums ⟨[ra], [cb]⟩ = [o.elemSum ra cb] := by
  rw [stepSums_eq]
  rfl

/-- The exact value of a term of the logarithmic path. -/
def lgExact (sc : Int) : Option Int → Val
  | none => .nan
  | some n => valInt n (sc - 24)

/-- The exact products' sum of one element (R299). -/
def CubeOp.elemExact (ra cb : List Nat) : Exact :=
  match o.path with
  | .log => (List.zipWith lgTerm ra cb).foldl (fun x t => x.add (lgExact o.scale t)) Exact.zero
  | _ => (products (factors o.afmt ra) (columnFactors o.bfmt cb)).foldl
      (fun x v => x.add (v.mul (.fin false 1 o.scale))) Exact.zero

theorem exactSums_eq (k : KStep) : o.exactSums k = k.a.flatMap fun ra => k.b.map fun cb => o.elemExact ra cb := by
  cases h : o.path <;> simp only [CubeOp.exactSums, CubeOp.elemExact, h, List.map_map] <;> rfl
end

theorem lgExact_scaled (sc : Int) (a b : Nat) : (logProduct a b).ScaledBy (lgExact sc (lgTerm a b)) sc := by
  obtain ⟨ht, hv⟩ | ⟨neg, m, hv, ht⟩ := lgTerm_eq a b
  · rw [ht, hv]
    exact ⟨Iff.rfl, fun _ => Iff.rfl, (zero_mul _).symm⟩
  · rw [ht, hv]
    refine ⟨⟨nofun, nofun⟩, fun _ => ⟨nofun, nofun⟩, ?_⟩
    rw [lgExact, real_valInt, real_fin, mul_assoc, ← zpow_add₀ two_ne_zero, neg_add_eq_sub]

/-- The elements of a matrix made row by row. -/
theorem getD_flatMap {α β : Type} {xs : List α} {f : α → List β} {n : Nat} (hf : ∀ x ∈ xs, (f x).length = n) {m j : Nat}
    (hm : m < xs.length) (hj : j < n) (d : β) (d' : α) :
    (xs.flatMap f).getD (n * m + j) d = (f (xs.getD m d')).getD j d := by
  induction xs generalizing m with
  | nil => exact absurd hm (Nat.not_lt_zero m)
  | cons x xs ih =>
    have hx := hf x List.mem_cons_self
    rw [List.flatMap_cons]
    cases m with
    | zero => rw [Nat.mul_zero, Nat.zero_add, List.getD_append _ _ _ _ (by omega), List.getD_cons_zero]
    | succ m =>
      rw [Nat.mul_succ, List.getD_append_right _ _ _ _ (by omega), hx, List.getD_cons_succ,
        show n * m + n + j - n = n * m + j by omega]
      exact ih (fun y hy => hf y (List.mem_cons_of_mem _ hy)) (Nat.lt_of_succ_lt_succ hm)

section
variable {γ : Type} {k : KStep} (hb : k.b.length = 64) (f : List Nat → List Nat → γ) (d : γ)
include hb

theorem length_elements : (k.a.flatMap fun ra => k.b.map fun cb => f ra cb).length = 64 * k.a.length := by
  simp [List.length_flatMap, hb, mul_comm]

theorem getD_elements {m j : Nat} (hm : m < k.a.length) (hj : j < 64) :
    (k.a.flatMap fun ra => k.b.map fun cb => f ra cb).getD (64 * m + j) d = f (k.a.getD m []) (k.b.getD j []) := by
  rw [getD_flatMap (fun _ _ => by rw [List.length_map, hb]) hm hj d [],
    List.getD_eq_getElem _ _ (by simpa [hb] using hj), List.getElem_map, List.getD_eq_getElem k.b _ (by omega)]
end

theorem waveSums_append (o : CubeOp) {ks : List KStep} (h : ks ≠ []) (k : KStep) :
    o.waveSums (ks ++ [k]) = List.zipWith o.path.add (o.waveSums ks) (o.stepSums k) := by
  obtain ⟨k0, ks, rfl⟩ := List.exists_cons_of_ne_nil h
  rw [List.cons_append, CubeOp.waveSums, CubeOp.waveSums, List.foldl_append]
  rfl

/-! ### The sum of one element on each path (R294, R115) -/

theorem mem_map_range {p : Nat → Val} {v : Val} : v ∈ (List.range 64).map p ↔ ∃ k < 64, p k = v := by
  simp only [List.mem_map, List.mem_range]

section
variable {o : CubeOp} {ra cb : List Nat} (ha : ra.length = 64) (hb : cb.length = 64)
include ha hb

theorem elemSum_log (h : o.path = .log) :
    ((∃ k < 64, cubeProduct o.afmt o.bfmt ra cb k = .nan) → o.elemSum ra cb = 0x7FC00000) ∧
    ((∀ k < 64, cubeProduct o.afmt o.bfmt ra cb k ≠ .nan) → ∀ S : Int,
      (S : ℚ) = ((List.range 64).map fun k => (cubeProduct o.afmt o.bfmt ra cb k).real * 2 ^ 24).sum →
        o.elemSum ra cb = rounded32 S (o.scale - 24)) := by
  have hp (k : Nat) : cubeProduct o.afmt o.bfmt ra cb k = logProduct (ra.getD k 0) (cb.getD k 0) :=
    if_pos ((path_log_iff o).1 h)
  simp only [hp, CubeOp.elemSum, h]
  refine ⟨fun ⟨k, hk, hnan⟩ => logStep_nan ?_, fun hfin S hS => ?_⟩
  · obtain ⟨ht, -⟩ | ⟨neg, m, hv, -⟩ := lgTerm_eq (ra.getD k 0) (cb.getD k 0)
    · rw [zipWith_eq_map_range ha hb]
      exact List.mem_map.2 ⟨k, List.mem_range.2 hk, ht⟩
    · rw [hv] at hnan
      cases hnan
  · have hterms : List.zipWith lgTerm ra cb =
        ((List.range 64).map fun k => (lgTerm (ra.getD k 0) (cb.getD k 0)).getD 0).map some := by
      rw [zipWith_eq_map_range ha hb, List.map_map]
      exact List.map_congr_left fun k hk => (logProduct_real (hfin k (List.mem_range.1 hk))).1
    rw [logStep_rounded hterms]
    congr 1
    refine Int.cast_injective (α := ℚ) (Eq.trans ?_ hS.symm)
    rw [Int.cast_list_sum, List.map_map]
    exact congrArg List.sum (List.map_congr_left fun k hk => (logProduct_real (hfin k (List.mem_range.1 hk))).2)

theorem elemSum_int (h : o.path = .int) {S : Int}
    (hS : (S : ℚ) = ((List.range 64).map fun k => (cubeProduct o.afmt o.bfmt ra cb k).real).sum) :
    o.elemSum ra cb = BitVec.ofInt 32 S := by
  obtain ⟨hA, hB, -⟩ := (path_int_iff o).1 h
  have hlog : ¬ (o.afmt = 7 ∧ o.bfmt = 7) := fun hl => by
    rw [hl.1] at hA
    exact absurd hA (by decide)
  simp only [CubeOp.elemSum, h]
  rw [products_eq ha hb hlog]
  refine intStep_eq (fun p hp => ?_) (by rwa [List.map_map])
  obtain ⟨k, -, rfl⟩ := mem_map_range.1 hp
  obtain ⟨m, hm⟩ := aFactor_int hA k (ra.getD k 0)
  obtain ⟨n, hn⟩ := bFactor_int hB (cb.getD k 0)
  rw [cubeProduct, if_neg hlog, hm, hn]
  exact ⟨_, _, rfl⟩

theorem elemSum_eq_floatStep (h : o.path = .float) :
    o.elemSum ra cb = floatStep o.window o.scale ((List.range 64).map (cubeProduct o.afmt o.bfmt ra cb)) := by
  have hlog : ¬ (o.afmt = 7 ∧ o.bfmt = 7) := fun hl => by
    rw [(path_log_iff o).2 hl] at h
    cases h
  simp only [CubeOp.elemSum, h]
  rw [products_eq ha hb hlog]

theorem elemSum_float (h : o.path = .float) :
    let p := cubeProduct o.afmt o.bfmt ra cb
    ((∃ k < 64, p k = .nan) ∨ (∃ k < 64, p k = .inf false) ∧ (∃ k < 64, p k = .inf true) →
      o.elemSum ra cb = 0x7FC00000) ∧
    ((∀ k < 64, p k ≠ .nan) → ∀ neg, (∃ k < 64, p k = .inf neg) → (∀ k < 64, p k ≠ .inf (!neg)) →
      o.elemSum ra cb = if neg then 0xFF800000 else 0x7F800000) ∧
    ((∀ k < 64, ∃ neg m e, p k = .fin neg m e) →
      ((∀ k < 64, (p k).real = 0) → o.elemSum ra cb = 0) ∧
      ∀ e : Int, (∃ k < 64, (2 : ℚ) ^ e ≤ |(p k).real|) → (∀ k < 64, |(p k).real| < (2 : ℚ) ^ (e + 1)) →
        o.elemSum ra cb = rounded32
          ((List.range 64).map fun k => truncQ ((p k).real / (2 : ℚ) ^ (e - (o.window : Int)))).sum
          (e - (o.window : Int) + o.scale)) := by
  intro p
  have hall {P : Val → Prop} : (∀ v ∈ (List.range 64).map p, P v) ↔ ∀ k < 64, P (p k) := by
    simp only [List.forall_mem_map, List.mem_range]
  have hex {P : Val → Prop} : (∃ v ∈ (List.range 64).map p, P v) ↔ ∃ k < 64, P (p k) := by
    simp only [List.mem_map, List.mem_range, exists_exists_and_eq_and]
  have hnot {v : Val} (hv : ∀ k < 64, p k ≠ v) : v ∉ (List.range 64).map p := fun hm => by
    obtain ⟨k, hk, he⟩ := mem_map_range.1 hm
    exact hv k hk he
  rw [elemSum_eq_floatStep ha hb h]
  refine ⟨fun hnan => floatStep_nan ?_, fun hnan neg hinf hother => floatStep_inf (hnot hnan) (mem_map_range.2 hinf)
    (hnot hother), fun hfin => ⟨fun hzero => floatStep_zero (hall.2 hfin) (hall.2 hzero), fun e hmin hmax => ?_⟩⟩
  · rwa [mem_map_range, mem_map_range, mem_map_range]
  · rw [floatStep_rounded (hall.2 hfin) (hex.2 hmin) (hall.2 hmax), List.map_map]
    rfl

/-! ### The exact sum of one element (R299) -/

theorem elemExact_sums : (o.elemExact ra cb).Sums o.scale ((List.range 64).map (cubeProduct o.afmt o.bfmt ra cb)) := by
  have hrange (p : Nat → Val) : (List.range 64).flatMap (fun k => [p k]) = (List.range 64).map p := by
    rw [List.map_eq_flatMap]
  rw [← hrange]
  by_cases h : o.path = .log
  · have hp (k : Nat) : cubeProduct o.afmt o.bfmt ra cb k = logProduct (ra.getD k 0) (cb.getD k 0) :=
      if_pos ((path_log_iff o).1 h)
    rw [CubeOp.elemExact, h]
    dsimp only
    rw [zipWith_eq_map_range ha hb, List.foldl_map]
    simp only [hp]
    exact sums_zero.foldl _ fun k _ _ _ hx => hx.add (lgExact_scaled _ _ _)
  · have hx : o.elemExact ra cb = (products (factors o.afmt ra) (columnFactors o.bfmt cb)).foldl
        (fun x v => x.add (v.mul (.fin false 1 o.scale))) Exact.zero := by
      cases hpath : o.path <;> simp only [CubeOp.elemExact, hpath]
      exact absurd hpath h
    rw [hx, products_eq ha hb (mt (path_log_iff o).2 h), List.foldl_map]
    exact sums_zero.foldl _ fun k _ _ _ hx => hx.add (scaledBy_mul_pow _ _)
end

/-! ### Column and row sums (R299) -/

/-- A list changed place by place, step after step. -/
theorem foldl_places {α β : Type} {f : List α → β → List α} {g : Nat → α → β → α} {d : α}
    (hlen : ∀ l b, (f l b).length = l.length) (hget : ∀ l b j, j < l.length → (f l b).getD j d = g j (l.getD j d) b)
    (bs : List β) (l : List α) : (bs.foldl f l).length = l.length ∧
      ∀ j < l.length, (bs.foldl f l).getD j d = bs.foldl (g j) (l.getD j d) := by
  induction bs generalizing l with
  | nil => exact ⟨rfl, fun _ _ => rfl⟩
  | cons b bs ih =>
    obtain ⟨hl, hg⟩ := ih (f l b)
    refine ⟨hl.trans (hlen l b), fun j hj => ?_⟩
    rw [List.foldl_cons, hg j (hlen l b ▸ hj), hget l b j hj]
    rfl

theorem getD_mapIdx {α β : Type} (f : Nat → α → β) {l : List α} {j : Nat} (hj : j < l.length) (d : α) (d' : β) :
    (l.mapIdx f).getD j d' = f j (l.getD j d) := by
  rw [List.getD_eq_getElem _ _ (by simpa using hj), List.getElem_mapIdx, List.getD_eq_getElem _ _ hj]

/-- A sum with the sums of some elements merged in. -/
def Exact.mergeCells (x : Exact) (xs : List Exact) (cells : List (Nat × Nat)) : Exact :=
  cells.foldl (fun x c => x.merge (xs.getD (64 * c.1 + c.2) Exact.zero)) x

theorem addColSums_getD (rows : Nat) (cs xs : List Exact) {j : Nat} (hj : j < cs.length) :
    (addColSums rows cs xs).getD j Exact.zero =
      (cs.getD j Exact.zero).mergeCells xs ((List.range rows).map fun m => (m, j)) := by
  rw [addColSums, getD_mapIdx _ hj Exact.zero, Exact.mergeCells, List.foldl_map]

theorem addRowSums_getD (rs xs : List Exact) {m : Nat} (hm : m < rs.length) :
    (addRowSums rs xs).getD m Exact.zero = ((xs.drop (64 * m)).take 64).foldl Exact.merge (rs.getD m Exact.zero) := by
  rw [addRowSums, getD_mapIdx _ hm Exact.zero]

theorem foldl_row {xs : List Exact} {m : Nat} (h : 64 * m + 64 ≤ xs.length) (x : Exact) :
    ((xs.drop (64 * m)).take 64).foldl Exact.merge x = x.mergeCells xs ((List.range 64).map fun j => (m, j)) := by
  have hrow : (xs.drop (64 * m)).take 64 = (List.range 64).map fun j => xs.getD (64 * m + j) Exact.zero := by
    refine List.ext_getElem (by simp; omega) fun j hj hj' => ?_
    rw [List.length_map, List.length_range] at hj'
    rw [List.getElem_take, List.getElem_drop, List.getElem_map, List.getElem_range, List.getD_eq_getElem _ _ (by omega)]
  rw [hrow, Exact.mergeCells, List.foldl_map, List.foldl_map]

/-- A k-step of so many rows, 64 columns, and 64 codes in each (R288, R289). -/
def KStep.shaped (rows : Nat) (k : KStep) : Prop :=
  k.a.length = rows ∧ k.b.length = 64 ∧ (∀ r ∈ k.a, r.length = 64) ∧ ∀ c ∈ k.b, c.length = 64

/-- The i-th product of element (m, j) of a k-step. -/
def CubeOp.product (o : CubeOp) (k : KStep) (m j i : Nat) : Val :=
  cubeProduct o.afmt o.bfmt (k.a.getD m []) (k.b.getD j []) i

/-- The products of some elements of a k-step. -/
def CubeOp.cellTerms (o : CubeOp) (cells : List (Nat × Nat)) (k : KStep) : List Val :=
  cells.flatMap fun c => (List.range 64).map (o.product k c.1 c.2)

/-- Some product of the elements, over the k-steps, is the value. -/
def CubeOp.meets (o : CubeOp) (ks : List KStep) (cells : List (Nat × Nat)) (v : Val) : Prop :=
  ∃ k ∈ ks, ∃ c ∈ cells, ∃ i < 64, o.product k c.1 c.2 i = v

section
variable {o : CubeOp} {rows : Nat} {k : KStep}

theorem mergeCells_sums (hk : k.shaped rows) {cells : List (Nat × Nat)} (hc : ∀ c ∈ cells, c.1 < rows ∧ c.2 < 64)
    {x : Exact} {vs : List Val} (hx : x.Sums o.scale vs) :
    (x.mergeCells (o.exactSums k) cells).Sums o.scale (vs ++ o.cellTerms cells k) := by
  obtain ⟨ha, hb, hra, hcb⟩ := hk
  refine hx.foldl cells fun c hmem _ _ hx => hx.merge ?_
  obtain ⟨hm, hj⟩ := hc c hmem
  rw [exactSums_eq, getD_elements hb _ _ (ha.symm ▸ hm) hj]
  refine elemExact_sums (hra _ ?_) (hcb _ ?_)
  · rw [List.getD_eq_getElem _ _ (ha.symm ▸ hm)]
    exact List.getElem_mem _
  · rw [List.getD_eq_getElem _ _ (hb.symm ▸ hj)]
    exact List.getElem_mem _

variable {ks : List KStep} (hxc : o.xc = true) (hks : ∀ k ∈ ks, k.shaped o.rows_)
include hxc

theorem checks_cols : (o.checks ks).1.length = 64 ∧ ∀ j < 64, (o.checks ks).1.getD j Exact.zero =
    ks.foldl (fun x k => x.mergeCells (o.exactSums k) ((List.range o.rows_).map fun m => (m, j))) Exact.zero := by
  have h := foldl_places (f := fun cs k => addColSums o.rows_ cs (o.exactSums k))
    (g := fun j x k => x.mergeCells (o.exactSums k) ((List.range o.rows_).map fun m => (m, j)))
    (fun cs k => by rw [addColSums, List.length_mapIdx])
    (fun cs k _ hj => addColSums_getD o.rows_ cs (o.exactSums k) hj)
    ks (List.replicate 64 Exact.zero)
  simp only [CubeOp.checks, hxc, if_true, List.foldl_map]
  rw [List.length_replicate] at h
  refine ⟨h.1, fun j hj => (h.2 j hj).trans ?_⟩
  rw [List.getD_replicate _ hj]

theorem checks_rows : (o.checks ks).2.length = 16 ∧ ∀ m < 16, (o.checks ks).2.getD m Exact.zero =
    ks.foldl (fun x k => (((o.exactSums k).drop (64 * m)).take 64).foldl Exact.merge x) Exact.zero := by
  have h := foldl_places (f := fun rs k => addRowSums rs (o.exactSums k))
    (g := fun m x k => (((o.exactSums k).drop (64 * m)).take 64).foldl Exact.merge x)
    (fun rs k => by rw [addRowSums, List.length_mapIdx]) (fun rs k _ hm => addRowSums_getD rs (o.exactSums k) hm)
    ks (List.replicate 16 Exact.zero)
  simp only [CubeOp.checks, hxc, if_true, List.foldl_map]
  rw [List.length_replicate] at h
  refine ⟨h.1, fun m hm => (h.2 m hm).trans ?_⟩
  rw [List.getD_replicate _ hm]

include hks

theorem colSum_sums {j : Nat} (hj : j < 64) : ((o.checks ks).1.getD j Exact.zero).Sums o.scale
    (ks.flatMap (o.cellTerms ((List.range o.rows_).map fun m => (m, j)))) := by
  rw [(checks_cols hxc).2 j hj]
  refine sums_zero.foldl ks fun k hk _ _ hx => mergeCells_sums (hks k hk) (fun c hc => ?_) hx
  obtain ⟨m, hm, rfl⟩ := List.mem_map.1 hc
  exact ⟨List.mem_range.1 hm, hj⟩

theorem rowSum_sums {m : Nat} (hm : m < o.rows_) : ((o.checks ks).2.getD m Exact.zero).Sums o.scale
    (ks.flatMap (o.cellTerms ((List.range 64).map fun j => (m, j)))) := by
  have h16 : m < 16 := hm.trans_le (by rw [CubeOp.rows_]; split <;> omega)
  rw [(checks_rows hxc).2 m h16]
  refine sums_zero.foldl ks fun k hk _ _ hx => ?_
  have hlen : 64 * m + 64 ≤ (o.exactSums k).length := by
    obtain ⟨ha, hb, -⟩ := hks k hk
    rw [exactSums_eq, length_elements hb, ha]
    omega
  rw [foldl_row hlen]
  refine mergeCells_sums (hks k hk) (fun c hc => ?_) hx
  obtain ⟨j, hj, rfl⟩ := List.mem_map.1 hc
  exact ⟨hm, List.mem_range.1 hj⟩
end

theorem sum_map_flatMap {α β : Type} (l : List α) (f : α → List β) (g : β → ℚ) :
    ((l.flatMap f).map g).sum = (l.map fun a => ((f a).map g).sum).sum := by
  rw [List.map_flatMap, List.flatMap_def, List.sum_flatten, List.map_map]
  rfl

/-- What a sum of the products of elements holds. -/
theorem sums_cells {o : CubeOp} {sc : Int} {x : Exact} {ks : List KStep} {cells : List (Nat × Nat)}
    (h : x.Sums sc (ks.flatMap (o.cellTerms cells))) :
    (x.nan = true ↔ o.meets ks cells .nan) ∧ (x.pinf = true ↔ o.meets ks cells (.inf false)) ∧
      (x.ninf = true ↔ o.meets ks cells (.inf true)) ∧
      x.real = (ks.map fun k => (cells.map fun c =>
        ((List.range 64).map fun i => (o.product k c.1 c.2 i).real * (2 : ℚ) ^ sc).sum).sum).sum := by
  have hmem (v : Val) : v ∈ ks.flatMap (o.cellTerms cells) ↔ o.meets ks cells v := by
    simp only [CubeOp.cellTerms, List.mem_flatMap, mem_map_range, CubeOp.meets]
  obtain ⟨hnan, hp, hn, hreal⟩ := h
  refine ⟨hnan.trans (hmem _), hp.trans (hmem _), hn.trans (hmem _), hreal.trans ?_⟩
  simp only [CubeOp.cellTerms, sum_map_flatMap, List.map_map]
  rfl

/-! ### The side-area (R299) -/

theorem round0_eq (path : CubePath) (x : Exact) : path.round0 x =
    if path = .int then BitVec.ofInt 32 (x.m * 2 ^ x.e.toNat)
    else if x.nan = true ∨ x.pinf = true ∧ x.ninf = true then 0x7FC00000
    else if x.pinf = true then 0x7F800000 else if x.ninf = true then 0xFF800000
    else to32 (.fin (decide (x.m < 0)) x.m.natAbs x.e) := by
  have hval : to32 x.val = if x.nan = true ∨ x.pinf = true ∧ x.ninf = true then 0x7FC00000
      else if x.pinf = true then 0x7F800000 else if x.ninf = true then 0xFF800000
      else to32 (.fin (decide (x.m < 0)) x.m.natAbs x.e) := by
    simp only [Exact.val, Bool.or_eq_true, Bool.and_eq_true]
    split_ifs <;> rfl
  cases path
  · exact hval
  · rfl
  · exact hval

theorem addSide_getD (o : CubeOp) (side : List W32) {i : Nat} (hi : i < side.length) : at0 (o.addSide side) i =
    if i < 64 then o.path.add (at0 side i) (o.path.round0 (o.cols.getD i Exact.zero))
    else if i < 64 + o.rows_ then o.path.add (at0 side i) (o.path.round0 (o.rows.getD (i - 64) Exact.zero))
    else at0 side i :=
  getD_mapIdx _ hi 0 0

end Sys2Proof.Machine
end

section
/-! PROOFS. What a cube operation computes: O45 from the lemmas above. -/

namespace Sys2Proof.Machine

/-- Settles O45: the layers' shares and the codes by what each place of a list holds, the sum of an element on each path
by its products' exact values, and the checksums by what their exact sums hold. -/
theorem cubeSums : Obligations.CubeSums := by
  unfold Obligations.CubeSums
  intro o A B sc rows NK layers n
  refine ⟨⟨shareCount NK n, shareBase NK n, rfl, fun i _ => ⟨rfl, rfl⟩, fun h => nw_eq o h, stepsAt_eq o⟩,
    path_log_iff o, path_int_iff o, fun block m k hA hm hk => blockCodes_getD block hA hm hk,
    fun b k j hk hj => columns_getD hk hj, fun _ _ => rfl, fun k hb => ⟨?_, fun m j hm hj => ?_⟩,
    fun k ks => ⟨rfl, fun h => waveSums_append o h k⟩, fun x y => ?_, ?_⟩
  · rw [stepSums_eq, length_elements hb]
  · rw [stepSums_single, stepSums_eq]
    exact congrArg (· :: []) (getD_elements hb o.elemSum 0 hm hj).symm
  · cases o.path <;> rfl
  intro real fa fb lg prod
  refine ⟨fun x y => ⟨mul_eq_nan_iff x y, mul_infinite, real_mul⟩, fun ra cb ha hb => ?_, fun ks hxc hks => ?_,
    fun x y => ⟨rfl, rfl, rfl, merge_real x y⟩, fun w => ⟨rfl, rfl, rfl⟩, fun side => ⟨?_, fun i hi => ?_⟩⟩
  · have hsum : o.stepSums ⟨[ra], [cb]⟩ = [o.elemSum ra cb] := stepSums_single o ra cb
    have hwindow : (o.window : Int) = if A = 1 ∧ B = 1 then 40 else 48 := apply_ite (Nat.cast (R := Int)) _ _ _
    dsimp only
    rw [hsum]
    simp only [List.cons.injEq, and_true]
    refine ⟨elemSum_log ha hb, fun h S hS => elemSum_int ha hb h hS, fun h => ?_⟩
    rw [← hwindow]
    exact elemSum_float ha hb h
  · have hcols := checks_cols (ks := ks) hxc
    refine ⟨hcols.1, (checks_rows hxc).1, fun j hj => ?_, fun m hm => ?_⟩
    · obtain ⟨h1, h2, h3, h4⟩ := sums_cells (colSum_sums hxc hks hj)
      exact ⟨h1, h2, h3, fun _ _ _ => h4⟩
    · obtain ⟨h1, h2, h3, h4⟩ := sums_cells (rowSum_sums hxc hks hm)
      exact ⟨h1, h2, h3, fun _ _ _ => h4⟩
  · exact List.length_mapIdx
  · rw [addSide_getD o side hi, round0_eq, round0_eq]
    rfl

end Sys2Proof.Machine
end

section
/-! PROOFS. The encoding (O57, R126-R149): the fields and the reserved bits of a syllable that was built from its parts,
and what each opcode map says of it. -/

namespace Sys2Proof.Machine

/-! ### Reserved bits -/

/-- None of the bits of a mask is set. -/
def clears (m : Nat) {n : Nat} (x : BitVec n) : Prop := x &&& BitVec.ofNat n m = 0#n

theorem clears_iff {m n : Nat} {x : BitVec n} : clears m x ↔ ∀ i < n, m.testBit i = true → x.getLsbD i = false := by
  simp only [clears, BitVec.eq_of_getLsbD_eq_iff, BitVec.getLsbD_and, BitVec.getLsbD_ofNat]
  refine forall₂_congr fun i hi => ?_
  cases x.getLsbD i <;> simp [hi]

/-- Two joined parts clear a mask when each clears its own part of it. -/
theorem clears_append {a b : Nat} (x : BitVec a) (y : BitVec b) (m : Nat) :
    clears m (x ++ y) ↔ clears (m / 2 ^ b) x ∧ clears (m % 2 ^ b) y := by
  simp only [clears_iff, BitVec.getLsbD_append, Nat.testBit_div_two_pow, Nat.testBit_mod_two_pow]
  refine ⟨fun h => ⟨fun i hi hm => ?_, fun i hi hm => ?_⟩, fun ⟨hx, hy⟩ i hi hm => ?_⟩
  · have := h (i + b) (by omega) hm
    simpa using this
  · simp only [hi, decide_true, Bool.true_and] at hm
    simpa [hi] using h i (by omega) hm
  · split
    next hb => exact hy i hb (by simpa [hb] using hm)
    next hb => exact hx (i - b) (by omega) (by rwa [Nat.sub_add_cancel (Nat.le_of_not_lt hb)])

theorem clears_syllable (g : Guard) (op : BitVec 7) (body : BitVec 20) (m : Nat) (h : m < 2 ^ 20) :
    clears m (syllable g op body) ↔ clears m body := by
  simp only [clears_iff]
  refine ⟨fun hs i hi hm => ?_, fun hb i _ hm => ?_⟩
  · rw [← syllable_bit g op body i hi]
    exact hs i (by omega) hm
  · have hi : i < 20 := by
      by_contra hi
      have hlt : m < 2 ^ i := Nat.lt_of_lt_of_le h (Nat.pow_le_pow_right (by decide) (Nat.le_of_not_lt hi))
      exact absurd hm (by simp [Nat.testBit_lt_two_pow hlt])
    rw [syllable_bit g op body i hi]
    exact hb i hi hm

theorem clears_none {n : Nat} (x : BitVec n) : clears 0 x := BitVec.and_zero

theorem clears_of_and_eq {m n : Nat} {x : BitVec n} (h : x &&& BitVec.ofNat n m = 0#n) : clears m x := h

/-! ### The maps -/

/-- The opcode map of a slot (R144-R147). -/
def opcodeMap : Slot → W32 → Option Entry
  | .s0 | .s1 => scalarEntry
  | .m => memoryEntry
  | .v => vectorEntry
  | .f => specialEntry
  | .c => cubeEntry
  | .y => syncEntry
  | .x => fun _ => none

theorem entryOf_eq_opcodeMap {sl : Slot} {w : W32} (h : w.extractLsb' 20 7 ≠ 0#7) : entryOf sl w = opcodeMap sl w := by
  cases sl <;> exact if_neg h

/-- A map says of a word that it is an instruction, with no bit set that must be 0 and no field out of its limits. -/
def answers (o : Option Entry) (w : W32) (i : Instr) : Prop :=
  ∃ e, o = some e ∧ e.instr = i ∧ w &&& e.zero = 0 ∧ w &&& e.limit = 0

/-- A map answers a syllable when the entry of its opcode makes the instruction from its fields. -/
theorem answers_syllable {sl : Slot} {m : W32 → Option Entry} (hm : opcodeMap sl = m) {g : Guard} {op : BitVec 7}
    {body : BitVec 20} {w : W32} (hw : syllable g op body = w) (hop : op ≠ 0#7) {z l : Nat} {i j : Instr}
    (he : w.extractLsb' 20 7 = op → m w = some ⟨BitVec.ofNat 32 z, BitVec.ofNat 32 l, j⟩)
    (hi : j = i ∧ clears z w ∧ clears l w) : answers (entryOf sl w) w i := by
  have ho : w.extractLsb' 20 7 = op := hw ▸ syllable_op g op body
  exact ⟨_, by rw [entryOf_eq_opcodeMap (ho ▸ hop), hm, he ho], hi⟩

/-- The map of its slot answers a syllable that was built from an instruction's fields. -/
theorem encode_answers {i : Instr} {w : W32} (h : encode i = some w) (hx : slotOf i ≠ .x) :
    answers (entryOf (slotOf i) w) w i := by
  cases i
  case' add | sub | addi | mul | mulh | mulhn | div | divn | rem | remn | andOp | orOp | xorOp | andi | ori | xori
  | shl | shr | sar | shli | shri | sari | rotl | minOp | maxOp | minn | maxn | cmpeq | cmpne | cmplt | cmple
  | cmpltn | cmplen | cmpeqi | cmplti | sel | bfx | bfxs | bfi | clz | ctz | popc | bswap | li | lih | mov | addx
  | cand | cor | cxor | cnot | time | cyc | csrr | csrw | csrs | csrc | fadr | br | bri | call | calli | loop
  | loopi | lbreak | lidx | trap | syscall | eret | bkpt | done | pmark | cropen | crclose | chkerr | waitev
  | fencei | halt =>
    refine answers_syllable (m := scalarEntry) rfl (Option.some.inj h) (by decide)
      (fun ho => by unfold scalarEntry; rw [ho]; rfl) ?_
  case' ld | st | ldaq | strl | ldv | stv | ldvt | ldvr | stvr | ldvb | ldvx | stvx | atom | cas | fence | ldp | stp
  | falloc | ffree | frenew | fstat | fsetx =>
    refine answers_syllable (m := memoryEntry) rfl (Option.some.inj h) (by decide)
      (fun ho => by unfold memoryEntry; rw [ho]; rfl) ?_
  case' fexp2 | flog2 | frcp | frsq | fsqrt | ftanh | fsigm | ferf | fsin | fcos | vrotr | vrotc | vbcr | vbcc
  | vredr | vredc | vscanr | vscanc | vtrn | vshfr | vshfc =>
    refine answers_syllable (m := specialEntry) rfl (Option.some.inj h) (by decide)
      (fun ho => by unfold specialEntry; rw [ho]; rfl) ?_
  case' cset | cfmt | cbld | cbldf | cmma | cmmat | czero | cchain | cwait | cprog | cabort | cbnd | cmmah =>
    refine answers_syllable (m := cubeEntry) rfl (Option.some.inj h) (by decide)
      (fun ho => by unfold cubeEntry; rw [ho]; rfl) ?_
  case' vadd | vsub | vmul | vfma | vfms | vmin | vmax | vabs | vneg | vcmp | vsel | viadd | visub | vimul | vaddw
  | viadds | vand | vor | vxor | vshl | vshr | vsar | vimin | vimax | vicmp | vcvt | vpack | vunpk | vmov | vacc
  | vdrain | vperm | viota | vpand | vpor | vpxor | vpnot | dfromv | dadd | dscale | dmov | dneg | dwsum =>
    refine answers_syllable (m := vectorEntry) rfl (Option.some.inj h) (by decide)
      (fun ho => by unfold vectorEntry; rw [ho]; rfl) ?_
  case' kwait | kpost | kpostr | kset | krd | copyin | copyout | gather | scatter | atomg | msend | defer | drain
  | jraise | jpost | dsync | wswin | fwait =>
    refine answers_syllable (m := syncEntry) rfl (Option.some.inj h) (by decide)
      (fun ho => by unfold syncEntry; rw [ho]; rfl) ?_
  case nop g =>
    obtain rfl := Option.some.inj h
    exact ⟨_, if_pos (syllable_op g 0#7 0#20), congrArg Instr.nop (guardOf_syllable g 0#7 0#20),
      (clears_syllable g 0#7 0#20 0xFFFFF (by decide)).2 rfl, clears_none _⟩
  case xsve | xsvr | xsva | xspr | xsn | xvse | xpsa | xpsc | xpsr | xns => exact absurd rfl hx
  case' vliF =>
    refine answers_syllable (m := vectorEntry) rfl (Option.some.inj h) (by decide) (fun ho => by
      unfold vectorEntry
      rw [ho, ← Option.some.inj h, syllable_field _ _ _ 13 2 (by decide),
        BitVec.extractLsb'_append_eq_of_le (by decide), BitVec.extractLsb'_append_eq_of_add_le (by decide)]
      exact congrArg some (if_pos (by decide))) ?_
  case' vli =>
    refine answers_syllable (m := vectorEntry) rfl (Option.some.inj h) (by decide) (fun ho => by
      unfold vectorEntry
      rw [ho, ← Option.some.inj h, syllable_field _ _ _ 13 2 (by decide),
        BitVec.extractLsb'_append_eq_of_le (by decide), BitVec.extractLsb'_append_eq_of_add_le (by decide)]
      exact congrArg some (if_neg (by decide))) ?_
  case' dtovN =>
    refine answers_syllable (m := vectorEntry) rfl (Option.some.inj h) (by decide) (fun ho => by
      unfold vectorEntry
      rw [ho, ← Option.some.inj h, syllable_field _ _ _ 0 1 (by decide),
        BitVec.extractLsb'_append_eq_of_add_le (by decide)]
      exact congrArg some (if_pos (by decide))) ?_
  case' dtov =>
    refine answers_syllable (m := vectorEntry) rfl (Option.some.inj h) (by decide) (fun ho => by
      unfold vectorEntry
      rw [ho, ← Option.some.inj h, syllable_field _ _ _ 0 1 (by decide),
        BitVec.extractLsb'_append_eq_of_add_le (by decide)]
      exact congrArg some (if_neg (by decide))) ?_
  case' ddotB =>
    refine answers_syllable (m := vectorEntry) rfl (Option.some.inj h) (by decide) (fun ho => by
      unfold vectorEntry
      rw [ho, ← Option.some.inj h, syllable_field _ _ _ 4 1 (by decide),
        BitVec.extractLsb'_append_eq_of_le (by decide), BitVec.extractLsb'_append_eq_of_add_le (by decide)]
      exact congrArg some (if_pos (by decide))) ?_
  case' ddot =>
    refine answers_syllable (m := vectorEntry) rfl (Option.some.inj h) (by decide) (fun ho => by
      unfold vectorEntry
      rw [ho, ← Option.some.inj h, syllable_field _ _ _ 4 1 (by decide),
        BitVec.extractLsb'_append_eq_of_add_le (by decide)]
      exact congrArg some (if_neg (by decide))) ?_
  case' ecancelK =>
    refine answers_syllable (m := syncEntry) rfl (Option.some.inj h) (by decide) (fun ho => by
      unfold syncEntry
      rw [ho, ← Option.some.inj h, syllable_field _ _ _ 0 5 (by decide),
        BitVec.extractLsb'_append_eq_of_add_le (by decide)]
      exact congrArg some (if_pos (by decide))) ?_
  case' ecancelF =>
    refine answers_syllable (m := syncEntry) rfl (Option.some.inj h) (by decide) (fun ho => by
      unfold syncEntry
      rw [ho, ← Option.some.inj h, syllable_field _ _ _ 0 5 (by decide),
        BitVec.extractLsb'_append_eq_of_add_le (by decide)]
      exact congrArg some ((if_neg (by decide)).trans (if_pos (by decide)))) ?_
  case' ecancel =>
    refine answers_syllable (m := syncEntry) rfl (Option.some.inj h) (by decide) (fun ho => by
      unfold syncEntry
      rw [ho, ← Option.some.inj h, syllable_field _ _ _ 0 5 (by decide)]
      exact congrArg some ((if_neg (by decide)).trans ((if_neg (by decide)).trans (if_pos (by decide))))) ?_
  any_goals (cases h; done)
  all_goals
    obtain rfl := Option.some.inj h
    simp (disch := decide) only [syllable_field, guardOf_syllable, BitVec.extractLsb'_append_eq_of_le,
      BitVec.extractLsb'_append_eq_of_add_le, BitVec.extractLsb'_eq_self, Nat.reduceSub, clears_syllable, clears_append,
      clears_none, clears_of_and_eq, Nat.reducePow, Nat.reduceDiv, Nat.reduceMod, and_true]

/-! ### X halves (R137) -/

/-- The fields of a syllable that holds a to-vector half alone. -/
theorem vectorHalf_fields {g : Guard} {t : BitVec 3} {tgt src : BitVec 5} {wi : BitVec 1} {w : W32}
    (h : g.ps ++ g.pn ++ t ++ tgt ++ src ++ wi ++ 0#13 = w) :
    guardOf w = g ∧ w.extractLsb' 24 3 = t ∧ w.extractLsb' 19 5 = tgt ∧ w.extractLsb' 14 5 = src ∧
      w.extractLsb' 13 1 = wi ∧ w.extractLsb' 10 3 = 0#3 ∧ w.extractLsb' 5 5 = 0#5 ∧ w.extractLsb' 1 4 = 0#4 ∧
      w.extractLsb' 0 1 = 0#1 := by
  subst h
  simp (disch := decide) only [guardOf, BitVec.extractLsb'_append_eq_of_le, BitVec.extractLsb'_append_eq_of_add_le,
    BitVec.extractLsb'_eq_self, Nat.reduceSub, BitVec.reduceExtractLsb', and_self]

/-- The fields of a syllable that holds a to-scalar half alone. -/
theorem scalarHalf_fields {g : Guard} {t : BitVec 3} {src : BitVec 5} {ri : BitVec 1} {w : W32}
    (h : g.ps ++ g.pn ++ 0#14 ++ t ++ src ++ 0#4 ++ ri = w) :
    guardOf w = g ∧ w.extractLsb' 24 3 = 0#3 ∧ w.extractLsb' 13 11 = 0#11 ∧ w.extractLsb' 10 3 = t ∧
      w.extractLsb' 5 5 = src ∧ w.extractLsb' 1 4 = 0#4 ∧ w.extractLsb' 0 1 = ri := by
  subst h
  simp (disch := decide) only [guardOf, BitVec.extractLsb'_append_eq_of_le, BitVec.extractLsb'_append_eq_of_add_le,
    BitVec.extractLsb'_eq_self, Nat.reduceSub, BitVec.reduceExtractLsb', and_self]

theorem crossReasons_of_half {w : W32} {i : Instr} (hi : crossHalves w = [i])
    (hop : (w.extractLsb' 24 3).toNat ≤ 5 ∧ (w.extractLsb' 10 3).toNat ≤ 5) (hz : w.extractLsb' 1 4 = 0#4)
    (htv : w.extractLsb' 24 3 = 0#3 → w.extractLsb' 13 11 = 0#11)
    (hts : w.extractLsb' 10 3 = 0#3 → w.extractLsb' 5 5 = 0#5 ∧ w.extractLsb' 0 1 = 0#1) :
    crossHalves w = [i] ∧ crossReasons w = fieldReasons i := by
  have hres : (w.extractLsb' 24 3 ≠ 0#3 ∨ w.extractLsb' 13 11 = 0#11) ∧
      (w.extractLsb' 10 3 ≠ 0#3 ∨ w.extractLsb' 5 5 = 0#5 ∧ w.extractLsb' 0 1 = 0#1) :=
    ⟨Decidable.not_or_of_imp htv, Decidable.not_or_of_imp hts⟩
  exact ⟨hi, by simp [-BitVec.extractLsb'_toNat, crossReasons, unlessReason, hi, hop, hz, hres]⟩

/-- An X half alone decodes to itself, and meets the reasons of its own fields. -/
theorem encode_crossHalves {i : Instr} {w : W32} (h : encode i = some w) (hx : slotOf i = .x) :
    crossHalves w = [i] ∧ crossReasons w = fieldReasons i := by
  cases i with
  | xsve | xsvr | xsva | xspr | xsn =>
    obtain ⟨hg, ht, htgt, hsrc, hwi, hts, hv, hz, hr⟩ := vectorHalf_fields (Option.some.inj h)
    refine crossReasons_of_half ?_ (by rw [ht, hts]; decide) hz (by rw [ht]; nofun) fun _ => ⟨hv, hr⟩
    unfold crossHalves
    rw [hg, ht, htgt, hsrc, hwi, hts]
    exact if_neg (by decide)
  | xvse | xpsa | xpsc | xpsr | xns =>
    obtain ⟨hg, ht, htv, hts, hv, hz, hr⟩ := scalarHalf_fields (Option.some.inj h)
    refine crossReasons_of_half ?_ (by rw [ht, hts]; decide) hz (fun _ => htv) (by rw [hts]; nofun)
    unfold crossHalves
    rw [hg, ht, hts, hv, hr]
    exact if_neg (by decide)
  | _ => nomatch hx

end Sys2Proof.Machine
end

section
/-! PROOFS. The decoder (O57, R149): the reasons a syllable meets, and what it decodes to when it meets none. -/

namespace Sys2Proof.Machine

/-! ### Reasons (R149) -/

/-- A list of decode-time reasons that is empty just when a check holds. -/
def explains (ok : Bool) (rs : List Nat) : Prop := (rs = [] ↔ ok = true) ∧ ∀ r ∈ rs, 1 ≤ r ∧ r ≤ 7

theorem explains_nil : explains true [] := ⟨by simp, nofun⟩

theorem explains_unless {n : Nat} (ok : Bool) (h : 1 ≤ n ∧ n ≤ 7) : explains ok (unlessReason n ok) := by
  cases ok
  · exact ⟨by simp [unlessReason], by simpa [unlessReason] using h⟩
  · exact ⟨by simp [unlessReason], nofun⟩

theorem explains_append {a b : Bool} {rs ss : List Nat} (hr : explains a rs) (hs : explains b ss) :
    explains (a && b) (rs ++ ss) := by
  refine ⟨by rw [List.append_eq_nil_iff, hr.1, hs.1, Bool.and_eq_true], fun r h => ?_⟩
  exact (List.mem_append.1 h).elim (hr.2 r) (hs.2 r)

theorem explains_of_eq {a b : Bool} {rs : List Nat} (h : explains a rs) (e : b = a) : explains b rs := e ▸ h

theorem explains_dest (d : BitVec 5) : explains (isDest d) (destReasons d) := explains_unless (n := 4) _ (by decide)

theorem explains_hold (h : BitVec 2) (a : BitVec 5) : explains (holdOk h a) (holdReasons h a) :=
  explains_unless (n := 2) _ (by decide)

/-- An instruction's fields meet no reason just when it is well formed. -/
theorem explains_fields (i : Instr) : explains i.wf (fieldReasons i) := by
  cases i with
  | add | sub | addi | mul | mulh | mulhn | div | divn | rem | remn | andOp | orOp | xorOp | andi | ori | xori | shl
  | shr | sar | shli | shri | sari | rotl | minOp | maxOp | minn | maxn | sel | bfx | bfxs | bfi | clz | ctz | popc
  | bswap | li | lih | mov | addx | time | cyc | fadr | calli | cas => exact explains_dest _
  | cmpeq | cmpne | cmplt | cmple | cmpltn | cmplen | cmpeqi | cmplti | cand | cor | cxor | cnot | loop | loopi | ldv
  | stv | ldvt | ldvr | stvr | ldvb | stp | fence | fstat | xsva | xsn | xpsa | xpsc | xpsr | xns | vcmp | vpand | vpor
  | vpxor | vpnot | vrotc | vbcc | vshfc | cbld | cbldf | cmmah | cchain | kpostr | msend | defer | drain | dsync =>
    exact explains_unless _ (by decide)
  | csrr | csrw | csrs | csrc | lidx | atom => exact explains_append (explains_dest _) (explains_unless _ (by decide))
  | ldp | vicmp => exact explains_append (explains_unless _ (by decide)) (explains_unless _ (by decide))
  | vadd | vsub | vmul | vfma | vfms | vmin | vmax | vabs | vneg | vsel | viadd | visub | vimul | viadds | vand
  | vor | vxor | vshl | vshr | vsar | vimin | vimax | vmov | vperm
  | fexp2 | flog2 | frcp | frsq | fsqrt | ftanh | fsigm | ferf | fsin | fcos => exact explains_hold _ _
  | vaddw | vpack | vunpk => exact explains_append (explains_hold _ _) (explains_unless _ (by decide))
  | ld | ldaq =>
    have reorder : ∀ d w p q x : Bool, (d && w && p && q && x) = ((x && d) && (w && p && q)) := by decide
    exact explains_of_eq (explains_append (explains_append (explains_unless _ (by decide)) (explains_dest _))
      (explains_unless _ (by decide))) (reorder _ _ _ _ _)
  | st | strl =>
    have reorder : ∀ n w p q : Bool, (n && w && p && q) = (n && (w && p && q)) := by decide
    exact explains_of_eq (explains_append (explains_unless _ (by decide)) (explains_unless _ (by decide)))
      (reorder _ _ _ _)
  | xspr _ tgt =>
    have absorb : (decide (0 < tgt.toNat) && decide (tgt.toNat < 8)) =
        (decide (tgt ≠ 0) && (decide (0 < tgt.toNat) && decide (tgt.toNat < 8))) := by
      by_cases h : 0 < tgt.toNat
      · have hne : tgt ≠ 0 := by rintro rfl; exact absurd h (by decide)
        simp only [hne, h, decide_true, Bool.true_and, ne_eq, not_false_eq_true]
      · simp only [h, decide_false, Bool.false_and, Bool.and_false]
    exact explains_of_eq (explains_append (explains_unless _ (by decide)) (explains_unless _ (by decide))) absorb
  | vcvt =>
    have reorder : ∀ a b c d e : Bool, (a && b && c && d && e) = ((a && b) && (c && d && e)) := by decide
    exact explains_of_eq (explains_append (explains_unless _ (by decide)) (explains_unless _ (by decide)))
      (reorder _ _ _ _ _)
  | cmma | cmmat =>
    exact explains_of_eq (explains_append (explains_unless _ (by decide)) (explains_unless _ (by decide)))
      (Bool.and_comm _ _)
  | _ => exact explains_nil

/-! ### The decoder -/

/-- The instructions the decoder reads from a syllable that meets no reason. -/
def syllableInstrs (sl : Slot) (w : W32) : List Instr :=
  match sl with
  | .x => crossHalves w
  | _ => ((entryOf sl w).map Entry.instr).toList

theorem decodeSyllable_ok_iff {sl : Slot} {w : W32} {is : List Instr} :
    decodeSyllable sl w = .ok is ↔ syllableReasons sl w = [] ∧ syllableInstrs sl w = is := by
  unfold decodeSyllable syllableInstrs
  cases hr : syllableReasons sl w with
  | nil => cases sl <;> simp <;> cases entryOf _ w <;> simp
  | cons r rs => simp

/-- The reason a refused syllable is given is one that it meets. -/
theorem decodeSyllable_error {sl : Slot} {w : W32} {r : Nat} (h : decodeSyllable sl w = .error r) :
    r ∈ syllableReasons sl w := by
  unfold decodeSyllable at h
  cases hr : syllableReasons sl w with
  | nil => simp [hr] at h
  | cons x rs =>
    rw [hr] at h
    exact List.min?_mem (congrArg some (Except.error.inj h))

theorem syllableReasons_of_none {sl : Slot} (hx : sl ≠ .x) {w : W32} (h : entryOf sl w = none) :
    syllableReasons sl w = 1 :: if sl = .s1 ∧ s0Only w then [3] else [] := by
  cases sl with
  | x => exact absurd rfl hx
  | _ => simp only [syllableReasons, h]

/-- A syllable of a slot other than X meets the reasons of its entry and those of its fields. -/
theorem syllableReasons_of_entry {sl : Slot} (hx : sl ≠ .x) {w : W32} {e : Entry} (h : entryOf sl w = some e) :
    syllableReasons sl w = unlessReason 2 (w &&& e.zero = 0) ++ (if sl = .s1 ∧ s0Only w then [3] else []) ++
      unlessReason 6 (w &&& e.limit = 0) ++ fieldReasons e.instr := by
  cases sl with
  | x => exact absurd rfl hx
  | _ => simp only [syllableReasons, h]

theorem syllableInstrs_of_ne_x {sl : Slot} (hx : sl ≠ .x) (w : W32) :
    syllableInstrs sl w = ((entryOf sl w).map Entry.instr).toList := by
  cases sl with
  | x => exact absurd rfl hx
  | _ => rfl

/-- A slot's own reason 3 (R149). -/
theorem explains_slot (sl : Slot) (w : W32) :
    explains (!decide (sl = .s1 ∧ s0Only w)) (if sl = .s1 ∧ s0Only w then [3] else []) := by
  by_cases h : sl = .s1 ∧ s0Only w
  · rw [if_pos h]
    exact ⟨by simp [h], by simp⟩
  · rw [if_neg h]
    exact ⟨by simp only [h]; simp, nofun⟩

theorem explains_flatMap (is : List Instr) : explains (is.all Instr.wf) (is.flatMap fieldReasons) := by
  induction is with
  | nil => exact explains_nil
  | cons i is ih => exact explains_append (explains_fields i) ih

/-- Every syllable meets reasons that R149 numbers; one that meets none has well-formed instructions. -/
theorem syllableReasons_sound (sl : Slot) (w : W32) :
    ∃ ok, explains ok (syllableReasons sl w) ∧ (ok = true → (syllableInstrs sl w).all Instr.wf) := by
  by_cases hx : sl = .x
  · subst hx
    exact ⟨_, explains_append (explains_append (explains_unless _ (by decide)) (explains_unless _ (by decide)))
      (explains_flatMap _), fun h => (Bool.and_eq_true_iff.1 h).2⟩
  cases he : entryOf sl w with
  | none =>
    refine ⟨false, ⟨by simp [syllableReasons_of_none hx he], ?_⟩, nofun⟩
    rw [syllableReasons_of_none hx he]
    exact List.forall_mem_cons.2 ⟨by decide, (explains_slot sl w).2⟩
  | some e =>
    rw [syllableReasons_of_entry hx he, syllableInstrs_of_ne_x hx, he]
    exact ⟨_, explains_append (explains_append (explains_append (explains_unless _ (by decide)) (explains_slot sl w))
      (explains_unless _ (by decide))) (explains_fields e.instr),
      fun h => by simpa using (Bool.and_eq_true_iff.1 h).2⟩

theorem decodeSyllable_wf {sl : Slot} {w : W32} {is : List Instr} (h : decodeSyllable sl w = .ok is) :
    ∀ i ∈ is, i.wf = true := by
  obtain ⟨hr, rfl⟩ := decodeSyllable_ok_iff.1 h
  obtain ⟨ok, he, hall⟩ := syllableReasons_sound sl w
  exact List.all_eq_true.1 (hall (he.1.1 hr))

theorem decodeSyllable_reason {sl : Slot} {w : W32} {r : Nat} (h : decodeSyllable sl w = .error r) :
    1 ≤ r ∧ r ≤ 7 := by
  obtain ⟨ok, he, -⟩ := syllableReasons_sound sl w
  exact he.2 r (decodeSyllable_error h)

/-- The syllable of an instruction in its slot: it holds that instruction, and meets the reasons of its fields alone. -/
theorem syllable_of_encode {i : Instr} {w : W32} (h : encode i = some w) :
    syllableInstrs (slotOf i) w = [i] ∧ syllableReasons (slotOf i) w = fieldReasons i := by
  by_cases hx : slotOf i = .x
  · rw [hx]
    exact encode_crossHalves h hx
  · have h1 : slotOf i ≠ .s1 := by cases i <;> nofun
    obtain ⟨e, he, hi, hz, hl⟩ := encode_answers h hx
    rw [syllableInstrs_of_ne_x hx, syllableReasons_of_entry hx he, he, ← hi]
    exact ⟨rfl, by simp [unlessReason, hz, hl, hi, h1]⟩

/-- Decoding an encoded instruction gives it back just when it is well formed. -/
theorem wf_iff_decodeSyllable {i : Instr} {w : W32} (h : encode i = some w) :
    i.wf = true ↔ decodeSyllable (slotOf i) w = .ok [i] := by
  obtain ⟨hi, hr⟩ := syllable_of_encode h
  rw [decodeSyllable_ok_iff, hr, hi, (explains_fields i).1]
  exact (and_iff_left rfl).symm

theorem encode_isSome (i : Instr) : (encode i).isSome = (guardOfSyllable i).isSome := by
  cases i <;> rfl

/-- Settles O57: the map of its slot reads back the fields a syllable was built from, and the reasons a syllable meets are
those of its entry and of its fields, which meet none just when the instruction is well formed. -/
theorem decodeOfEncode : Obligations.DecodeOfEncode := fun i =>
  ⟨fun _ h => wf_iff_decodeSyllable h, encode_isSome i, fun _ _ =>
    ⟨fun _ h => decodeSyllable_wf h, fun _ h => decodeSyllable_reason h⟩⟩

end Sys2Proof.Machine
end

section
/-! PROOFS. A syllable whose guard is off (O52, R149, R156). -/

namespace Sys2Proof.Machine

section
variable {s : State} {g : Guard} (h : s.guardOn g = false)
include h

theorem scalar_off {srcs : List (BitVec 5)} {lat : Nat} {d : BitVec 5} {f : State → W64} :
    s.scalar g srcs lat d f = .next s :=
  guarded_off s g _ _ h

theorem compare_off {srcs : List (BitVec 5)} {p : BitVec 4} {f : State → Bool} : s.compare g srcs p f = .next s :=
  guarded_off s g _ _ h

theorem csrOp_off {srcs : List (BitVec 5)} {d : BitVec 5} {n : BitVec 10} {k : State → State} :
    s.csrOp g srcs d n k = .next s :=
  guarded_off s g _ _ h

theorem load_off {d a : BitVec 5} {w : BitVec 3} {x p : BitVec 1} {im : BitVec 5} : s.load g d a w x p im = .next s :=
  guarded_off s g _ _ h

theorem store_off {d a : BitVec 5} {w : BitVec 3} {p : BitVec 1} {im : BitVec 5} : s.store g d a w p im = .next s :=
  guarded_off s g _ _ h

theorem elementwise_off {lat : Nat} {d a : BitVec 5} {hold : BitVec 2} {m : BitVec 3} {f : State → VReg → VReg} :
    s.elementwise g lat d a hold m f = .next s :=
  guarded_off s g _ _ h

theorem vv1_off {lat : Nat} {d a : BitVec 5} {hold : BitVec 2} {m : BitVec 3} {f : W32 → W32} :
    s.vv1 g lat d a hold m f = .next s :=
  elementwise_off h

theorem vv2_off {lat : Nat} {d a b : BitVec 5} {hold : BitVec 2} {m : BitVec 3} {f : W32 → W32 → W32} :
    s.vv2 g lat d a b hold m f = .next s :=
  elementwise_off h

theorem vv3_off {lat : Nat} {d a b : BitVec 5} {hold : BitVec 2} {m : BitVec 3} {f : W32 → W32 → W32 → W32} :
    s.vv3 g lat d a b hold m f = .next s :=
  elementwise_off h

theorem special_off {d a : BitVec 5} {hold : BitVec 2} {m : BitVec 3} {f : W32 → W32} :
    s.special g d a hold m f = .next s :=
  guarded_off s g _ _ h

theorem lanes_off {lat : Nat} {d a : BitVec 5} {m : BitVec 3} {f : VReg → Nat → Nat → W32} :
    s.lanes g lat d a m f = .next s :=
  guarded_off s g _ _ h

theorem reduced_off {lat : Nat} {d a : BitVec 5} {m : BitVec 3} {f : VReg → VReg} :
    s.reduced g lat d a m f = .next s :=
  guarded_off s g _ _ h

theorem vcompare_off {d : BitVec 3} {a b : BitVec 5} {m : BitVec 3} {f : W32 → W32 → Bool} :
    s.vcompare g d a b m f = .next s :=
  guarded_off s g _ _ h

theorem vplogic_off {d a b : BitVec 3} {f : W64 → W64 → W64} : s.vplogic g d a b f = .next s := guarded_off s g _ _ h

theorem gangSafe_off {srcs : List (BitVec 5)} {k : State → State} : s.gangSafe g srcs k = .next s :=
  guarded_off s g _ _ h

theorem command_off {kind : EngineKind} {f : BitVec 6} {a b : BitVec 5} {lu fl : BitVec 1} :
    s.command kind g f a b lu fl = .next s :=
  guarded_off s g _ _ h

/-- A loop with a place on the stack (reason 9 of R149). -/
theorem enterLoop_off (hl : s.me.loops.length < 6) {srcs : List (BitVec 5)} {n : State → W32} {r : BitVec 1}
    {e : BitVec 9} : s.enterLoop g srcs n r e = .next s :=
  (if_neg (Nat.not_le.2 hl)).trans (guarded_off s g _ _ h)

/-- A cube operation with a set format entry (reason 8 of R149). -/
theorem cubeSyllable_off {b : BitVec 5} {byLoop : Bool}
    (hb : (s.entryOf (s.geoOf (s.peekMq.src b)) byLoop).extractLsb' 0 4 ≠ 0) {acc : BitVec 3} {form : AForm}
    {l : BitVec 4} {xc east : BitVec 1} : s.cubeSyllable g acc form b l xc east byLoop = .next s := by
  have hset : bits (s.entryOf (s.geoOf (s.peekMq.src b)) byLoop) 0 4 ≠ 0 := fun e => hb (BitVec.eq_of_toNat_eq e)
  exact (if_neg hset).trans (guarded_off s g _ _ h)
end

/-- Settles O52: every meaning but the loops' and the cube operations' asks for the guard first, and these two ask for it
next. -/
theorem guardOff : Obligations.GuardOff := by
  unfold Obligations.GuardOff
  intro s i g hg h hraise
  cases i with
  | nop | pmark | cwait | fwait => rfl
  | loop | loopi =>
    obtain rfl := Option.some.inj hg
    dsimp only [exec]
    exact enterLoop_off h hraise
  | cmma | cmmah | cchain =>
    obtain rfl := Option.some.inj hg
    dsimp only [exec]
    exact cubeSyllable_off (byLoop := false) h hraise
  | cmmat =>
    obtain rfl := Option.some.inj hg
    dsimp only [exec]
    exact cubeSyllable_off (byLoop := true) h hraise
  | add | sub | addi | mul | mulh | mulhn | div | divn | rem | remn | andOp | orOp | xorOp | andi | ori | xori | shl
  | shr | sar | shli | shri | sari | rotl | minOp | maxOp | minn | maxn | sel | bfx | bfxs | bfi | clz | ctz | popc
  | bswap | li | lih | mov | addx | time | cyc | fadr =>
    obtain rfl := Option.some.inj hg
    dsimp only [exec]
    exact scalar_off h
  | cmpeq | cmpne | cmplt | cmple | cmpltn | cmplen | cmpeqi | cmplti | cand | cor | cxor | cnot =>
    obtain rfl := Option.some.inj hg
    dsimp only [exec]
    exact compare_off h
  | csrr | csrw | csrs | csrc =>
    obtain rfl := Option.some.inj hg
    dsimp only [exec]
    exact csrOp_off h
  | ld | ldaq =>
    obtain rfl := Option.some.inj hg
    dsimp only [exec]
    exact load_off h
  | st | strl =>
    obtain rfl := Option.some.inj hg
    dsimp only [exec]
    exact store_off h
  | vabs | vneg | vmov =>
    obtain rfl := Option.some.inj hg
    dsimp only [exec]
    exact vv1_off h
  | vadd | vsub | vmul | vmin | vmax | viadd | visub | vimul | viadds | vand | vor | vxor | vshl | vshr | vsar
  | vimin | vimax =>
    obtain rfl := Option.some.inj hg
    dsimp only [exec]
    exact vv2_off h
  | vfma | vfms =>
    obtain rfl := Option.some.inj hg
    dsimp only [exec]
    exact vv3_off h
  | vaddw | vperm =>
    obtain rfl := Option.some.inj hg
    dsimp only [exec]
    exact elementwise_off h
  | vcmp | vicmp =>
    obtain rfl := Option.some.inj hg
    dsimp only [exec]
    exact vcompare_off h
  | vpand | vpor | vpxor | vpnot =>
    obtain rfl := Option.some.inj hg
    dsimp only [exec]
    exact vplogic_off h
  | fexp2 | flog2 | frcp | frsq | fsqrt | ftanh | fsigm | ferf | fsin | fcos =>
    obtain rfl := Option.some.inj hg
    dsimp only [exec]
    exact special_off h
  | vrotr | vrotc | vbcr | vbcc | vtrn | vshfr | vshfc =>
    obtain rfl := Option.some.inj hg
    dsimp only [exec]
    exact lanes_off h
  | vredr | vredc | vscanr | vscanc =>
    obtain rfl := Option.some.inj hg
    dsimp only [exec]
    exact reduced_off h
  | kwait | kpost | kset | krd | kpostr | dsync =>
    obtain rfl := Option.some.inj hg
    dsimp only [exec]
    exact gangSafe_off h
  | copyin | copyout | gather | scatter | atomg =>
    obtain rfl := Option.some.inj hg
    dsimp only [exec]
    exact command_off h
  | br | bri | call | calli | lbreak | lidx | trap | syscall | eret | bkpt | done | cropen | crclose | chkerr
  | waitev | fencei | halt | ldv | stv | ldvt | ldvr | stvr | ldvb | ldvx | stvx | atom | cas | fence | ldp | stp
  | falloc | ffree | frenew | fstat | fsetx | xsve | xsvr | xsva | xspr | xsn | xvse | xpsa | xpsc | xpsr | xns
  | vsel | vcvt | vpack | vunpk | vli | vliF | vacc | vdrain | viota | dfromv | dtov | dtovN | dadd | dscale | ddot
  | ddotB | dmov | dneg | dwsum | cset | cfmt | cbld | cbldf | czero | cprog | cabort | cbnd | msend | defer | drain
  | jraise | jpost | wswin | ecancel | ecancelK | ecancelF =>
    obtain rfl := Option.some.inj hg
    dsimp only [exec]
    exact guarded_off s _ _ _ h
  | _ => nomatch hg

end Sys2Proof.Machine
end

section
/-! PROOFS. Written-out syllables (O58, R127-R149). -/

namespace Sys2Proof.Machine

/-- Settles O58: the decoder computes each of the written-out words. -/
theorem decodedWords : Obligations.DecodedWords := by
  unfold Obligations.DecodedWords
  and_intros <;> rfl

end Sys2Proof.Machine
end

section
/-! PROOFS. The frame atomics (O17, R136, R263). -/

namespace Sys2Proof.Machine

/-- A read that meets poison leaves the issue port's latches. -/
theorem afterRead_cur (u : State) (f off n : Nat) : (u.afterRead f off n).cur = u.cur := by
  simp only [State.afterRead]
  split <;> rfl

/-- What a change of the current sequencer leaves of it. -/
theorem onMe_me_keeps {α : Type} (s : State) (π : Seq → α) {f : Seq → Seq} (hf : ∀ x, π (f x) = π x) :
    π (s.onMe f).me = π s.me := by
  rcases onMe_me_cases s f with h | h <;> rw [h]
  exact hf _

/-- A read that meets poison leaves every scalar source. -/
theorem afterRead_src (u : State) (f off n : Nat) (code : BitVec 5) : (u.afterRead f off n).src code = u.src code := by
  simp only [State.afterRead]
  split
  · exact src_congr (onMe_me_keeps u Seq.queue fun _ => by rfl) (onMe_me_keeps u Seq.named fun _ => by rfl) rfl code
  · rfl

/-- A frame atomic whose read raises nothing: the new doubleword stored, the old one to D after 6 ic (R263). -/
theorem atomic_of_readable (u : State) (d a : BitVec 5) (new : State → W64 → W64)
    (h28 : (u.src a).extractLsb' 28 36 = 0)
    (hr : u.readable ((u.src a).extractLsb' 22 6).toNat ((u.src a).extractLsb' 0 22).toNat 8 8) :
    let f := ((u.src a).extractLsb' 22 6).toNat
    let off := ((u.src a).extractLsb' 0 22).toNat
    let old := BitVec.ofNat 64 ((u.myFrame f).nat off 8)
    u.atomic d a new = ((u.afterRead f off 8).onFrame u.cur.p f fun F =>
      F.writeN off (leBytes 8 (new (u.afterRead f off 8) old).toNat)).toDest 6 d old := by
  obtain ⟨hholds, hxp, hpois⟩ := hr
  rw [State.atomic, scalarAccess_ok u (u.src a) 8 true _ h28 hholds fun _ => ⟨hxp, hpois⟩]
  simp only [if_true, State.frameNat, State.frameStore, State.myFrame, afterRead_cur, afterRead_frame]

theorem exec_atom_on {s : State} {g : Guard} {a b : BitVec 5} (h : s.enabled g [a, b]) (d : BitVec 5) (o : BitVec 4) :
    exec (.atom g d a b o) s =
      .next ((s.sourced [a, b]).atomic d a fun u old => atomNew o.toNat old (u.src b)) := by
  dsimp only [exec]
  exact guarded_on s g [a, b] _ h

theorem exec_cas_on {s : State} {g : Guard} {d a b : BitVec 5} (h : s.enabled g [d, a, b]) :
    exec (.cas g d a b) s =
      .next ((s.sourced [d, a, b]).atomic d a fun u old => if old = u.src d then u.src b else old) := by
  dsimp only [exec]
  exact guarded_on s g [d, a, b] _ h

/-- Settles O17: the new doubleword's operands read the same after the read of the frame as before it. -/
theorem frameAtomics : Obligations.FrameAtomics := by
  unfold Obligations.FrameAtomics
  intro s g d a b o
  refine ⟨fun hen ho h28 hr => ?_, fun hen h28 hr => ?_⟩
  · intro old
    rw [exec_atom_on hen, atomic_of_readable _ d a _ h28 hr]
    simp only [afterRead_src, atomNew, BitVec.slt_eq_decide, BitVec.ult_eq_decide, decide_eq_true_eq] <;> rfl
  · intro old
    rw [exec_cas_on hen, atomic_of_readable _ d a _ h28 hr]
    simp only [afterRead_src] <;> rfl

end Sys2Proof.Machine
end

section
/-! PROOFS. The instructions of a long word and the order its slots run in (O56, R127, R128, R149). -/

namespace Sys2Proof.Machine

/-! ### Only S0 changes the flow (R144) -/

/-- No entry of a map makes an instruction that changes the flow. -/
def flowFree (o : Option Entry) : Bool := o.all fun e => !changesFlow e.instr

theorem memoryEntry_flowFree (w : W32) : flowFree (memoryEntry w) = true := by
  unfold memoryEntry
  split <;> rfl

theorem vectorEntry_flowFree (w : W32) : flowFree (vectorEntry w) = true := by
  unfold vectorEntry
  split
  -- the opcodes that two instructions share: VLI, DTOV and DDOT
  case h_30 | h_40 | h_43 => split_ifs <;> rfl
  all_goals rfl

theorem specialEntry_flowFree (w : W32) : flowFree (specialEntry w) = true := by
  unfold specialEntry
  split <;> rfl

theorem cubeEntry_flowFree (w : W32) : flowFree (cubeEntry w) = true := by
  unfold cubeEntry
  split <;> rfl

theorem syncEntry_flowFree (w : W32) : flowFree (syncEntry w) = true := by
  unfold syncEntry
  split
  -- ECANCEL, whose low bits name the form
  case h_19 => split_ifs <;> rfl
  all_goals rfl

theorem crossHalves_keepFlow (w : W32) : (crossHalves w).all (fun i => !changesFlow i) = true := by
  unfold crossHalves
  dsimp only
  split
  · rfl
  · rw [List.all_append, Bool.and_eq_true]
    constructor <;> split <;> rfl

/-- The flow-changing opcodes of the scalar map lie in S0's own range. -/
theorem scalarEntry_flow (w : W32) : ((scalarEntry w).all fun e => !changesFlow e.instr || s0Only w) = true := by
  unfold scalarEntry s0Only
  generalize (w.extractLsb' 20 7).toNat = op
  split <;> rfl

theorem entryOf_flowFree {sl : Slot} (h0 : sl ≠ .s0) {w : W32} (h1 : ¬ (sl = .s1 ∧ s0Only w = true)) :
    flowFree (entryOf sl w) = true := by
  by_cases hop : w.extractLsb' 20 7 = 0#7
  · rw [show entryOf sl w = _ from if_pos hop]
    rfl
  rw [entryOf_eq_opcodeMap hop]
  cases sl with
  | s0 => exact absurd rfl h0
  | s1 =>
    have hs : s0Only w = false := by simpa using h1
    simpa [flowFree, opcodeMap, hs] using scalarEntry_flow w
  | m => exact memoryEntry_flowFree w
  | x => rfl
  | v => exact vectorEntry_flowFree w
  | f => exact specialEntry_flowFree w
  | c => exact cubeEntry_flowFree w
  | y => exact syncEntry_flowFree w

/-- A syllable that meets no reason and changes the flow stands in S0 (R144, reason 3 of R149). -/
theorem decodeSyllable_flow {sl : Slot} {w : W32} {is : List Instr} (h : decodeSyllable sl w = .ok is) {i : Instr}
    (hi : i ∈ is) (hf : changesFlow i = true) : sl = .s0 := by
  obtain ⟨hr, rfl⟩ := decodeSyllable_ok_iff.1 h
  by_contra h0
  by_cases hx : sl = .x
  · subst hx
    have := List.all_eq_true.1 (crossHalves_keepFlow w) i hi
    simp [hf] at this
  · rw [syllableInstrs_of_ne_x hx] at hi
    obtain ⟨e, he, rfl⟩ : ∃ e, entryOf sl w = some e ∧ e.instr = i := by simpa using hi
    have h1 : ¬ (sl = .s1 ∧ s0Only w = true) := by
      intro h1
      rw [syllableReasons_of_entry hx he, if_pos h1] at hr
      simp at hr
    simpa [flowFree, he, hf] using entryOf_flowFree h0 h1

/-! ### A long word's instructions -/

/-- The instructions of one slot of a long word, with the slot's number. -/
def slotInstrs (x : Slot × W32) : List (Nat × Instr) :=
  match decodeSyllable x.1 x.2 with
  | .ok is => is.map fun i => (x.1.num, i)
  | .error _ => []

theorem longWordInstrs_eq (lw : LongWord) : longWordInstrs lw = (Slot.all.zip lw).flatMap slotInstrs := rfl

theorem mem_slotInstrs {x : Slot × W32} {k : Nat} {i : Instr} :
    (k, i) ∈ slotInstrs x ↔ x.1.num = k ∧ ∃ is, decodeSyllable x.1 x.2 = .ok is ∧ i ∈ is := by
  unfold slotInstrs
  cases decodeSyllable x.1 x.2 with
  | ok is => simp [and_comm]
  | error r => simp

/-- The slots of a whole long word with their syllables. -/
theorem mem_zip_slots {lw : LongWord} (h : lw.length = 8) {x : Slot × W32} :
    x ∈ Slot.all.zip lw ↔ x.1 ∈ Slot.all ∧ x.2 = at0 lw x.1.num := by
  obtain ⟨sl, w⟩ := x
  match lw, h with
  | [_, _, _, _, _, _, _, _], _ => cases sl <;> simp [Slot.all, Slot.num, at0]

theorem mem_longWordInstrs {lw : LongWord} (h : lw.length = 8) (k : Nat) (i : Instr) :
    (k, i) ∈ longWordInstrs lw ↔
      ∃ sl ∈ Slot.all, sl.num = k ∧ ∃ is, decodeSyllable sl (at0 lw k) = .ok is ∧ i ∈ is := by
  simp only [longWordInstrs_eq, List.mem_flatMap, mem_slotInstrs, mem_zip_slots h, Prod.exists]
  constructor
  · rintro ⟨sl, w, ⟨hsl, rfl⟩, rfl, hi⟩
    exact ⟨sl, hsl, rfl, hi⟩
  · rintro ⟨sl, hsl, rfl, hi⟩
    exact ⟨sl, _, ⟨hsl, rfl⟩, rfl, hi⟩

/-- The slots of a long word stand in slot order. -/
theorem zip_slots_ordered (lw : LongWord) : (Slot.all.zip lw).Pairwise fun a b => a.1.num ≤ b.1.num := by
  have hall : Slot.all.Pairwise fun a b => a.num ≤ b.num := by decide
  rw [List.pairwise_iff_getElem] at hall ⊢
  intro j k hj hk hjk
  rw [List.length_zip, lt_min_iff] at hj hk
  simpa only [List.getElem_zip] using hall j k hj.1 hk.1 hjk

theorem longWordInstrs_ordered (lw : LongWord) : ((longWordInstrs lw).map Prod.fst).Pairwise (· ≤ ·) := by
  rw [List.pairwise_map, longWordInstrs_eq, List.pairwise_flatMap]
  refine ⟨fun x _ => List.pairwise_of_forall_mem_list ?_, (zip_slots_ordered lw).imp ?_⟩
  · rintro ⟨j, a⟩ ha ⟨k, b⟩ hb
    exact ((mem_slotInstrs.1 ha).1.symm.trans (mem_slotInstrs.1 hb).1).le
  · rintro x y hxy ⟨j, a⟩ ha ⟨k, b⟩ hb
    obtain ⟨rfl, -⟩ := mem_slotInstrs.1 ha
    obtain ⟨rfl, -⟩ := mem_slotInstrs.1 hb
    exact hxy

theorem longWordInstrs_flow {lw : LongWord} {si : Nat × Instr} (h : si ∈ longWordInstrs lw)
    (hf : changesFlow si.2 = true) : si.1 = 0 := by
  obtain ⟨k, i⟩ := si
  rw [longWordInstrs_eq] at h
  obtain ⟨⟨sl, w⟩, -, hi⟩ := List.mem_flatMap.1 h
  obtain ⟨rfl, is, hd, hmem⟩ := mem_slotInstrs.1 hi
  obtain rfl := decodeSyllable_flow hd hmem hf
  rfl

/-! ### The order of the slots -/

theorem slotOrder_flowLast (is : List (Nat × Instr)) :
    (slotOrder is).Pairwise fun a b => changesFlow a.2 = true → changesFlow b.2 = true := by
  rw [slotOrder, List.pairwise_append]
  refine ⟨List.pairwise_of_forall_mem_list ?_, List.pairwise_of_forall_mem_list ?_, ?_⟩
  · intro a ha b _ hf
    simp [hf] at ha
  · intro a _ b hb _
    exact (List.mem_filter.1 hb).2
  · intro a _ b hb _
    exact (List.mem_filter.1 hb).2

theorem slotOrder_filter (is : List (Nat × Instr)) (c : Bool) :
    (slotOrder is).filter (fun si => changesFlow si.2 == c) = is.filter fun si => changesFlow si.2 == c := by
  cases c <;> simp [slotOrder, List.filter_filter]

/-! ### The slots' effects -/

theorem runSlots_cons {lw : LongWord} {slot : Nat} {i : Instr} {more : List (Nat × Instr)} {w t : State}
    {rs : List (Nat × Raise)} (h : exec i { w with cur := { w.cur with slot := slot, syl := at0 lw slot } } = .next t) :
    runSlots lw ((slot, i) :: more) w rs = match t.cur.trap with
      | none => runSlots lw more (t.noteFound slot) rs
      | some r => runSlots lw more w (rs ++ [(slot, r)]) := by
  simp only [runSlots, h]
  cases t.cur.trap <;> rfl

end Sys2Proof.Machine
end

section
/-! PROOFS. A step of the issue port (O56, R154, R155, R328, R329). -/

namespace Sys2Proof.Machine

/-! ### The cause taken (R329) -/

/-- A cause comes no later than another: by its rank, then by its slot. -/
def notAfter (a b : Nat × Raise) : Prop := a.2.rank < b.2.rank ∨ a.2.rank = b.2.rank ∧ a.1 ≤ b.1

/-- Of two causes the one that is taken. -/
def earlier (b y : Nat × Raise) : Nat × Raise :=
  if y.2.rank < b.2.rank || (y.2.rank = b.2.rank && y.1 < b.1) then y else b

theorem notAfter_refl (a : Nat × Raise) : notAfter a a := .inr ⟨rfl, Nat.le_refl _⟩

theorem notAfter_trans {a b c : Nat × Raise} (h : notAfter a b) (k : notAfter b c) : notAfter a c := by
  unfold notAfter at *
  omega

theorem earlier_cases (b y : Nat × Raise) :
    (earlier b y = y ∧ notAfter y b) ∨ (earlier b y = b ∧ notAfter b y) := by
  by_cases h : y.2.rank < b.2.rank || (y.2.rank = b.2.rank && y.1 < b.1)
  · refine .inl ⟨if_pos h, ?_⟩
    simp at h
    unfold notAfter
    omega
  · refine .inr ⟨if_neg h, ?_⟩
    simp at h
    unfold notAfter
    omega

theorem foldl_earlier (xs : List (Nat × Raise)) (x : Nat × Raise) :
    xs.foldl earlier x ∈ x :: xs ∧ ∀ f ∈ x :: xs, notAfter (xs.foldl earlier x) f := by
  induction xs generalizing x with
  | nil => exact ⟨List.mem_singleton.2 rfl, fun f hf => List.mem_singleton.1 hf ▸ notAfter_refl _⟩
  | cons y ys ih =>
    obtain ⟨hmem, hmin⟩ := ih (earlier x y)
    obtain ⟨hhead, htail⟩ := List.forall_mem_cons.1 hmin
    simp only [List.foldl_cons, List.forall_mem_cons]
    rcases earlier_cases x y with ⟨he, hle⟩ | ⟨he, hle⟩ <;> rw [he] at hmem hhead htail ⊢
    · exact ⟨.tail _ hmem, notAfter_trans hhead hle, hhead, htail⟩
    · refine ⟨?_, hhead, notAfter_trans hhead hle, htail⟩
      rcases List.mem_cons.1 hmem with h | h
      · exact List.mem_cons.2 (.inl h)
      · exact .tail _ (.tail _ h)

theorem pickRaise_none (rs : List (Nat × Raise)) : pickRaise rs = none ↔ rs = [] := by
  cases rs <;> simp [pickRaise]

/-- MULTI: ILLEGAL or PRIV met in another slot too (R150). -/
abbrev metElsewhere (rs : List (Nat × Raise)) (e : Nat × Raise) : Prop :=
  (e.2.cause = cIllegal ∨ e.2.cause = cPriv) ∧ ∃ f ∈ rs, f.1 ≠ e.1 ∧ f.2.cause = e.2.cause

theorem pickRaise_cons (x : Nat × Raise) (xs : List (Nat × Raise)) :
    pickRaise (x :: xs) =
      some { (xs.foldl earlier x).2 with
        einfo := if metElsewhere (x :: xs) (xs.foldl earlier x) then (xs.foldl earlier x).2.einfo ||| 8
          else (xs.foldl earlier x).2.einfo } := by
  set e := xs.foldl earlier x
  have hm : ((e.2.cause = cIllegal || e.2.cause = cPriv) &&
      !((x :: xs).filter fun y => y.2.cause = e.2.cause && y.1 ≠ e.1).isEmpty) = true ↔ metElsewhere (x :: xs) e := by
    simp only [metElsewhere, Bool.and_eq_true, Bool.or_eq_true, decide_eq_true_eq, Bool.not_eq_true', List.isEmpty_eq_false_iff,
      Ne, List.filter_eq_nil_iff, not_forall, not_not, and_comm, exists_prop]
  refine congrArg some ?_
  by_cases h : metElsewhere (x :: xs) e
  · rw [if_pos h]
    exact if_pos (hm.2 h)
  · rw [if_neg h]
    exact if_neg (mt hm.1 h)

/-- The cause taken is the first in R329's order, with MULTI set when another slot met ILLEGAL or PRIV too (R150). -/
theorem pickRaise_some {rs : List (Nat × Raise)} {r : Raise} (h : pickRaise rs = some r) :
    ∃ e ∈ rs, r = { e.2 with einfo := r.einfo } ∧
      r.einfo = (if (r.cause = cIllegal ∨ r.cause = cPriv) ∧ (∃ f ∈ rs, f.1 ≠ e.1 ∧ f.2.cause = e.2.cause) then
        e.2.einfo ||| 8 else e.2.einfo) ∧ ∀ f ∈ rs, notAfter e f := by
  cases rs with
  | nil => cases h
  | cons x xs =>
    obtain ⟨hmem, hmin⟩ := foldl_earlier xs x
    obtain rfl := Option.some.inj ((pickRaise_cons x xs).symm.trans h)
    exact ⟨_, hmem, rfl, if_congr Iff.rfl rfl rfl, hmin⟩

/-! ### The grant (R152, R154) -/

section
variable {s u : State} {p q : Nat}

theorem portChoice_none (h0 : (u.focus p 0).readiness = .no) (h1 : (u.focus p 1).readiness = .no) :
    u.portChoice p = none := by
  simp only [State.portChoice, h0, h1]

/-- A ready sequencer is granted when the other is not ready or issued last (R154). -/
theorem portChoice_some {r : Ready} (hq : q < 2) (h : (u.focus p q).readiness = r) (hr : r ≠ .no)
    (hc : (u.focus p (1 - q)).readiness = .no ∨ (u.pillar p).last = 1 - q) : u.portChoice p = some (q, r) := by
  obtain rfl | rfl : q = 0 ∨ q = 1 := by omega
  · simp only [State.portChoice, h]
    cases hb : (u.focus p 1).readiness with
    | no => cases r <;> simp_all
    | raises | runs =>
      have hl : (u.pillar p).last = 1 := by simpa [hb] using hc
      cases r <;> simp_all
  · simp only [State.portChoice, h]
    cases ha : (u.focus p 0).readiness with
    | no => cases r <;> simp_all
    | raises | runs =>
      have hl : (u.pillar p).last = 0 := by simpa [ha] using hc
      cases r <;> simp_all

/-- The package as the port finds it: what holds its sequencers noted (R334). -/
def State.atPort (s : State) (p : Nat) : State := (s.noteHeld p 0).noteHeld p 1

theorem portStep_none (h : (s.atPort p).portChoice p = none) : s.portStep p = .next (s.atPort p) := by
  unfold State.atPort at h
  simp only [State.portStep, h]
  rfl

theorem portStep_runs {lw : LongWord} (h : (s.atPort p).portChoice p = some (q, .runs lw)) :
    s.portStep p = ((s.atPort p).grant p q).runWord lw := by
  unfold State.atPort at h
  simp only [State.portStep, h]
  rfl

theorem portStep_raises {r : Raise} (h : (s.atPort p).portChoice p = some (q, .raises r)) :
    s.portStep p = .next (((s.atPort p).grant p q).raiseWord r) := by
  unfold State.atPort at h
  simp only [State.portStep, h]
  rfl

theorem step_issue {rest : List Act} (h : s.agenda = .issue p :: rest) :
    step s = ({ s with agenda := rest } : State).portStep p := by
  simp only [step, h]

/-- What a grant keeps of the pillar: all but the port's notes, the order of its instruction cache and its
sequencers. -/
theorem grant_keeps {α : Type} (π : Pillar → α)
    (hport : ∀ P last issues icache, π { P with last := last, issues := issues, icache := icache } = π P)
    (hseqs : ∀ P seqs, π { P with seqs := seqs } = π P) (p' : Nat) : π ((u.grant p q).pillar p') = π (u.pillar p') :=
  (onPillar_keeps _ p π (fun P => hseqs P _) p').trans (onPillar_keeps u p π (fun P => hport P _ _ _) p')

theorem grant_mq (p' : Nat) : ((u.grant p q).pillar p').mq = (u.pillar p').mq :=
  grant_keeps Pillar.mq (fun _ _ _ _ => by rfl) (fun _ _ => by rfl) p'

theorem grant_frames (p' : Nat) : ((u.grant p q).pillar p').frames = (u.pillar p').frames :=
  grant_keeps Pillar.frames (fun _ _ _ _ => by rfl) (fun _ _ => by rfl) p'

/-- The long word granted is the one at its sequencer's point. -/
theorem grant_addr : (u.grant p q).cur.addr = (u.seq p q).pc :=
  (onSeq_keeps _ p q Seq.pc (fun _ => by rfl) p q).trans
    (congrArg (fun l => (l.getD q Seq.reset).pc) (onPillar_keeps u p Pillar.seqs (fun _ => by rfl) p))

theorem grant_last (h : p < u.pillars.length) : ((u.grant p q).pillar p).last = q :=
  (onPillar_keeps _ p Pillar.last (fun _ => by rfl) p).trans (congrArg Pillar.last (onPillar_self u p _ h))

/-- A long word in the instruction cache stands in the line of its address (R152). -/
theorem fetched_line {P : Pillar} {pc : W64} {lw : LongWord} (h : P.fetched pc = some lw) :
    ∃ l ∈ P.icache, l.line = pc.toNat / 128 ∧
      lw = (List.range 8).map fun k => at0 l.words (8 * (pc.toNat / 32 % 4) + k) := by
  obtain ⟨l, hl, rfl⟩ := Option.map_eq_some_iff.1 h
  exact ⟨l, List.mem_of_find?_eq_some hl, by simpa using List.find?_some hl, rfl⟩

/-- A long word that may run is in the instruction cache (R152). -/
theorem fetched_of_readiness {lw : LongWord} (h : u.readiness = .runs lw) : u.mine.fetched u.me.pc = some lw := by
  unfold State.readiness at h
  dsimp only at h
  split at h
  · -- running: no long word before its time, with a fault of its fetch, or not in the cache
    split at h
    · cases h
    split at h
    · cases h
    split at h
    · split at h <;> cases h
    rename_i w hw
    -- one that fails at decode raises
    split at h
    · cases h
    split at h
    · obtain rfl := Ready.runs.inj h
      exact hw
    -- one that is held does not run
    split at h
    · split at h <;> cases h
    split at h
    · cases h
    split at h <;> cases h
  · -- at DONE
    split at h
    · cases h
    split at h
    · cases h
    split at h <;> cases h
  · cases h

theorem focus_mine : (u.focus p q).mine = u.pillar p := rfl

theorem focus_me : (u.focus p q).me = u.seq p q := rfl

theorem fetched_of_runs {lw : LongWord} (h : (u.focus p q).readiness = .runs lw) :
    (u.pillar p).fetched (u.seq p q).pc = some lw := by
  have hf := fetched_of_readiness h
  rwa [focus_mine, focus_me] at hf

/-! ### The long word granted (R128, R329) -/

theorem runWord_next {lw : LongWord} {t : State} (hseq : u.me.illseq u.cur.addr ((longWordInstrs lw).map Prod.snd) = false)
    (hw : u.wordRaises (longWordInstrs lw) = [])
    (hrun : runSlots lw (slotOrder (longWordInstrs lw)) { u with cur := { u.cur with found := u.mine.frames } } [] =
      (.next t, [])) :
    u.runWord lw = .next
      (u.afterWord (u.leaveWord (t.takePermits (longWordInstrs lw))) ((longWordInstrs lw).map Prod.snd)) := by
  simp only [State.runWord, hseq, hw, Bool.false_eq_true, if_false, List.nil_append, hrun, pickRaise]

theorem runWord_raise {lw : LongWord} {w : State} {rs : List (Nat × Raise)} {r : Raise}
    (hrun : runSlots lw (slotOrder (longWordInstrs lw)) { u with cur := { u.cur with found := u.mine.frames } }
      ((if u.me.illseq u.cur.addr ((longWordInstrs lw).map Prod.snd) = true then [(0, cause cIllseq 0)] else []) ++
        u.wordRaises (longWordInstrs lw)) = (.next w, rs)) (hr : pickRaise rs = some r) :
    u.runWord lw = .next (u.raiseWord r) := by
  simp only [State.runWord, hrun, hr]
end

/-- Settles O56, clause by clause: the port's choice, the long word granted, the cause taken, the long word's
instructions, their order, and the run of the slots. -/
theorem stepRunsDecoded : Obligations.StepRunsDecoded := by
  unfold Obligations.StepRunsDecoded
  intro s p rest hs u ready
  have hu : u = ({ s with agenda := rest } : State).atPort p := rfl
  rw [step_issue hs]
  clear_value u
  subst hu
  refine ⟨fun h0 h1 => ?none, fun q lw hq hr hc => ?runs, fun q r hq hr hc => ?raises,
    fun rs => ⟨pickRaise_none rs, fun r => pickRaise_some⟩, fun _ => rfl, fun lw h k i => mem_longWordInstrs h k i,
    fun lw => ⟨longWordInstrs_ordered lw, fun _ h hf => longWordInstrs_flow h hf⟩,
    fun is => ⟨slotOrder_flowLast is, slotOrder_filter is⟩, fun _ _ _ _ _ _ _ h => runSlots_cons h, fun _ _ _ => rfl⟩
  case none => exact portStep_none (portChoice_none h0 h1)
  case raises => exact portStep_raises (portChoice_some hq hr nofun hc)
  case runs =>
    have hstep := portStep_runs (portChoice_some hq hr nofun hc)
    refine ⟨fetched_line (fetched_of_runs hr), grant_addr, ?_, fun hseq hw t hrun => ?_, grant_mq p, grant_frames p,
      fun w rs r hrun hpick => ?_⟩
    · split
      next h => exact grant_last h
      next => rfl
    · exact hstep.trans (runWord_next hseq hw hrun)
    · exact hstep.trans (runWord_raise hrun hpick)

end Sys2Proof.Machine
end

section
/-! PROOFS. Branches and calls with their delay long word (O7, R163, R185). -/

namespace Sys2Proof.Machine

@[simp] theorem sourced_addr (s : State) (srcs : List (BitVec 5)) : (s.sourced srcs).cur.addr = s.cur.addr := by
  rcases sourced_cases s srcs with h | h <;> rw [h]
  rcases popMq_cases s with h | ⟨_, _, _, _, _, h⟩ <;> rw [h]

/-- Settles O7: each syllable branches in the state its sources are read in, whose long word is the same. -/
theorem branches : Obligations.Branches := by
  unfold Obligations.Branches
  refine fun s g d a i => ⟨fun h => ⟨?br, ?call⟩, fun h => ⟨?bri, ?calli⟩⟩
  case br =>
    show execBr g i s = _
    exact guarded_on s g [] _ h
  case call =>
    show execCall g i s = _
    exact guarded_on s g [] _ h
  case bri =>
    show execBri g a s = _
    exact guarded_on s g [a] _ h
  case calli =>
    show execCalli g d a s = _
    rw [execCalli, guarded_on s g [a] _ h, sourced_addr]
    rfl

end Sys2Proof.Machine
end

section
/-! PROOFS. VACC and VDRAIN (O27, R157, R214, R215). -/

namespace Sys2Proof.Machine

/-- What VACC makes of an element and what is added to it (R214). -/
def accPut (c : BitVec 1) (old new : W32) : W32 := if c = 1 then new else to32 ((val32 old).add (val32 new))

/-- A tile's write on its way (R157). -/
def State.busyAcc (s : State) (a : BitVec 3) : State :=
  s.onMe fun q => { q with accs := upd q.accs a.toNat fun t => { t with busy := true } }

theorem exec_vacc_elems {s : State} {g : Guard} (h : s.enabled g []) (v : BitVec 5) (a : BitVec 3) (c : BitVec 1)
    (m : BitVec 3) : exec (.vacc g v a c 0 m) s = .next ((s.busyAcc a).result 4
      (.acc a.toNat (List.zipWith (accPut c) (s.acc a).elems (s.vreg v)) (s.vpred m))) := by
  show execVacc g v a c 0 m s = _
  exact guarded_on s g [] _ h

theorem exec_vacc_side {s : State} {g : Guard} (h : s.enabled g []) (v : BitVec 5) (a : BitVec 3) (c : BitVec 1)
    (m : BitVec 3) : exec (.vacc g v a c 1 m) s = .next ((s.busyAcc a).result 4
      (.side a.toNat ((List.range 80).filterMap fun e => if (s.vpred m).on e then
        (sidePos e).map fun k => (k, accPut c (at0 (s.acc a).side k) (at0 (s.vreg v) e)) else none))) := by
  show execVacc g v a c 1 m s = _
  exact guarded_on s g [] _ h

/-- The side positions that VACC writes (R214). -/
theorem mem_sideWrites (on : Nat → Bool) (put : Nat → Nat → W32) (k : Nat) (x : W32) :
    (k, x) ∈ (List.range 80).filterMap (fun e => if on e then (sidePos e).map fun k => (k, put k e) else none) ↔
      k < 80 ∧ on k = true ∧ x = put k k := by
  rw [List.mem_filterMap]
  constructor
  · rintro ⟨e, he, h⟩
    have hlt : e < 80 := List.mem_range.1 he
    by_cases hon : on e = true
    · rw [if_pos hon, sidePos, if_pos hlt] at h
      obtain ⟨rfl, rfl⟩ := Prod.mk.inj (Option.some.inj h)
      exact ⟨hlt, hon, rfl⟩
    · rw [if_neg hon] at h
      cases h
  · rintro ⟨hlt, hon, rfl⟩
    exact ⟨k, List.mem_range.2 hlt, by rw [if_pos hon, sidePos, if_pos hlt]; rfl⟩

/-- The tile as VDRAIN leaves it (R215). -/
def Acc.drained (T : Acc) (c sd : BitVec 1) (mask : PReg) : Acc :=
  if c = 0 then T
  else if sd = 0 then { T with elems := mergeMask mask T.elems (vfill 0) }
  else { T with side := (List.range 80).map fun k => if mask.on k then 0 else at0 T.side k }

theorem exec_vdrain_on {s : State} {g : Guard} (h : s.enabled g []) (v : BitVec 5) (a : BitVec 3) (c sd : BitVec 1)
    (m : BitVec 3) : exec (.vdrain g v a c sd m) s = .next ((s.onMe fun q => { q with
      accs := upd q.accs a.toNat fun _ => (s.acc a).drained c sd (s.vpred m) }).toVec 6 v
        (if sd = 0 then (s.acc a).elems else (s.acc a).side ++ List.replicate 944 0) (s.vpred m)) := by
  show execVdrain g v a c sd m s = _
  exact guarded_on s g [] _ h

theorem drained_kept (T : Acc) (sd : BitVec 1) (mask : PReg) : T.drained 0 sd mask = T := if_pos rfl

theorem drained_elems (T : Acc) (mask : PReg) :
    T.drained 1 0 mask = { T with elems := mergeMask mask T.elems (vfill 0) } := rfl

theorem drained_side (T : Acc) (mask : PReg) : T.drained 1 1 mask =
    { T with side := (List.range 80).map fun k => if mask.on k then 0 else at0 T.side k } := rfl

theorem drained_elems_at0 (T : Acc) (mask : PReg) {e : Nat} (he : e < 1024) :
    at0 (T.drained 1 0 mask).elems e = if mask.on e then 0 else at0 T.elems e := by
  rw [drained_elems, at0_mergeMask _ _ _ he, at0_vfill 0 e he]

theorem drained_side_at0 (T : Acc) (mask : PReg) {e : Nat} (he : e < 80) :
    at0 (T.drained 1 1 mask).side e = if mask.on e then 0 else at0 T.side e := by
  rw [drained_side]
  exact getD_map_range _ _ he

theorem bit_cases (c : BitVec 1) : c = 0 ∨ c = 1 := by
  revert c
  decide

/-- Settles O27: VACC's two forms by SIDE, VDRAIN by SIDE and CLR. -/
theorem accumulatorAccess : Obligations.AccumulatorAccess := by
  unfold Obligations.AccumulatorAccess
  intro s g v a c m h
  refine ⟨exec_vacc_elems h v a c m, ⟨_, exec_vacc_side h v a c m, fun k x => mem_sideWrites (s.vpred m).on
      (fun i j => accPut c (at0 (s.acc a).side i) (at0 (s.vreg v) j)) k x⟩,
    ⟨_, exec_vdrain_on h v a c 0 m, ?_⟩, ⟨_, exec_vdrain_on h v a c 1 m, ?_⟩⟩
  · rcases bit_cases c with rfl | rfl
    · rw [drained_kept]
      exact ⟨rfl, rfl, rfl, rfl, fun _ => rfl, nofun⟩
    · refine ⟨?_, ?_, ?_, ?_, nofun, fun _ e he => drained_elems_at0 _ _ he⟩ <;> rw [drained_elems]
  · rcases bit_cases c with rfl | rfl
    · rw [drained_kept]
      exact ⟨rfl, rfl, rfl, rfl, fun _ => rfl, nofun⟩
    · refine ⟨?_, ?_, ?_, ?_, nofun, fun _ e he => drained_side_at0 _ _ he⟩ <;> rw [drained_side]

end Sys2Proof.Machine
end

section
/-! PROOFS. The syllables whose effect is results in flight (O53, R158, R162): each by its own lemma of
Laws/ResultFrames. -/

namespace Sys2Proof.Machine

/-- Such a syllable that raises nothing adds to what is in flight. -/
theorem resultsOnly_adds {s t : State} {i : Instr} (hi : resultsOnly i = true) (h : exec i s = .next t)
    (ht : t.cur.trap = none) : s.adds t := by
  cases i with
  | nop => exact nop_adds _ h
  | add => exact add_adds _ _ _ _ h ht
  | sub => exact sub_adds _ _ _ _ h ht
  | addi => exact addi_adds _ _ _ _ h ht
  | mul => exact mul_adds _ _ _ _ h ht
  | mulh => exact mulh_adds _ _ _ _ h ht
  | mulhn => exact mulhn_adds _ _ _ _ h ht
  | div => exact div_adds _ _ _ _ h ht
  | divn => exact divn_adds _ _ _ _ h ht
  | rem => exact rem_adds _ _ _ _ h ht
  | remn => exact remn_adds _ _ _ _ h ht
  | andOp => exact andOp_adds _ _ _ _ h ht
  | orOp => exact orOp_adds _ _ _ _ h ht
  | xorOp => exact xorOp_adds _ _ _ _ h ht
  | andi => exact andi_adds _ _ _ _ h ht
  | ori => exact ori_adds _ _ _ _ h ht
  | xori => exact xori_adds _ _ _ _ h ht
  | shl => exact shl_adds _ _ _ _ h ht
  | shr => exact shr_adds _ _ _ _ h ht
  | sar => exact sar_adds _ _ _ _ h ht
  | shli => exact shli_adds _ _ _ _ h ht
  | shri => exact shri_adds _ _ _ _ h ht
  | sari => exact sari_adds _ _ _ _ h ht
  | rotl => exact rotl_adds _ _ _ _ h ht
  | minOp => exact minOp_adds _ _ _ _ h ht
  | maxOp => exact maxOp_adds _ _ _ _ h ht
  | minn => exact minn_adds _ _ _ _ h ht
  | maxn => exact maxn_adds _ _ _ _ h ht
  | cmpeq => exact cmpeq_adds _ _ _ _ h ht
  | cmpne => exact cmpne_adds _ _ _ _ h ht
  | cmplt => exact cmplt_adds _ _ _ _ h ht
  | cmple => exact cmple_adds _ _ _ _ h ht
  | cmpltn => exact cmpltn_adds _ _ _ _ h ht
  | cmplen => exact cmplen_adds _ _ _ _ h ht
  | cmpeqi => exact cmpeqi_adds _ _ _ _ h ht
  | cmplti => exact cmplti_adds _ _ _ _ h ht
  | sel => exact sel_adds _ _ _ _ _ h ht
  | bfx => exact bfx_adds _ _ _ _ h ht
  | bfxs => exact bfxs_adds _ _ _ _ h ht
  | bfi => exact bfi_adds _ _ _ _ _ h ht
  | clz => exact clz_adds _ _ _ h ht
  | ctz => exact ctz_adds _ _ _ h ht
  | popc => exact popc_adds _ _ _ h ht
  | bswap => exact bswap_adds _ _ _ h ht
  | li => exact li_adds _ _ _ h ht
  | lih => exact lih_adds _ _ _ _ h ht
  | mov => exact mov_adds _ _ _ h ht
  | addx => exact addx_adds _ _ _ _ _ h ht
  | cand => exact cand_adds _ _ _ _ h ht
  | cor => exact cor_adds _ _ _ _ h ht
  | cxor => exact cxor_adds _ _ _ _ h ht
  | cnot => exact cnot_adds _ _ _ h ht
  | time => exact time_adds _ _ h ht
  | cyc => exact cyc_adds _ _ h ht
  | csrr => exact csrr_adds _ _ _ h ht
  | csrw => exact csrw_adds _ _ _ _ h ht
  | csrs => exact csrs_adds _ _ _ _ h ht
  | csrc => exact csrc_adds _ _ _ _ h ht
  | fadr => exact fadr_adds _ _ _ _ h ht
  | lidx => exact lidx_adds _ _ _ h ht
  | pmark => exact pmark_adds _ h
  | fstat => exact fstat_adds _ _ _ h ht
  | xsve => exact xsve_adds _ _ _ _ h ht
  | xsvr => exact xsvr_adds _ _ _ _ h ht
  | xspr => exact xspr_adds _ _ _ _ h ht
  | xsn => exact xsn_adds _ _ _ _ h ht
  | xvse => exact xvse_adds _ _ _ h ht
  | xpsa => exact xpsa_adds _ _ _ h ht
  | xpsc => exact xpsc_adds _ _ _ h ht
  | xpsr => exact xpsr_adds _ _ _ h ht
  | xns => exact xns_adds _ _ _ h ht
  | vadd => exact vadd_adds _ _ _ _ _ _ h ht
  | vsub => exact vsub_adds _ _ _ _ _ _ h ht
  | vmul => exact vmul_adds _ _ _ _ _ _ h ht
  | vfma => exact vfma_adds _ _ _ _ _ _ h ht
  | vfms => exact vfms_adds _ _ _ _ _ _ h ht
  | vmin => exact vmin_adds _ _ _ _ _ _ h ht
  | vmax => exact vmax_adds _ _ _ _ _ _ h ht
  | vabs => exact vabs_adds _ _ _ _ _ h ht
  | vneg => exact vneg_adds _ _ _ _ _ h ht
  | vcmp => exact vcmp_adds _ _ _ _ _ _ h ht
  | vsel => exact vsel_adds _ _ _ _ _ _ h ht
  | viadd => exact viadd_adds _ _ _ _ _ _ h ht
  | visub => exact visub_adds _ _ _ _ _ _ h ht
  | vimul => exact vimul_adds _ _ _ _ _ _ h ht
  | vaddw => exact vaddw_adds _ _ _ _ _ _ h ht
  | viadds => exact viadds_adds _ _ _ _ _ _ h ht
  | vand => exact vand_adds _ _ _ _ _ _ h ht
  | vor => exact vor_adds _ _ _ _ _ _ h ht
  | vxor => exact vxor_adds _ _ _ _ _ _ h ht
  | vshl => exact vshl_adds _ _ _ _ _ _ h ht
  | vshr => exact vshr_adds _ _ _ _ _ _ h ht
  | vsar => exact vsar_adds _ _ _ _ _ _ h ht
  | vimin => exact vimin_adds _ _ _ _ _ _ h ht
  | vimax => exact vimax_adds _ _ _ _ _ _ h ht
  | vicmp => exact vicmp_adds _ _ _ _ _ _ h ht
  | vcvt => exact vcvt_adds _ _ _ _ _ _ h ht
  | vmov => exact vmov_adds _ _ _ _ _ h ht
  | vli => exact vli_adds _ _ _ h ht
  | vliF => exact vliF_adds _ _ _ h ht
  | vperm => exact vperm_adds _ _ _ _ _ _ h ht
  | viota => exact viota_adds _ _ _ h ht
  | vpand => exact vpand_adds _ _ _ _ h ht
  | vpor => exact vpor_adds _ _ _ _ h ht
  | vpxor => exact vpxor_adds _ _ _ _ h ht
  | vpnot => exact vpnot_adds _ _ _ h ht
  | dfromv => exact dfromv_adds _ _ _ h ht
  | dtov => exact dtov_adds _ _ _ h ht
  | dtovN => exact dtovN_adds _ _ _ h ht
  | dadd => exact dadd_adds _ _ _ _ h ht
  | dscale => exact dscale_adds _ _ _ h ht
  | ddot => exact ddot_adds _ _ _ _ h ht
  | ddotB => exact ddotB_adds _ _ _ _ _ h ht
  | dmov => exact dmov_adds _ _ _ h ht
  | dneg => exact dneg_adds _ _ _ h ht
  | dwsum => exact dwsum_adds _ _ _ _ _ h ht
  | fexp2 => exact fexp2_adds _ _ _ _ _ h ht
  | flog2 => exact flog2_adds _ _ _ _ _ h ht
  | frcp => exact frcp_adds _ _ _ _ _ h ht
  | frsq => exact frsq_adds _ _ _ _ _ h ht
  | fsqrt => exact fsqrt_adds _ _ _ _ _ h ht
  | ftanh => exact ftanh_adds _ _ _ _ _ h ht
  | fsigm => exact fsigm_adds _ _ _ _ _ h ht
  | ferf => exact ferf_adds _ _ _ _ _ h ht
  | fsin => exact fsin_adds _ _ _ _ _ h ht
  | fcos => exact fcos_adds _ _ _ _ _ h ht
  | vrotr => exact vrotr_adds _ _ _ _ _ h ht
  | vrotc => exact vrotc_adds _ _ _ _ _ h ht
  | vbcr => exact vbcr_adds _ _ _ _ _ h ht
  | vbcc => exact vbcc_adds _ _ _ _ _ h ht
  | vredr => exact vredr_adds _ _ _ _ _ h ht
  | vredc => exact vredc_adds _ _ _ _ _ h ht
  | vscanr => exact vscanr_adds _ _ _ _ _ _ h ht
  | vscanc => exact vscanc_adds _ _ _ _ _ _ h ht
  | vtrn => exact vtrn_adds _ _ _ _ h ht
  | vshfr => exact vshfr_adds _ _ _ _ _ h ht
  | vshfc => exact vshfc_adds _ _ _ _ _ h ht
  | cwait => exact cwait_adds _ _ h
  | cprog => exact cprog_adds _ _ h ht
  | kwait => exact kwait_adds _ _ _ _ h ht
  | krd => exact krd_adds _ _ h ht
  | wswin => exact wswin_adds _ h ht
  | fwait => exact fwait_adds _ _ _ h
  | _ => nomatch hi

/-- Settles O53: what a state adds to another leaves all that the statement lists. -/
theorem resultFrames : Obligations.ResultFrames := by
  unfold Obligations.ResultFrames
  intro s t i hi _ h ht
  obtain ⟨_, _, _, houtside, hpillar, hsettled, hnew⟩ := resultsOnly_adds hi h ht
  exact ⟨houtside, hpillar, hsettled, hnew⟩

end Sys2Proof.Machine
end

section
/-! PROOFS. The frame of the flow syllables (O55, R163-R200): what they leave of their sequencer, and nothing beside it
changed. -/

namespace Sys2Proof.Machine

/-- A sequencer without what the flow syllables change: where it goes on, its loops, its regions, its event latch, and
what settles to nothing. -/
def Seq.flowless (x : Seq) : Seq :=
  { x.settled with pc := 0, delay := none, loops := [], run := .idle, latch := false, regions := [] }

/-- A state that differs from another in the flow of the current sequencer, and in what a syllable may add. -/
def State.flows (s t : State) : Prop :=
  t.cur.p = s.cur.p ∧ t.cur.q = s.cur.q ∧ s.sameOutside t ∧ s.samePillar t ∧ t.me.flowless = s.me.flowless

theorem flowless_of_settled {x y : Seq} (h : x.settled = y.settled) : x.flowless = y.flowless :=
  congrArg (fun z : Seq => { z with pc := 0, delay := none, loops := [], run := .idle, latch := false, regions := [] }) h

section
variable {s t u : State}

theorem flows_of_adds (h : s.adds t) : s.flows t := by
  obtain ⟨hp, hq, _, houtside, hpillar, hsettled, _⟩ := h
  exact ⟨hp, hq, houtside, hpillar, flowless_of_settled hsettled⟩

theorem sameOutside_trans (hp : t.cur.p = s.cur.p) (h : s.sameOutside t) (k : t.sameOutside u) : s.sameOutside u := by
  obtain ⟨m1, m2, m3, m4, m5, m6, m7, m8, m9, ma, mb, mc⟩ := h
  obtain ⟨k1, k2, k3, k4, k5, k6, k7, k8, k9, ka, kb, kc⟩ := k
  exact ⟨k1.trans m1, k2.trans m2, k3.trans m3, k4.trans m4, k5.trans m5, k6.trans m6, k7.trans m7, k8.trans m8,
    k9.trans m9, ka.trans ma, kb.trans mb, fun p hne => (kc p (hp ▸ hne)).trans (mc p hne)⟩

theorem samePillar_trans (hp : t.cur.p = s.cur.p) (hq : t.cur.q = s.cur.q) (h : s.samePillar t) (k : t.samePillar u) :
    s.samePillar u :=
  ⟨k.1.trans h.1, fun q hne => (hp ▸ k.2 q (hq ▸ hne)).trans (h.2 q hne)⟩

theorem flows_trans (h : s.flows t) (k : t.flows u) : s.flows u := by
  obtain ⟨hp, hq, houtside, hpillar, hme⟩ := h
  obtain ⟨kp, kq, koutside, kpillar, kme⟩ := k
  exact ⟨kp.trans hp, kq.trans hq, sameOutside_trans hp houtside koutside, samePillar_trans hp hq hpillar kpillar,
    kme.trans hme⟩

theorem onMe_flows (s : State) {f : Seq → Seq} (hf : ∀ x, (f x).flowless = x.flowless) : s.flows (s.onMe f) := by
  refine ⟨rfl, rfl, onMe_outside s f, onMe_pillar s f, ?_⟩
  rcases onMe_me_cases s f with h | h <;> rw [h]
  exact hf s.me

/-- A loop-back's rotation is a change not yet in effect (R95, R188). -/
theorem endCheck_flows (s : State) (x : W64) : s.flows (s.endCheck x) := by
  refine onMe_flows s fun m => ?_
  rcases loopEnd m.loops x with ⟨_, _ | _⟩ <;> rfl

/-- The statement's form of the sequencer's frame. -/
theorem settled_but_flow {x y : Seq} (h : y.flowless = x.flowless) : { y.settled with
    pc := x.pc, delay := x.delay, loops := x.loops, run := x.run, latch := x.latch, regions := x.regions } = x.settled :=
  congrArg (fun z : Seq => { z with
    pc := x.pc, delay := x.delay, loops := x.loops, run := x.run, latch := x.latch, regions := x.regions }) h

variable {g : Guard} {srcs : List (BitVec 5)} {k : State → State}

/-- A flow syllable under its guard, whose effect flows or raises. -/
theorem guarded_flows (h : s.guarded g srcs k = .next t) (ht : t.cur.trap = none)
    (hk : ∀ u : State, (k u).cur.trap = none → u.flows (k u)) : s.flows t := by
  rcases guarded_cases h with rfl | ⟨_, rfl⟩
  · exact flows_of_adds (adds_refl _)
  · exact flows_trans (flows_of_adds (sourced_adds s srcs)) (hk _ ht)

theorem branchTo_flows (s : State) (target : W64) : s.flows (s.branchTo target) := onMe_flows s fun _ => rfl

theorem enterLoop_flows {n : State → W32} {r : BitVec 1} {e : BitVec 9} (h : s.enterLoop g srcs n r e = .next t)
    (ht : t.cur.trap = none) : s.flows t := by
  unfold State.enterLoop at h
  split at h
  · injection h with h
    subst h
    cases ht
  · refine guarded_flows h ht fun u _ => ?_
    dsimp only
    split <;> exact onMe_flows u fun _ => rfl

theorem lbreak_flows (h : execLbreak g s = .next t) (ht : t.cur.trap = none) : s.flows t :=
  guarded_flows h ht fun u _ => by
    split
    · exact flows_of_adds (adds_refl u)
    · exact flows_trans (onMe_flows u fun _ => by rfl) (endCheck_flows _ _)

theorem cropen_flows {a : BitVec 5} {o : BitVec 2} (h : execCropen g a o s = .next t) (ht : t.cur.trap = none) :
    s.flows t :=
  guarded_flows h ht fun u hu => by
    dsimp only at hu ⊢
    split at hu
    · cases hu
    next hn =>
      rw [if_neg hn]
      exact onMe_flows u fun _ => rfl

theorem halt_flows (h : execHalt g s = .next t) (ht : t.cur.trap = none) : s.flows t :=
  guarded_flows h ht fun u hu => by
    split at hu
    · cases hu
    next hn =>
      rw [if_neg hn]
      exact onMe_flows u fun _ => rfl

theorem chkerr_flows (h : execChkerr g s = .next t) (ht : t.cur.trap = none) : s.flows t :=
  guarded_flows h ht fun u hu => by
    split at hu
    · cases hu
    · split at hu
      · cases hu
      next hn =>
        rw [if_neg hn]
        exact flows_of_adds (adds_refl u)
end

end Sys2Proof.Machine
end

section
/-! PROOFS. The frame of the cube, engine and synchronisation syllables (O55, R160, R272, R296, R312-R326): what the
operations they are made of leave as it was. -/

namespace Sys2Proof.Machine

/-- What a command of a sequencer leaves as it was: whose long word it is, memory, stacks and launches, the sequencers,
frames and flags of every other pillar, every sequencer of its own but for records and what belongs to them, and what a
view shows of each frame. -/
structure Uncommanded (α : Type) where
  place : Nat × Nat
  mem : List Host.Cell
  poison : List Nat
  stks : List Stack
  launches : List Launch
  others : Nat → Option (List Seq × List Frame × List W32)
  programs : Nat → Seq
  frames : Nat → α

/-- That of a state, for a command of a sequencer of pillar p. -/
def State.uncommanded {α : Type} (s : State) (p : Nat) (view : Frame → α) : Uncommanded α where
  place := (s.cur.p, s.cur.q)
  mem := s.mem
  poison := s.poison
  stks := s.stks
  launches := s.launches
  others p' := if p' = p then none else some ((s.pillar p').seqs, (s.pillar p').frames, (s.pillar p').flags)
  programs q := (s.seq p q).program
  frames k := view (s.frame p k)

/-- What a change of one place leaves of every place. -/
theorem getD_upd_keeps {α β : Type} (π : α → β) (l : List α) (n k : Nat) {f : α → α} (d : α)
    (hf : π (f (l.getD n d)) = π (l.getD n d)) : π ((upd l n f).getD k d) = π (l.getD k d) := by
  by_cases hk : k = n
  · subst hk
    by_cases hl : k < l.length
    · rw [upd_getD_self _ _ _ _ hl, hf]
    · rw [upd_of_length_le _ _ _ (Nat.not_lt.1 hl)]
  · rw [upd_getD_ne _ _ _ _ _ hk]

section
variable {α : Type} (s : State) (p q i : Nat) (view : Frame → α)

/-! ### Places -/

/-- A change of the command's own pillar. -/
theorem onPillar_uncommanded {f : Pillar → Pillar}
    (hs : ∀ q, ((f (s.pillar p)).seqs.getD q Seq.reset).program = (s.seq p q).program)
    (hf : ∀ k, view ((f (s.pillar p)).frames.getD k Frame.cleared) = view (s.frame p k)) :
    (s.onPillar p f).uncommanded p view = s.uncommanded p view := by
  have hothers : ((s.onPillar p f).uncommanded p view).others = (s.uncommanded p view).others := funext fun p' => by
    simp only [State.uncommanded]
    split
    · rfl
    next hne => rw [onPillar_ne s p p' f hne]
  have hhere : (s.onPillar p f).pillar p = f (s.pillar p) ∨ (s.onPillar p f).pillar p = s.pillar p := onPillar_cases s p f p
  have hprograms : ((s.onPillar p f).uncommanded p view).programs = (s.uncommanded p view).programs := funext fun q => by
    simp only [State.uncommanded, State.seq]
    rcases hhere with h | h <;> rw [h]
    exact hs q
  have hframes : ((s.onPillar p f).uncommanded p view).frames = (s.uncommanded p view).frames := funext fun k => by
    simp only [State.uncommanded, State.frame]
    rcases hhere with h | h <;> rw [h]
    exact hf k
  unfold State.uncommanded at *
  dsimp only at *
  rw [hothers, hprograms, hframes]
  rfl

/-- A change of a pillar's other parts, its own or another's. -/
theorem onPillar_aside_uncommanded (p' : Nat) {f : Pillar → Pillar} (hs : ∀ P, (f P).seqs = P.seqs)
    (hf : ∀ P, (f P).frames = P.frames) (hk : ∀ P, (f P).flags = P.flags) :
    (s.onPillar p' f).uncommanded p view = s.uncommanded p view := by
  have seqs (n : Nat) : ((s.onPillar p' f).pillar n).seqs = (s.pillar n).seqs := onPillar_keeps s p' Pillar.seqs hs n
  have frames (n : Nat) : ((s.onPillar p' f).pillar n).frames = (s.pillar n).frames :=
    onPillar_keeps s p' Pillar.frames hf n
  have flags (n : Nat) : ((s.onPillar p' f).pillar n).flags = (s.pillar n).flags := onPillar_keeps s p' Pillar.flags hk n
  unfold State.uncommanded State.seq State.frame
  simp only [seqs, frames, flags]
  rfl

/-- A change of a sequencer's records and what belongs to them. -/
theorem onSeq_uncommanded {f : Seq → Seq} (hf : ∀ x, (f x).program = x.program) :
    (s.onSeq p q f).uncommanded p view = s.uncommanded p view :=
  onPillar_uncommanded s p view (fun _ => getD_upd_keeps Seq.program _ _ _ _ (hf _)) fun _ => rfl

@[simp] theorem sourced_uncommanded (srcs : List (BitVec 5)) :
    (s.sourced srcs).uncommanded p view = s.uncommanded p view := by
  rcases sourced_cases s srcs with h | h <;> rw [h]
  rcases popMq_cases s with h | ⟨v, st, rest, _, _, h⟩ <;> rw [h]
  exact onPillar_aside_uncommanded s p view s.cur.p (f := fun P => { P with mq := rest }) (fun _ => rfl) (fun _ => rfl)
    fun _ => rfl

theorem foldl_uncommanded {β : Type} {f : State → β → State}
    (hf : ∀ s b, (f s b).uncommanded p view = s.uncommanded p view) (l : List β) :
    (l.foldl f s).uncommanded p view = s.uncommanded p view := by
  induction l generalizing s with
  | nil => rfl
  | cons b l ih => rw [List.foldl_cons, ih, hf]

/-! ### Events, frames and flags -/

@[simp] theorem wakeSeq_uncommanded : (s.wakeSeq p q).uncommanded p view = s.uncommanded p view :=
  onSeq_uncommanded s p q view fun _ => rfl

@[simp] theorem wake_uncommanded : (s.wake p).uncommanded p view = s.uncommanded p view := by
  rw [State.wake, wakeSeq_uncommanded, wakeSeq_uncommanded]

theorem onFrame_uncommanded (f : Nat) {g : Frame → Frame} (hg : ∀ F, view (g F) = view F) :
    (s.onFrame p f g).uncommanded p view = s.uncommanded p view := by
  have hplace : (s.onPillar p fun P => { P with frames := upd P.frames f fun _ => g (s.frame p f) }).uncommanded p view =
      s.uncommanded p view :=
    onPillar_uncommanded s p view (fun _ => rfl) fun _ => getD_upd_keeps view _ _ _ _ (hg _)
  unfold State.onFrame
  dsimp only
  split
  · exact hplace
  · rw [wake_uncommanded, hplace]

@[simp] theorem takeRole_uncommanded (f : Nat) :
    (s.onFrame p f Frame.takeRole).uncommanded p Frame.data = s.uncommanded p Frame.data :=
  onFrame_uncommanded s p Frame.data f fun _ => rfl

@[simp] theorem setFlag_uncommanded (k : Nat) (v : W32) :
    (s.setFlag p k v).uncommanded p view = s.uncommanded p view := by
  rw [State.setFlag, wake_uncommanded]
  exact onPillar_uncommanded s p view (fun _ => rfl) fun _ => rfl

/-! ### Records -/

@[simp] theorem onRec_uncommanded (f : Rec → Rec) : (s.onRec p q i f).uncommanded p view = s.uncommanded p view :=
  onSeq_uncommanded s p q view fun _ => rfl

@[simp] theorem faultRec_uncommanded (c : Nat) (v : W64) :
    (s.faultRec p q i c v).uncommanded p view = s.uncommanded p view := by
  rw [State.faultRec, wakeSeq_uncommanded, onRec_uncommanded]

@[simp] theorem dropRec_uncommanded : (s.dropRec p q i).uncommanded p view = s.uncommanded p view :=
  onSeq_uncommanded s p q view fun x => by simp [Seq.program, Seq.dropRec, Function.comp_def]

@[simp] theorem serveTray_uncommanded (t : Nat) : (s.serveTray p t).uncommanded p view = s.uncommanded p view := by
  unfold State.serveTray
  dsimp only
  rw [foldl_uncommanded _ p view fun s qr => onRec_uncommanded s p _ _ view _]
  exact onPillar_uncommanded s p view (fun _ => rfl) fun _ => rfl

/-- A record formed by the current syllable (R160). -/
@[simp] theorem formRec_uncommanded (a b : W64) (op : Op) :
    (s.formRec a b op).uncommanded s.cur.p view = s.uncommanded s.cur.p view :=
  onSeq_uncommanded s s.cur.p s.cur.q view fun _ => rfl

/-! ### Engine commands -/

@[simp] theorem onEngine_uncommanded (f : EngineOp → EngineOp) :
    (s.onEngine p q i f).uncommanded p view = s.uncommanded p view := onRec_uncommanded s p q i view _

theorem startEngine_uncommanded (e : EngineOp) :
    (s.startEngine p q i e).uncommanded p Frame.data = s.uncommanded p Frame.data := by
  unfold State.startEngine
  dsimp only
  split_ifs <;> simp

theorem admitEngine_uncommanded (e : EngineOp) :
    (s.admitEngine p q i e).uncommanded p Frame.data = s.uncommanded p Frame.data := by
  unfold State.admitEngine State.engineCheck
  split_ifs
  · exact faultRec_uncommanded { s with nonce := s.nonce + 1 } p q i Frame.data _ _
  · exact faultRec_uncommanded s p q i Frame.data _ _
  · cases (s.roleFault p e).or (s.placeFault p e) with
    | none => exact startEngine_uncommanded s p q i e
    | some f => exact faultRec_uncommanded s p q i Frame.data _ _

/-- A view that shows nothing of a frame: a cancelled command may leave its frame empty (R327). -/
def frameUnseen (_ : Frame) : Unit := ()

@[simp] theorem onFrame_unseen (f : Nat) (g : Frame → Frame) :
    (s.onFrame p f g).uncommanded p frameUnseen = s.uncommanded p frameUnseen :=
  onFrame_uncommanded s p frameUnseen f fun _ => rfl

@[simp] theorem clearFrame_unseen (f : Nat) :
    (s.clearFrame p f).uncommanded p frameUnseen = s.uncommanded p frameUnseen :=
  (onPillar_aside_uncommanded (s.onFrame p f fun _ => Frame.cleared) p frameUnseen p (fun _ => by rfl) (fun _ => by rfl)
    fun _ => by rfl).trans (onFrame_unseen s p f _)

theorem cancelEngine_unseen (e : EngineOp) :
    (s.cancelEngine p e).uncommanded p frameUnseen = s.uncommanded p frameUnseen := by
  unfold State.cancelEngine
  cases e.written <;> dsimp only <;> split_ifs <;> simp

theorem cancelRec_unseen {r : Rec} {e : EngineOp} (hr : r.op = .engine e) :
    (s.cancelRec p q r).uncommanded p frameUnseen = s.uncommanded p frameUnseen := by
  unfold State.cancelRec
  rw [hr]
  exact (dropRec_uncommanded _ p q r.idx frameUnseen).trans (cancelEngine_unseen s p e)

/-! ### Cube items -/

/-- Of a tile, an item changes its busy and park bits and its progress alone (R97, R304). -/
theorem onAcc_uncommanded (a : Nat) {f : Acc → Acc}
    (hf : ∀ x, { f x with busy := false, park := false, prog := 0, nw := 0 } =
      { x with busy := false, park := false, prog := 0, nw := 0 }) :
    (s.onAcc p q a f).uncommanded p view = s.uncommanded p view := by
  refine onSeq_uncommanded s p q view fun x => ?_
  have haccs : (upd x.accs a f).map (fun a => ({ a with busy := false, park := false, prog := 0, nw := 0 } : Acc)) =
      x.accs.map fun a => { a with busy := false, park := false, prog := 0, nw := 0 } :=
    List.ext_getElem? fun n => by
      rw [List.getElem?_map, List.getElem?_map, upd_getElem?]
      split
      · cases x.accs[n]? with
        | none => rfl
        | some y => exact congrArg some (hf y)
      · rfl
  unfold Seq.program
  dsimp only
  rw [haccs]

@[simp] theorem enqueueCube_uncommanded (a b : W64) (work : Nat) (kind : Nat → CubeKind) :
    (s.enqueueCube a b work kind).uncommanded s.cur.p view = s.uncommanded s.cur.p view :=
  (onPillar_aside_uncommanded (s.formRec a b .cube) s.cur.p view s.cur.p (fun _ => by rfl) (fun _ => by rfl)
    fun _ => by rfl).trans (formRec_uncommanded s view a b .cube)

theorem acceptOp_uncommanded (acc : Nat) (mask : BitVec 4) (geo : W64) (fmt : W32) (src : ASource) (opa ctl : W64)
    (xc east : Bool) : (s.acceptOp acc mask geo fmt src opa ctl xc east).uncommanded s.cur.p Frame.data =
      s.uncommanded s.cur.p Frame.data := by
  have taken (u : State) (n : Nat) (kind : Nat → CubeKind) (hu : u.cur = s.cur) :
      ((u.onAcc s.cur.p s.cur.q acc fun a => { a with busy := true, prog := 0, park := false, nw := n }).enqueueCube
        opa ctl 0 kind).uncommanded s.cur.p Frame.data = u.uncommanded s.cur.p Frame.data := by
    have h := enqueueCube_uncommanded
      (u.onAcc s.cur.p s.cur.q acc fun a => { a with busy := true, prog := 0, park := false, nw := n }) Frame.data
      opa ctl 0 kind
    rw [State.onAcc, onSeq_cur, hu, ← State.onAcc] at h
    rw [h]
    exact onAcc_uncommanded u s.cur.p s.cur.q Frame.data acc fun _ => rfl
  unfold State.acceptOp
  cases src with
  | frame f off stride =>
    dsimp only
    rw [onFrame_cur, taken _ _ _ (onFrame_cur _ _ _ _), takeRole_uncommanded]
  | _ => exact taken s _ _ rfl
end

end Sys2Proof.Machine
end

section
/-! PROOFS. The frames of the flow, cube, engine and synchronisation syllables (O55), syllable by syllable. -/

namespace Sys2Proof.Machine

/-! ### What the frame says -/

section
variable {α : Type} {view : Frame → α} {s t : State}
  (h : t.uncommanded s.cur.p view = s.uncommanded s.cur.p view)
include h

theorem uncommanded_quiet : t.mem = s.mem ∧ t.poison = s.poison ∧ t.stks = s.stks ∧ t.launches = s.launches ∧
    ∀ p, p ≠ s.cur.p → (t.pillar p).seqs = (s.pillar p).seqs ∧ (t.pillar p).frames = (s.pillar p).frames ∧
      (t.pillar p).flags = (s.pillar p).flags := by
  refine ⟨(congrArg Uncommanded.mem h :), (congrArg Uncommanded.poison h :), (congrArg Uncommanded.stks h :),
    (congrArg Uncommanded.launches h :), fun p hp => ?_⟩
  have hothers := congrFun (congrArg Uncommanded.others h) p
  simp only [State.uncommanded, if_neg hp] at hothers
  injection hothers with hothers
  injection hothers with hseqs hrest
  injection hrest with hframes hflags
  exact ⟨hseqs, hframes, hflags⟩

theorem uncommanded_place : t.cur.p = s.cur.p ∧ t.cur.q = s.cur.q := by
  have hplace : (t.cur.p, t.cur.q) = (s.cur.p, s.cur.q) := congrArg Uncommanded.place h
  injection hplace with hp hq
  exact ⟨hp, hq⟩

theorem uncommanded_programs (q : Nat) : (t.seq s.cur.p q).program = (s.seq s.cur.p q).program :=
  congrFun (congrArg Uncommanded.programs h) q

theorem uncommanded_me : t.me.program = s.me.program := by
  obtain ⟨hp, hq⟩ := uncommanded_place h
  rw [State.me, hp, hq]
  exact uncommanded_programs h s.cur.q

theorem uncommanded_frames (k : Nat) : view (t.myFrame k) = view (s.myFrame k) := by
  rw [State.myFrame, (uncommanded_place h).1]
  exact congrFun (congrArg Uncommanded.frames h) k
end

/-- A state that a syllable goes on to with the frame of a command, unless it raises a cause. -/
def State.commands {α : Type} (view : Frame → α) (s t : State) : Prop :=
  t.cur.trap = none → t.uncommanded s.cur.p view = s.uncommanded s.cur.p view

section
variable {α : Type} {view : Frame → α} {s t u : State} {g : Guard} {srcs : List (BitVec 5)} {k : State → State}

theorem raise_commands (s u : State) (r : Raise) : s.commands view (u.raise r) := fun h => nomatch h

theorem commands_of_eq (h : t.uncommanded s.cur.p view = s.uncommanded s.cur.p view) : s.commands view t := fun _ => h

theorem guarded_commands (h : s.guarded g srcs k = .next t) (hk : ∀ u : State, u.commands view (k u)) :
    s.commands view t := by
  rcases guarded_cases h with rfl | ⟨_, rfl⟩
  · exact commands_of_eq rfl
  · intro ht
    have hu := hk (s.sourced srcs) ht
    rw [sourced_cur_p] at hu
    exact hu.trans (sourced_uncommanded s s.cur.p view srcs)

theorem guarded_commands_of_eq (h : s.guarded g srcs k = .next t)
    (hk : ∀ u : State, (k u).uncommanded u.cur.p view = u.uncommanded u.cur.p view) : s.commands view t :=
  guarded_commands h fun u => commands_of_eq (hk u)

theorem gangSafe_commands (h : s.gangSafe g srcs k = .next t) (hk : ∀ u : State, u.commands view (k u)) :
    s.commands view t :=
  guarded_commands h fun u => by
    split
    · exact hk u
    · exact raise_commands u u _

/-! ### The C slot -/

theorem operate_commands (u : State) (acc : BitVec 3) (form : AForm) (b : BitVec 5) (l : BitVec 4) (xc east : BitVec 1)
    (byLoop : Bool) : u.commands Frame.data (u.operate acc form b l xc east byLoop) := by
  have go (src : ASource) (geo : W64) (fmt : W32) (opa : W64) : u.commands Frame.data
      (u.acceptOp acc.toNat l geo fmt src opa (u.src b) (xc = 1) (east = 1)) :=
    commands_of_eq (acceptOp_uncommanded u _ _ _ _ _ _ _ _ _)
  unfold State.operate
  dsimp only
  split
  · exact raise_commands u u _
  cases form with
  | frame a =>
    dsimp only
    split_ifs
    · exact raise_commands u u _
    · exact raise_commands u u _
    · exact raise_commands u u _
    · exact raise_commands u u _
    · exact go _ _ _ _
  | hold | chain | handle =>
    dsimp only
    split
    · exact go _ _ _ _
    · exact raise_commands u u _

theorem cubeSyllable_commands {acc : BitVec 3} {form : AForm} {b : BitVec 5} {l : BitVec 4} {xc east : BitVec 1}
    {byLoop : Bool} (h : s.cubeSyllable g acc form b l xc east byLoop = .next t) : s.commands Frame.data t := by
  unfold State.cubeSyllable at h
  dsimp only at h
  split at h
  · injection h with h
    exact h ▸ raise_commands s s _
  · exact guarded_commands h fun u => operate_commands u _ _ _ _ _ _ _

theorem cbld_commands {sl : BitVec 5} {l : BitVec 4} {a b : BitVec 5} (h : execCbld g sl l a b s = .next t) :
    s.commands Frame.data t :=
  guarded_commands h fun u => by
    dsimp only
    split_ifs
    · exact raise_commands u u _
    · exact raise_commands u u _
    · exact commands_of_eq (enqueueCube_uncommanded u _ _ _ _ _)

theorem cbldf_commands {sl : BitVec 5} {l : BitVec 4} {a b : BitVec 5} (h : execCbldf g sl l a b s = .next t) :
    s.commands Frame.data t :=
  guarded_commands h fun u => by
    dsimp only
    split_ifs
    · exact raise_commands u u _
    · exact raise_commands u u _
    · exact raise_commands u u _
    · exact raise_commands u u _
    · exact raise_commands u u _
    · exact raise_commands u u _
    · exact commands_of_eq (enqueueCube_uncommanded u _ _ _ _ _)

theorem czero_commands {c : BitVec 3} {x : BitVec 1} (h : execCzero g c x s = .next t) : s.commands Frame.data t :=
  guarded_commands_of_eq h fun u => (enqueueCube_uncommanded (u.onAcc u.cur.p u.cur.q c.toNat _) _ _ _ _ _).trans
    (onAcc_uncommanded u u.cur.p u.cur.q _ _ fun _ => rfl)

/-! ### The Y slot -/

theorem command_commands {kind : EngineKind} {f : BitVec 6} {a b : BitVec 5} {lu fl : BitVec 1}
    (h : s.command kind g f a b lu fl = .next t) : s.commands Frame.data t :=
  guarded_commands_of_eq h fun u => by
    dsimp only
    split
    · exact (admitEngine_uncommanded _ u.cur.p u.cur.q _ _).trans
        ((onSeq_uncommanded _ u.cur.p u.cur.q _ fun _ => by rfl).trans (formRec_uncommanded u _ _ _ _))
    · exact (admitEngine_uncommanded _ u.cur.p u.cur.q _ _).trans (formRec_uncommanded u _ _ _ _)

theorem changeFlag_uncommanded (u : State) (n : Nat) (set : Bool) (v : W32) :
    (u.changeFlag n set v).uncommanded u.cur.p view = u.uncommanded u.cur.p view := by
  unfold State.changeFlag State.applyChange State.addFlag
  dsimp only
  split_ifs
  · exact setFlag_uncommanded u u.cur.p view _ _
  · exact setFlag_uncommanded u u.cur.p view _ _
  · exact onSeq_uncommanded u u.cur.p u.cur.q view fun _ => rfl

theorem kpostr_commands {x a b : BitVec 5} {sc : BitVec 3} (h : execKpostr g x a b sc s = .next t) :
    s.commands view t :=
  gangSafe_commands h fun u => by
    dsimp only
    split
    · exact raise_commands u u _
    · exact commands_of_eq rfl

theorem msend_commands {a b : BitVec 5} {sc : BitVec 3} (h : execMsend g a b sc s = .next t) : s.commands view t :=
  guarded_commands h fun u => by
    dsimp only
    split
    · exact raise_commands u u _
    · exact commands_of_eq ((formRec_uncommanded (u.onPillar _ _) view _ _ _).trans
        (onPillar_aside_uncommanded u u.cur.p view _ (fun _ => rfl) (fun _ => rfl) fun _ => rfl))

theorem dsync_commands {l : BitVec 3} (h : execDsync g l s = .next t) : s.commands view t :=
  gangSafe_commands h fun u => commands_of_eq
    ((onSeq_uncommanded _ u.cur.p u.cur.q view fun _ => by rfl).trans (formRec_uncommanded u view _ _ _))

/-- A DEFER's items change the tray alone (R325). -/
theorem deferTo_eq {P Q : Pillar} {tray : Nat} {items : List (List W32)} (h : P.deferTo tray items = some Q) :
    Q = { P with trays := upd P.trays tray (· ++ items) } := by
  unfold Pillar.deferTo at h
  split at h
  · cases h
  · injection h with h
    exact h.symm

theorem defer_commands {v : BitVec 5} {c m : BitVec 3} {y : BitVec 2} (h : execDefer g v c m y s = .next t) :
    s.commands view t :=
  guarded_commands_of_eq h fun u => by
    dsimp only
    split
    next P hP =>
      obtain rfl := deferTo_eq hP
      exact (serveTray_uncommanded _ u.cur.p view _).trans ((wakeSeq_uncommanded _ u.cur.p u.cur.q view).trans
        (onPillar_uncommanded u u.cur.p view (fun _ => rfl) fun _ => rfl))
    · exact (faultRec_uncommanded _ u.cur.p u.cur.q _ view _ _).trans (formRec_uncommanded u view _ _ _)

theorem drain_commands {v : BitVec 5} {c m : BitVec 3} {y : BitVec 2} (h : execDrain g v c m y s = .next t) :
    s.commands view t :=
  guarded_commands_of_eq h fun u => (serveTray_uncommanded _ u.cur.p view _).trans
    ((onPillar_aside_uncommanded _ u.cur.p view u.cur.p (fun _ => by rfl) (fun _ => by rfl) fun _ => by rfl).trans
      (formRec_uncommanded u view _ _ _))

theorem foldl_cancelRec_unseen {l : List Rec} (hl : ∀ r ∈ l, ∃ e, r.op = .engine e) (v : State) :
    (l.foldl (fun s r => s.cancelRec s.cur.p s.cur.q r) v).uncommanded v.cur.p frameUnseen =
      v.uncommanded v.cur.p frameUnseen := by
  induction l generalizing v with
  | nil => rfl
  | cons r l ih =>
    obtain ⟨e, he⟩ := hl r List.mem_cons_self
    have hr := cancelRec_unseen v v.cur.p v.cur.q he
    have hl' := ih (fun r hr => hl r (List.mem_cons_of_mem _ hr)) (v.cancelRec v.cur.p v.cur.q r)
    rw [(uncommanded_place hr).1] at hl'
    exact hl'.trans hr

/-- The commands cancelled are engine commands (R326). -/
theorem cancelCommands_unseen (u : State) (sel : EngineOp → Bool) :
    (u.cancelCommands sel).uncommanded u.cur.p frameUnseen = u.uncommanded u.cur.p frameUnseen := by
  refine foldl_cancelRec_unseen (fun r hr => ?_) u
  have hsel := (List.mem_filter.1 hr).2
  cases hop : r.op with
  | engine e => exact ⟨e, rfl⟩
  | _ => rw [hop] at hsel; cases hsel

theorem ecancelF_commands {a : BitVec 5} (h : execEcancelF g a s = .next t) : s.commands frameUnseen t :=
  guarded_commands h fun u => by
    dsimp only
    split
    · exact raise_commands u u _
    · exact commands_of_eq (cancelCommands_unseen u _)
end

end Sys2Proof.Machine
end

section
/-! PROOFS. O55 from the frames above. -/

namespace Sys2Proof.Machine

/-- Settles O55: a flow syllable flows, a cube, engine or synchronisation syllable commands, an ECANCEL with the frames it
gives up unseen. -/
theorem flowAndCommandFrames : Obligations.FlowAndCommandFrames := by
  unfold Obligations.FlowAndCommandFrames
  intro s t i g hg _ h ht
  have flow (hf : s.flows t) : s.sameOutside t ∧ s.samePillar t ∧ { t.me.settled with
      pc := s.me.pc, delay := s.me.delay, loops := s.me.loops, run := s.me.run, latch := s.me.latch
      regions := s.me.regions } = s.me.settled := by
    obtain ⟨_, _, houtside, hpillar, hme⟩ := hf
    exact ⟨houtside, hpillar, settled_but_flow hme⟩
  have command (hc : s.commands Frame.data t) := And.intro (uncommanded_quiet (hc ht))
    (And.intro (uncommanded_frames (hc ht)) (And.intro (uncommanded_me (hc ht)) (uncommanded_programs (hc ht))))
  have cancel (hc : s.commands frameUnseen t) := And.intro (uncommanded_quiet (hc ht))
    (And.intro (uncommanded_me (hc ht)) (uncommanded_programs (hc ht)))
  cases i with
  | br | bri =>
    dsimp only [exec] at h
    exact flow (guarded_flows h ht fun u _ => branchTo_flows u _)
  | call =>
    dsimp only [exec] at h
    exact flow (guarded_flows h ht fun u _ => flows_trans (branchTo_flows u _)
      (flows_of_adds (result_adds _ _ _ Nat.one_pos)))
  | calli =>
    dsimp only [exec] at h
    exact flow (guarded_flows h ht fun u _ => flows_trans (branchTo_flows u _)
      (flows_of_adds (toDest_adds _ _ _ _ Nat.one_pos)))
  | loop | loopi =>
    dsimp only [exec] at h
    exact flow (enterLoop_flows h ht)
  | lbreak =>
    dsimp only [exec] at h
    exact flow (lbreak_flows h ht)
  | pmark => exact flow (flows_of_adds (pmark_adds _ h))
  | cropen =>
    dsimp only [exec] at h
    exact flow (cropen_flows h ht)
  | crclose | waitev =>
    dsimp only [exec] at h
    exact flow (guarded_flows h ht fun u _ => onMe_flows u fun _ => rfl)
  | halt =>
    dsimp only [exec] at h
    exact flow (halt_flows h ht)
  | chkerr =>
    dsimp only [exec] at h
    exact flow (chkerr_flows h ht)
  | copyin | copyout | gather | scatter | atomg =>
    dsimp only [exec] at h
    exact command (command_commands h)
  | cbld =>
    dsimp only [exec] at h
    exact command (cbld_commands h)
  | cbldf =>
    dsimp only [exec] at h
    exact command (cbldf_commands h)
  | cmma | cmmat | cmmah | cchain =>
    dsimp only [exec] at h
    exact command (cubeSyllable_commands h)
  | czero =>
    dsimp only [exec] at h
    exact command (czero_commands h)
  | cabort =>
    dsimp only [exec] at h
    exact command (guarded_commands_of_eq h fun u => onSeq_uncommanded u u.cur.p u.cur.q _ fun _ => rfl)
  | cbnd =>
    dsimp only [exec] at h
    exact command (guarded_commands_of_eq h fun u => enqueueCube_uncommanded u _ _ _ _ _)
  | kpost | kset =>
    dsimp only [exec] at h
    exact command (gangSafe_commands h fun u => commands_of_eq (changeFlag_uncommanded u _ _ _))
  | kpostr =>
    dsimp only [exec] at h
    exact command (kpostr_commands h)
  | msend =>
    dsimp only [exec] at h
    exact command (msend_commands h)
  | defer =>
    dsimp only [exec] at h
    exact command (defer_commands h)
  | drain =>
    dsimp only [exec] at h
    exact command (drain_commands h)
  | jraise | jpost =>
    dsimp only [exec] at h
    exact command (guarded_commands_of_eq h fun u => formRec_uncommanded u _ _ _ _)
  | dsync =>
    dsimp only [exec] at h
    exact command (dsync_commands h)
  | ecancel | ecancelK =>
    dsimp only [exec] at h
    exact cancel (guarded_commands_of_eq h fun u => cancelCommands_unseen u _)
  | ecancelF =>
    dsimp only [exec] at h
    exact cancel (ecancelF_commands h)
  | _ => trivial

end Sys2Proof.Machine
end

section
/-! PROOFS. Changes of one place (O38): two that give the same there, one that gives what stood there, and what a chain
of changes keeps. -/

namespace Sys2Proof.Machine

section
variable {s : State} {p q k : Nat}

theorem onPillar_congr {f g : Pillar → Pillar} (h : f (s.pillar p) = g (s.pillar p)) : s.onPillar p f = s.onPillar p g :=
  congrArg (fun l => ({ s with pillars := l } : State)) (upd_congr Pillar.reset h)

theorem onPillar_unchanged {f : Pillar → Pillar} (h : f (s.pillar p) = s.pillar p) : s.onPillar p f = s :=
  (onPillar_congr (g := fun P => P) h).trans (congrArg (fun l => ({ s with pillars := l } : State)) (upd_id _ _))

theorem onSeq_unchanged {f : Seq → Seq} (h : f (s.seq p q) = s.seq p q) : s.onSeq p q f = s :=
  (onSeq_congr (g := fun x => x) h).trans
    (onPillar_unchanged (congrArg (fun l => ({ s.pillar p with seqs := l } : Pillar)) (upd_id _ _)))

theorem onSeq_onSeq (s : State) (p q : Nat) (f g : Seq → Seq) :
    (s.onSeq p q f).onSeq p q g = s.onSeq p q fun x => g (f x) := by
  simp only [State.onSeq, State.onPillar, upd_upd]

/-- A sequencer the package does not have. -/
theorem onSeq_absent {f : Seq → Seq} (h : ¬ (p < s.pillars.length ∧ q < (s.pillar p).seqs.length)) :
    s.onSeq p q f = s := by
  by_cases hp : p < s.pillars.length
  · exact onPillar_unchanged (congrArg (fun l => ({ s.pillar p with seqs := l } : Pillar))
      (upd_of_length_le _ _ _ (Nat.not_lt.1 fun hq => h ⟨hp, hq⟩)))
  · exact congrArg (fun l => ({ s with pillars := l } : State)) (upd_of_length_le _ _ _ (Nat.not_lt.1 hp))

theorem onFrame_congr {g h : Frame → Frame} (e : g (s.frame p k) = h (s.frame p k)) : s.onFrame p k g = s.onFrame p k h := by
  unfold State.onFrame
  dsimp only
  rw [e]

theorem onFrame_unchanged {g : Frame → Frame} (h : g (s.frame p k) = s.frame p k) : s.onFrame p k g = s := by
  unfold State.onFrame
  dsimp only
  rw [h, if_pos ⟨rfl, rfl⟩]
  refine onPillar_unchanged (congrArg (fun l => ({ s.pillar p with frames := l } : Pillar)) ?_)
  exact (upd_const _ _ (fun F => F) Frame.cleared).symm.trans (upd_id _ _)

theorem onStack_congr {st : Nat} {f g : Stack → Stack} (h : f (s.stack st) = g (s.stack st)) :
    s.onStack st f = s.onStack st g :=
  congrArg (fun l => ({ s with stks := l } : State)) (upd_congr Stack.reset h)

theorem onStack_keeps {α : Type} (s : State) (st : Nat) (π : Stack → α) {f : Stack → Stack} (hf : ∀ k, π (f k) = π k)
    (st' : Nat) : π ((s.onStack st f).stack st') = π (s.stack st') :=
  getD_upd_keeps π _ _ _ _ (hf _)

theorem foldl_keeps {α β : Type} (π : State → β) {f : State → α → State} (hf : ∀ s a, π (f s a) = π s) (l : List α)
    (s : State) : π (l.foldl f s) = π s := by
  induction l generalizing s with
  | nil => rfl
  | cons a l ih => rw [List.foldl_cons, ih, hf]

theorem settle_keeps {α : Type} (s : State) (p q : Nat) (π : Seq → α) (hπ : ∀ x l, π { x with accs := l } = π x)
    (p' q' : Nat) : π ((s.settle p q).seq p' q') = π (s.seq p' q') :=
  onSeq_keeps s p q π (fun x => hπ x _) p' q'
end

end Sys2Proof.Machine
end

section
/-! PROOFS. Results landing and lines filled (O38, R91, R152, R157, R400). -/

namespace Sys2Proof.Machine

/-! ### Results landing -/

/-- What writes a tile of a sequencer, as it stands and with the items of the cube's queue given (R157). -/
def Seq.tileWritten (x : Seq) (q : Nat) (cube : List CubeItem) (a : Nat) : Bool :=
  x.accInFlight a || cube.any fun c => c.q = q && c.kind.writes? = some a

theorem accInFlight_iff (x : Seq) (a : Nat) : x.accInFlight a = true ↔
    ∃ l ∈ x.inflight ++ x.userBank.entries ++ x.supBank.entries,
      (∃ v m, l.what = .acc a v m) ∨ ∃ vs, l.what = .side a vs := by
  rw [Seq.accInFlight, List.any_eq_true]
  refine exists_congr fun l => and_congr_right fun _ => ?_
  cases l.what <;> simp

theorem writes_iff (k : CubeKind) (a : Nat) : k.writes? = some a ↔
    (∃ b, k = .zero a b) ∨ ∃ o, k = .op o ∧ o.acc = a := by
  cases k <;> simp [CubeKind.writes?]

theorem tileWritten_iff (x : Seq) (q : Nat) (cube : List CubeItem) (a : Nat) : x.tileWritten q cube a = true ↔
    (∃ l ∈ x.inflight ++ x.userBank.entries ++ x.supBank.entries,
      (∃ v m, l.what = .acc a v m) ∨ ∃ vs, l.what = .side a vs) ∨
    ∃ c ∈ cube, c.q = q ∧ ((∃ b, c.kind = .zero a b) ∨ ∃ o, c.kind = .op o ∧ o.acc = a) := by
  rw [Seq.tileWritten, Bool.or_eq_true, accInFlight_iff, List.any_eq_true]
  simp only [Bool.and_eq_true, decide_eq_true_eq, writes_iff]

/-- A change of a sequencer that its busy bits settle after. -/
theorem onSeq_settle (s : State) (p q : Nat) (f : Seq → Seq) : (s.onSeq p q f).settle p q = s.onSeq p q fun _ =>
    (f (s.seq p q)).unbusied ((f (s.seq p q)).tileWritten q (s.pillar p).cube) := by
  by_cases h : p < s.pillars.length ∧ q < (s.pillar p).seqs.length
  · have hseq : (s.onSeq p q f).seq p q = f (s.seq p q) := onSeq_self s p q f h.1 h.2
    have hcube : ((s.onSeq p q f).pillar p).cube = (s.pillar p).cube :=
      onPillar_keeps s p Pillar.cube (fun _ => by rfl) p
    have hwritten : (s.onSeq p q f).accWritten p q = (f (s.seq p q)).tileWritten q (s.pillar p).cube := funext fun a => by
      rw [State.accWritten, hseq, hcube, Seq.tileWritten]
    rw [State.settle, hwritten, onSeq_onSeq]
    exact onSeq_congr rfl
  · have hsettle (u : State) (hu : u = s) : u.settle p q = s := by
      rw [hu]
      exact onSeq_absent h
    rw [hsettle _ (onSeq_absent h), onSeq_absent h]

theorem landNoted_ueDue (x : Seq) (t : Nat) (h : x.ueDue = []) : (x.landNoted t).ueDue = [] := by
  have hnone (ls : List Landing) : ls.foldl (fun es l => es.filterMap l.what.moves) ([] : List Failed) = [] := by
    induction ls with
    | nil => rfl
    | cons l ls ih => exact ih
  rw [Seq.landNoted, h]
  exact hnone _

/-! ### The instruction cache -/

/-- The last line of a set, if it holds one. -/
theorem foldl_lastOfSet (set : Nat) (ls : List ICLine) (b : Option ICLine) :
    let r := ls.foldl (fun b l => if l.line % 128 = set then some l else b) b
    (r = b ∧ ∀ l ∈ ls, l.line % 128 ≠ set) ∨ ∃ l ∈ ls, l.line % 128 = set ∧ r = some l := by
  induction ls generalizing b with
  | nil => exact .inl ⟨rfl, nofun⟩
  | cons x xs ih =>
    rcases ih (if x.line % 128 = set then some x else b) with ⟨hr, hnone⟩ | ⟨l, hl, hset, hr⟩
    · by_cases hx : x.line % 128 = set
      · rw [if_pos hx] at hr
        exact .inr ⟨x, List.mem_cons_self, hx, by rw [List.foldl_cons, if_pos hx, hr]⟩
      · rw [if_neg hx] at hr
        exact .inl ⟨by rw [List.foldl_cons, if_neg hx, hr], List.forall_mem_cons.2 ⟨hx, hnone⟩⟩
    · exact .inr ⟨l, List.mem_cons_of_mem _ hl, hset, hr⟩

theorem lastOfSet_none {ls : List ICLine} {set : Nat} (h : lastOfSet ls set = none) : ∀ l ∈ ls, l.line % 128 ≠ set := by
  rcases foldl_lastOfSet set ls none with ⟨_, hnone⟩ | ⟨l, _, _, hr⟩
  · exact hnone
  · exact nomatch h.symm.trans hr

theorem lastOfSet_some {ls : List ICLine} {set : Nat} {x : ICLine} (h : lastOfSet ls set = some x) :
    x ∈ ls ∧ x.line % 128 = set := by
  rcases foldl_lastOfSet set ls none with ⟨hr, _⟩ | ⟨l, hl, hset, hr⟩
  · exact nomatch h.symm.trans hr
  · obtain rfl := Option.some.inj (h.symm.trans hr)
    exact ⟨hl, hset⟩

/-- A line brought in stands in front of lines that the cache held. -/
theorem fillLine_eq (ls : List ICLine) (x : ICLine) : ∃ kept, fillLine ls x = x :: kept ∧ kept.Sublist ls := by
  unfold fillLine
  dsimp only
  split
  · split
    · exact ⟨_, rfl, List.filter_sublist.trans List.filter_sublist⟩
    · exact ⟨_, rfl, List.filter_sublist⟩
  · exact ⟨_, rfl, List.filter_sublist⟩

/-- A set keeps its four ways. -/
theorem fillLine_ways (ls : List ICLine) (x : ICLine)
    (h : (ls.filter fun l => l.line % 128 = x.line % 128).length ≤ 4) :
    ((fillLine ls x).filter fun l => l.line % 128 = x.line % 128).length ≤ 4 := by
  have hothers : ((ls.filter fun l => l.line ≠ x.line).filter fun l => l.line % 128 = x.line % 128).length ≤ 4 :=
    Nat.le_trans (List.Sublist.length_le (List.filter_sublist.filter _)) h
  unfold fillLine
  dsimp only
  generalize ls.filter (fun l => decide (l.line ≠ x.line)) = ks at hothers ⊢
  split
  next old hold =>
    obtain ⟨hmem, hset⟩ := lastOfSet_some hold
    split
    · have hless : ((ks.filter fun l => decide (l.line % 128 = x.line % 128)).filter
          fun l => decide (l.line ≠ old.line)).length < (ks.filter fun l => decide (l.line % 128 = x.line % 128)).length :=
        List.length_filter_lt_length_iff_exists.2 ⟨old, List.mem_filter.2 ⟨hmem, by simpa using hset⟩, by simp⟩
      rw [List.filter_filter] at hless
      rw [List.filter_cons_of_pos (by simp), List.length_cons, List.filter_filter]
      simp only [Bool.and_comm] at hless ⊢
      omega
    next hfree =>
      rw [List.filter_cons_of_pos (by simp), List.length_cons]
      simp only [Nat.not_le] at hfree
      omega
  next hnone =>
    have hempty : ks.filter (fun l => decide (l.line % 128 = x.line % 128)) = [] :=
      List.filter_eq_nil_iff.2 fun l hl => by simpa using lastOfSet_none hnone l hl
    rw [List.filter_cons_of_pos (by simp), List.length_cons, hempty]
    decide

theorem exec_icacheFill_ok {s t : State} {pa : Nat} {leaf : W64}
    (h : s.translate (stackOf s.who.p) (s.jobOf s.who.p s.who.q) ((s.seq s.who.p s.who.q).fetchAddress s.who.k) .fetch =
      (t, .ok pa leaf)) :
    exec .icacheFill s = .next (t.onPillar s.who.p fun P => { P with
      icache := fillLine P.icache ⟨s.who.k, lineWords (t.busRead (pa / 128 * 128) 128)⟩ }) := by
  show execIcacheFill s = _
  unfold execIcacheFill
  simp only [h]

end Sys2Proof.Machine
end

section
/-! PROOFS. The fade clock, renewal, injected and uncorrectable errors, and the end of an iteration (O38, R194, R253-R257,
R350-R364). -/

namespace Sys2Proof.Machine

/-! ### Expiry (R256, R257) -/

theorem fadeReached_iff (count expiry : BitVec 48) : fadeReached count expiry = true ↔ (count - expiry).toNat < 2 ^ 47 := by
  simp [fadeReached]

section
variable {s : State}

theorem exec_frameExpire_reached (hstate : (s.frame s.who.p s.who.k).state ≠ .empty)
    (hfade : ((s.pillar s.who.p).fadeCount - (s.frame s.who.p s.who.k).expiry).toNat < 2 ^ 47) :
    exec .frameExpire s = .next (s.onFrame s.who.p s.who.k fun F => { F with xp := true }) :=
  congrArg Host.Outcome.next (onFrame_congr (if_pos ⟨hstate, (fadeReached_iff _ _).2 hfade⟩))

theorem exec_frameExpire_early (h : (s.frame s.who.p s.who.k).state = .empty ∨
      2 ^ 47 ≤ ((s.pillar s.who.p).fadeCount - (s.frame s.who.p s.who.k).expiry).toNat) :
    exec .frameExpire s = .next s := by
  refine congrArg Host.Outcome.next (onFrame_unchanged (if_neg ?_))
  rintro ⟨hstate, hfade⟩
  rcases h with h | h
  · exact hstate h
  · exact absurd ((fadeReached_iff _ _).1 hfade) (Nat.not_lt.2 h)

theorem exec_renewalOverdue_idle (h : (s.pillar s.who.p).rewrite = none) : exec .renewalOverdue s = .next s := by
  show execRenewalOverdue s = _
  unfold execRenewalOverdue
  simp only [h]

theorem exec_renewalOverdue_under {f n : Nat} {start : BitVec 48} (h : (s.pillar s.who.p).rewrite = some (f, n, start)) :
    exec .renewalOverdue s = .next (
      if 819200 ≤ ((s.pillar s.who.p).fadeCount - start).toNat ∧
        ((s.pillar s.who.p).fadeCount - start).toNat < 819200 + (s.pillar s.who.p).fadeInc.toNat then
        s.onFrame s.who.p f fun F => { F with xp := true } else s) := by
  show execRenewalOverdue s = _
  unfold execRenewalOverdue
  simp only [h]

/-! ### The background renewer (R257, R392) -/

/-- The renewer takes a frame (R257): AUTO, READY or DRAINING, not expired, with under 900 ticks left. -/
def Frame.due (F : Frame) (count : BitVec 48) : Prop :=
  (F.state = .ready ∨ F.state = .draining) ∧ F.auto = true ∧ F.xp = false ∧ (F.expiry - count).toNat < 900 * 4096

theorem renewable_iff (F : Frame) (count : BitVec 48) : F.renewable count = true ↔ F.due count := by
  simp only [Frame.renewable, Frame.due, Frame.left, Bool.and_eq_true, Bool.or_eq_true, decide_eq_true_eq,
    Bool.not_eq_true', and_assoc]
  exact and_congr_right fun _ => and_congr_right fun _ => and_congr_right fun _ => decide_eq_true_iff

section
variable (hask : s.fnmode.getLsbD 2 = false) (hreqs : s.hkreqs = [])
include hask

theorem renewAsks_none (p : Nat) : s.renewAsks p = [] :=
  List.filter_eq_nil_iff.2 fun f _ => by
    have hoff : bit s.fnmode 2 = false := hask
    simp [hoff]

include hreqs

theorem mem_renewables (p f : Nat) : f ∈ s.renewables p ↔ f < 64 ∧ (s.frame p f).due (s.pillar p).fadeCount := by
  have hreq : s.renewReq p f = none := by rw [State.renewReq, hreqs]; rfl
  have hoff : bit s.fnmode 2 = false := hask
  rw [State.renewables, List.mem_filter, hreq, List.mem_range, hoff, Bool.and_eq_true, renewable_iff]
  exact and_congr_right fun _ => and_iff_left rfl

omit hask in
theorem hkreqs_unchanged : ({ s with hkreqs := [] } : State) = s := by rw [← hreqs]

/-! With nothing to ask of the host and nothing asked, the port renews. -/

theorem exec_backgroundRenew_spent (h : (s.pillar s.who.p).renewBudget = 0) : exec .backgroundRenew s = .next s := by
  show execBackgroundRenew s = _
  unfold execBackgroundRenew
  simp only [renewAsks_none hask, List.foldl_nil, hreqs, List.filter_nil, hkreqs_unchanged hreqs, h, if_true]

variable (hleft : (s.pillar s.who.p).renewBudget ≠ 0)
include hleft

theorem exec_backgroundRenew_rewrites {f n : Nat} {start : BitVec 48}
    (h : (s.pillar s.who.p).rewrite = some (f, n, start)) :
    exec .backgroundRenew s = .next (s.onPillar s.who.p fun P => { P with
      renewBudget := P.renewBudget - 1
      rewrite := if n ≤ 1 then none else some (f, n - 1, start) }) := by
  show execBackgroundRenew s = _
  unfold execBackgroundRenew
  simp only [renewAsks_none hask, List.foldl_nil, hreqs, List.filter_nil, hkreqs_unchanged hreqs, hleft, h, if_false]

variable (hidle : (s.pillar s.who.p).rewrite = none)
include hidle

theorem exec_backgroundRenew_none (h : s.nearest s.who.p (s.renewables s.who.p) = []) :
    exec .backgroundRenew s = .next s := by
  show execBackgroundRenew s = _
  unfold execBackgroundRenew
  simp only [renewAsks_none hask, List.foldl_nil, hreqs, List.filter_nil, hkreqs_unchanged hreqs, hleft, hidle, h,
    if_false]

theorem exec_backgroundRenew_one {f : Nat} (h : s.nearest s.who.p (s.renewables s.who.p) = [f]) :
    exec .backgroundRenew s = .next (s.startRenewal s.who.p f) := by
  show execBackgroundRenew s = _
  unfold execBackgroundRenew
  simp only [renewAsks_none hask, List.foldl_nil, hreqs, List.filter_nil, hkreqs_unchanged hreqs, hleft, hidle, h,
    if_false]
end

theorem startRenewal_unasked (hreqs : s.hkreqs = []) (p f : Nat) : s.startRenewal p f = (s.onFrame p f fun F =>
    { F with expiry := (s.pillar p).fadeCount + BitVec.ofNat 48 (F.life * 4096) }).onPillar p fun Q => { Q with
      renewBudget := Q.renewBudget - 1
      rewrite := if (s.frame p f).size ≤ 1 then none else some (f, (s.frame p f).size - 1, (s.pillar p).fadeCount) } := by
  have hreq (u : State) (hu : u.hkreqs = s.hkreqs) : u.renewReq p f = none := by rw [State.renewReq, hu, hreqs]; rfl
  unfold State.startRenewal
  dsimp only
  rw [hreq _ (by simp)]

/-- The one frame nearest its expiry. -/
theorem nearest_one {p f : Nat} {fs : List Nat} (hn : fs.Nodup) (hf : f ∈ fs)
    (h : ∀ g ∈ fs, g ≠ f → (s.frame p f).left (s.pillar p).fadeCount < (s.frame p g).left (s.pillar p).fadeCount) :
    s.nearest p fs = [f] := by
  refine List.perm_singleton.1 ((List.perm_ext_iff_of_nodup (hn.filter _) (List.nodup_singleton f)).2 fun g => ?_)
  rw [List.mem_filter, List.mem_singleton, List.all_eq_true]
  refine ⟨fun ⟨hg, hleast⟩ => ?_, ?_⟩
  · by_contra hne
    exact absurd (of_decide_eq_true (hleast f hf)) (Nat.not_le.2 (h g hg hne))
  · rintro rfl
    refine ⟨hf, fun g' hg' => decide_eq_true ?_⟩
    by_cases he : g' = g
    · rw [he]
    · exact Nat.le_of_lt (h g' hg' he)
end

/-! ### Uncorrectable errors (R356, R361) -/

/-- The members latch at the one TIME (R361). -/
theorem foldl_latchGang (n : Nat) (ms : List (Nat × Nat)) (u : State) :
    ms.foldl (fun v m => v.onSeq m.1 m.2 fun x => x.latchGang n v.time) u =
      ms.foldl (fun v m => v.onSeq m.1 m.2 fun x => x.latchGang n u.time) u := by
  induction ms generalizing u with
  | nil => rfl
  | cons m ms ih => exact ih (u.onSeq m.1 m.2 fun x => x.latchGang n u.time)

theorem latchGang_all (s : State) (id n : Nat) : s.latchGang id n (fun _ => false) (fun _ => false) =
    { (s.membersOf id).foldl (fun u m => u.onSeq m.1 m.2 fun x => x.latchGang n s.time) s with
        away := s.away.map fun a => if a.ofLaunch id then { a with seq := a.seq.latchGang n s.time } else a } := by
  have htime : ((s.membersOf id).foldl (fun u m => u.onSeq m.1 m.2 fun x => x.latchGang n s.time) s).time = s.time :=
    foldl_keeps State.time (fun _ _ => by rfl) _ s
  have haway : ((s.membersOf id).foldl (fun u m => u.onSeq m.1 m.2 fun x => x.latchGang n s.time) s).away = s.away :=
    foldl_keeps State.away (fun _ _ => by rfl) _ s
  unfold State.latchGang
  simp only [Bool.false_eq_true, if_false, Bool.not_false, Bool.and_true]
  rw [foldl_latchGang, htime, haway]

/-- What a UE does not change, beside the state it is in: the layers of each stack, and the event itself. -/
def State.besideUe (s : State) (st : Nat) : W64 × Who := ((s.stack st).layers, s.who)

theorem latchGang_besideUe (s : State) (id n : Nat) (but : Nat × Nat → Bool) (butAway : Away → Bool) (st : Nat) :
    (s.latchGang id n but butAway).besideUe st = s.besideUe st :=
  foldl_keeps (fun u => u.besideUe st) (fun u m => by split <;> rfl) (s.membersOf id) s

theorem failMember_besideUe (s : State) (p q st : Nat) : (s.failMember p q).besideUe st = s.besideUe st := by
  unfold State.failMember
  split
  · rfl
  · split
    · exact latchGang_besideUe _ _ _ _ _ st
    · rfl

theorem onStack_besideUe (s : State) (n : Nat) {f : Stack → Stack} (hf : ∀ k, (f k).layers = k.layers) (st : Nat) :
    (s.onStack n f).besideUe st = s.besideUe st :=
  congrArg (·, s.who) (onStack_keeps s n Stack.layers hf st)

/-- A request posted raises its vector in stack 0 (R393). -/
theorem hkPostOne_besideUe (s : State) (st : Nat) : s.hkPostOne.besideUe st = s.besideUe st := by
  unfold State.hkPostOne
  split
  · rfl
  · split
    · rfl
    · unfold State.besideUe State.stack
      dsimp only [State.onStack, State.writeMem]
      exact congrArg (·, s.who) (getD_upd_keeps Stack.layers s.stks 0 st Stack.reset rfl)

theorem hkPump_besideUe (s : State) (st : Nat) : s.hkPump.besideUe st = s.besideUe st := by
  unfold State.hkPump
  exact foldl_keeps (fun u : State => u.besideUe st) (fun u _ => hkPostOne_besideUe u st) (List.range s.hkreqs.length) s

theorem logError_besideUe (s : State) (n p f unit : Nat) (c : Bool) (word : W64) (st : Nat) :
    (s.logError n p f unit c word).besideUe st = s.besideUe st := by
  have hpost (u : State) (w : W64) :
      (if bit u.fnmode 3 then u.hkRequest (0, 0) w word 0 else u).besideUe st = u.besideUe st := by
    split
    · exact hkPump_besideUe _ st
    · rfl
  exact (hpost _ _).trans (onStack_besideUe s n (fun _ => by rfl) st)

theorem sufferUe_besideUe (s : State) (p : Nat) (word : W64) (st : Nat) :
    (s.sufferUe p word).besideUe st = s.besideUe st := by
  rw [State.sufferUe, failMember_besideUe, failMember_besideUe, logError_besideUe]

theorem sufferUe_who (s : State) (p : Nat) (word : W64) : (s.sufferUe p word).who = s.who :=
  congrArg Prod.snd (sufferUe_besideUe s p word 0)

theorem sufferUe_layers (s : State) (p : Nat) (word : W64) (st : Nat) :
    ((s.sufferUe p word).stack st).layers = (s.stack st).layers :=
  congrArg Prod.fst (sufferUe_besideUe s p word st)

section
variable {s : State}

theorem exec_ue_elsewhere (h : s.who.part ≠ 0) :
    exec .ue s = .next (s.latchGang s.who.l 1 (fun _ => false) fun _ => false) := by
  show execUe s = _
  exact if_pos h

variable (hpart : s.who.part = 0) (hup : s.who.up = false)
include hpart hup

theorem exec_ue_state (hunit : s.who.v % 16 ≠ 11) :
    exec .ue s = .next ((s.sufferUe s.who.p (BitVec.ofNat 64 s.who.v)).onSeq s.who.p s.who.q fun x =>
      { x with ueDue := x.ueDue ++ [⟨BitVec.ofNat 64 s.who.v, decide (s.who.k ≠ 0)⟩] }) := by
  have hlow : bits (BitVec.ofNat 64 s.who.v) 0 4 ≠ 11 := by
    rw [bits_low, BitVec.toNat_ofNat]
    omega
  show execUe s = _
  unfold execUe
  rw [if_neg (not_not.2 hpart)]
  dsimp only
  rw [if_neg hlow, sufferUe_who, hup]
  rfl

/-- A layer's datapath fails for good (R13). -/
theorem exec_ue_layer (hunit : s.who.v % 16 = 11)
    (hphys : bits (s.stack (stackOf s.who.p)).layers (4 + 3 * bits (BitVec.ofNat 64 s.who.v) 4 2) 3 < 5) :
    exec .ue s = .next (((s.sufferUe s.who.p (BitVec.ofNat 64 s.who.v)).onStack (stackOf s.who.p) fun k =>
      { k with lfail := k.lfail ||| BitVec.ofNat 5 (2 ^
        bits (s.stack (stackOf s.who.p)).layers (4 + 3 * bits (BitVec.ofNat 64 s.who.v) 4 2) 3) }).onSeq s.who.p s.who.q
          fun x => { x with ueDue := x.ueDue ++ [⟨BitVec.ofNat 64 s.who.v, decide (s.who.k ≠ 0)⟩] }) := by
  have hlow : bits (BitVec.ofNat 64 s.who.v) 0 4 = 11 := by
    rw [bits_low, BitVec.toNat_ofNat]
    omega
  show execUe s = _
  unfold execUe
  rw [if_neg (not_not.2 hpart)]
  dsimp only
  rw [if_pos hlow, onStack_who, sufferUe_who, hup]
  refine congrArg (fun u : State => Host.Outcome.next (u.onSeq s.who.p s.who.q fun x =>
    { x with ueDue := x.ueDue ++ [⟨BitVec.ofNat 64 s.who.v, decide (s.who.k ≠ 0)⟩] })) (onStack_congr ?_)
  rw [sufferUe_layers, if_pos hphys]
end

/-! ### The end of an iteration (R194, R350, R352) -/

section
variable (s : State) (p q : Nat)

theorem retire_user (hmode : (s.seq p q).mode = false) : s.retire p q =
    ((if (s.seq p q).chkint.getLsbD 0 then
      s.postEnd p q (fun j => j.pois (((s.seq p q).iter.map fun i => i.t).getD 0)) true
      else s.postEnd p q (fun j => j) false).freeSeq p q).checkLaunch
        (((s.seq p q).iter.map fun i => i.launch).getD 0) := by
  have hctx : (s.seq p q).contextMode = false := by rw [Seq.contextMode, hmode]; rfl
  unfold State.retire
  by_cases hpois : (s.seq p q).chkint.getLsbD 0 = true
  · simp only [hctx, hmode, bit, hpois, Bool.false_eq_true, if_false, if_true]
  · simp only [hctx, hmode, bit, Bool.eq_false_of_not_eq_true hpois, Bool.false_eq_true, if_false]

theorem retire_supervisor (hmode : (s.seq p q).mode = true) (hctx : (s.seq p q).contextMode = false) : s.retire p q =
    ((if (s.seq p q).chkint.getLsbD 0 then
      s.postEnd p q (fun j => ({ j with err := j.err ||| 16 } : Jcb).fail (bits (s.seq p q).ecause 0 8)
        (((s.seq p q).iter.map fun i => i.t).getD 0)) true
      else s.postEnd p q (fun j => j.fail (bits (s.seq p q).ecause 0 8)
        (((s.seq p q).iter.map fun i => i.t).getD 0)) true).freeSeq p q).checkLaunch
        (((s.seq p q).iter.map fun i => i.launch).getD 0) := by
  unfold State.retire
  by_cases hpois : (s.seq p q).chkint.getLsbD 0 = true
  · simp only [hctx, hmode, bit, hpois, Bool.false_eq_true, if_false, if_true]
    rfl
  · simp only [hctx, hmode, bit, Bool.eq_false_of_not_eq_true hpois, Bool.false_eq_true, if_false, if_true]

variable {s p q} (hp : p < s.pillars.length) (hq : q < (s.pillar p).seqs.length)
include hp hq

/-- What a freed sequencer holds (R71). -/
theorem freeSeq_seq : ((s.freeSeq p q).seq p q).run = .idle ∧ ((s.freeSeq p q).seq p q).iter = none ∧
    ((s.freeSeq p q).seq p q).recs = (s.seq p q).recs := by
  have hfree {α : Type} (π : Seq → α) (hπ : ∀ x l, π { x with accs := l } = π x) :=
    settle_keeps ((s.onSeq p q fun x => { x with
      run := .idle, iter := none, loops := [], regions := [], chkint := 0, delay := none, gang := [], heldSince := none
      wdog := false, poisonDue := false, fetchFault := none, userBank := Bank.empty
      supBank := Bank.empty }).disown 1 p fun o => o = (q, fetchOwner)) p q π hπ p q
  have hseq := onSeq_self s p q (fun x => { x with
      run := .idle, iter := none, loops := [], regions := [], chkint := 0, delay := none, gang := [], heldSince := none
      wdog := false, poisonDue := false, fetchFault := none, userBank := Bank.empty
      supBank := Bank.empty }) hp hq
  exact ⟨(hfree Seq.run fun _ _ => rfl).trans (congrArg Seq.run hseq :),
    (hfree Seq.iter fun _ _ => rfl).trans (congrArg Seq.iter hseq :),
    (hfree Seq.recs fun _ _ => rfl).trans (congrArg Seq.recs hseq :)⟩
end

end Sys2Proof.Machine
end

section
/-! PROOFS. What comes about in a pillar by itself: O38 from the lemmas above. -/

namespace Sys2Proof.Machine

section
variable {s : State}

theorem exec_errinj_acc (h : bits (s.pillar s.who.p).errinj 19 2 = 1) : exec .errinjApply s =
    .next ((s.onSeq s.who.p (bits (s.pillar s.who.p).errinj 18 1) fun x => { x with
      accs := upd x.accs (bits (s.pillar s.who.p).errinj 15 3) fun a => { a with
        elems := upd a.elems (64 * bits (s.pillar s.who.p).errinj 6 4 + bits (s.pillar s.who.p).errinj 0 6) fun e =>
          e ^^^ BitVec.ofNat 32 (2 ^ bits (s.pillar s.who.p).errinj 10 5) } }).onPillar s.who.p fun P =>
            { P with errinj := setBits P.errinj 21 1 0 }) := by
  show Host.Outcome.next (s.inject s.who.p) = _
  unfold State.inject
  simp only [h]

theorem exec_errinj_frame (h : bits (s.pillar s.who.p).errinj 19 2 = 2)
    (hstate : (s.frame s.who.p (bits (s.pillar s.who.p).errinj 22 6)).state ≠ .empty)
    (hoff : bits (s.pillar s.who.p).errinj 28 22 < (s.frame s.who.p (bits (s.pillar s.who.p).errinj 22 6)).bytes) :
    exec .errinjApply s = .next ((s.onFrame s.who.p (bits (s.pillar s.who.p).errinj 22 6) fun F =>
      { F with poison := mark F.poison (bits (s.pillar s.who.p).errinj 28 22 / 32) }).onPillar s.who.p fun P =>
        { P with errinj := setBits P.errinj 21 1 0 }) := by
  show Host.Outcome.next (s.inject s.who.p) = _
  unfold State.inject
  simp only [h]
  rw [onFrame_congr (h := fun F => { F with poison := mark F.poison (bits (s.pillar s.who.p).errinj 28 22 / 32) })
    (if_neg (not_or.2 ⟨hstate, Nat.not_le.2 hoff⟩))]

theorem exec_errinj_none (h : bits (s.pillar s.who.p).errinj 19 2 = 0) : exec .errinjApply s =
    .next (s.onPillar s.who.p fun P => { P with errinj := setBits P.errinj 21 1 0 }) := by
  show Host.Outcome.next (s.inject s.who.p) = _
  unfold State.inject
  simp only [h]

/-! ### The end of an iteration in context mode (R344) -/

/-- What the end of an iteration in context mode leaves of the package: its memory, launches and stacks, and the frames
of a pillar. -/
def State.around (s : State) (p : Nat) : List Host.Cell × List Launch × List Stack × List Frame :=
  (s.mem, s.launches, s.stks, (s.pillar p).frames)

theorem onPillar_around (s : State) (p : Nat) {f : Pillar → Pillar} (hf : ∀ P, (f P).frames = P.frames) :
    (s.onPillar p f).around p = s.around p :=
  congrArg (fun fs => (s.mem, s.launches, s.stks, fs)) (onPillar_keeps s p Pillar.frames hf p)

theorem onSeq_around (s : State) (p q : Nat) (f : Seq → Seq) : (s.onSeq p q f).around p = s.around p :=
  onPillar_around s p fun _ => by rfl

theorem freeSeq_around (s : State) (p q : Nat) : (s.freeSeq p q).around p = s.around p :=
  (onSeq_around _ p q _).trans (onSeq_around s p q _)

/-- The operations of a sequencer dropped, before what the part keeps of them is noted and their requests forgotten. -/
def State.opsGone (s : State) (p q : Nat) : State :=
  (s.onPillar p fun P => { P with
    cube := P.cube.filter fun c => c.q ≠ q
    drains := P.drains.map fun l => l.filter fun d => d.1 ≠ q }).onSeq p q fun x =>
      { x with recs := [], flagq := [], fences := [], aborts := [], syncing := none }

theorem dropOps_opsGone (s : State) (p q : Nat) :
    (s.dropOps p q).pillars = (s.opsGone p q).pillars ∧ (s.dropOps p q).around p = (s.opsGone p q).around p := by
  unfold State.dropOps
  dsimp only
  split <;> exact ⟨rfl, rfl⟩

theorem opsGone_around (s : State) (p q : Nat) : (s.opsGone p q).around p = s.around p :=
  (onSeq_around _ p q _).trans (onPillar_around s p fun _ => by rfl)

section
variable {p q : Nat} (hp : p < s.pillars.length) (hq : q < (s.pillar p).seqs.length)
include hp hq

theorem opsGone_seq : p < (s.opsGone p q).pillars.length ∧ q < ((s.opsGone p q).pillar p).seqs.length ∧
    ((s.opsGone p q).seq p q).recs = [] := by
  have hp' (f : Pillar → Pillar) : p < (s.onPillar p f).pillars.length := by
    rwa [State.onPillar, upd_length]
  have hq' (f : Pillar → Pillar) (hf : ∀ P, (f P).seqs = P.seqs) : q < ((s.onPillar p f).pillar p).seqs.length := by
    rw [onPillar_self _ _ _ hp, hf]
    exact hq
  refine ⟨?_, ?_, ?_⟩
  · rw [State.opsGone, State.onSeq, State.onPillar, upd_length]
    exact hp' _
  · rw [State.opsGone, onSeq_pillar_self _ _ _ _ (hp' _)]
    exact Nat.lt_of_lt_of_eq (hq' _ fun _ => by rfl) (upd_length _ _ _).symm
  · exact congrArg Seq.recs (onSeq_self _ p q _ (hp' _) (hq' _ fun _ => by rfl))

theorem retire_context (hctx : (s.seq p q).contextMode = true) : (s.retire p q).around p = s.around p ∧
    ((s.retire p q).seq p q).run = .idle ∧ ((s.retire p q).seq p q).iter = none ∧ ((s.retire p q).seq p q).recs = [] := by
  have hretire : s.retire p q = (s.dropOps p q).freeSeq p q := by
    unfold State.retire
    simp only [hctx, if_true]
  obtain ⟨hpillars, haround⟩ := dropOps_opsGone s p q
  obtain ⟨hp', hq', hrecs⟩ := opsGone_seq hp hq
  have hpillar : (s.dropOps p q).pillar p = (s.opsGone p q).pillar p := congrArg (fun l => l.getD p Pillar.reset) hpillars
  obtain ⟨hrun, hiter, hkept⟩ := freeSeq_seq (s := s.dropOps p q) (hpillars ▸ hp') (hpillar ▸ hq')
  rw [hretire]
  refine ⟨(freeSeq_around _ p q).trans (haround.trans (opsGone_around s p q)), hrun, hiter, hkept.trans ?_⟩
  rw [State.seq, hpillar]
  exact hrecs
end
end

/-- What landed, and the busy bits after it (R157). -/
theorem unbusied_acc (x : Seq) (w : Nat → Bool) {a : Nat} {old new : Acc} (hold : x.accs[a]? = some old)
    (hnew : (x.unbusied w).accs[a]? = some new) : new = { old with busy := old.busy && w a } := by
  rw [Seq.unbusied, List.getElem?_mapIdx, hold] at hnew
  exact (Option.some.inj hnew).symm

/-- A sequencer with what is due landed and its busy bits settled. -/
def Seq.landed (x : Seq) (t q : Nat) (cube : List CubeItem) : Seq :=
  (x.landNoted t).unbusied ((x.landNoted t).tileWritten q cube)

theorem landed_accs (x : Seq) (t q : Nat) (cube : List CubeItem) :
    { x.landed t q cube with
      accs := (x.landUpTo t).accs, undo := (x.landUpTo t).undo, ueDue := (x.landUpTo t).ueDue } = x.landUpTo t ∧
    (x.landed t q cube).accs.length = (x.landUpTo t).accs.length ∧
    ∀ a old new, (x.landUpTo t).accs[a]? = some old → (x.landed t q cube).accs[a]? = some new →
      { new with busy := old.busy } = old ∧ (new.busy = true ↔ old.busy = true ∧
        ((∃ l ∈ (x.landUpTo t).inflight ++ (x.landUpTo t).userBank.entries ++ (x.landUpTo t).supBank.entries,
          (∃ v m, l.what = .acc a v m) ∨ ∃ vs, l.what = .side a vs) ∨
        ∃ c ∈ cube, c.q = q ∧ ((∃ b, c.kind = .zero a b) ∨ ∃ o, c.kind = .op o ∧ o.acc = a))) := by
  refine ⟨rfl, List.length_mapIdx, fun a old new hold hnew => ?_⟩
  rw [unbusied_acc (x.landNoted t) _ hold hnew]
  exact ⟨rfl, (Bool.and_eq_true _ _).to_iff.trans (and_congr_right fun _ => tileWritten_iff (x.landNoted t) q cube a)⟩

/-- The tick of the fade clock (R256). -/
theorem add_zeroExtend {w : Nat} (a : BitVec 48) (b : BitVec w) :
    a + b.zeroExtend 48 = BitVec.ofNat 48 (a.toNat + b.toNat) :=
  BitVec.eq_of_toNat_eq (by simp)

/-- Settles O38. Each event of a pillar is one of the rules above; a landing is one change of the sequencer that its
busy bits settle after. -/
theorem pillarEvents : Obligations.PillarEvents := by
  unfold Obligations.PillarEvents
  intro s
  dsimp only
  refine ⟨?landing, rfl, ?tick, fun h k => exec_frameExpire_reached h k, exec_frameExpire_early, ?overdue,
    exec_renewalOverdue_idle, ?renew, ?inject, rfl, rfl, ?ue, ?elsewhere, ?user, ?supervisor, ?context, ?fetch, ?ways⟩
  case landing =>
    obtain ⟨hsame, hlen, htile⟩ := landed_accs (s.seq s.who.p s.who.q) (s.pillar s.who.p).ic s.who.q (s.pillar s.who.p).cube
    exact ⟨_, congrArg Host.Outcome.next (onSeq_settle s s.who.p s.who.q _), hsame,
      landNoted_ueDue _ _, hlen, htile⟩
  case tick => exact congrArg Host.Outcome.next (onPillar_congr (by rw [add_zeroExtend]))
  case renew =>
    intro hask hreqs
    refine ⟨exec_backgroundRenew_spent hask hreqs, fun hleft => ?_⟩
    have hbudget := Nat.pos_iff_ne_zero.1 hleft
    have hrenewable := mem_renewables hask hreqs s.who.p
    refine ⟨fun f n start => exec_backgroundRenew_rewrites hask hreqs hbudget, fun hidle hnone => ?_,
      fun f hf hidle hdue hnext => ?_⟩
    · have hempty : s.renewables s.who.p = [] := List.eq_nil_iff_forall_not_mem.2 fun g hg =>
        hnone g ((hrenewable g).1 hg).1 ((hrenewable g).1 hg).2
      exact exec_backgroundRenew_none hask hreqs hbudget hidle (by rw [hempty]; rfl)
    · have hnearest : s.nearest s.who.p (s.renewables s.who.p) = [f] :=
        nearest_one (List.nodup_range.filter _) ((hrenewable f).2 ⟨hf, hdue⟩) fun g hg hne =>
          hnext g ((hrenewable g).1 hg).1 hne ((hrenewable g).1 hg).2
      exact (exec_backgroundRenew_one hask hreqs hbudget hidle hnearest).trans
        (congrArg Host.Outcome.next (startRenewal_unasked hreqs _ f))
  case overdue =>
    intro f n start h
    refine ⟨fun hlow hhigh => ?_, fun hout => ?_⟩
    · exact (exec_renewalOverdue_under h).trans (congrArg Host.Outcome.next (if_pos ⟨hlow, hhigh⟩))
    · refine (exec_renewalOverdue_under h).trans (congrArg Host.Outcome.next (if_neg ?_))
      rintro ⟨hlow, hhigh⟩
      omega
  case inject => exact ⟨exec_errinj_acc, exec_errinj_frame, exec_errinj_none⟩
  case ue => exact fun hpart hup => ⟨exec_ue_state hpart hup, exec_ue_layer hpart hup⟩
  case elsewhere => exact fun h => (exec_ue_elsewhere h).trans (congrArg Host.Outcome.next (latchGang_all s _ 1))
  case user => exact fun h => congrArg Host.Outcome.next (retire_user s _ _ h)
  case supervisor => exact fun h hctx => congrArg Host.Outcome.next (retire_supervisor s _ _ h hctx)
  case context =>
    intro hctx hp hq
    obtain ⟨haround, hrun, hiter, hrecs⟩ := retire_context hp hq hctx
    exact ⟨_, rfl, congrArg (·.1) haround, congrArg (·.2.1) haround, congrArg (·.2.2.1) haround,
      congrArg (·.2.2.2) haround, hrun, hiter, hrecs⟩
  case fetch => exact fun t pa leaf h => exec_icacheFill_ok h
  case ways =>
    intro ls x
    obtain ⟨kept, hfill, hkept⟩ := fillLine_eq ls x
    refine ⟨hfill ▸ List.mem_cons_self, fun y hy => ?_, fun h _ => fillLine_ways ls x h⟩
    rw [hfill] at hy
    exact (List.mem_cons.1 hy).imp_right fun h => hkept.subset h

end Sys2Proof.Machine
end

section
/-! PROOFS. Records and the C-slot instructions beside the operations (O31, R160, R291, R303, R305, R332). -/

namespace Sys2Proof.Machine

/-! ### The record (R332) -/

theorem freeRec_le (x : Seq) : x.freeRec ≤ 256 := by
  rw [Seq.freeRec]
  cases hf : (List.range 256).find? fun i => x.recs.all fun r => r.idx ≠ i with
  | some i => exact (List.mem_range.1 (List.mem_of_find?_eq_some hf)).le
  | none => exact Nat.le_refl 256

/-- Every index below the one taken is held. -/
theorem freeRec_lowest (x : Seq) {i : Nat} (h : i < x.freeRec) : ∃ r ∈ x.recs, r.idx = i := by
  have hheld : (x.recs.all fun r => decide (r.idx ≠ i)) = false := by
    have hi : i ∈ List.range 256 := List.mem_range.2 (Nat.lt_of_lt_of_le h (freeRec_le x))
    rw [Seq.freeRec] at h
    cases hf : (List.range 256).find? fun i => x.recs.all fun r => r.idx ≠ i with
    | some k =>
      rw [hf] at h
      exact (Bool.not_eq_true' _).mp ((List.find?_range_eq_some.1 hf).2.2 i h)
    | none => exact Bool.eq_false_of_not_eq_true (List.find?_eq_none.1 hf i hi)
  simpa using hheld

theorem freeRec_lt {x : Seq} (h : x.recs.length < 256) : x.freeRec < 256 := by
  have hsub : List.range x.freeRec ⊆ x.recs.map Rec.idx := fun i hi => by
    obtain ⟨r, hr, hidx⟩ := freeRec_lowest x (List.mem_range.1 hi)
    exact List.mem_map.2 ⟨r, hr, hidx⟩
  have hlen := (List.nodup_range.subperm hsub).length_le
  rw [List.length_range, List.length_map] at hlen
  exact Nat.lt_of_le_of_lt hlen h

/-! ### CSET and CFMT (R291, R31) -/

section
variable {s : State} {g : Guard} {a b : BitVec 5}

theorem low_words (x y : W64) : (y.extractLsb' 0 32 ++ x.extractLsb' 0 32 : BitVec 64) =
    BitVec.ofNat 64 (x.toNat % 2 ^ 32 + y.toNat % 2 ^ 32 * 2 ^ 32) := by
  refine BitVec.eq_of_toNat_eq ?_
  have hx : x.toNat % 2 ^ 32 < 2 ^ 32 := Nat.mod_lt _ (by decide)
  have hy : y.toNat % 2 ^ 32 < 2 ^ 32 := Nat.mod_lt _ (by decide)
  rw [BitVec.toNat_append, BitVec.extractLsb'_toNat, BitVec.extractLsb'_toNat, Nat.shiftRight_zero, Nat.shiftRight_zero,
    ← Nat.shiftLeft_add_eq_or_of_lt hx, Nat.shiftLeft_eq, BitVec.toNat_ofNat]
  omega

theorem exec_cset (h : s.enabled g [a, b]) (gr : BitVec 3) :
    let u := s.sourced [a, b]
    exec (.cset g gr a b) s = .next ((u.onMe fun x => { x with
      geos := upd x.geos gr.toNat fun _ =>
        BitVec.ofNat 64 ((u.src a).toNat % 2 ^ 32 + (u.src b).toNat % 2 ^ 32 * 2 ^ 32) }).enqueueCube
        (u.src a) (u.src b) 1 fun _ => .idle) := by
  dsimp only
  show execCset g gr a b s = _
  rw [execCset, guarded_on s g [a, b] _ h]
  dsimp only
  rw [low_words]

theorem entryOk_iff (v : W32) : entryOk v = true ↔
    v.toNat % 16 ∈ [1, 2, 5, 6, 7, 8] ∧ v.toNat / 16 % 16 ∈ [1, 2, 4, 5, 6, 7, 8] ∧ v.toNat < 2 ^ 28 := by
  have hhigh : bits v 28 4 = 0 ↔ v.toNat < 2 ^ 28 := by
    rw [bits, BitVec.extractLsb'_toNat, Nat.shiftRight_eq_div_pow]
    omega
  have hmid : bits v 4 4 = v.toNat / 16 % 16 := by
    rw [bits, BitVec.extractLsb'_toNat, Nat.shiftRight_eq_div_pow]
  rw [entryOk, Bool.and_eq_true, Bool.and_eq_true, decide_eq_true_eq, List.contains_iff_mem, List.contains_iff_mem,
    hhigh, hmid, bits_low, and_assoc]
  norm_num

theorem exec_cfmt (h : s.enabled g [a]) (e : BitVec 4) :
    let u := s.sourced [a]
    let v := (u.src a).extractLsb' 0 32
    exec (.cfmt g e a) s = .next ((u.onMe fun x => { x with
      fts := upd x.fts e.toNat fun _ =>
        if v.toNat % 16 ∈ [1, 2, 5, 6, 7, 8] ∧ v.toNat / 16 % 16 ∈ [1, 2, 4, 5, 6, 7, 8] ∧ v.toNat < 2 ^ 28 then v
        else 0 }).enqueueCube (u.src a) 0 1 fun _ => .idle) := by
  dsimp only
  show execCfmt g e a s = _
  rw [execCfmt, guarded_on s g [a] _ h]
  dsimp only
  simp only [entryOk_iff]

/-! ### CBLD and CBLDF (R303) -/

/-- A slot width outside 0 to 2, or a bit above it set. -/
theorem badWidth_iff (B : W64) : (bits B 2 62 ≠ 0 ∨ bits B 0 2 = 3) ↔ 3 ≤ B.toNat := by
  rw [bits, bits, BitVec.extractLsb'_toNat, BitVec.extractLsb'_toNat, Nat.shiftRight_eq_div_pow,
    Nat.shiftRight_zero]
  omega

theorem width_eq {B : W64} (h : B.toNat < 3) : bits B 0 2 = B.toNat :=
  Nat.mod_eq_of_lt (by omega)

theorem imageBytes_toNat (B : W64) :
    imageBytes B.toNat = if B = 0 then 8192 else if B = 1 then 4096 else 1024 := by
  have hzero : B.toNat = 0 ↔ B = 0 := BitVec.toNat_inj (x := B) (y := 0)
  have hone : B.toNat = 1 ↔ B = 1 := BitVec.toNat_inj (x := B) (y := 1)
  simp only [imageBytes, hzero, hone]

theorem not_holds_iff (F : Frame) (off n align : Nat) : ¬ F.holds off n align ↔ off % align ≠ 0 ∨ F.bytes < off + n := by
  rw [Frame.holds, not_and_or, Nat.not_le, or_comm]

/-- The frame a CBLDF names, as its check finds it (R128). -/
def State.imageFrame (u : State) (A : W64) : Frame :=
  (u.cur.found[(A.extractLsb' 22 6).toNat]?).getD (u.myFrame (A.extractLsb' 22 6).toNat)

/-- What a CBLDF does once its layers and its width stand: the frame's checks in order, then its image (R303). -/
def State.readImage (u : State) (sl : BitVec 5) (l : BitVec 4) (A B : W64) : State :=
  let f := (A.extractLsb' 22 6).toNat
  let off := (A.extractLsb' 0 22).toNat
  let size := imageBytes B.toNat
  let F := u.imageFrame A
  if A.extractLsb' 28 36 ≠ 0 then u.raise ⟨cAddr, A, none, none, false⟩
  else if off % 64 ≠ 0 ∨ F.bytes < off + size then u.raise (atFrame cAddr f off)
  else if F.xp then u.raise (atFrame cStale f off)
  else if F.unreadable then u.raise (u.fstateOf f 5)
  else u.enqueueCube A B 16 fun _ => .load sl.toNat l B.toNat none (F.readN off size)
    (((sectorsOf off size).filter F.poison.contains).map fun k => k - off / 32)

section
variable (u : State) (sl : BitVec 5) (l : BitVec 4) {A B : W64}

theorem readImage_address (h : A.extractLsb' 28 36 ≠ 0) :
    u.readImage sl l A B = u.raise ⟨cAddr, A, none, none, false⟩ := if_pos h

variable (h : A.extractLsb' 28 36 = 0)
include h

theorem readImage_outside
    (hout : ¬ (u.imageFrame A).holds (A.extractLsb' 0 22).toNat (imageBytes B.toNat) 64) :
    u.readImage sl l A B = u.raise (atFrame cAddr (A.extractLsb' 22 6).toNat (A.extractLsb' 0 22).toNat) := by
  rw [State.readImage, if_neg (not_not.2 h), if_pos ((not_holds_iff _ _ _ _).1 hout)]

variable (hholds : (u.imageFrame A).holds (A.extractLsb' 0 22).toNat (imageBytes B.toNat) 64)
include hholds

theorem readImage_stale (hxp : (u.imageFrame A).xp = true) :
    u.readImage sl l A B = u.raise (atFrame cStale (A.extractLsb' 22 6).toNat (A.extractLsb' 0 22).toNat) := by
  rw [State.readImage, if_neg (not_not.2 h), if_neg fun hbad => (not_holds_iff _ _ _ _).2 hbad hholds, if_pos hxp]

variable (hxp : (u.imageFrame A).xp = false)
include hxp

theorem readImage_state (hstate : (u.imageFrame A).state = .empty ∨ (u.imageFrame A).state = .filling) :
    u.readImage sl l A B = u.raise (u.fstateOf (A.extractLsb' 22 6).toNat 5) := by
  rw [State.readImage, if_neg (not_not.2 h), if_neg fun hbad => (not_holds_iff _ _ _ _).2 hbad hholds,
    if_neg (Bool.eq_false_iff.1 hxp), if_pos ((unreadable_iff _).2 hstate)]

theorem readImage_reads (hstate : (u.imageFrame A).state = .ready ∨ (u.imageFrame A).state = .draining) :
    u.readImage sl l A B = u.enqueueCube A B 16 fun _ => .load sl.toNat l B.toNat none
      ((u.imageFrame A).readN (A.extractLsb' 0 22).toNat (imageBytes B.toNat))
      (((sectorsOf (A.extractLsb' 0 22).toNat (imageBytes B.toNat)).filter (u.imageFrame A).poison.contains).map
        fun k => k - (A.extractLsb' 0 22).toNat / 32) := by
  rw [State.readImage, if_neg (not_not.2 h), if_neg fun hbad => (not_holds_iff _ _ _ _).2 hbad hholds,
    if_neg (Bool.eq_false_iff.1 hxp), if_neg (Bool.eq_false_iff.1 (unreadable_eq_false hstate))]
end

section
variable (h : s.enabled g [a, b]) (sl : BitVec 5) {l : BitVec 4}
include h

/-- An absent layer comes first. -/
theorem exec_cbld_absent (hl : ¬ (s.sourced [a, b]).layersPresent l) :
    exec (.cbld g sl l a b) s = .next ((s.sourced [a, b]).raise ⟨cLayer, 0, none, none, false⟩) ∧
    exec (.cbldf g sl l a b) s = .next ((s.sourced [a, b]).raise ⟨cLayer, 0, none, none, false⟩) := by
  constructor
  · show execCbld g sl l a b s = _
    rw [execCbld, guarded_on s g [a, b] _ h]
    dsimp only
    rw [layerAbsent_eq_true hl, if_pos rfl]
    rfl
  · show execCbldf g sl l a b s = _
    rw [execCbldf, guarded_on s g [a, b] _ h]
    dsimp only
    rw [layerAbsent_eq_true hl, if_pos rfl]
    rfl

variable (hl : (s.sourced [a, b]).layersPresent l)
include hl

/-- A width, an offset or a place in the slots it may not have. -/
theorem exec_cbld_raises (hbad : 3 ≤ ((s.sourced [a, b]).src b).toNat ∨ ((s.sourced [a, b]).src a).toNat % 1024 ≠ 0 ∨
      2147483648 < ((s.sourced [a, b]).src a).toNat + imageBytes ((s.sourced [a, b]).src b).toNat) :
    exec (.cbld g sl l a b) s = .next ((s.sourced [a, b]).raise ((s.sourced [a, b]).fstateOf 0 2)) := by
  have hfirst : bits ((s.sourced [a, b]).src b) 2 62 ≠ 0 ∨ bits ((s.sourced [a, b]).src b) 0 2 = 3 ∨
      ((s.sourced [a, b]).src a).toNat % 1024 ≠ 0 ∨
      2147483648 < ((s.sourced [a, b]).src a).toNat + imageBytes (bits ((s.sourced [a, b]).src b) 0 2) := by
    by_cases hw : 3 ≤ ((s.sourced [a, b]).src b).toNat
    · exact ((badWidth_iff _).2 hw).imp_right .inl
    · rw [width_eq (Nat.not_le.1 hw)]
      exact .inr (.inr (hbad.resolve_left hw))
  show execCbld g sl l a b s = _
  rw [execCbld, guarded_on s g [a, b] _ h]
  dsimp only
  rw [layerAbsent_eq_false hl, if_neg Bool.false_ne_true, if_pos hfirst, fstateTwo_eq]

theorem exec_cbld_loads (hw : ((s.sourced [a, b]).src b).toNat < 3)
    (halign : ((s.sourced [a, b]).src a).toNat % 1024 = 0)
    (hfits : ((s.sourced [a, b]).src a).toNat + imageBytes ((s.sourced [a, b]).src b).toNat ≤ 2147483648) :
    exec (.cbld g sl l a b) s = .next ((s.sourced [a, b]).enqueueCube ((s.sourced [a, b]).src a)
      ((s.sourced [a, b]).src b) 16 fun _ =>
        .load sl.toNat l ((s.sourced [a, b]).src b).toNat (some ((s.sourced [a, b]).src a).toNat) [] []) := by
  have hgood : ¬ (bits ((s.sourced [a, b]).src b) 2 62 ≠ 0 ∨ ((s.sourced [a, b]).src b).toNat = 3 ∨
      ((s.sourced [a, b]).src a).toNat % 1024 ≠ 0 ∨
      2147483648 < ((s.sourced [a, b]).src a).toNat + imageBytes ((s.sourced [a, b]).src b).toNat) := by
    rintro (hhigh | hthree | hoff | hlast)
    · exact absurd ((badWidth_iff _).1 (.inl hhigh)) (Nat.not_le.2 hw)
    · omega
    · exact hoff halign
    · exact absurd hfits (Nat.not_le.2 hlast)
  show execCbld g sl l a b s = _
  rw [execCbld, guarded_on s g [a, b] _ h]
  dsimp only
  rw [layerAbsent_eq_false hl, if_neg Bool.false_ne_true, width_eq hw, if_neg hgood]

theorem exec_cbldf_width (hw : 3 ≤ ((s.sourced [a, b]).src b).toNat) : exec (.cbldf g sl l a b) s =
    .next ((s.sourced [a, b]).raise ((s.sourced [a, b]).fstateOf 0 2)) := by
  show execCbldf g sl l a b s = _
  rw [execCbldf, guarded_on s g [a, b] _ h]
  dsimp only
  rw [layerAbsent_eq_false hl, if_neg Bool.false_ne_true, if_pos ((badWidth_iff _).2 hw), fstateTwo_eq]

/-- With its layers there and a width, the frame's checks follow. -/
theorem exec_cbldf_present (hw : ((s.sourced [a, b]).src b).toNat < 3) : exec (.cbldf g sl l a b) s =
    .next ((s.sourced [a, b]).readImage sl l ((s.sourced [a, b]).src a) ((s.sourced [a, b]).src b)) := by
  show execCbldf g sl l a b s = _
  rw [execCbldf, guarded_on s g [a, b] _ h]
  dsimp only
  rw [layerAbsent_eq_false hl, if_neg Bool.false_ne_true, if_neg (mt (badWidth_iff _).1 (Nat.not_le.2 hw)),
    width_eq hw, foundFrame_here, fstateFive_eq _ (BitVec.isLt _), faddr_eq]
  simp only [Ne, bits_eq_zero]
  rfl
end

/-! ### CPROG (R305) -/

theorem asBit_eq_field (x : Bool) (k : Nat) : asBit x k = field x.toNat k 1 := by
  cases x
  · rw [field, Bool.toNat_false, Nat.zero_mod, Nat.zero_shiftLeft]
    rfl
  · rw [field, Bool.toNat_true, Nat.shiftLeft_eq, Nat.one_mod_two_pow Nat.one_pos, Nat.one_mul]
    rfl

theorem progWord_toNat (t : Acc) : t.progWord.toNat =
    t.prog % 2 ^ 32 + t.busy.toNat * 2 ^ 32 + t.park.toNat * 2 ^ 33 + t.nw % 2 ^ 8 * 2 ^ 34 := by
  have hbusy := t.busy.toNat_lt
  have hpark := t.park.toNat_lt
  have hone : field t.prog 0 32 ||| field t.busy.toNat 32 1 = field (t.prog % 2 ^ 32 + t.busy.toNat * 2 ^ 32) 0 33 := by
    rw [field_or_field, field, Nat.shiftLeft_zero]
    congr 1
    omega
  have htwo : field (t.prog % 2 ^ 32 + t.busy.toNat * 2 ^ 32) 0 33 ||| field t.park.toNat 33 1 =
      field (t.prog % 2 ^ 32 + t.busy.toNat * 2 ^ 32 + t.park.toNat * 2 ^ 33) 0 34 := by
    rw [field_or_field, field, Nat.shiftLeft_zero]
    congr 1
    omega
  rw [Acc.progWord, asBit_eq_field, asBit_eq_field, hone, htwo, field_or_field, BitVec.toNat_ofNat]
  omega

theorem getLsbD_of_digit {v : W64} {k : Nat} {x : Bool} (h : v.toNat / 2 ^ k % 2 = x.toNat) : v.getLsbD k = x := by
  rw [BitVec.getLsbD, Nat.testBit_eq_decide_div_mod_eq, h]
  cases x <;> rfl

theorem progWord_fields (t : Acc) : (t.progWord.extractLsb' 0 32).toNat = t.prog % 2 ^ 32 ∧
    t.progWord.getLsbD 32 = t.busy ∧ t.progWord.getLsbD 33 = t.park ∧
    (t.progWord.extractLsb' 34 8).toNat = t.nw % 2 ^ 8 ∧ t.progWord.extractLsb' 42 22 = 0 := by
  have hword := progWord_toNat t
  have hbusy := t.busy.toNat_lt
  have hpark := t.park.toNat_lt
  refine ⟨?_, getLsbD_of_digit ?_, getLsbD_of_digit ?_, ?_, BitVec.eq_of_toNat_eq ?_⟩
  · rw [BitVec.extractLsb'_toNat, Nat.shiftRight_eq_div_pow]
    omega
  · omega
  · omega
  · rw [BitVec.extractLsb'_toNat, Nat.shiftRight_eq_div_pow]
    omega
  · rw [BitVec.extractLsb'_toNat, Nat.shiftRight_eq_div_pow]
    show _ = 0
    omega

/-- The instructions without a scalar source. -/
theorem exec_unsourced (h : s.enabled g []) (c : BitVec 3) (x : BitVec 1) :
    exec (.czero g c x) s = .next ((s.onMe fun q => { q with
      accs := upd q.accs c.toNat fun t => { t with busy := true } }).enqueueCube 0 0 2 fun _ => .zero c.toNat (x = 1)) ∧
    exec (.cprog g c) s = .next (s.result 4 (.push (s.acc c).progWord)) ∧
    exec (.cabort g c) s = .next (s.onMe fun q => { q with aborts := q.aborts ++ [(s.mine.ic + 1, c.toNat)] }) := by
  refine ⟨?_, ?_, ?_⟩
  · show execCzero g c x s = _
    rw [execCzero, guarded_on s g [] _ h]
    rfl
  · show execCprog g c s = _
    rw [execCprog, guarded_on s g [] _ h]
    rfl
  · show execCabort g c s = _
    rw [execCabort, guarded_on s g [] _ h]
    rfl

theorem exec_cbnd (h : s.enabled g [a]) (c : BitVec 3) : exec (.cbnd g c a) s =
    .next ((s.sourced [a]).enqueueCube ((s.sourced [a]).src a) 0 1 fun _ => .bind c.toNat ((s.sourced [a]).src a)) := by
  show execCbnd g c a s = _
  rw [execCbnd, guarded_on s g [a] _ h]
end

end Sys2Proof.Machine
end

section
/-! PROOFS. The CABORTs due, and the operation each takes out (O31, R305). -/

namespace Sys2Proof.Machine

/-! ### The CABORTs due -/

section
variable {s : State} {p q t a : Nat} (h : (s.seq p q).aborts = [(t, a)])
include h

theorem runAborts_early (ht : (s.pillar p).ic < t) : s.runAborts p q = s := by
  unfold State.runAborts
  dsimp only
  rw [h, List.filter_cons_of_neg (by simpa using ht)]
  refine onSeq_unchanged ?_
  rw [h, List.filter_cons_of_pos (by simpa using ht)]
  exact congrArg (fun l => { s.seq p q with aborts := l }) h.symm

theorem runAborts_due (ht : t ≤ (s.pillar p).ic) :
    s.runAborts p q = (s.onSeq p q fun x => { x with aborts := [] }).abortAcc p q a := by
  unfold State.runAborts
  dsimp only
  rw [h, List.filter_cons_of_pos (by simpa using ht)]
  refine congrArg (fun u : State => u.abortAcc p q a) (onSeq_congr ?_)
  rw [h, List.filter_cons_of_neg (by simpa using ht)]
  rfl
end

/-! ### The operation an abort takes out -/

/-- A cube item that writes a sequencer's tile (R157). -/
def CubeItem.writesTile (c : CubeItem) (q a : Nat) : Prop :=
  c.q = q ∧ ((∃ b, c.kind = .zero a b) ∨ ∃ o, c.kind = .op o ∧ o.acc = a)

theorem abortAcc_cases (s : State) (p q a : Nat) :
    (∃ c ∈ (s.pillar p).cube, c.writesTile q a ∧ s.abortAcc p q a = (s.removeCube p q c.record).endRec p q c.record) ∨
    ((∀ c ∈ (s.pillar p).cube, ¬ c.writesTile q a) ∧ s.abortAcc p q a = s) := by
  unfold State.abortAcc
  split
  next c hfound =>
    have hwrites := List.find?_some hfound
    refine .inl ⟨c, List.mem_of_find?_eq_some hfound, ?_, rfl⟩
    unfold CubeItem.writesTile
    cases hkind : c.kind <;> simp_all
  next hnone =>
    refine .inr ⟨fun c hc hwrites => ?_, rfl⟩
    have hother := List.find?_eq_none.1 hnone c hc
    obtain ⟨hq, ⟨b, hkind⟩ | ⟨o, hkind, hacc⟩⟩ := hwrites
    · simp [hkind, hq] at hother
    · simp [hkind, hq, hacc] at hother

end Sys2Proof.Machine
end

section
/-! PROOFS. CABORT (R305): what it leaves, and O31 from the lemmas above. -/

namespace Sys2Proof.Machine

/-! ### What an abort leaves of its sequencer -/

/-- A tile but for its busy and parked bits, which go with its operation (R305). -/
def Acc.work (t : Acc) : Acc := { t with busy := false, park := false }

/-- A sequencer with each tile's work, but for its event latch. -/
def Seq.worked (x : Seq) : Seq := { x with accs := x.accs.map Acc.work, latch := false }

theorem worked_of_accs {x : Seq} {l : List Acc} (h : l.map Acc.work = x.accs.map Acc.work) :
    { x with accs := l }.worked = x.worked :=
  congrArg (fun l => { x with accs := l, latch := false }) h

theorem unbusied_worked (x : Seq) (w : Nat → Bool) : (x.unbusied w).worked = x.worked :=
  worked_of_accs (List.ext_getElem? fun i => by
    rw [List.getElem?_map, List.getElem?_map, List.getElem?_mapIdx]
    cases x.accs[i]? <;> rfl)

theorem unparked_worked (x : Seq) (a : Nat) :
    { x with accs := upd x.accs a fun t => { t with park := false } }.worked = x.worked :=
  worked_of_accs (List.ext_getElem? fun i => by
    rw [List.getElem?_map, List.getElem?_map, upd_getElem?]
    split
    · cases x.accs[i]? <;> rfl
    · rfl)

/-! ### The operation gives up its frame and its tile -/

section
variable (s : State) (p q : Nat) (c : CubeItem)

/-- What an abort leaves of the package: its memory, stacks and launches, and how many pillars and sequencers it has. -/
def State.besideAbort (s : State) (p : Nat) : List Host.Cell × List Stack × List Launch × Nat × Nat :=
  (s.mem, s.stks, s.launches, s.pillars.length, (s.pillar p).seqs.length)

theorem onPillar_besideAbort {f : Pillar → Pillar} (hf : ∀ P, (f P).seqs.length = P.seqs.length) :
    (s.onPillar p f).besideAbort p = s.besideAbort p := by
  have hseqs := onPillar_keeps s p (fun P => P.seqs.length) hf p
  have hlen : (s.onPillar p f).pillars.length = s.pillars.length := upd_length _ _ _
  exact congrArg₂ (fun m n => (s.mem, s.stks, s.launches, m, n)) hlen hseqs

theorem onSeq_besideAbort (f : Seq → Seq) : (s.onSeq p q f).besideAbort p = s.besideAbort p :=
  onPillar_besideAbort s p fun _ => upd_length _ _ _

theorem onFrame_besideAbort (f : Nat) (g : Frame → Frame) : (s.onFrame p f g).besideAbort p = s.besideAbort p := by
  have hplace : (s.onPillar p fun P => { P with frames := upd P.frames f fun _ => g (s.frame p f) }).besideAbort p =
      s.besideAbort p := onPillar_besideAbort s p fun _ => by rfl
  unfold State.onFrame
  dsimp only
  split
  · exact hplace
  · exact (onSeq_besideAbort _ p 1 _).trans ((onSeq_besideAbort _ p 0 _).trans hplace)

theorem onFrame_frame_self {f : Nat} (g : Frame → Frame) (hp : p < s.pillars.length)
    (hf : f < (s.pillar p).frames.length) : (s.onFrame p f g).frame p f = g (s.frame p f) := by
  have hplace : (s.onPillar p fun P => { P with frames := upd P.frames f fun _ => g (s.frame p f) }).frame p f =
      g (s.frame p f) := by
    rw [State.frame, onPillar_self _ _ _ hp]
    exact upd_getD_self _ _ _ _ hf
  have hwake (u : State) (k : Nat) : (u.wakeSeq p k).frame p f = u.frame p f :=
    congrArg (fun l => l.getD f Frame.cleared) (onPillar_keeps u p Pillar.frames (fun _ => by rfl) p)
  unfold State.onFrame
  dsimp only
  split
  · exact hplace
  · rw [State.wake, hwake, hwake, hplace]

/-- The frame's read role given up. -/
def State.roleGiven : State :=
  match c.kind with
  | .op o =>
    match o.src with
    | .frame f _ _ => if o.role then s.onFrame p f Frame.dropRole else s
    | _ => s
  | _ => s

/-- A change of a frame, or none. -/
theorem roleGiven_cases : s.roleGiven p c = s ∨ ∃ f, s.roleGiven p c = s.onFrame p f Frame.dropRole := by
  unfold State.roleGiven
  split
  · split
    · split
      · exact .inr ⟨_, rfl⟩
      · exact .inl rfl
    · exact .inl rfl
  · exact .inl rfl

/-- The tile an operation parked, no longer so. -/
def State.unparked : State :=
  match c.kind with
  | .op o => s.onSeq p q fun x => { x with accs := upd x.accs o.acc fun a => { a with park := false } }
  | _ => s

/-- A cube item gives up its frame and its tile, and leaves the queue. -/
def State.yielded : State :=
  ((s.roleGiven p c).unparked p q c).onPillar p fun P => { P with
    cube := P.cube.filter fun d => !(d.q = q && d.record = c.record)
    cubeFree := if c.started then max P.cubeFree P.ic else P.cubeFree }

theorem removeCube_found (h : (s.pillar p).cube.find? (fun d => d.q = q && d.record = c.record) = some c) :
    s.removeCube p q c.record = (s.yielded p q c).settle p q := by
  unfold State.removeCube
  split
  next hnone => exact nomatch h.symm.trans hnone
  next d hfound =>
    obtain rfl := Option.some.inj (h.symm.trans hfound)
    unfold State.yielded State.unparked State.roleGiven
    cases c.kind <;> rfl

theorem unparked_cases : s.unparked p q c = s ∨ ∃ a, s.unparked p q c =
    s.onSeq p q fun x => { x with accs := upd x.accs a fun t => { t with park := false } } := by
  unfold State.unparked
  split
  · exact .inr ⟨_, rfl⟩
  · exact .inl rfl

theorem unparked_beside : ((s.unparked p q c).pillar p).beside = (s.pillar p).beside := by
  rcases unparked_cases s p q c with h | ⟨a, h⟩ <;> rw [h]
  exact onSeq_beside s p q _ p

theorem unparked_besideAbort : (s.unparked p q c).besideAbort p = s.besideAbort p := by
  rcases unparked_cases s p q c with h | ⟨a, h⟩ <;> rw [h]
  exact onSeq_besideAbort s p q _

theorem unparked_seq_worked : ((s.unparked p q c).seq p q).worked = (s.seq p q).worked := by
  rcases unparked_cases s p q c with h | ⟨a, h⟩ <;> rw [h]
  exact onSeq_keeps s p q Seq.worked (fun x => unparked_worked x a) p q

theorem unparked_frames : ((s.unparked p q c).pillar p).frames = (s.pillar p).frames := by
  rcases unparked_cases s p q c with h | ⟨a, h⟩ <;> rw [h]
  exact onPillar_keeps s p Pillar.frames (fun _ => by rfl) p

theorem roleGiven_beside : ((s.roleGiven p c).pillar p).beside = (s.pillar p).beside := by
  rcases roleGiven_cases s p c with h | ⟨f, h⟩ <;> rw [h]
  exact onFrame_beside s p f _ p

theorem roleGiven_besideAbort : (s.roleGiven p c).besideAbort p = s.besideAbort p := by
  rcases roleGiven_cases s p c with h | ⟨f, h⟩ <;> rw [h]
  exact onFrame_besideAbort s p f _

theorem roleGiven_worked : ((s.roleGiven p c).seq p q).worked = (s.seq p q).worked := by
  rcases roleGiven_cases s p c with h | ⟨f, h⟩ <;> rw [h]
  exact onFrame_keeps s p f _ Seq.worked (fun _ _ => rfl) p q

theorem yielded_besideAbort : (s.yielded p q c).besideAbort p = s.besideAbort p :=
  (onPillar_besideAbort _ p fun _ => by rfl).trans ((unparked_besideAbort _ p q c).trans (roleGiven_besideAbort s p c))

theorem yielded_worked : ((s.yielded p q c).seq p q).worked = (s.seq p q).worked := by
  have hseq (u : State) (f : Pillar → Pillar) (hf : ∀ P, (f P).seqs = P.seqs) : (u.onPillar p f).seq p q = u.seq p q :=
    congrArg (fun l => l.getD q Seq.reset) (onPillar_keeps u p Pillar.seqs hf p)
  rw [State.yielded, hseq _ _ fun _ => by rfl, unparked_seq_worked, roleGiven_worked]

section
variable (hp : p < s.pillars.length)
include hp

theorem yielded_cube : ((s.yielded p q c).pillar p).cube =
    (s.pillar p).cube.filter fun d => !(d.q = q && d.record = c.record) := by
  have hlen : p < ((s.roleGiven p c).unparked p q c).pillars.length :=
    Nat.lt_of_lt_of_eq hp (congrArg (·.2.2.2.1)
      ((unparked_besideAbort _ p q c).trans (roleGiven_besideAbort s p c))).symm
  have hcube : (((s.roleGiven p c).unparked p q c).pillar p).cube = (s.pillar p).cube :=
    (congrArg Pillar.cube ((unparked_beside _ p q c).trans (roleGiven_beside s p c)) :)
  rw [State.yielded, onPillar_self _ _ _ hlen, hcube]

/-- The read role of a frame form is given up (R305). -/
theorem yielded_frame {o : CubeOp} {f off stride : Nat} (hkind : c.kind = .op o) (hsrc : o.src = .frame f off stride)
    (hrole : o.role = true) (hf : f < (s.pillar p).frames.length) :
    (s.yielded p q c).frame p f = (s.frame p f).dropRole := by
  have hgiven : s.roleGiven p c = s.onFrame p f Frame.dropRole := by
    rw [State.roleGiven, hkind]
    simp only [hsrc, hrole, if_true]
  have hframes : ((s.yielded p q c).pillar p).frames = ((s.onFrame p f Frame.dropRole).pillar p).frames :=
    (onPillar_keeps _ p Pillar.frames (fun _ => by rfl) p).trans ((unparked_frames _ p q c).trans (by rw [hgiven]))
  exact (congrArg (fun l => l.getD f Frame.cleared) hframes).trans (onFrame_frame_self s p _ hp hf)
end
end

/-! ### The abort -/

theorem accInFlight_worked {x y : Seq} (h : x.worked = y.worked) : x.accInFlight = y.accInFlight :=
  (congrArg Seq.accInFlight h :)

/-- A sequencer whose record has ended (R199, R332). -/
def Seq.ended (x : Seq) (i : Nat) : Seq := { x.dropRec i with latch := true }

theorem endRec_seq {s : State} {p q : Nat} (hp : p < s.pillars.length) (hq : q < (s.pillar p).seqs.length) (i : Nat) :
    (s.endRec p q i).seq p q = (s.seq p q).ended i := by
  have hends : (s.endRec p q i).pillars = (s.onSeq p q fun x => x.ended i).pillars :=
    (congrArg State.pillars (onSeq_onSeq s p q (fun x => x.dropRec i) fun x => { x with latch := true }) :)
  have hseq := onSeq_self s p q (fun x => x.ended i) hp hq
  exact (congrArg (fun l => (l.getD p Pillar.reset).seqs.getD q Seq.reset) hends).trans hseq

theorem endRec_pillar {α : Type} (s : State) (p q i : Nat) (π : Pillar → α) (hπ : ∀ P l, π { P with seqs := l } = π P) :
    π ((s.endRec p q i).pillar p) = π (s.pillar p) :=
  (onPillar_keeps _ p π (fun P => hπ P _) p).trans (onPillar_keeps s p π (fun P => hπ P _) p)

section
variable {s : State} {p q a : Nat} {c : CubeItem} {before after : List CubeItem}

/-- A cube item alone with its record stands aside from the others. -/
theorem filter_others (hq : c.q = q) (h : ∀ d ∈ before ++ after, ¬ (d.q = q ∧ d.record = c.record)) :
    (before ++ c :: after).filter (fun d => !(decide (d.q = q) && decide (d.record = c.record))) = before ++ after ∧
    (before ++ c :: after).find? (fun d => decide (d.q = q) && decide (d.record = c.record)) = some c := by
  have hothers {l : List CubeItem} (hl : ∀ d ∈ l, d ∈ before ++ after) :
      ∀ d ∈ l, (decide (d.q = q) && decide (d.record = c.record)) = false := fun d hd => by
    simpa using h d (hl d hd)
  have hbefore := hothers fun d hd => List.mem_append_left after hd
  have hafter := hothers fun d hd => List.mem_append_right before hd
  have hself : (decide (c.q = q) && decide (c.record = c.record)) = true := by simpa using hq
  constructor
  · rw [List.filter_append, List.filter_cons_of_neg (by simpa using hq),
      List.filter_eq_self.2 fun d hd => by rw [hbefore d hd]; rfl,
      List.filter_eq_self.2 fun d hd => by rw [hafter d hd]; rfl]
  · rw [List.find?_append, List.find?_eq_none.2 fun d hd => by rw [hbefore d hd]; exact Bool.false_ne_true,
      Option.none_or]
    exact List.find?_cons_of_pos hself

/-- A pillar with an item in its queue is one of the package's. -/
theorem pillar_lt_of_cube (hcube : (s.pillar p).cube = before ++ c :: after) : p < s.pillars.length := by
  by_contra hp
  have hreset : (s.pillar p) = Pillar.reset := List.getD_eq_default _ _ (Nat.not_lt.1 hp)
  rw [hreset] at hcube
  exact List.append_ne_nil_of_right_ne_nil before (List.cons_ne_nil c after) hcube.symm

variable (hcube : (s.pillar p).cube = before ++ c :: after) (hwrites : c.writesTile q a)
  (hothers : ∀ d ∈ before ++ after, ¬ d.writesTile q a ∧ ¬ (d.q = q ∧ d.record = c.record))
include hcube hwrites hothers

theorem abortAcc_alone : s.abortAcc p q a = ((s.yielded p q c).settle p q).endRec p q c.record := by
  have hfind := (filter_others hwrites.1 fun d hd => (hothers d hd).2).2
  rcases abortAcc_cases s p q a with ⟨d, hd, hwritesd, habort⟩ | ⟨hnone, _⟩
  · have hsame : d = c := by
      rw [hcube] at hd
      rcases List.mem_append.1 hd with hd | hd
      · exact absurd hwritesd (hothers d (List.mem_append_left _ hd)).1
      · exact (List.mem_cons.1 hd).resolve_right fun hd => (hothers d (List.mem_append_right _ hd)).1 hwritesd
    rw [habort, hsame, removeCube_found s p q c (by rw [hcube]; exact hfind)]
  · exact absurd hwrites (hnone c (hcube ▸ List.mem_append_right _ List.mem_cons_self))

/-- No item of the queue writes the tile any more. -/
theorem yielded_unwritten (hflight : (s.seq p q).accInFlight a = false) :
    (s.yielded p q c).accWritten p q a = false := by
  have hcube' := yielded_cube s p q c (pillar_lt_of_cube hcube)
  rw [hcube, (filter_others hwrites.1 fun d hd => (hothers d hd).2).1] at hcube'
  rw [State.accWritten, accInFlight_worked (yielded_worked s p q c), hflight, hcube', Bool.false_or]
  refine List.any_eq_false.2 fun d hd hd' => (hothers d hd).1 ?_
  simpa [CubeItem.writesTile, writes_iff] using hd'

theorem abortAcc_besideAbort : (s.abortAcc p q a).besideAbort p = s.besideAbort p := by
  rw [abortAcc_alone hcube hwrites hothers]
  have hends : (((s.yielded p q c).settle p q).endRec p q c.record).besideAbort p =
      ((s.yielded p q c).settle p q).besideAbort p :=
    (onSeq_besideAbort _ p q _).trans (onSeq_besideAbort ((s.yielded p q c).settle p q) p q _)
  exact hends.trans ((onSeq_besideAbort _ p q _).trans (yielded_besideAbort s p q c))

theorem abortAcc_pillar {α : Type} (π : Pillar → α) (hπ : ∀ P l, π { P with seqs := l } = π P) :
    π ((s.abortAcc p q a).pillar p) = π ((s.yielded p q c).pillar p) := by
  rw [abortAcc_alone hcube hwrites hothers, endRec_pillar _ p q _ π hπ]
  exact onPillar_keeps _ p π (fun P => hπ P _) p

theorem abortAcc_cube : ((s.abortAcc p q a).pillar p).cube = before ++ after := by
  rw [abortAcc_pillar hcube hwrites hothers Pillar.cube fun _ _ => by rfl, yielded_cube s p q c (pillar_lt_of_cube hcube),
    hcube]
  exact (filter_others hwrites.1 fun d hd => (hothers d hd).2).1

theorem abortAcc_frame {o : CubeOp} {f off stride : Nat} (hkind : c.kind = .op o) (hsrc : o.src = .frame f off stride)
    (hrole : o.role = true) (hf : f < (s.pillar p).frames.length) :
    (s.abortAcc p q a).frame p f = (s.frame p f).dropRole :=
  (congrArg (fun l => l.getD f Frame.cleared)
    (abortAcc_pillar hcube hwrites hothers Pillar.frames fun _ _ => by rfl)).trans
      (yielded_frame s p q c (pillar_lt_of_cube hcube) hkind hsrc hrole hf)

variable (hq : q < (s.pillar p).seqs.length)
include hq

/-- The sequencer after an abort (R305). -/
theorem abortAcc_seq : (s.abortAcc p q a).seq p q =
    (((s.yielded p q c).seq p q).unbusied ((s.yielded p q c).accWritten p q)).ended c.record := by
  have hp := pillar_lt_of_cube hcube
  have hsize := yielded_besideAbort s p q c
  have hp' : p < (s.yielded p q c).pillars.length := Nat.lt_of_lt_of_eq hp (congrArg (·.2.2.2.1) hsize).symm
  have hq' : q < ((s.yielded p q c).pillar p).seqs.length := Nat.lt_of_lt_of_eq hq (congrArg (·.2.2.2.2) hsize).symm
  have hsettled : ((s.yielded p q c).settle p q).besideAbort p = (s.yielded p q c).besideAbort p :=
    onSeq_besideAbort _ p q _
  rw [abortAcc_alone hcube hwrites hothers,
    endRec_seq (Nat.lt_of_lt_of_eq hp' (congrArg (·.2.2.2.1) hsettled).symm)
      (Nat.lt_of_lt_of_eq hq' (congrArg (·.2.2.2.2) hsettled).symm)]
  exact congrArg (fun x : Seq => x.ended c.record)
    (onSeq_self _ p q (fun x => x.unbusied ((s.yielded p q c).accWritten p q)) hp' hq')

theorem abortAcc_worked : ((s.abortAcc p q a).seq p q).worked = ((s.seq p q).worked).dropRec c.record := by
  rw [abortAcc_seq hcube hwrites hothers hq]
  exact congrArg (fun x : Seq => x.dropRec c.record)
    ((unbusied_worked _ _).trans (yielded_worked s p q c))

theorem abortAcc_acc {x y : Acc} (hx : (s.seq p q).accs[a]? = some x)
    (hy : ((s.abortAcc p q a).seq p q).accs[a]? = some y) :
    y.work = x.work ∧ ((s.seq p q).accInFlight a = false → y.busy = false) := by
  constructor
  · have hwork : ((s.abortAcc p q a).seq p q).accs.map Acc.work = (s.seq p q).accs.map Acc.work :=
      congrArg Seq.accs (abortAcc_worked hcube hwrites hothers hq)
    have hat := congrArg (fun l => l[a]?) hwork
    simpa only [List.getElem?_map, hx, hy, Option.map_some, Option.some.injEq] using hat
  · intro hflight
    rw [abortAcc_seq hcube hwrites hothers hq] at hy
    have hmap := (List.getElem?_mapIdx).symm.trans hy
    obtain ⟨t, _, rfl⟩ := Option.map_eq_some_iff.1 hmap
    rw [yielded_unwritten hcube hwrites hothers hflight]
    exact Bool.and_false _
end

theorem accInFlight_false {x : Seq} {a : Nat}
    (h : ∀ l ∈ x.inflight ++ x.userBank.entries ++ x.supBank.entries,
      (∀ v m, l.what ≠ .acc a v m) ∧ ∀ vs, l.what ≠ .side a vs) : x.accInFlight a = false := by
  refine Bool.eq_false_of_not_eq_true fun hflight => ?_
  obtain ⟨l, hl, ⟨v, m, hacc⟩ | ⟨vs, hside⟩⟩ := (accInFlight_iff x a).1 hflight
  · exact (h l hl).1 v m hacc
  · exact (h l hl).2 vs hside

/-- Settles O31. Each instruction acts by its rule above; an abort takes out the one item that writes its tile, and the
sequencer keeps each tile's work. -/
theorem cubeRecordsAndQueue : Obligations.CubeRecordsAndQueue := by
  unfold Obligations.CubeRecordsAndQueue
  dsimp only
  refine ⟨?record, ?instructions, fun s p q t a h => ⟨runAborts_early h, runAborts_due h⟩, ?abort, ?nothing⟩
  case record =>
    intro s a b op hplaced hlen
    exact ⟨_, onMe_me s _ hplaced, freeRec_lt hlen, freeRec_fresh hlen, fun _ => freeRec_lowest s.me, rfl, rfl, rfl, rfl,
      rfl, rfl, rfl, rfl, rfl, rfl, rfl, rfl, rfl, rfl, rfl⟩
  case abort =>
    intro s p q a before after c hq hcube hwrites hothers
    have habort := abortAcc_besideAbort hcube hwrites hothers
    have hworked := abortAcc_worked hcube hwrites hothers hq
    refine ⟨congrArg (·.1) habort, abortAcc_cube hcube hwrites hothers, congrArg (·.2.1) habort,
      congrArg (·.2.2.1) habort, fun r => ?_, (congrArg Seq.named hworked :), (congrArg Seq.queue hworked :),
      fun x y hx hy => ?_, fun o f off stride hkind hsrc hrole hf => ?_⟩
    · have hrecs : ((s.abortAcc p q a).seq p q).recs = (s.seq p q).recs.filter fun r => r.idx ≠ c.record :=
        congrArg Seq.recs hworked
      rw [hrecs, List.mem_filter, decide_eq_true_eq]
    · obtain ⟨hwork, hbusy⟩ := abortAcc_acc hcube hwrites hothers hq hx hy
      exact ⟨(congrArg Acc.elems hwork :), (congrArg Acc.side hwork :), (congrArg Acc.prog hwork :), (congrArg Acc.nw hwork :),
        (congrArg Acc.bound hwork :), fun h => hbusy (accInFlight_false h)⟩
    · rw [abortAcc_frame hcube hwrites hothers hkind hsrc hrole hf]
      rfl
  case nothing =>
    intro s p q a h
    rcases abortAcc_cases s p q a with ⟨c, hc, hwrites, _⟩ | ⟨_, hsame⟩
    · exact absurd hwrites (h c hc)
    · exact hsame
  case instructions =>
    intro s g c gr e l sl a b x
    refine ⟨fun h => ⟨exec_cset h gr, ?_⟩, fun h => ⟨exec_cfmt h e, exec_cbnd h c⟩, fun h => ?_⟩
    · simp only [← imageBytes_toNat]
      have hload {y : State} (hl : (s.sourced [a, b]).layersPresent l) (hw : ((s.sourced [a, b]).src b).toNat < 3)
          (heq : (s.sourced [a, b]).readImage sl l ((s.sourced [a, b]).src a) ((s.sourced [a, b]).src b) = y) :
          exec (.cbldf g sl l a b) s = .next y :=
        (exec_cbldf_present h sl hl hw).trans (congrArg Host.Outcome.next heq)
      refine ⟨fun hl hw => ⟨exec_cbld_loads h sl hl hw, fun hhigh hholds hxp hstate => ?_⟩, exec_cbld_absent h sl,
        fun hl hw => ⟨exec_cbld_raises h sl hl (.inl hw), exec_cbldf_width h sl hl hw⟩,
        fun hl hw => ⟨fun hbad => exec_cbld_raises h sl hl (.inr hbad), fun hhigh => ?_, fun hhigh hout => ?_,
          fun hhigh hholds hxp => ?_, fun hhigh hholds hxp hstate => ?_⟩⟩
      · exact hload hl hw (readImage_reads _ sl l hhigh hholds hxp hstate)
      · exact hload hl hw (readImage_address _ sl l hhigh)
      · exact hload hl hw (readImage_outside _ sl l hhigh hout)
      · exact hload hl hw (readImage_stale _ sl l hhigh hholds hxp)
      · exact hload hl hw (readImage_state _ sl l hhigh hholds hxp hstate)
    · obtain ⟨hzero, hprog, habort⟩ := exec_unsourced h c x
      exact ⟨hzero, rfl, ⟨_, hprog, progWord_fields _⟩, habort⟩

end Sys2Proof.Machine
end

section
/-! PROOFS. Hardware loops (O8, O9, R187-R190): what the end of a loop's body does, pass by pass, and the
instructions. -/

namespace Sys2Proof.Machine

/-! ### The end of a loop's body (R188) -/

/-- An entry with passes left goes back. -/
theorem loopEnd_back {e : LoopEntry} (rest : List LoopEntry) (hc : e.count ≠ 1) : loopEnd (e :: rest) e.bend =
    ({ e with count := e.count - 1, index := e.index + e.step.signExtend 32 } :: rest, some (e.bstart, e.rot)) := by
  rw [loopEnd, if_pos rfl, if_neg hc]

/-- An entry on its last pass is left, and the next is asked. -/
theorem loopEnd_leave {e : LoopEntry} (rest : List LoopEntry) (hc : e.count = 1) :
    loopEnd (e :: rest) e.bend = loopEnd rest e.bend := by
  rw [loopEnd, if_pos rfl, if_pos hc]

/-- A stack whose innermost loop ends elsewhere stays. -/
theorem loopEnd_elsewhere {ls : List LoopEntry} {x : W64} (h : ∀ e, ls.head? = some e → e.bend ≠ x) :
    loopEnd ls x = (ls, none) := by
  cases ls with
  | nil => rfl
  | cons e rest => rw [loopEnd, if_neg (h e rfl)]

/-- A loop of n passes at the end of its pass k, counted from 0 (R187, R188). -/
def LoopEntry.atPass (n k : Nat) (p : BitVec 16) (b x : W64) (rot : Bool) : LoopEntry :=
  ⟨BitVec.ofNat 32 (n - k), BitVec.ofNat 32 k * p.signExtend 32, p, b, x, rot⟩

section
variable {n : Nat} (p : BitVec 16) (b x : W64) (rot : Bool) (rest : List LoopEntry)

/-- A pass but the last: back to the body's start, one pass fewer, the index one pitch on. -/
theorem loopEnd_pass {k : Nat} (hk : k + 1 < n) (hn : n < 2 ^ 32) :
    loopEnd (.atPass n k p b x rot :: rest) x = (.atPass n (k + 1) p b x rot :: rest, some (b, rot)) := by
  have hcount : BitVec.ofNat 32 (n - k) - 1 = BitVec.ofNat 32 (n - (k + 1)) := by bv_omega
  have hlast : BitVec.ofNat 32 (n - k) ≠ 1 := by bv_omega
  have hindex : BitVec.ofNat 32 k * p.signExtend 32 + p.signExtend 32 = BitVec.ofNat 32 (k + 1) * p.signExtend 32 := by
    rw [BitVec.ofNat_add, BitVec.add_mul, BitVec.one_mul]
  refine (loopEnd_back (e := .atPass n k p b x rot) rest hlast).trans ?_
  simp only [LoopEntry.atPass, hcount, hindex]

/-- The last pass: the loop is left. -/
theorem loopEnd_last (hn : 0 < n) (hrest : ∀ e, rest.head? = some e → e.bend ≠ x) :
    loopEnd (.atPass n (n - 1) p b x rot :: rest) x = (rest, none) := by
  have hcount : (LoopEntry.atPass n (n - 1) p b x rot).count = 1 := by
    rw [LoopEntry.atPass, Nat.sub_sub_self hn]
    rfl
  exact (loopEnd_leave rest hcount).trans (loopEnd_elsewhere hrest)
end

/-! ### The loop instructions -/

section
variable {s : State} {g : Guard}

theorem exec_lbreak_outside (h : s.enabled g []) (hl : s.me.loops = []) : exec (.lbreak g) s = .next s := by
  show execLbreak g s = _
  rw [execLbreak, guarded_on s g [] _ h, sourced_nil, hl]

theorem exec_lbreak_inside (h : s.enabled g []) {e : LoopEntry} {rest : List LoopEntry} (hl : s.me.loops = e :: rest) :
    exec (.lbreak g) s = .next ((s.onMe fun x => { x with loops := rest }).endCheck e.bend) := by
  show execLbreak g s = _
  rw [execLbreak, guarded_on s g [] _ h, sourced_nil, hl]

theorem exec_lidx (h : s.enabled g []) (d : BitVec 5) (l : BitVec 3) : exec (.lidx g d l) s =
    .next (s.toDest 1 d ((s.me.loops[l.toNat]?.map fun e => e.index.signExtend 64).getD 0)) := by
  show execLidx g d l s = _
  rw [execLidx, guarded_on s g [] _ h, sourced_nil]
  cases s.me.loops[l.toNat]? <;> rfl

variable {srcs : List (BitVec 5)} {n : State → W32} {r : BitVec 1} {e : BitVec 9}

/-- With six entries held a loop raises, on or off (reason 9 of R149). -/
theorem enterLoop_full (hl : 6 ≤ s.me.loops.length) :
    s.enterLoop g srcs n r e = .next (s.raise ⟨cIllegal, s.sylInfo 9, none, none, false⟩) := if_pos hl

/-- A loop with a place on the stack (R187): skipped with no passes, else entered, with the pitch in force. -/
theorem enterLoop_on (h : s.enabled g srcs) (hl : s.me.loops.length < 6) : s.enterLoop g srcs n r e =
    .next ((s.sourced srcs).onMe fun x =>
      if n (s.sourced srcs) = 0 then
        { x with pc := addrBits (addrBits (s.cur.addr + 32 * e.zeroExtend 64) + 32) }
      else { x with
        loops := ⟨n (s.sourced srcs), 0, x.lpitch, addrBits (s.cur.addr + 32),
          addrBits (s.cur.addr + 32 * e.zeroExtend 64), r = 1⟩ :: x.loops
        pc := addrBits (s.cur.addr + 32) }) := by
  refine (if_neg (Nat.not_le.2 hl)).trans ((guarded_on s g srcs _ h).trans ?_)
  dsimp only
  rw [sourced_addr]
  split <;> rfl
end

/-- Settles O8: LOOP and LOOPI are the one entry of R187 with their own counts. -/
theorem loopsBegin : Obligations.LoopsBegin := by
  unfold Obligations.LoopsBegin
  refine ⟨fun s g a k r e hl => ⟨fun h => ?loop, fun h => ?loopi⟩, fun s g a k r e hl => ⟨?loopFull, ?loopiFull⟩⟩
  case loop =>
    show execLoop g a r e s = _
    exact enterLoop_on h hl
  case loopi =>
    show execLoopi g k r e s = _
    exact enterLoop_on h hl
  case loopFull =>
    show execLoop g a r e s = _
    exact enterLoop_full hl
  case loopiFull =>
    show execLoopi g k r e s = _
    exact enterLoop_full hl

/-- Settles O9: every pass but the last goes back, the last leaves; LBREAK and LIDX read the same stack. -/
theorem loopPasses : Obligations.LoopPasses := by
  unfold Obligations.LoopPasses
  refine ⟨fun n p b x rot rest hpos hn hrest => ⟨fun k hk => ?_, ?_⟩, fun s g d l h => ⟨?_, fun e rest hl => ?_, ?_⟩⟩
  · exact loopEnd_pass p b x rot rest hk hn
  · exact loopEnd_last p b x rot rest hpos hrest
  · exact exec_lbreak_outside h
  · exact exec_lbreak_inside h hl
  · exact exec_lidx h d l

end Sys2Proof.Machine
end

section
/-! PROOFS. Containment regions (O12, R196, R197, R357, R358): opening, closing, and what an unwind leaves of its
sequencer. -/

namespace Sys2Proof.Machine

/-! ### The unwind of a sequencer -/

/-- A sequencer rewound to a region: the snapshot back, q0 the cause, the region and those of its mode inside it closed,
the fetch at the handler (R197, log 106). -/
def Seq.rewound (x : Seq) (r : Region) (c : Nat) : Seq :=
  { x with
    named := r.named
    preds := r.preds
    rbase := r.rbase
    loops := r.loops
    csrws := x.csrws.filter fun w => w.num ≠ 0x003
    queue := BitVec.ofNat 64 c :: List.replicate 15 0
    ueDue := x.ueDue.filter fun e => bits e.word 0 4 ≠ 7
    regions := x.regions.filter fun h => !(h.sup == r.sup && r.order ≤ h.order)
    vHold := none
    fHold := none
    poisonDue := false
    pc := r.handler
    delay := none
    run := .running
    heldSince := none
    wdog := false
    fetchFault := none }

section
variable {s : State} {p q : Nat} {r : Region} {c : Nat}

/-- An unwind with no operation issued since its CROPEN is a change of its sequencer alone. -/
theorem unwind_onSeq (hrecs : ∀ e ∈ (s.seq p q).recs, e.order ≤ r.order) : ∃ written, s.unwind p q r c =
    s.onSeq p q fun x => (x.discardResults.unbusied written).rewound r c := by
  have hnone : s.cancelAfter p q r.order = s := by
    have hempty : (s.seq p q).recs.filter (fun e => decide (r.order < e.order) && !e.taken) = [] :=
      List.filter_eq_nil_iff.2 fun e he => by simp [Nat.not_lt.2 (hrecs e he)]
    rw [State.cancelAfter, hempty, List.foldl_nil]
  unfold State.unwind
  rw [hnone, onSeq_settle, onSeq_onSeq]
  exact ⟨_, onSeq_congr rfl⟩

variable (hp : p < s.pillars.length) (hq : q < (s.pillar p).seqs.length)
  (hrecs : ∀ e ∈ (s.seq p q).recs, e.order ≤ r.order)
include hp hq hrecs

theorem unwind_seq : ∃ written, (s.unwind p q r c).seq p q =
    ((s.seq p q).discardResults.unbusied written).rewound r c := by
  obtain ⟨written, hunwind⟩ := unwind_onSeq (c := c) hrecs
  exact ⟨written, hunwind ▸ onSeq_self s p q _ hp hq⟩
end

/-! ### The results discarded (R197, R358) -/

theorem discardResults_course (x : Seq) : x.discardResults.course = x.course := by
  have kept (ws : List Payload) (y : Seq) : (ws.foldl (fun y w => w.land y) y).course = y.course := by
    induction ws generalizing y with
    | nil => rfl
    | cons w ws ih => rw [List.foldl_cons, ih, land_course]
  exact kept x.undo x

/-- What an unwind's discarding leaves of its sequencer's place. -/
theorem discardResults_place (x : Seq) : x.discardResults.mode = x.mode ∧ x.discardResults.recs = x.recs ∧
    x.discardResults.regions = x.regions := by
  have hcourse := discardResults_course x
  simp only [Seq.course, Prod.mk.injEq] at hcourse
  obtain ⟨_, hmode, hrecs, hregions, _⟩ := hcourse
  exact ⟨hmode, hrecs, hregions⟩

/-- A DRAIN's delivery is a vector result of the Y slot (R325, R357). -/
theorem delivers_iff (l : Landing) : l.delivers = true ↔
    l.slot = 7 ∧ ((∃ k v m, l.what = .vec k v m) ∨ ∃ k v m, l.what = .vpred k v m) := by
  rw [Landing.delivers, Bool.and_eq_true, decide_eq_true_eq]
  refine and_congr_right fun _ => ?_
  cases l.what <;> simp

theorem mem_discardResults (x : Seq) (l : Landing) : l ∈ x.discardResults.inflight ↔ l ∈ x.inflight ∧ l.slot = 7 ∧
    ((∃ k v m, l.what = .vec k v m) ∨ ∃ k v m, l.what = .vpred k v m) := by
  rw [← delivers_iff]
  exact List.mem_filter

theorem discardResults_vregs {x : Seq} (h : x.undo = []) : x.discardResults.vregs = x.vregs := by
  rw [Seq.discardResults, h]
  rfl

/-- The regions an unwind leaves open. -/
theorem mem_rewound_regions (x : Seq) (written : Nat → Bool) (r h : Region) (c : Nat) :
    h ∈ ((x.discardResults.unbusied written).rewound r c).regions ↔
      h ∈ x.regions ∧ ¬ (h.sup = r.sup ∧ r.order ≤ h.order) := by
  obtain ⟨_, _, hkept⟩ := discardResults_place x
  have hregions : ((x.discardResults.unbusied written).rewound r c).regions =
      x.regions.filter fun h => !(h.sup == r.sup && r.order ≤ h.order) := congrArg (List.filter _) hkept
  rw [hregions, List.mem_filter, Bool.not_eq_true', ← Bool.not_eq_true, Bool.and_eq_true, beq_iff_eq,
    decide_eq_true_eq]

theorem rewound_vregs (x : Seq) (written : Nat → Bool) (r : Region) (c : Nat) :
    ((x.unbusied written).rewound r c).vregs = x.vregs := rfl

/-! ### A vector result of the unwind's own ic (R358) -/

/-- A masked write undone. -/
theorem mergeMask_undone (m : PReg) (o v : VReg) {e : Nat} (he : e < 1024) :
    at0 (mergeMask m (mergeMask m o v) o) e = at0 o e := by
  rw [at0_mergeMask m _ o he, at0_mergeMask m o v he]
  split <;> rfl

theorem landNoted_recs (x : Seq) (t : Nat) : (x.landNoted t).recs = x.recs := by
  have hcourse := landUpTo_course x t
  simp only [Seq.course, Prod.mk.injEq] at hcourse
  obtain ⟨_, _, hrecs, _⟩ := hcourse
  exact hrecs

section
variable {x : Seq} {t k : Nat} {l : Landing} {v : VReg} {m : PReg} (hundo : x.undo = []) (hflight : x.inflight = [l])
  (hwhat : l.what = .vec k v m) (hland : l.land ≤ t) (hslot : l.slot < 7)
include hundo hflight hwhat hland hslot

/-- What a vector result that lands alone writes, and what it notes of what it wrote over. -/
theorem landNoted_vec : (x.landNoted t).undo = [.vec k (x.vregs.getD k (vfill 0)) m] ∧
    (x.landNoted t).vregs = upd x.vregs k fun o => mergeMask m o v := by
  have hdue : x.inflight.filter (fun l => l.land ≤ t) = [l] := by rw [hflight]; simp [hland]
  have hnot : l.delivers = false := by simp [Landing.delivers, Nat.ne_of_lt hslot]
  constructor
  · have hover : x.overwritten t = [.vec k (x.vregs.getD k (vfill 0)) m] := by
      rw [Seq.overwritten, hdue]
      simp [sortLandings, insertLanding, hnot, hwhat, Payload.saved]
    rw [Seq.landNoted, hover, hundo]
    rfl
  · have hlands := landUpTo_one hdue
    rw [Seq.landNoted, hlands, hwhat]
    rfl

theorem landNoted_discarded {e : Nat} (he : e < 1024) :
    at0 ((x.landNoted t).discardResults.vregs.getD k []) e = at0 (x.vregs.getD k []) e := by
  obtain ⟨hnoted, hvregs⟩ := landNoted_vec hundo hflight hwhat hland hslot
  have hdiscard : (x.landNoted t).discardResults.vregs =
      upd x.vregs k fun o => mergeMask m (mergeMask m o v) (x.vregs.getD k (vfill 0)) := by
    have hfold : (x.landNoted t).discardResults.vregs =
        ((x.landNoted t).undo.foldl (fun y w => w.land y) (x.landNoted t)).vregs := rfl
    rw [hfold, hnoted]
    exact (congrArg (fun l => upd l k fun o => mergeMask m o (x.vregs.getD k (vfill 0))) hvregs).trans
      (upd_upd _ k _ _)
  rw [hdiscard]
  by_cases hk : k < x.vregs.length
  · have hold : x.vregs.getD k (vfill 0) = x.vregs.getD k [] := by
      rw [List.getD_eq_getElem _ _ hk, List.getD_eq_getElem _ _ hk]
    rw [upd_getD_self _ _ _ _ hk, hold, mergeMask_undone m _ v he]
  · rw [upd_of_length_le _ _ _ (Nat.not_lt.1 hk)]
end

/-! ### CROPEN and CRCLOSE -/

/-- The regions but the innermost one of a mode. -/
theorem closeInnermost_append {mode : Bool} {before : List Region} (r : Region) (after : List Region)
    (hr : r.sup = mode) (hbefore : ∀ h ∈ before, h.sup ≠ mode) :
    closeInnermost mode (before ++ r :: after) = before ++ after := by
  induction before with
  | nil => exact if_pos (by simpa using hr)
  | cons h before ih =>
    have hne : ¬ (h.sup == mode) = true := by simpa using hbefore h List.mem_cons_self
    exact (if_neg hne).trans (congrArg (h :: ·) (ih fun h hh => hbefore h (List.mem_cons_of_mem _ hh)))

/-- A forced raise unwinds the innermost region opened in the current mode (R196). -/
theorem regionFor_forced {x : Seq} {e : Raise} (he : e.force = true) {before after : List Region} {r : Region}
    (hregions : x.regions = before ++ r :: after) (hr : r.sup = x.mode) (hbefore : ∀ h ∈ before, h.sup ≠ x.mode) :
    x.regionFor e = some r := by
  have hopen : x.regions.filter (fun g => g.sup == x.mode) = r :: after.filter fun g => g.sup == x.mode := by
    rw [hregions, List.filter_append, List.filter_eq_nil_iff.2 fun h hh => by simpa using hbefore h hh,
      List.filter_cons_of_pos (by simpa using hr), List.nil_append]
  rw [Seq.regionFor, hopen]
  simp [he]

/-- A raise that finds its region, no poison being consumed with it and no operation issued since the region's CROPEN,
rewinds the sequencer. -/
theorem raise_rewinds {s : State} {e : Raise} {r : Region} (hplaced : s.placed) (hpoison : e.poison = none)
    (hregion : s.me.regionFor e = some r) (hrecs : ∀ x ∈ s.me.recs, x.order ≤ r.order) :
    ∃ written, (s.raise e).me = (s.me.discardResults.unbusied written).rewound r e.cause := by
  have htake : s.take e = s.unwind s.cur.p s.cur.q r e.cause := by
    unfold State.take
    simp only [hpoison, hregion]
  obtain ⟨written, hunwind⟩ := unwind_onSeq (c := e.cause) hrecs
  refine ⟨written, ?_⟩
  rw [State.raise, htake, hunwind]
  exact onMe_me s _ hplaced

/-- The message pop leaves the sequencers in their places. -/
theorem sourced_placed {s : State} (srcs : List (BitVec 5)) (h : s.placed) : (s.sourced srcs).placed := by
  obtain ⟨hp, hq⟩ := h
  rcases sourced_cases s srcs with e | e <;> rw [e]
  · exact ⟨hp, hq⟩
  rcases popMq_cases s with e | ⟨v, st, rest, _, _, e⟩ <;> rw [e]
  · exact ⟨hp, hq⟩
  · exact ⟨hp.trans_eq (onPillar_length s _ _).symm,
      hq.trans_eq (onPillar_keeps s s.cur.p (fun P => P.seqs.length) (f := fun P => { P with mq := rest })
        (fun _ => rfl) _).symm⟩

section
variable {s : State} {g : Guard} {a : BitVec 5} {o : BitVec 2}

theorem exec_cropen_opens (h : s.enabled g [a]) (hl : s.me.regions.length < 4) : exec (.cropen g a o) s =
    .next ((s.sourced [a]).onMe fun x => { x with regions :=
      ⟨(s.sourced [a]).src a &&& 0x000FFFFFFFFFFFE0, o, x.mode, x.order, x.named, x.preds, x.rbase, x.loops⟩ ::
        x.regions }) := by
  show execCropen g a o s = _
  rw [execCropen, guarded_on s g [a] _ h, sourced_me, if_neg (Nat.not_le.2 hl)]
  rfl

theorem exec_cropen_full (h : s.enabled g [a]) (hl : 4 ≤ s.me.regions.length) : exec (.cropen g a o) s =
    .next ((s.sourced [a]).raise ⟨cIllegal, (s.sourced [a]).sylInfo 0, none, none, true⟩) := by
  show execCropen g a o s = _
  rw [execCropen, guarded_on s g [a] _ h, sourced_me, if_pos hl]
  rfl

theorem exec_crclose (h : s.enabled g []) : exec (.crclose g) s =
    .next (s.onMe fun x => { x with regions := closeInnermost x.mode x.regions }) := by
  show execCrclose g s = _
  exact guarded_on s g [] _ h
end

/-- Settles O12: an unwind is one change of its sequencer, the results discarded and the rest rewound; CROPEN with four
regions open comes to it by its forced raise. -/
theorem containmentRegions : Obligations.ContainmentRegions := by
  unfold Obligations.ContainmentRegions
  refine ⟨fun s g a o => ⟨fun h hl => exec_cropen_opens h hl, ?full, ?close⟩, ?unwind, ?landed⟩
  case full =>
    intro h hl hplaced before r after hregions hr hbefore hrecs
    have hme := sourced_me s [a]
    obtain ⟨written, hraise⟩ := raise_rewinds (s := s.sourced [a])
      (e := ⟨cIllegal, (s.sourced [a]).sylInfo 0, none, none, true⟩) (sourced_placed [a] hplaced) rfl
      (by rw [hme]; exact regionFor_forced rfl hregions hr hbefore) (by rw [hme]; exact hrecs)
    rw [hme] at hraise
    refine ⟨_, exec_cropen_full h hl, rfl, congrArg Seq.pc hraise, ?_, congrArg Seq.queue hraise,
      congrArg Seq.named hraise, fun h => ?_⟩
    · obtain ⟨hmode, _⟩ := discardResults_place s.me
      exact (congrArg Seq.mode hraise).trans hmode
    · rw [hraise]
      exact mem_rewound_regions s.me written r h cIllegal
  case close =>
    intro h before r after hregions hr hbefore hplaced
    refine ⟨_, exec_crclose h, ?_⟩
    rw [onMe_me s _ hplaced, hregions, closeInnermost_append r after hr hbefore]
  case unwind =>
    intro s p q r c hp hq hrecs
    obtain ⟨written, hseq⟩ := unwind_seq (c := c) hp hq hrecs
    obtain ⟨hmode, hkept, _⟩ := discardResults_place (s.seq p q)
    dsimp only
    rw [hseq]
    refine ⟨rfl, rfl, rfl, rfl, rfl, rfl, rfl, mem_discardResults _, rfl, hmode, rfl, rfl, hkept, discardResults_vregs,
      fun h => mem_rewound_regions _ written r h c⟩
  case landed =>
    intro s p q r c l k v m hp hq hrecs hundo hflight hwhat hland hslot
    have hnoted := onSeq_self s p q (fun x => x.landNoted (s.pillar p).ic) hp hq
    obtain ⟨written, hseq⟩ := unwind_seq (c := c) (r := r) (s := s.onSeq p q fun x => x.landNoted (s.pillar p).ic)
      (p := p) (q := q) (hp.trans_eq (onSeq_length s p q _).symm) (hq.trans_eq (onSeq_seqs_length s p q _ p).symm)
      (by rw [hnoted, landNoted_recs]; exact hrecs)
    dsimp only
    rw [hseq, hnoted, rewound_vregs]
    exact fun e he => landNoted_discarded hundo hflight hwhat hland hslot he

end Sys2Proof.Machine
end

section
/-! PROOFS. The scalar instructions (O1-O4, R176-R182, R284, R285): what an enabled one puts in flight, and its value as
a number. -/

namespace Sys2Proof.Machine

/-! ### What an enabled instruction makes -/

section
variable {s : State} {g : Guard} {srcs : List (BitVec 5)} (h : s.enabled g srcs)
include h

/-- A scalar instruction's result is its value in the state its sources are read in (R158). -/
theorem scalar_value {lat : Nat} {d : BitVec 5} {f : State → W64} {v : W64} (hv : f (s.sourced srcs) = v) :
    s.scalar g srcs lat d f = .next ((s.sourced srcs).toDest lat d v) :=
  (guarded_on s g srcs _ h).trans (hv ▸ rfl)

/-- A compare's or predicate instruction's result is its value in the state its sources are read in (R180, R181). -/
theorem compare_value {k : BitVec 4} {f : State → Bool} {b : Bool} (hb : f (s.sourced srcs) = b) :
    s.compare g srcs k f = .next ((s.sourced srcs).toPred 1 k b) :=
  (guarded_on s g srcs _ h).trans (hb ▸ rfl)
end

/-! ### Arithmetic (R176, R177) -/

theorem mul_ofNat (x y : W64) : x * y = BitVec.ofNat 64 (x.toNat * y.toNat) := by
  rw [BitVec.ofNat_mul, BitVec.ofNat_toNat, BitVec.ofNat_toNat, BitVec.setWidth_eq, BitVec.setWidth_eq]

theorem shl_nat (x : W64) (n : Nat) : x <<< n = BitVec.ofNat 64 (x.toNat * 2 ^ n) :=
  BitVec.eq_of_toNat_eq (by rw [BitVec.toNat_shiftLeft, Nat.shiftLeft_eq, BitVec.toNat_ofNat])

theorem min_signed (x y : W64) : (if y.slt x then y else x) = if x.toInt ≤ y.toInt then x else y := by
  simp only [compare_lt, decide_eq_true_eq, ← Int.not_le, ite_not]

theorem max_signed (x y : W64) : (if x.slt y then y else x) = if x.toInt ≤ y.toInt then y else x := by
  rw [compare_lt]
  by_cases hle : x.toInt ≤ y.toInt
  · rw [if_pos hle]
    split
    · rfl
    next hlt => exact BitVec.eq_of_toInt_eq (le_antisymm hle (by simpa using hlt))
  · rw [if_neg hle, if_neg (by simp; omega)]

theorem min_unsigned (x y : W64) : (if y < x then y else x) = if x.toNat ≤ y.toNat then x else y := by
  simp only [BitVec.lt_def, ← Nat.not_le, ite_not]

theorem max_unsigned (x y : W64) : (if x < y then y else x) = if x.toNat ≤ y.toNat then y else x := by
  by_cases hle : x.toNat ≤ y.toNat
  · rw [if_pos hle]
    split
    · rfl
    next hlt => exact BitVec.eq_of_toNat_eq (le_antisymm hle (Nat.not_lt.1 hlt))
  · rw [if_neg hle, if_neg (by rw [BitVec.lt_def]; omega)]

theorem divideN_eq (x y : W64) : divideN x y = if y = 0 then -1 else BitVec.ofNat 64 (x.toNat / y.toNat) := by
  unfold divideN
  split
  · rfl
  · exact BitVec.udiv_def

theorem remainderN_eq (x y : W64) : remainderN x y = if y = 0 then x else BitVec.ofNat 64 (x.toNat % y.toNat) := by
  unfold remainderN
  split
  · rfl
  · exact BitVec.umod_def

/-! ### The byte order reversed (R176) -/

/-- A bit of words joined. -/
theorem foldl_or_bit (f : Nat → W64) (l : List Nat) (w : W64) (j : Nat) :
    (l.foldl (fun w i => w ||| f i) w).getLsbD j = (w.getLsbD j || l.any fun i => (f i).getLsbD j) := by
  induction l generalizing w with
  | nil => simp
  | cons i l ih => rw [List.foldl_cons, ih, BitVec.getLsbD_or, List.any_cons, Bool.or_assoc]

/-- A byte shifted to place n shows in that byte alone. -/
theorem shifted_byte_bit (b : Byte) {n i j : Nat} (hi : i < 8) (hj : j < 8) :
    (b.zeroExtend 64 <<< (8 * n)).getLsbD (8 * i + j) = (decide (n = i) && b.getLsbD j) := by
  rw [BitVec.getLsbD_shiftLeft, BitVec.zeroExtend_eq_setWidth, BitVec.getLsbD_setWidth]
  by_cases hn : n = i
  · subst hn
    have hlow : ¬ 8 * n + j < 8 * n := by omega
    have hin : 8 * n + j < 64 := by omega
    have hat : 8 * n + j - 8 * n = j := by omega
    simp [hlow, hin, hat, show j < 64 by omega]
  · by_cases hlow : 8 * i + j < 8 * n
    · simp [hn, hlow]
    · have hhigh : b.getLsbD (8 * i + j - 8 * n) = false := BitVec.getLsbD_of_ge _ _ (by omega)
      simp [hn, hhigh]

theorem bswap64_byte (x : W64) {i : Nat} (hi : i < 8) :
    (bswap64 x).extractLsb' (8 * i) 8 = x.extractLsb' (56 - 8 * i) 8 := by
  refine BitVec.eq_of_getLsbD_eq fun j hj => ?_
  have hzero : (0 : W64).getLsbD (8 * i + j) = false := BitVec.getLsbD_zero
  rw [BitVec.getLsbD_extractLsb', decide_eq_true hj, Bool.true_and, bswap64, foldl_or_bit, hzero, Bool.false_or,
    Bool.eq_iff_iff, List.any_eq_true]
  simp only [shifted_byte_bit _ hi hj, Bool.and_eq_true, decide_eq_true_eq, List.mem_range]
  constructor
  · rintro ⟨n, _, rfl, hbit⟩
    exact hbit
  · exact fun hbit => ⟨i, hi, rfl, hbit⟩

/-! ### Bit fields (R178) -/

/-- The offset a control holds; 64 where it breaks R178's form. -/
def fieldOffset (c : W64) : Nat := if c.toNat < 2 ^ 14 then c.toNat % 64 else 64

/-- The width a control holds, cut at bit 63; 0 where it breaks R178's form. -/
def fieldWidth (c : W64) : Nat := if c.toNat < 2 ^ 14 then min (min (c.toNat / 64) 64) (64 - fieldOffset c) else 0

theorem ctlField_parts (c : W64) : ctlField c = (fieldOffset c, fieldWidth c) := by
  rw [ctlField_eq, fieldWidth, fieldOffset]
  split <;> rfl

theorem fieldWidth_le (c : W64) : fieldWidth c ≤ 64 := by
  unfold fieldWidth
  split <;> omega

/-- The field of a word that a control names, as a number. -/
def fieldValue (x c : W64) : Nat := x.toNat / 2 ^ fieldOffset c % 2 ^ fieldWidth c

theorem bitField_eq (x c : W64) : bitField x c = BitVec.ofNat 64 (fieldValue x c) := by
  rw [bitField, ctlField_parts, bits_toNat, fieldValue]

/-- The balanced remainder scales with an even modulus. -/
theorem bmod_scale (a : Int) {m k : Nat} (hm : 0 < m) (hk : 0 < k) :
    (a * k).bmod (2 * (m * k)) = a.bmod (2 * m) * k := by
  have hlow : -(m : Int) ≤ a.bmod (2 * m) := by
    have := Int.le_bmod (x := a) (m := 2 * m) (by omega)
    omega
  have hhigh : a.bmod (2 * m) + 1 ≤ m := by
    have := Int.bmod_lt (x := a) (m := 2 * m) (by omega)
    omega
  have hlowk : -((m * k : Nat) : Int) ≤ a.bmod (2 * m) * k := by
    have := Int.mul_le_mul_of_nonneg_right hlow (Int.natCast_nonneg k)
    rwa [Int.neg_mul, ← Nat.cast_mul] at this
  have hhighk : a.bmod (2 * m) * k + k ≤ ((m * k : Nat) : Int) := by
    have := Int.mul_le_mul_of_nonneg_right hhigh (Int.natCast_nonneg k)
    rwa [Int.add_mul, Int.one_mul, ← Nat.cast_mul] at this
  refine (Int.bmod_eq_iff (by positivity)).2 ⟨by omega, by omega, ?_⟩
  have hdvd := mul_dvd_mul_right (Int.dvd_bmod_sub_self (x := a) (m := 2 * m)) (k : Int)
  rwa [sub_mul, ← Nat.cast_mul, Nat.mul_assoc] at hdvd

/-- A number of w bits shifted to the top of a word and back is extended from its top bit. -/
theorem shift_back_signed (v : Nat) {w : Nat} (hpos : 0 < w) (hw : w ≤ 64) :
    (BitVec.ofNat 64 v <<< (64 - w)).sshiftRight (64 - w) = BitVec.ofInt 64 ((v : Int).bmod (2 ^ w)) := by
  have hhalf : 2 ^ w = 2 * 2 ^ (w - 1) := by rw [← pow_succ', Nat.sub_add_cancel hpos]
  have hword : 2 ^ 64 = 2 * (2 ^ (w - 1) * 2 ^ (64 - w)) := by
    rw [← Nat.mul_assoc, ← hhalf, ← pow_add, Nat.add_sub_cancel' hw]
  have htop : (BitVec.ofNat 64 v <<< (64 - w)).toInt = (v : Int).bmod (2 ^ w) * (2 ^ (64 - w) : Nat) := by
    rw [hhalf, ← bmod_scale _ (by positivity) (by positivity), ← hword, BitVec.toInt_eq_toNat_bmod, shl_nat,
      BitVec.toNat_ofNat, BitVec.toNat_ofNat, Nat.mod_mul_mod, Int.natCast_emod, Int.emod_bmod, Nat.cast_mul]
  rw [sar_int, htop, Nat.cast_pow, Nat.cast_ofNat, Int.mul_ediv_cancel _ (by positivity)]

theorem bitFieldS_eq (x c : W64) :
    bitFieldS x c = BitVec.ofInt 64 ((fieldValue x c : Int).bmod (2 ^ fieldWidth c)) := by
  rw [bitFieldS, bitField_eq, ctlField_parts]
  dsimp only
  split
  next hw =>
    rw [hw, pow_zero, Int.bmod_one]
    rfl
  next hw => exact shift_back_signed _ (Nat.pos_of_ne_zero hw) (fieldWidth_le c)

theorem bitInsert_bit (x y c : W64) {i : Nat} (hi : i < 64) : (bitInsert x y c).getLsbD i =
    if fieldOffset c ≤ i ∧ i < fieldOffset c + fieldWidth c then y.getLsbD (i - fieldOffset c) else x.getLsbD i := by
  rw [bitInsert, ctlField_parts, setBits_getLsbD _ _ _ _ _ hi]
  rfl

/-! ### Frame addresses (R179) -/

theorem frameAddr_eq (f : BitVec 6) (x : W64) :
    frameAddr f x = BitVec.ofNat 64 (f.toNat * 2 ^ 22 + x.toNat % 2 ^ 22) := by
  have hlow : x &&& 0x3FFFFF = field x.toNat 0 22 := BitVec.eq_of_toNat_eq (by
    rw [BitVec.toNat_and, field, BitVec.toNat_ofNat, Nat.shiftLeft_zero]
    exact (Nat.and_two_pow_sub_one_eq_mod _ 22).trans (Nat.mod_eq_of_lt (by omega)).symm)
  rw [frameAddr, hlow, BitVec.or_comm, field_or_field, Nat.add_comm, Nat.mod_eq_of_lt f.isLt]

/-! ### Predicates and windows -/

/-- A compare with a sign-extended immediate (R180). -/
theorem imm10_toInt (i : BitVec 10) : (imm10 i).toInt = i.toInt := BitVec.toInt_signExtend_of_le (by decide)

/-- The window in force at a TIME, or the next, is the first that has not ended (R284, R285). -/
theorem wsWindow_first (st t : Nat) : ∃ k, wsWindow st t = 32000 * k + 8000 * st ∧ t < wsWindow st t + 1600 ∧
    ∀ j, t < 32000 * j + 8000 * st + 1600 → k ≤ j := by
  unfold wsWindow
  dsimp only
  split
  · exact ⟨0, by omega, by omega, fun j _ => Nat.zero_le j⟩
  · split
    · exact ⟨(t - 8000 * st) / 32000, by omega, by omega, fun j hj => by omega⟩
    · exact ⟨(t - 8000 * st) / 32000 + 1, by omega, by omega, fun j hj => by omega⟩

/-! ### The statements -/

/-- Settles O1: each instruction is the one scalar operation with its own value, and each value is the number of R176
and R177. -/
theorem integerArithmetic : Obligations.IntegerArithmetic := by
  unfold Obligations.IntegerArithmetic
  refine ⟨fun s g d a => ⟨fun b h => ?two, fun h => ?one⟩, fun s g d a b h => ?division⟩
  case two =>
    have hshr (x y : W64) : x >>> count6 y = BitVec.ofNat 64 (x.toNat / 2 ^ (y.toNat % 64)) := by
      rw [shr_nat, count6_eq]
    have hsar (x y : W64) : x.sshiftRight (count6 y) = BitVec.ofInt 64 (x.toInt / 2 ^ (y.toNat % 64)) := by
      rw [sar_int, count6_eq]
    dsimp only [exec]
    exact ⟨scalar_value h rfl, scalar_value h rfl, scalar_value h (mul_ofNat _ _),
      scalar_value h (mulHigh_eq _ _), scalar_value h (mulHighN_eq _ _), scalar_value h rfl,
      scalar_value h rfl, scalar_value h rfl, scalar_value h (shl_eq _ _), scalar_value h (hshr _ _),
      scalar_value h (hsar _ _), scalar_value h (rotl_eq _ _), scalar_value h (min_signed _ _),
      scalar_value h (max_signed _ _), scalar_value h (min_unsigned _ _),
      scalar_value h (max_unsigned _ _), fun m => scalar_value h rfl⟩
  case one =>
    obtain ⟨hclz, hclzZeros, hclzOne⟩ := find_spec fun i => ((s.sourced [a]).src a).getLsbD (63 - i)
    obtain ⟨hctz, hctzZeros, hctzOne⟩ := find_spec fun i => ((s.sourced [a]).src a).getLsbD i
    dsimp only [exec]
    refine ⟨⟨_, scalar_value h rfl, hclz, hclzZeros, hclzOne⟩, ⟨_, scalar_value h rfl, hctz, hctzZeros, hctzOne⟩,
      scalar_value h (congrArg _ (popN_count _)), ⟨_, scalar_value h rfl, fun i hi => bswap64_byte _ hi⟩,
      scalar_value h rfl, fun i => ?_, fun i => ?_⟩
    · exact ⟨scalar_value h rfl, scalar_value h rfl, scalar_value h rfl, scalar_value h rfl⟩
    · exact ⟨scalar_value h (shl_nat _ _), scalar_value h (shr_nat _ _), scalar_value h (sar_int _ _)⟩
  case division =>
    dsimp only [exec]
    exact ⟨scalar_value h (divide_eq _ _), scalar_value h (remainder_eq _ _),
      scalar_value h (divideN_eq _ _), scalar_value h (remainderN_eq _ _)⟩

/-- Settles O2: the same operation, with the fields a control names. -/
theorem bitFieldsAndImmediates : Obligations.BitFieldsAndImmediates := by
  unfold Obligations.BitFieldsAndImmediates
  refine ⟨fun s g d a b => ⟨fun h => ?extract, fun m h => ?insert⟩,
    fun s g d a => ⟨fun h i => ?constant, fun h => ?immediates, fun b h k => ?select⟩⟩
  case extract =>
    dsimp only [exec]
    exact ⟨scalar_value h (bitField_eq _ _), scalar_value h (bitFieldS_eq _ _)⟩
  case insert =>
    dsimp only [exec]
    exact ⟨_, scalar_value h rfl, fun i hi => bitInsert_bit _ _ _ hi⟩
  case constant =>
    dsimp only [exec]
    exact scalar_value h rfl
  case select =>
    dsimp only [exec]
    exact scalar_value h rfl
  case immediates =>
    dsimp only [exec]
    exact ⟨fun i => scalar_value h rfl, fun f => scalar_value h (frameAddr_eq f _)⟩

/-- Settles O3: each compare is the one predicate operation with its own test. -/
theorem comparesAndPredicates : Obligations.ComparesAndPredicates := by
  unfold Obligations.ComparesAndPredicates
  refine ⟨fun s g k a => ⟨fun b h => ?compare, fun h i => ?immediate⟩, fun s g k x y h => ?logic⟩
  case compare =>
    dsimp only [exec]
    exact ⟨compare_value h rfl, compare_value h rfl, compare_value h (compare_lt _ _),
      compare_value h (compare_le _ _), compare_value h rfl, compare_value h rfl⟩
  case immediate =>
    dsimp only [exec]
    exact ⟨compare_value h rfl, compare_value h (by rw [compare_lt, imm10_toInt])⟩
  case logic =>
    dsimp only [exec]
    exact ⟨compare_value h rfl, compare_value h rfl, compare_value h rfl, compare_value h rfl⟩

/-- Settles O4: TIME and CYC are sampled at issue, and WSWIN's window is the first not ended. -/
theorem clocksAndWindows : Obligations.ClocksAndWindows := by
  unfold Obligations.ClocksAndWindows
  refine ⟨fun s g d h => ?clocks, fun s g h => ?window⟩
  case clocks =>
    dsimp only [exec]
    exact ⟨scalar_value h rfl, scalar_value h rfl⟩
  case window =>
    obtain ⟨k, hstart, hopen, hfirst⟩ := wsWindow_first (stackOf s.cur.p) s.time
    dsimp only [exec]
    exact ⟨_, k, guarded_on s g [] _ h, hstart, hopen, hfirst⟩

end Sys2Proof.Machine
end

section
/-! PROOFS. What the cancelling of a sequencer's operations leaves (R352, R357): memory, the places of pillars and
sequencers, and which record indexes are held. -/

namespace Sys2Proof.Machine

/-- What cancelling operations of a sequencer leaves but for the indexes of its records: memory, whose long word is
being issued, how many pillars there are and how many sequencers its pillar has, and the indexes left. -/
structure Recorded where
  mem : List Host.Cell
  cur : Cur
  pillars : Nat
  seqs : Nat
  indexes : List Nat

/-- That of a state. -/
def State.recorded (s : State) (p q : Nat) : Recorded where
  mem := s.mem
  cur := s.cur
  pillars := s.pillars.length
  seqs := (s.pillar p).seqs.length
  indexes := (s.seq p q).recs.map Rec.idx

section
variable (s : State) (p q : Nat)

/-! ### Places -/

theorem recorded_of_parts {s t : State} {p q : Nat} (hmem : t.mem = s.mem) (hcur : t.cur = s.cur)
    (hp : t.pillars.length = s.pillars.length) (hq : (t.pillar p).seqs.length = (s.pillar p).seqs.length)
    (hrecs : (t.seq p q).recs.map Rec.idx = (s.seq p q).recs.map Rec.idx) : t.recorded p q = s.recorded p q := by
  rw [State.recorded, State.recorded, hmem, hcur, hp, hq, hrecs]

theorem onPillar_recorded (p' : Nat) {f : Pillar → Pillar} (hf : ∀ P, (f P).seqs = P.seqs) :
    (s.onPillar p' f).recorded p q = s.recorded p q :=
  have hseqs := onPillar_keeps s p' Pillar.seqs hf p
  recorded_of_parts rfl rfl (onPillar_length s p' f) (congrArg List.length hseqs)
    (congrArg (fun l => (l.getD q Seq.reset).recs.map Rec.idx) hseqs)

theorem onSeq_recorded (p' q' : Nat) {f : Seq → Seq} (hf : ∀ x, (f x).recs.map Rec.idx = x.recs.map Rec.idx) :
    (s.onSeq p' q' f).recorded p q = s.recorded p q :=
  recorded_of_parts rfl rfl (onSeq_length s p' q' f) (onSeq_seqs_length s p' q' f p)
    (onSeq_keeps s p' q' (fun x => x.recs.map Rec.idx) hf p q)

theorem onFrame_recorded (f : Nat) (g : Frame → Frame) : (s.onFrame p f g).recorded p q = s.recorded p q := by
  have hplace : (s.onPillar p fun P => { P with frames := upd P.frames f fun _ => g (s.frame p f) }).recorded p q =
      s.recorded p q := onPillar_recorded s p q p fun _ => by rfl
  unfold State.onFrame
  dsimp only
  split
  · exact hplace
  · exact (onSeq_recorded _ p q p 1 fun _ => by rfl).trans ((onSeq_recorded _ p q p 0 fun _ => by rfl).trans hplace)

theorem foldl_recorded {α : Type} {f : State → α → State} (hf : ∀ s a, (f s a).recorded p q = s.recorded p q)
    (l : List α) : (l.foldl f s).recorded p q = s.recorded p q :=
  foldl_keeps (fun s => s.recorded p q) hf l s

/-! ### What a cancelled operation gives up -/

theorem clearFrame_recorded (f : Nat) : (s.clearFrame p f).recorded p q = s.recorded p q :=
  (onPillar_recorded (s.onFrame p f fun _ => Frame.cleared) p q p fun _ => by rfl).trans (onFrame_recorded s p q f _)

theorem cancelEngine_recorded (e : EngineOp) : (s.cancelEngine p e).recorded p q = s.recorded p q := by
  unfold State.cancelEngine
  cases e.written <;> dsimp only <;> split_ifs <;> simp only [onFrame_recorded, clearFrame_recorded]

theorem removeCube_recorded (i : Nat) : (s.removeCube p q i).recorded p q = s.recorded p q := by
  cases hfound : (s.pillar p).cube.find? fun c => c.q = q && c.record = i with
  | none =>
    unfold State.removeCube
    rw [hfound]
  | some c =>
    obtain ⟨_, rfl⟩ : c.q = q ∧ c.record = i := by simpa using List.find?_some hfound
    have hgiven : (s.roleGiven p c).recorded p q = s.recorded p q := by
      rcases roleGiven_cases s p c with h | ⟨f, h⟩ <;> rw [h]
      exact onFrame_recorded s p q f _
    have hunparked : ((s.roleGiven p c).unparked p q c).recorded p q = (s.roleGiven p c).recorded p q := by
      rcases unparked_cases (s.roleGiven p c) p q c with h | ⟨a, h⟩ <;> rw [h]
      exact onSeq_recorded _ p q p q fun _ => by rfl
    have hyielded : (s.yielded p q c).recorded p q = ((s.roleGiven p c).unparked p q c).recorded p q :=
      onPillar_recorded _ p q p fun _ => by rfl
    rw [removeCube_found s p q c hfound, State.settle, onSeq_recorded _ p q p q fun _ => by rfl, hyielded, hunparked,
      hgiven]

theorem onRec_recorded (i j : Nat) {f : Rec → Rec} (hf : ∀ r, r.idx = j → (f r).idx = j) :
    (s.onRec p i j f).recorded p q = s.recorded p q :=
  onSeq_recorded s p q p i fun x => by
    rw [List.map_map]
    refine List.map_congr_left fun r _ => ?_
    dsimp only [Function.comp]
    split
    next h => rw [hf r h, h]
    · rfl

theorem serveTray_recorded (t : Nat) : (s.serveTray p t).recorded p q = s.recorded p q := by
  unfold State.serveTray
  dsimp only
  exact (foldl_recorded _ p q (fun s (qr : Nat × Rec) => onRec_recorded s p q qr.1 qr.2.idx fun _ _ => rfl) _).trans
    (onPillar_recorded s p q p fun _ => by rfl)

theorem failMember_recorded : (s.failMember p q).recorded p q = s.recorded p q := by
  unfold State.failMember State.latchGang
  split
  · rfl
  next l _ =>
    split_ifs
    · have hlatch (u : State) : ((u.membersOf l.id).foldl (fun s m =>
          if decide (m = (p, q)) then s else s.onSeq m.1 m.2 fun x => x.latchGang 1 s.time) u).recorded p q =
            u.recorded p q :=
        foldl_recorded u p q (fun s m => by
          split
          · rfl
          · exact onSeq_recorded s p q _ _ fun _ => by rfl) _
      exact (hlatch _).trans (onSeq_recorded s p q p q fun _ => by rfl)
    · rfl
end

/-! ### The records gone -/

/-- What is left with the records of some indexes gone. -/
def Recorded.forget (x : Recorded) (gone : List Nat) : Recorded :=
  { x with indexes := x.indexes.filter fun i => !gone.contains i }

theorem forget_nil (x : Recorded) : x.forget [] = x := by
  simp [Recorded.forget]

theorem forget_forget (x : Recorded) (i : Nat) (gone : List Nat) :
    (x.forget [i]).forget gone = x.forget (i :: gone) := by
  simp [Recorded.forget, List.filter_filter, Bool.and_comm]

theorem forget_all (x : Recorded) : x.forget x.indexes = { x with indexes := [] } :=
  congrArg (fun l => { x with indexes := l }) (List.filter_eq_nil_iff.2 fun i hi => by simpa using hi)

section
variable {s : State} {p q : Nat}

/-- A sequencer of the package is one of it still. -/
theorem recorded_places {t : State} {gone : List Nat} (h : t.recorded p q = (s.recorded p q).forget gone)
    (hp : p < s.pillars.length) (hq : q < (s.pillar p).seqs.length) :
    p < t.pillars.length ∧ q < (t.pillar p).seqs.length :=
  ⟨hp.trans_eq (congrArg Recorded.pillars h :).symm, hq.trans_eq (congrArg Recorded.seqs h :).symm⟩

section
variable (hp : p < s.pillars.length) (hq : q < (s.pillar p).seqs.length)
include hp hq

theorem dropRec_recorded (i : Nat) : (s.dropRec p q i).recorded p q = (s.recorded p q).forget [i] := by
  have hseq : (s.dropRec p q i).seq p q = (s.seq p q).dropRec i := onSeq_self s p q _ hp hq
  have hindexes : ((s.dropRec p q i).seq p q).recs.map Rec.idx =
      ((s.seq p q).recs.map Rec.idx).filter fun j => !List.contains [i] j := by
    rw [hseq, List.filter_map]
    simp [Seq.dropRec, Function.comp_def]
  have hpillars : (s.dropRec p q i).pillars.length = s.pillars.length := onSeq_length s p q _
  have hseqs : ((s.dropRec p q i).pillar p).seqs.length = (s.pillar p).seqs.length := onSeq_seqs_length s p q _ p
  rw [State.recorded, hindexes, hpillars, hseqs]
  rfl

theorem cancelRec_recorded (r : Rec) : (s.cancelRec p q r).recorded p q = (s.recorded p q).forget [r.idx] := by
  have hdrop {u : State} (hu : u.recorded p q = s.recorded p q) :
      (u.dropRec p q r.idx).recorded p q = (s.recorded p q).forget [r.idx] := by
    obtain ⟨hp', hq'⟩ := recorded_places (hu.trans (forget_nil _).symm) hp hq
    rw [← hu]
    exact dropRec_recorded hp' hq' r.idx
  unfold State.cancelRec
  cases r.op with
  | engine e => exact hdrop (cancelEngine_recorded s p q e)
  | cube => exact hdrop (removeCube_recorded s p q r.idx)
  | msend target _ _ => exact hdrop (onPillar_recorded s p q target fun _ => by rfl)
  | dsync lv _ => exact hdrop (onSeq_recorded s p q p q fun _ => by rfl)
  | drain t _ _ _ => exact (serveTray_recorded _ p q t).trans (hdrop (onPillar_recorded s p q p fun _ => by rfl))
  | jcb _ | defer _ _ => exact hdrop rfl

theorem foldl_cancelRec_recorded (l : List Rec) : (l.foldl (fun s r => s.cancelRec p q r) s).recorded p q =
    (s.recorded p q).forget (l.map Rec.idx) := by
  induction l generalizing s with
  | nil => exact (forget_nil _).symm
  | cons r l ih =>
    have hr := cancelRec_recorded hp hq r
    obtain ⟨hp', hq'⟩ := recorded_places hr hp hq
    rw [List.foldl_cons, ih hp' hq', hr, forget_forget, List.map_cons]

/-- Every record goes with its operation (R352). -/
theorem cancelAll_recorded : (s.cancelAll p q).recorded p q = { s.recorded p q with indexes := [] } :=
  (foldl_cancelRec_recorded hp hq _).trans (forget_all (s.recorded p q))

/-- The operations of an iteration given up as its gang member fails (R352, R361). -/
theorem failed_cancelAll_recorded :
    ((s.failMember p q).cancelAll p q).recorded p q = { s.recorded p q with indexes := [] } := by
  have hfail := failMember_recorded s p q
  obtain ⟨hp', hq'⟩ := recorded_places (hfail.trans (forget_nil _).symm) hp hq
  rw [cancelAll_recorded hp' hq', hfail]

/-- An abandoned iteration leaves memory and places as they were (R352). -/
theorem abandon_places : (s.abandon p q).mem = s.mem ∧ (s.abandon p q).cur = s.cur ∧
    p < (s.abandon p q).pillars.length ∧ q < ((s.abandon p q).pillar p).seqs.length := by
  have hall := failed_cancelAll_recorded hp hq
  exact ⟨(congrArg Recorded.mem hall :), (congrArg Recorded.cur hall :),
    (hp.trans_eq (congrArg Recorded.pillars hall).symm).trans_eq (onSeq_length _ p q _).symm,
    (hq.trans_eq (congrArg Recorded.seqs hall).symm).trans_eq (onSeq_seqs_length _ p q _ p).symm⟩

/-- It leaves no operation, region or loop (R352). -/
theorem abandon_seq : ((s.abandon p q).seq p q).recs = [] ∧ ((s.abandon p q).seq p q).regions = [] ∧
    ((s.abandon p q).seq p q).loops = [] := by
  have hall := failed_cancelAll_recorded hp hq
  have hrecs : (((s.failMember p q).cancelAll p q).seq p q).recs = [] :=
    List.map_eq_nil_iff.1 (congrArg Recorded.indexes hall)
  have hseq : (s.abandon p q).seq p q =
      { ((s.failMember p q).cancelAll p q).seq p q with regions := [], loops := [], poisonDue := false } :=
    onSeq_self _ p q _ (hp.trans_eq (congrArg Recorded.pillars hall).symm)
      (hq.trans_eq (congrArg Recorded.seqs hall).symm)
  rw [hseq]
  exact ⟨hrecs, rfl, rfl⟩
end
end

end Sys2Proof.Machine
end

section
/-! PROOFS. Software traps, HALT, DONE and the waits (O10, R191-R200, R352). -/

namespace Sys2Proof.Machine

/-! ### The fault that a DONE delivers (R194, R332) -/

section
variable {x : Seq}

theorem faults_restricted (x : Seq) (f : Rec → Bool) :
    ({ x with recs := x.recs.filter f } : Seq).faults = x.faults.filter f := by
  simp only [Seq.faults, List.filter_filter, Bool.and_comm]

theorem dueFault_none (h : x.faults = []) : x.dueFault = none := by
  rw [Seq.dueFault, h]
  rfl

theorem dueFault_one {r : Rec} (h : x.faults = [r]) : x.dueFault = some r := by
  rw [Seq.dueFault, h]
  rfl

/-- The faults that a DONE delivers from: recorded before its long word, and in context mode none of the image's. -/
theorem priorFault_dueFault (x : Seq) : ∃ y : Seq, x.priorFault = y.dueFault ∧
    y.faults = (x.faults.filter fun r => decide (r.order < x.order)).filter fun r => !x.imageOnly r.order :=
  ⟨_, rfl, (faults_restricted _ _).trans (congrArg (List.filter _) (faults_restricted x _))⟩

theorem priorFault_none (h : ∀ r ∈ x.faults, x.imageOnly r.order = true ∨ x.order ≤ r.order) : x.priorFault = none := by
  obtain ⟨y, hdue, hfaults⟩ := priorFault_dueFault x
  rw [hdue]
  refine dueFault_none (hfaults.trans (List.filter_eq_nil_iff.2 fun r hr => ?_))
  obtain ⟨hrec, hbefore⟩ := List.mem_filter.1 hr
  rcases h r hrec with himage | hlater
  · simp [himage]
  · exact absurd (of_decide_eq_true hbefore) (Nat.not_lt.2 hlater)

theorem priorFault_one {r : Rec} (h : x.faults = [r]) (himage : x.imageOnly r.order = false) (hr : r.order < x.order) :
    x.priorFault = some r := by
  obtain ⟨y, hdue, hfaults⟩ := priorFault_dueFault x
  rw [hdue]
  refine dueFault_one (hfaults.trans ?_)
  simp [h, hr, himage]

theorem contextMode_user (h : x.mode = false) : x.contextMode = false := by
  rw [Seq.contextMode, h, Bool.false_and]

theorem imageOnly_user (h : x.mode = false) (n : Nat) : x.imageOnly n = false := by
  rw [Seq.imageOnly, contextMode_user h, Bool.false_and]

theorem imageOnly_context (h : x.contextMode = true) {n : Nat} (hn : n ≤ x.ctxOrder) : x.imageOnly n = true := by
  rw [Seq.imageOnly, h, decide_eq_true hn]
  rfl
end

/-! ### The instructions -/

section
variable {s : State} {g : Guard}

/-- EINFO of a TRAP: its number, with bit 15 (R191). -/
theorem trapInfo_eq (i : BitVec 15) : i.zeroExtend 64 ||| asBit true 15 = BitVec.ofNat 64 (i.toNat + 32768) := by
  have hlow : i.zeroExtend 64 = field i.toNat 0 15 := by
    rw [field, Nat.mod_eq_of_lt i.isLt, Nat.shiftLeft_zero, BitVec.ofNat_toNat]
  have hhigh : asBit true 15 = field 1 15 1 := rfl
  rw [hlow, hhigh, field_or_field, Nat.mod_eq_of_lt i.isLt]
  rfl

theorem exec_trap (h : s.enabled g []) (i : BitVec 15) : exec (.trap g i) s =
    .next (s.raise ⟨cSyscall, BitVec.ofNat 64 (i.toNat + 32768), none, none, false⟩) := by
  show execTrap g i s = _
  rw [execTrap, guarded_on s g [] _ h, trapInfo_eq]
  rfl

theorem exec_syscall (h : s.enabled g []) (i : BitVec 15) : exec (.syscall g i) s =
    .next (s.raise ⟨cSyscall, BitVec.ofNat 64 i.toNat, none, none, false⟩) := by
  show execSyscall g i s = _
  rw [execSyscall, guarded_on s g [] _ h, BitVec.ofNat_toNat]
  rfl

theorem exec_bkpt (h : s.enabled g []) : exec (.bkpt g) s = .next (s.raise ⟨cBkpt, 0, none, none, false⟩) := by
  show execBkpt g s = _
  exact guarded_on s g [] _ h

theorem exec_halt (h : s.enabled g []) (hmode : s.me.mode = true) :
    exec (.halt g) s = .next (s.onMe fun x => { x with run := .halted }) := by
  show execHalt g s = _
  rw [execHalt, guarded_on s g [] _ h, sourced_nil, if_neg (by simp [hmode])]

/-- A DONE that abandons nothing waits unless a fault is due (R194, R344). -/
theorem exec_done_stays (h : s.enabled g []) (hstays : s.me.mode = false ∨ s.me.contextMode = true) :
    exec (.done g) s = .next (match s.me.priorFault with
      | some r => s.raise r.asRaise
      | none => s.onMe fun x => { x with run := .atDone s.cur.addr }) := by
  have hcond : ¬ (s.me.mode && !s.me.contextMode) = true := by
    rcases hstays with h | h <;> simp [h]
  show execDone g s = _
  refine (guarded_on s g [] _ h).trans (congrArg Host.Outcome.next ?_)
  exact if_neg hcond

theorem exec_done_waits (h : s.enabled g []) (hstays : s.me.mode = false ∨ s.me.contextMode = true)
    (hnone : s.me.priorFault = none) :
    exec (.done g) s = .next (s.onMe fun x => { x with run := .atDone s.cur.addr }) := by
  rw [exec_done_stays h hstays, hnone]

theorem exec_done_delivers (h : s.enabled g []) (hstays : s.me.mode = false ∨ s.me.contextMode = true) {r : Rec}
    (hdue : s.me.priorFault = some r) : exec (.done g) s = .next (s.raise ⟨r.cause, 0, some r.idx, none, false⟩) := by
  rw [exec_done_stays h hstays, hdue]
  rfl

/-- A supervisor DONE outside context mode (R352). -/
theorem exec_done_abandons (h : s.enabled g []) (hmode : s.me.mode = true) (hctx : s.me.contextMode = false) :
    exec (.done g) s = .next ((s.abandon s.cur.p s.cur.q).onMe fun x =>
      { x with run := .atDone (s.abandon s.cur.p s.cur.q).cur.addr }) := by
  have hcond : (s.me.mode && !s.me.contextMode) = true := by rw [hmode, hctx]; rfl
  show execDone g s = _
  refine (guarded_on s g [] _ h).trans (congrArg Host.Outcome.next ?_)
  exact if_pos hcond

theorem exec_done_supervisor (h : s.enabled g []) (hmode : s.me.mode = true) (hctx : s.me.contextMode = false)
    (hplaced : s.placed) : ∃ t, exec (.done g) s = .next t ∧ t.mem = s.mem ∧
      t.me.run = .atDone s.cur.addr ∧ t.me.recs = [] ∧ t.me.regions = [] ∧ t.me.loops = [] ∧ t.me.mode = true := by
  obtain ⟨hp, hq⟩ := hplaced
  obtain ⟨hmem, hcur, hp', hq'⟩ := abandon_places hp hq
  obtain ⟨hrecs, hregions, hloops⟩ := abandon_seq hp hq
  have hkept : (s.abandon s.cur.p s.cur.q).me.mode = s.me.mode :=
    privileged_field Seq.mode (privileges_me (abandon_privileges s s.cur.p s.cur.q))
  have hme := onMe_me (s.abandon s.cur.p s.cur.q)
    (fun x => { x with run := .atDone (s.abandon s.cur.p s.cur.q).cur.addr })
    (by rw [State.mine, hcur]; exact ⟨hp', hq'⟩)
  have hseq : (s.abandon s.cur.p s.cur.q).me = (s.abandon s.cur.p s.cur.q).seq s.cur.p s.cur.q := by
    rw [State.me, hcur]
  rw [← hseq] at hrecs hregions hloops
  refine ⟨_, exec_done_abandons h hmode hctx, hmem, ?_⟩
  rw [hme, hcur]
  exact ⟨rfl, hrecs, hregions, hloops, hkept.trans hmode⟩

theorem exec_chkerr_clean (h : s.enabled g []) (hdue : s.me.dueFault = none) (hpois : s.me.chkint.getLsbD 0 = false) :
    exec (.chkerr g) s = .next s := by
  show execChkerr g s = _
  rw [execChkerr, guarded_on s g [] _ h, sourced_nil, hdue]
  simp only [bit, hpois, Bool.false_and, Bool.false_eq_true, if_false]

theorem exec_waitev (a : BitVec 5) (h : s.enabled g [a]) :
    exec (.waitev g a) s = .next ((s.sourced [a]).onMe fun x => { x with latch := false }) := by
  show execWaitev g a s = _
  exact guarded_on s g [a] _ h

/-- The package with the current pillar's instruction cache empty (R200). -/
def State.uncached (s : State) : State := s.onMine fun P => { P with icache := [] }

theorem exec_fencei (h : s.enabled g []) (hplaced : s.placed) : ∃ t, exec (.fencei g) s = .next t ∧
    t.mine.icache = [] ∧ t.mem = s.mem ∧ t.me = { s.me with fetchFault := none } := by
  obtain ⟨hp, hq⟩ := hplaced
  have hmine : s.uncached.mine = { s.mine with icache := [] } := onMine_mine s _ hp
  have hme : s.uncached.me = s.me := (congrArg (fun P => P.seqs.getD s.cur.q Seq.reset) hmine :)
  have hplace : s.uncached.cur.p < s.uncached.pillars.length ∧ s.uncached.cur.q < s.uncached.mine.seqs.length :=
    ⟨hp.trans_eq (onPillar_length s _ _).symm, by rw [hmine]; exact hq⟩
  have hexec : exec (.fencei g) s = .next (s.uncached.onMe fun x => { x with fetchFault := none }) := by
    show execFencei g s = _
    exact guarded_on s g [] _ h
  refine ⟨_, hexec, ?_, rfl, ?_⟩
  · exact (onPillar_keeps s.uncached s.cur.p Pillar.icache (fun _ => by rfl) s.cur.p).trans
      (congrArg Pillar.icache hmine)
  · rw [onMe_me _ _ hplace, hme]
end

/-- Settles O10: each instruction by its own equation; DONE by the fault recorded before its long word, and in supervisor
mode by what an abandoned operation leaves behind. -/
theorem trapsAndWaits : Obligations.TrapsAndWaits := by
  unfold Obligations.TrapsAndWaits
  refine ⟨fun s g i h => ⟨exec_trap h i, exec_syscall h i, exec_bkpt h⟩,
    fun s g h => ⟨exec_halt h, fun hmode hlater => ?later, fun hmode r hone hr => ?one, fun hctx himage => ?context,
      fun hmode hctx hplaced => exec_done_supervisor h hmode hctx hplaced, rfl, rfl⟩,
    fun s g a => ⟨exec_chkerr_clean, exec_waitev a, exec_fencei⟩⟩
  case later => exact exec_done_waits h (.inl hmode) (priorFault_none fun r hr => .inr (hlater r hr))
  case one => exact exec_done_delivers h (.inl hmode) (priorFault_one hone (imageOnly_user hmode _) hr)
  case context =>
    exact exec_done_waits h (.inr hctx) (priorFault_none fun r hr => (himage r hr).imp_left (imageOnly_context hctx))

end Sys2Proof.Machine
end

section
/-! PROOFS. Elementwise floating-point and integer arithmetic (O21, O23, R203, R204, R206-R208). -/

namespace Sys2Proof.Machine

/-! ### What an enabled instruction of two or three operands makes -/

section
variable {s : State} {g : Guard} (he : s.enabled g [])
include he

theorem vv2_on (lat : Nat) (d a b : BitVec 5) (h : BitVec 2) (m : BitVec 3) (f : W32 → W32 → W32) :
    s.vv2 g lat d a b h m f = .next ((s.keepV h a).toVec lat d (List.zipWith f (s.holdV h a) (s.vreg b)) (s.vpred m)) :=
  elementwise_on he lat d a h m fun s x => List.zipWith f x (s.vreg b)

theorem vv3_on (lat : Nat) (d a b : BitVec 5) (h : BitVec 2) (m : BitVec 3) (f : W32 → W32 → W32 → W32) :
    s.vv3 g lat d a b h m f =
      .next ((s.keepV h a).toVec lat d (zip3 f (s.vreg d) (s.holdV h a) (s.vreg b)) (s.vpred m)) :=
  elementwise_on he lat d a h m fun s x => zip3 f (s.vreg d) x (s.vreg b)
end

theorem zip3_eq_map_range (f : W32 → W32 → W32 → W32) : ∀ (n : Nat) (x y z : VReg),
    x.length = n → y.length = n → z.length = n →
      zip3 f x y z = (List.range n).map fun e => f (at0 x e) (at0 y e) (at0 z e)
  | 0, [], [], [], _, _, _ => rfl
  | n + 1, x :: xs, y :: ys, z :: zs, hx, hy, hz => by
    have ih := zip3_eq_map_range f n xs ys zs (Nat.succ.inj hx) (Nat.succ.inj hy) (Nat.succ.inj hz)
    rw [zip3, ih, List.range_succ_eq_map, List.map_cons, List.map_map]
    rfl

/-- Settles O21: each instruction combines the elements of its form; three registers of 1,024 elements element by
element. -/
theorem vectorFloat : Obligations.VectorFloat := by
  unfold Obligations.VectorFloat
  intro s g d a b h m he
  have two (f : W32 → W32 → W32) := vv2_on he 4 d a b h m f
  have one (f : W32 → W32) := vv1_on he 4 d a h m f
  refine ⟨two _, two _, two _, fun hA hB hD => ?_, two _, two _, one _, one _⟩
  have three (f : W32 → W32 → W32 → W32) := vv3_on he 5 d a b h m f
  simp only [zip3_eq_map_range _ 1024 _ _ _ hD hA hB] at three
  exact ⟨three _, three _⟩

/-! ### The integer values (R207, R208) -/

section
variable (x y : W32)

theorem shift_count (y : W32) : bits y 0 5 = y.toNat % 32 := by
  rw [bits_toNat, pow_zero, Nat.div_one]
  rfl

theorem shiftLeft_eq_mul : x <<< bits y 0 5 = BitVec.ofNat 32 (x.toNat * 2 ^ (y.toNat % 32)) := by
  refine BitVec.eq_of_toNat_eq ?_
  rw [shift_count, BitVec.toNat_shiftLeft, Nat.shiftLeft_eq, BitVec.toNat_ofNat]

theorem ushiftRight_eq_div : x >>> bits y 0 5 = BitVec.ofNat 32 (x.toNat / 2 ^ (y.toNat % 32)) := by
  refine BitVec.eq_of_toNat_eq ?_
  rw [shift_count, BitVec.toNat_ushiftRight, Nat.shiftRight_eq_div_pow, BitVec.toNat_ofNat,
    Nat.mod_eq_of_lt ((Nat.div_le_self _ _).trans_lt x.isLt)]

theorem sshiftRight_eq_div : x.sshiftRight (bits y 0 5) = BitVec.ofInt 32 (x.toInt / 2 ^ (y.toNat % 32)) := by
  rw [← BitVec.ofInt_toInt (x := x.sshiftRight (bits y 0 5)), shift_count, BitVec.toInt_sshiftRight,
    Int.shiftRight_eq_div_pow]
  norm_cast

theorem add_eq_ofNat : x + y = BitVec.ofNat 32 (x.toNat + y.toNat) :=
  BitVec.eq_of_toNat_eq (by rw [BitVec.toNat_add, BitVec.toNat_ofNat])

theorem mul_eq_ofNat : x * y = BitVec.ofNat 32 (x.toNat * y.toNat) :=
  BitVec.eq_of_toNat_eq (by rw [BitVec.toNat_mul, BitVec.toNat_ofNat])

theorem add_eq_ofInt : x + y = BitVec.ofInt 32 (x.toInt + y.toInt) := by
  rw [BitVec.ofInt_add, BitVec.ofInt_toInt, BitVec.ofInt_toInt]

theorem sub_eq_ofInt : x - y = BitVec.ofInt 32 ((x.toNat : Int) - y.toNat) := by
  refine BitVec.eq_of_toInt_eq ?_
  rw [BitVec.toInt_sub, BitVec.toInt_ofInt, BitVec.toInt_eq_toNat_bmod, BitVec.toInt_eq_toNat_bmod, Int.sub_bmod_bmod,
    Int.bmod_sub_bmod]

theorem vimin_eq : (if y.slt x then y else x) = if x.toInt ≤ y.toInt then x else y := by
  simp only [BitVec.slt, decide_eq_true_eq, ← not_lt, ite_not]

theorem vimax_eq : (if x.slt y then y else x) = if x.toInt ≤ y.toInt then y else x := by
  simp only [BitVec.slt, decide_eq_true_eq]
  split_ifs with hlt hle hle
  · rfl
  · exact absurd hlt.le hle
  · exact BitVec.eq_of_toInt_eq (le_antisymm hle (not_lt.1 hlt))
  · rfl
end

/-- The sub-element of n bits at a place, as VADDW reads it: signed or not. -/
theorem extended_sub_toInt (x : W32) (sg : Bool) (lo : Nat) {n : Nat} (hn : n < 32) :
    (if sg then (x.extractLsb' lo n).signExtend 32 else (x.extractLsb' lo n).zeroExtend 32).toInt =
      if sg then ((x.toNat / 2 ^ lo % 2 ^ n : Nat) : Int).bmod (2 ^ n) else (x.toNat / 2 ^ lo % 2 ^ n : Nat) := by
  have hsub : (x.extractLsb' lo n).toNat = x.toNat / 2 ^ lo % 2 ^ n := bits_toNat x lo n
  cases sg with
  | true =>
    rw [if_pos rfl, if_pos rfl, BitVec.toInt_signExtend_of_le hn.le, BitVec.toInt_eq_toNat_bmod, hsub]
  | false =>
    have hlt : x.toNat / 2 ^ lo % 2 ^ n < 2 ^ 31 :=
      (Nat.mod_lt _ (by positivity)).trans_le (Nat.pow_le_pow_right (by decide) (by omega))
    rw [if_neg Bool.false_ne_true, if_neg Bool.false_ne_true, BitVec.toInt_setWidth, hsub, Int.bmod_eq_of_le] <;> omega

theorem widen_toInt {b : BitVec 5} (hb : bits b 0 2 < 3) (x : W32) : (widen b x).toInt =
    let n := if bits b 0 2 = 0 then 32 else if bits b 0 2 = 1 then 16 else 8
    let sub := x.toNat / 2 ^ (n * bits b 3 2) % 2 ^ n
    if bits b 0 2 = 0 then x.toInt else if b.getLsbD 2 then (sub : Int).bmod (2 ^ n) else sub := by
  rw [widen]
  generalize bits b 0 2 = k at hb ⊢
  match k, hb with
  | 0, _ => rfl
  | 1, _ => exact extended_sub_toInt x (bit b 2) (16 * bits b 3 2) (by decide)
  | 2, _ => exact extended_sub_toInt x (bit b 2) (8 * bits b 3 2) (by decide)

/-- Settles O23: each instruction combines the elements of A and B by its own operation, whose value is the number of
R207; VADDW adds the sub-element that its view code selects. -/
theorem vectorInteger : Obligations.VectorInteger := by
  unfold Obligations.VectorInteger
  intro s g d a b h m he
  have two (f f' : W32 → W32 → W32) (hf : ∀ x y, f x y = f' x y) :
      s.vv2 g 4 d a b h m f =
        .next ((s.keepV h a).toVec 4 d (List.zipWith f' (s.holdV h a) (s.vreg b)) (s.vpred m)) := by
    rw [vv2_on he, funext₂ hf]
  refine ⟨two _ _ add_eq_ofNat, two _ _ sub_eq_ofInt, two _ _ mul_eq_ofNat, two _ _ fun _ _ => rfl,
    two _ _ fun _ _ => rfl, two _ _ fun _ _ => rfl, two _ _ fun _ _ => rfl, two _ _ shiftLeft_eq_mul,
    two _ _ ushiftRight_eq_div, two _ _ sshiftRight_eq_div, two _ _ vimin_eq, two _ _ vimax_eq, fun hb => ?_⟩
  have hwide (x y : W32) := (add_eq_ofInt x (widen b y)).trans
    (congrArg (fun k => BitVec.ofInt 32 (x.toInt + k)) (widen_toInt hb y))
  exact (elementwise_on he 4 d a h m fun s x => List.zipWith (fun o v => o + widen b v) (s.vreg d) x).trans
    (by rw [funext₂ hwide])

end Sys2Proof.Machine
end

section
/-! PROOFS. The code of a floating-point format nearest to a number (O25, O28, R111, R120): what each magnitude code
stands for, and that the rounding of R120 takes a code no other is nearer than. -/

namespace Sys2Proof.Machine

/-! ### What a magnitude code stands for (R111) -/

/-- The number a magnitude code with K fraction bits stands for, in units of its format's smallest spacing. -/
def codeSize (K c : Nat) : Nat := if c / 2 ^ K = 0 then c else (2 ^ K + c % 2 ^ K) * 2 ^ (c / 2 ^ K - 1)

section
variable {K c : Nat}

theorem codeSize_add {q i : Nat} (hq : q ≤ 2 ^ (K + 1)) (hi : i = 0 ∨ 2 ^ K ≤ q) :
    codeSize K (q + i * 2 ^ K) = q * 2 ^ i := by
  have hP : 0 < 2 ^ K := by positivity
  rw [codeSize, Nat.add_mul_div_right _ _ hP, Nat.add_mul_mod_self_right]
  rw [pow_succ] at hq
  rcases lt_or_ge q (2 ^ K) with hlt | hge
  · obtain rfl : i = 0 := hi.resolve_right hlt.not_ge
    simp [Nat.div_eq_of_lt hlt]
  · rcases hq.lt_or_eq with hlt | rfl
    · have hdiv : q / 2 ^ K = 1 := Nat.div_eq_of_lt_le (by omega) (by omega)
      have hmod : q % 2 ^ K = q - 2 ^ K := by rw [Nat.mod_eq_sub_mod hge, Nat.mod_eq_of_lt (by omega)]
      rw [hdiv, hmod, if_neg (Nat.add_pos_left Nat.one_pos i).ne', Nat.add_sub_cancel' hge, Nat.add_sub_cancel_left]
    · rw [Nat.mul_div_cancel_left 2 hP, Nat.mul_mod_right, if_neg (Nat.add_pos_left Nat.two_pos i).ne', Nat.add_zero,
        show 2 + i - 1 = i + 1 by omega, pow_succ]
      ring

/-- A code is a significand and the count of the spacings above the smallest. -/
theorem exists_significand (K c : Nat) : ∃ q < 2 ^ (K + 1),
    c = q + (c / 2 ^ K - 1) * 2 ^ K ∧ (c / 2 ^ K - 1 = 0 ∨ 2 ^ K ≤ q) := by
  have hsplit := Nat.div_add_mod' c (2 ^ K)
  have hmod := Nat.mod_lt c (y := 2 ^ K) (by positivity)
  rw [pow_succ']
  rcases Nat.eq_zero_or_pos (c / 2 ^ K) with h0 | hpos
  · rw [h0] at hsplit ⊢
    exact ⟨c, by omega, by omega, .inl rfl⟩
  · obtain ⟨i, hi⟩ := Nat.exists_eq_succ_of_ne_zero hpos.ne'
    rw [hi, Nat.succ_mul] at hsplit
    rw [hi, Nat.succ_sub_one]
    exact ⟨2 ^ K + c % 2 ^ K, by omega, by omega, .inr (by omega)⟩

theorem codeSize_succ (K c : Nat) : codeSize K (c + 1) = codeSize K c + 2 ^ (c / 2 ^ K - 1) := by
  obtain ⟨q, hq, hc, hi⟩ := exists_significand K c
  generalize c / 2 ^ K - 1 = i at hc hi ⊢
  subst hc
  rw [codeSize_add hq.le hi, add_right_comm, codeSize_add hq (hi.imp_right Nat.le_succ_of_le), Nat.succ_mul]

theorem codeSize_strictMono (K : Nat) : StrictMono (codeSize K) :=
  strictMono_nat_of_lt_succ fun c => by
    rw [codeSize_succ]
    exact Nat.lt_add_of_pos_right (by positivity)

theorem codeSize_zero (K : Nat) : codeSize K 0 = 0 := by simp [codeSize]
end

/-! ### The nearest code -/

/-- Where the code c stands for u c, no other code stands for a number nearer to v, and of two as near c is the even
one: v is between the middles to the codes beside c. -/
structure NearCode (u : Nat → Nat) (c : Nat) (v : ℚ) : Prop where
  above : 2 * v ≤ u c + u (c + 1) ∧ (2 * v = u c + u (c + 1) → c % 2 = 0)
  below : 0 < c → u (c - 1) + u c ≤ 2 * v ∧ (u (c - 1) + u c = 2 * v → c % 2 = 0)

section
variable {u : Nat → Nat} (hu : StrictMono u) {c : Nat} {v : ℚ} (h : NearCode u c v)
include hu

theorem cast_lt_of_code_lt {d : Nat} (hd : c < d) : (u c : ℚ) < u d := Nat.cast_lt.2 (hu hd)

theorem cast_le_of_code_le {d : Nat} (hd : c ≤ d) : (u c : ℚ) ≤ u d := Nat.cast_le.2 (hu.monotone hd)

include h

theorem NearCode.le_of_lt {d : Nat} (hd : c < d) : 2 * v ≤ u c + u d ∧ (2 * v = u c + u d → c % 2 = 0) := by
  have hmono := cast_le_of_code_le hu (Nat.succ_le_of_lt hd)
  obtain ⟨hle, htie⟩ := h.above
  exact ⟨by linarith, fun h => htie (by linarith)⟩

theorem NearCode.ge_of_lt {d : Nat} (hd : d < c) : u d + u c ≤ 2 * v ∧ (u d + u c = 2 * v → c % 2 = 0) := by
  have hmono := cast_le_of_code_le hu (Nat.le_sub_one_of_lt hd)
  obtain ⟨hle, htie⟩ := h.below (Nat.zero_lt_of_lt hd)
  exact ⟨by linarith, fun h => htie (by linarith)⟩

/-- No other code is nearer, and where one is as near, the code is even. -/
theorem NearCode.nearest (d : Nat) : |v - u c| ≤ |v - u d| ∧ (d ≠ c → |v - u c| = |v - u d| → c % 2 = 0) := by
  rcases lt_trichotomy d c with hlt | rfl | hlt
  · obtain ⟨hle, htie⟩ := h.ge_of_lt hu hlt
    have hsize := cast_lt_of_code_lt hu hlt
    rw [abs_of_pos (by linarith : 0 < v - u d)]
    refine ⟨abs_le.2 ⟨by linarith, by linarith⟩, fun _ heq => htie ?_⟩
    rcases abs_cases (v - u c) with ⟨habs, -⟩ | ⟨habs, -⟩ <;> linarith
  · exact ⟨le_rfl, fun hne => absurd rfl hne⟩
  · obtain ⟨hle, htie⟩ := h.le_of_lt hu hlt
    have hsize := cast_lt_of_code_lt hu hlt
    rw [abs_of_neg (by linarith : v - u d < 0)]
    refine ⟨abs_le.2 ⟨by linarith, by linarith⟩, fun _ heq => htie ?_⟩
    rcases abs_cases (v - u c) with ⟨habs, -⟩ | ⟨habs, -⟩ <;> linarith

theorem NearCode.eq_of_exact {d : Nat} (hv : v = u d) : c = d := by
  have hle := (h.nearest hu d).1
  rw [hv, sub_self, abs_zero] at hle
  exact (hu.injective (Nat.cast_inj.1 (sub_eq_zero.1 (abs_nonpos_iff.1 hle)))).symm

/-- The code reaches an even one from the middle below that one on. -/
theorem NearCode.le_iff {top : Nat} (hpos : 0 < top) (heven : top % 2 = 0) :
    top ≤ c ↔ u (top - 1) + u top ≤ 2 * v := by
  constructor
  · intro hle
    have hlow := (h.ge_of_lt hu (Nat.sub_one_lt_of_le hpos hle)).1
    have hmono := cast_le_of_code_le hu hle
    linarith
  · intro hge
    refine not_lt.1 fun hlt => ?_
    obtain ⟨hle, htie⟩ := h.le_of_lt hu hlt
    have hmono := cast_le_of_code_le hu (Nat.le_sub_one_of_lt hlt)
    have hc := hu.injective (Nat.cast_inj.1 (le_antisymm hmono (by linarith)))
    have := htie (by linarith)
    omega
end

theorem nearCode_zero (K : Nat) : NearCode (codeSize K) 0 0 := by
  have hlt := cast_lt_of_code_lt (codeSize_strictMono K) Nat.one_pos
  rw [codeSize_zero, Nat.cast_zero] at hlt
  refine ⟨⟨?_, fun _ => rfl⟩, fun h => absurd h (lt_irrefl 0)⟩
  rw [codeSize_zero, Nat.cast_zero]
  linarith

/-- A significand rounded to the nearest integer makes the nearest code, where a spacing above the smallest is one that
the number needs (R120). -/
theorem nearCode_of_nearest {K q i : Nat} {a : ℚ} (hK : 0 < K) (hlo : q - 1 / 2 ≤ a) (hhi : a ≤ q + 1 / 2)
    (htie : a = q - 1 / 2 ∨ a = q + 1 / 2 → q % 2 = 0) (hup : a < 2 ^ (K + 1)) (hlow : 0 < i → 2 ^ K ≤ a) :
    NearCode (codeSize K) (q + i * 2 ^ K) (a * 2 ^ i) := by
  have hparity : (q + i * 2 ^ K) % 2 = q % 2 := by
    obtain ⟨k, rfl⟩ := Nat.exists_eq_succ_of_ne_zero hK.ne'
    rw [pow_succ, ← mul_assoc, Nat.add_mul_mod_self_right]
  have hpow : (0 : ℚ) < 2 ^ i := by positivity
  have hq : q ≤ 2 ^ (K + 1) := by
    have : (q : ℚ) < (2 ^ (K + 1) + 1 : Nat) := by push_cast; linarith
    exact Nat.le_of_lt_succ (Nat.cast_lt.1 this)
  have hi : i = 0 ∨ 2 ^ K ≤ q := by
    refine (Nat.eq_zero_or_pos i).imp_right fun hpos => ?_
    have : ((2 ^ K : Nat) : ℚ) < (q + 1 : Nat) := by push_cast; linarith [hlow hpos]
    exact Nat.le_of_lt_succ (Nat.cast_lt.1 this)
  have hsize : (codeSize K (q + i * 2 ^ K) : ℚ) = q * 2 ^ i := by rw [codeSize_add hq hi]; push_cast; rfl
  have hgap {c : Nat} (h : i = 0 ∨ (i + 1) * 2 ^ K ≤ c) : (codeSize K c : ℚ) + 2 ^ i ≤ codeSize K (c + 1) := by
    have hle : i ≤ c / 2 ^ K - 1 := by
      rcases h with rfl | h
      · exact Nat.zero_le _
      · exact Nat.le_sub_one_of_lt ((Nat.le_div_iff_mul_le (by positivity)).2 h)
    rw [codeSize_succ]
    push_cast
    gcongr
    norm_num
  have hscale {x y : ℚ} (h : x ≤ y) : x * 2 ^ i ≤ y * 2 ^ i := mul_le_mul_of_nonneg_right h hpow.le
  refine ⟨?above, fun hpos => ?below⟩
  case above =>
    have := hgap (c := q + i * 2 ^ K) (hi.imp_right fun h => by rw [Nat.succ_mul]; omega)
    refine ⟨by linarith [hscale hhi], fun h => hparity.trans (htie (.inr (le_antisymm hhi ?_)))⟩
    exact le_of_mul_le_mul_right (by linarith) hpow
  case below =>
    rcases em (i = 0 ∨ (i + 1) * 2 ^ K ≤ q + i * 2 ^ K - 1) with hinner | hedge
    · have := hgap hinner
      rw [Nat.sub_add_cancel hpos] at this
      refine ⟨by linarith [hscale hlo], fun h => hparity.trans (htie (.inl (le_antisymm ?_ hlo)))⟩
      exact le_of_mul_le_mul_right (by linarith) hpow
    · have hqa : (q : ℚ) ≤ a := by
        obtain ⟨hi0, hlt⟩ := not_or.1 hedge
        have hqle : q ≤ 2 ^ K := by rw [Nat.succ_mul] at hlt; omega
        exact (Nat.cast_le.2 hqle).trans (by push_cast; exact hlow (Nat.pos_of_ne_zero hi0))
      have := cast_lt_of_code_lt (codeSize_strictMono K) (Nat.sub_lt hpos Nat.one_pos)
      have := hscale hqa
      exact ⟨by linarith, fun h => absurd h (by linarith)⟩

/-! ### The rounding of R120 -/

theorem pow2_eq (n : Nat) (e : Int) : pow2 n e = n * 2 ^ e.toNat := Nat.shiftLeft_eq n e.toNat

theorem zpow_mul_toNat (e : Int) : (2 : ℚ) ^ e * 2 ^ (-e).toNat = 2 ^ e.toNat := by
  rw [← zpow_natCast, ← zpow_natCast, ← zpow_add₀ two_ne_zero]
  congr 1
  omega

theorem pow2_cast (n : Nat) (e : Int) : (pow2 n e : ℚ) = n * 2 ^ e * 2 ^ (-e).toNat := by
  rw [pow2_eq, mul_assoc, zpow_mul_toNat]
  push_cast
  rfl

theorem pow2_neg_cast (n : Nat) (e : Int) : (pow2 n (-e) : ℚ) = n * 2 ^ (-e).toNat := by
  rw [pow2_eq]
  push_cast
  rfl

theorem pow2_lt_pow2 (n m : Nat) (e : Int) : pow2 n (-e) < pow2 m e ↔ (n : ℚ) < m * 2 ^ e := by
  rw [← Nat.cast_lt (α := ℚ), pow2_neg_cast, pow2_cast, mul_lt_mul_iff_left₀ (by positivity)]

theorem pow2_le_pow2 (n m : Nat) (e : Int) : pow2 n (-e) ≤ pow2 m e ↔ (n : ℚ) ≤ m * 2 ^ e := by
  rw [← Nat.cast_le (α := ℚ), pow2_neg_cast, pow2_cast, mul_le_mul_iff_left₀ (by positivity)]

theorem pow2_eq_pow2 (n m : Nat) (e : Int) : pow2 n (-e) = pow2 m e ↔ (n : ℚ) = m * 2 ^ e := by
  rw [← Nat.cast_inj (R := ℚ), pow2_neg_cast, pow2_cast, mul_left_inj' (by positivity)]

theorem pow2_div_pow2 (n d : Nat) (e : Int) : (pow2 n e : ℚ) / pow2 d (-e) = n / d * 2 ^ e := by
  rw [pow2_cast, pow2_neg_cast, mul_div_mul_right _ _ (by positivity), div_mul_eq_mul_div]

theorem pow2_pos {n : Nat} (hn : 0 < n) (e : Int) : 0 < pow2 n e := by
  rw [pow2_eq]
  positivity

theorem log2_bounds {n : Nat} (hn : 0 < n) :
    (2 : ℚ) ^ (Nat.log2 n : Int) ≤ n ∧ (n : ℚ) < 2 ^ ((Nat.log2 n : Int) + 1) := by
  have hlow := Nat.log2_self_le hn.ne'
  have hhigh := Nat.lt_log2_self (n := n)
  constructor
  · rw [zpow_natCast]
    exact_mod_cast hlow
  · rw [← Nat.cast_succ, zpow_natCast]
    exact_mod_cast hhigh

theorem log2Ratio_bounds {n d : Nat} (hn : 0 < n) (hd : 0 < d) :
    (2 : ℚ) ^ log2Ratio n d ≤ n / d ∧ (n : ℚ) / d < 2 ^ (log2Ratio n d + 1) := by
  obtain ⟨hnlow, hnhigh⟩ := log2_bounds hn
  obtain ⟨hdlow, hdhigh⟩ := log2_bounds hd
  have hdpos : (0 : ℚ) < d := Nat.cast_pos.2 hd
  have hup : (n : ℚ) < 2 ^ ((Nat.log2 n : Int) - Nat.log2 d + 1) * d := by
    calc (n : ℚ) < 2 ^ ((Nat.log2 n : Int) + 1) := hnhigh
      _ = 2 ^ ((Nat.log2 n : Int) - Nat.log2 d + 1) * 2 ^ (Nat.log2 d : Int) := by
        rw [← zpow_add₀ two_ne_zero]
        congr 1
        ring
      _ ≤ _ := mul_le_mul_of_nonneg_left hdlow (by positivity)
  have hdown : (2 : ℚ) ^ ((Nat.log2 n : Int) - Nat.log2 d - 1) * d ≤ n := by
    calc (2 : ℚ) ^ ((Nat.log2 n : Int) - Nat.log2 d - 1) * d
        ≤ 2 ^ ((Nat.log2 n : Int) - Nat.log2 d - 1) * 2 ^ ((Nat.log2 d : Int) + 1) :=
          mul_le_mul_of_nonneg_left hdhigh.le (by positivity)
      _ = 2 ^ (Nat.log2 n : Int) := by
        rw [← zpow_add₀ two_ne_zero]
        congr 1
        ring
      _ ≤ n := hnlow
  rw [le_div_iff₀ hdpos, div_lt_iff₀ hdpos, log2Ratio]
  split
  next h =>
    rw [pow2_lt_pow2, mul_comm] at h
    exact ⟨hdown, by rwa [sub_add_cancel]⟩
  next h =>
    rw [pow2_lt_pow2, mul_comm, not_lt] at h
    exact ⟨h, hup⟩

/-- An integer nearest to a quotient, as a number (R120). -/
theorem divRne_bounds (n : Nat) {d : Nat} (hd : 0 < d) : (divRne n d : ℚ) - 1 / 2 ≤ n / d ∧
    (n : ℚ) / d ≤ divRne n d + 1 / 2 ∧
    ((n : ℚ) / d = divRne n d - 1 / 2 ∨ (n : ℚ) / d = divRne n d + 1 / 2 → divRne n d % 2 = 0) := by
  obtain ⟨hlow, hhigh, htie⟩ := divRne_distance n hd
  generalize divRne n d = q at hlow hhigh htie ⊢
  have hdpos : (0 : ℚ) < d := Nat.cast_pos.2 hd
  have hlowQ : 2 * (n : ℚ) ≤ 2 * (d * q) + d := by exact_mod_cast (by omega : 2 * n ≤ 2 * (d * q) + d)
  have hhighQ : 2 * (d * q : ℚ) ≤ 2 * n + d := by exact_mod_cast (by omega : 2 * (d * q) ≤ 2 * n + d)
  refine ⟨(le_div_iff₀ hdpos).2 (by linarith), (div_le_iff₀ hdpos).2 (by linarith), fun h => htie ?_⟩
  rw [div_eq_iff hdpos.ne', div_eq_iff hdpos.ne'] at h
  rcases h with h | h
  · have : (2 * n + d : ℚ) = 2 * (d * q) := by linarith
    have : 2 * n + d = 2 * (d * q) := by exact_mod_cast this
    omega
  · have : (2 * n : ℚ) = 2 * (d * q) + d := by linarith
    have : 2 * n = 2 * (d * q) + d := by exact_mod_cast this
    omega

/-- The integer q stands for x in units of 2^t, nearest and with at most p bits, and with p bits where the spacing 2^t
is wider than the smallest one (R120). -/
structure Significand (p : Nat) (low : Int) (x : ℚ) (q : Nat) (t : Int) : Prop where
  spacing : low ≤ t
  below : (q : ℚ) - 1 / 2 ≤ x * 2 ^ (-t)
  above : x * 2 ^ (-t) ≤ q + 1 / 2
  tie : x * 2 ^ (-t) = q - 1 / 2 ∨ x * 2 ^ (-t) = q + 1 / 2 → q % 2 = 0
  fits : x * 2 ^ (-t) < 2 ^ (p - 1 + 1)
  fills : low < t → 2 ^ (p - 1) ≤ x * 2 ^ (-t)

theorem roundTo_significand (p : Nat) (low : Int) {n d : Nat} (hn : 0 < n) (hd : 0 < d) (e : Int) :
    Significand p low (n / d * 2 ^ e) (roundTo p (some low) n d e).1 (roundTo p (some low) n d e).2 := by
  obtain ⟨hlow, hhigh⟩ := log2Ratio_bounds hn hd
  obtain ⟨t, ht⟩ : ∃ t, max (log2Ratio n d + e - (p - 1 : Nat)) low = t := ⟨_, rfl⟩
  have hround : roundTo p (some low) n d e = (divRne (pow2 n (e - t)) (pow2 d (t - e)), t) := by
    simp only [roundTo, ht]
  have hvalue : (n / d * 2 ^ e * 2 ^ (-t) : ℚ) = n / d * 2 ^ (e - t) := by
    rw [mul_assoc, ← zpow_add₀ two_ne_zero, sub_eq_add_neg]
  have hquot : (pow2 n (e - t) : ℚ) / pow2 d (t - e) = n / d * 2 ^ (e - t) := by
    rw [← neg_sub e t, pow2_div_pow2]
  obtain ⟨hqlo, hqhi, hqtie⟩ := divRne_bounds (pow2 n (e - t)) (pow2_pos hd (t - e))
  rw [hquot, ← hvalue] at hqlo hqhi hqtie
  rw [hround]
  refine ⟨by omega, hqlo, hqhi, hqtie, ?_, fun hpos => ?_⟩ <;> rw [hvalue]
  · calc (n / d * 2 ^ (e - t) : ℚ) < 2 ^ (log2Ratio n d + 1) * 2 ^ (e - t) :=
          mul_lt_mul_of_pos_right hhigh (by positivity)
      _ ≤ 2 ^ (p - 1 + 1) := by
        rw [← zpow_add₀ two_ne_zero, ← zpow_natCast]
        exact zpow_le_zpow_right₀ one_le_two (by push_cast; omega)
  · calc (2 : ℚ) ^ (p - 1) = 2 ^ log2Ratio n d * 2 ^ (e - t) := by
          rw [← zpow_add₀ two_ne_zero, ← zpow_natCast]
          congr 1
          omega
      _ ≤ _ := mul_le_mul_of_nonneg_right hlow (by positivity)

theorem Significand.nearCode {p q : Nat} {low t : Int} {x : ℚ} (h : Significand p low x q t) (hp : 2 ≤ p) :
    NearCode (codeSize (p - 1)) (q + (t - low).toNat * 2 ^ (p - 1)) (x * 2 ^ (-low)) := by
  have hnear := nearCode_of_nearest (i := (t - low).toNat) (by omega : 0 < p - 1) h.below h.above h.tie h.fits
    fun hpos => h.fills (by omega)
  have hunits : (x * 2 ^ (-t) * 2 ^ (t - low).toNat : ℚ) = x * 2 ^ (-low) := by
    have := h.spacing
    rw [mul_assoc, ← zpow_natCast, ← zpow_add₀ two_ne_zero]
    congr 2
    omega
  rwa [hunits] at hnear

/-- A significand of fewer bits is its own code. -/
theorem Significand.code {p q : Nat} {low t : Int} {x : ℚ} (h : Significand p low x q t) :
    (if q < 2 ^ (p - 1) then q else q + (t - low).toNat * 2 ^ (p - 1)) = q + (t - low).toNat * 2 ^ (p - 1) := by
  split
  next hlt =>
    have hle : t ≤ low := by
      refine not_lt.1 fun hpos => absurd hlt (not_lt.2 (Nat.le_of_lt_succ ?_))
      have : ((2 ^ (p - 1) : Nat) : ℚ) < (q + 1 : Nat) := by push_cast; linarith [h.fills hpos, h.above]
      exact Nat.cast_lt.1 this
    rw [Int.toNat_of_nonpos (by omega), Nat.zero_mul, Nat.add_zero]
  next => rfl

/-- The code that R120 takes, before the format's largest ends it, is the nearest one. -/
theorem Fp.encode_near {f : Fp} (hprec : 2 ≤ f.prec) (hinf : 0 < f.inf) (n : Nat) {d : Nat} (hd : 0 < d) (e : Int) :
    ∃ c, NearCode (codeSize (f.prec - 1)) c (n / d * 2 ^ e * 2 ^ (-f.low)) ∧
      f.encode n d e = if f.inf ≤ c then none else some c := by
  rcases Nat.eq_zero_or_pos n with rfl | hn
  · refine ⟨0, ?_, by rw [Fp.encode_zero, if_neg (not_le.2 hinf)]⟩
    simpa using nearCode_zero (f.prec - 1)
  have h := roundTo_significand f.prec f.low hn hd e
  refine ⟨_, h.nearCode hprec, ?_⟩
  have hcode := h.code
  rw [Fp.low] at hcode ⊢
  simp only [Fp.encode, if_neg hn.ne', hcode]

/-! ### The codes of a format (R111) -/

/-- A format with a fraction and a bias above 0, as those of R110 are: its infinity is an even code above a finite
one. -/
structure Fp.Regular (f : Fp) : Prop where
  prec : 2 ≤ f.prec
  bias : 0 < f.bias

section
variable {f : Fp} (hf : f.Regular)
include hf

theorem Fp.Regular.inf_pos : 0 < f.inf := by
  have := hf.bias
  rw [Fp.inf, Fp.codes]
  exact Nat.mul_pos (by omega) (by positivity)

theorem Fp.Regular.inf_even : f.inf % 2 = 0 := by
  obtain ⟨k, hk⟩ := Nat.exists_eq_add_of_le' hf.prec
  rw [Fp.inf, hk, Nat.add_sub_assoc (by decide), pow_succ, ← mul_assoc, Nat.mul_mod_left]

/-- A number rounded to a format: beyond the middle between the largest code and infinity it overflows, below that it
takes the nearest code. -/
theorem Fp.Regular.encode_cases (n : Nat) {d : Nat} (hd : 0 < d) (e : Int) :
    let K := f.prec - 1
    let v : ℚ := n / d * 2 ^ e * 2 ^ (-f.low)
    (codeSize K (f.inf - 1) + codeSize K f.inf ≤ 2 * v → f.encode n d e = none) ∧
    (2 * v < codeSize K (f.inf - 1) + codeSize K f.inf →
      ∃ c < f.inf, NearCode (codeSize K) c v ∧ f.encode n d e = some c) := by
  obtain ⟨c, hnear, hcode⟩ := Fp.encode_near hf.prec hf.inf_pos n hd e
  have hle := hnear.le_iff (codeSize_strictMono _) hf.inf_pos hf.inf_even
  refine ⟨fun h => by rw [hcode, if_pos (hle.2 h)], fun h => ?_⟩
  have hlt : ¬ f.inf ≤ c := fun hc => absurd (hle.1 hc) (not_le.2 h)
  exact ⟨c, not_le.1 hlt, hnear, by rw [hcode, if_neg hlt]⟩

/-- A number that a finite code stands for is rounded to that code. -/
theorem Fp.Regular.encode_exact {n c : Nat} {e : Int} (hc : c < f.inf)
    (hv : (n * 2 ^ e * 2 ^ (-f.low) : ℚ) = codeSize (f.prec - 1) c) : f.encode n 1 e = some c := by
  obtain ⟨c', hnear, hcode⟩ := Fp.encode_near hf.prec hf.inf_pos n Nat.one_pos e
  rw [Nat.cast_one, div_one] at hnear
  obtain rfl := hnear.eq_of_exact (codeSize_strictMono _) hv
  rw [hcode, if_neg (not_le.2 hc)]
end

section
variable {f : Fp} {b : Nat}

theorem Fp.decode_inf (h : b % f.signBit = f.inf) : f.decode b = .inf (decide (f.signBit ≤ b)) := by
  have hdiv : f.inf / 2 ^ (f.prec - 1) = f.codes - 1 := Nat.mul_div_cancel _ (by positivity)
  have hmod : f.inf % 2 ^ (f.prec - 1) = 0 := Nat.mul_mod_left _ _
  simp only [Fp.decode, h, hdiv, hmod, if_true]

/-- A finite code's value is the number it stands for, its exponent no lower than the smallest. -/
theorem Fp.decode_fin (h : b % f.signBit < f.inf) : ∃ m i : Nat,
    f.decode b = .fin (decide (f.signBit ≤ b)) m (f.low + i) ∧ m * 2 ^ i = codeSize (f.prec - 1) (b % f.signBit) ∧
      m < 2 ^ (f.prec - 1 + 1) := by
  unfold Fp.decode codeSize
  dsimp only
  generalize b % f.signBit = c at h ⊢
  have hmod := Nat.mod_lt c (y := 2 ^ (f.prec - 1)) (by positivity)
  rw [pow_succ]
  have hex : c / 2 ^ (f.prec - 1) ≠ f.codes - 1 := ((Nat.div_lt_iff_lt_mul (by positivity)).2 h).ne
  rw [if_neg hex]
  split
  next h0 =>
    have hsplit := Nat.div_add_mod' c (2 ^ (f.prec - 1))
    rw [h0, Nat.zero_mul, Nat.zero_add] at hsplit
    refine ⟨c, 0, ?_, by rw [pow_zero, mul_one], by omega⟩
    rw [hsplit, Nat.cast_zero, add_zero, Fp.low]
  next h0 =>
    refine ⟨_, c / 2 ^ (f.prec - 1) - 1, ?_, rfl, by omega⟩
    rw [Nat.cast_sub (Nat.pos_of_ne_zero h0), Nat.cast_one, ← add_sub_assoc, Fp.low]

theorem Fp.decode_nan (hc : 0 < f.codes) (h : f.inf < b % f.signBit) : f.decode b = .nan := by
  rw [Fp.decode_eq_nan_iff]
  have hlt : b % f.signBit < f.codes * 2 ^ (f.prec - 1) :=
    Nat.mod_lt _ (Nat.mul_pos hc (by positivity))
  have hK : 0 < 2 ^ (f.prec - 1) := by positivity
  rw [Fp.inf] at h
  generalize b % f.signBit = c at h hlt ⊢
  obtain ⟨k, hk⟩ := Nat.exists_eq_succ_of_ne_zero hc.ne'
  rw [hk, Nat.succ_sub_one] at h ⊢
  rw [hk] at hlt
  have hdiv : c / 2 ^ (f.prec - 1) = k := Nat.div_eq_of_lt_le h.le hlt
  have hsplit := Nat.div_add_mod' c (2 ^ (f.prec - 1))
  rw [hdiv] at hsplit
  exact ⟨hdiv, by omega⟩
end

end Sys2Proof.Machine
end

section
/-! PROOFS. The conversion of an element under its four policies (O25, R122-R124, R212). -/

namespace Sys2Proof.Machine

/-! ### Distances in whole units -/

section
variable (m : Nat) (k : Int)

/-- The distance of m × 2^k from s, over a denominator that makes both whole. -/
theorem natAbs_units (s : Nat) : (((m : Int) * 2 ^ k.toNat - s * 2 ^ (-k).toNat).natAbs : ℚ) =
    |(m : ℚ) * 2 ^ k - s| * 2 ^ (-k).toNat := by
  have hpos : (0 : ℚ) < 2 ^ (-k).toNat := by positivity
  have hmul (x : ℚ) : |x| * 2 ^ (-k).toNat = |x * 2 ^ (-k).toNat| := by rw [abs_mul, abs_of_pos hpos]
  rw [Nat.cast_natAbs, hmul, sub_mul, mul_assoc, zpow_mul_toNat]
  push_cast
  rfl

variable {m k}

/-- The nearest code by the distances of the codes. -/
theorem NearCode.natAbs_nearest {u : Nat → Nat} (hu : StrictMono u) {c : Nat} (h : NearCode u c (m * 2 ^ k))
    (d : Nat) :
    ((m : Int) * 2 ^ k.toNat - u c * 2 ^ (-k).toNat).natAbs ≤ ((m : Int) * 2 ^ k.toNat - u d * 2 ^ (-k).toNat).natAbs ∧
    (d ≠ c → ((m : Int) * 2 ^ k.toNat - u c * 2 ^ (-k).toNat).natAbs =
      ((m : Int) * 2 ^ k.toNat - u d * 2 ^ (-k).toNat).natAbs → c % 2 = 0) := by
  have hpos : (0 : ℚ) < 2 ^ (-k).toNat := by positivity
  obtain ⟨hle, htie⟩ := h.nearest hu d
  rw [← Nat.cast_le (α := ℚ), ← Nat.cast_inj (R := ℚ), natAbs_units, natAbs_units]
  exact ⟨mul_le_mul_of_nonneg_right hle hpos.le, fun hne heq => htie hne (mul_right_cancel₀ hpos.ne' heq)⟩
end

/-! ### Floating-point targets (R122, R123) -/

/-- A floating-point target: its NaN, infinity and largest code, its sign, the number from which it overflows, its
fraction bits, and its smallest spacing as 2^-unit. -/
structure FloatTarget (F : Fp) (t nan inf top sign limit frac unit : Nat) : Prop where
  format : fpOf t = some F
  regular : F.Regular
  nan_eq : F.nan = nan
  inf_eq : F.inf = inf
  top_eq : F.inf - 1 = top
  sign_eq : F.signBit = sign
  middle : codeSize frac top + codeSize frac inf = 2 * (limit * 2 ^ unit)
  frac_eq : F.prec - 1 = frac
  low_eq : F.low = -unit

theorem floatTarget_fp32 :
    FloatTarget fp32 0 0x7FC00000 0x7F800000 0x7F7FFFFF 0x80000000 ((2 ^ 25 - 1) * 2 ^ 103) 23 149 :=
  ⟨rfl, ⟨by decide, by decide⟩, rfl, rfl, rfl, rfl, rfl, rfl, rfl⟩

theorem floatTarget_bf16 : FloatTarget bf16 1 0x7FC0 0x7F80 0x7F7F 0x8000 ((2 ^ 9 - 1) * 2 ^ 119) 7 133 :=
  ⟨rfl, ⟨by decide, by decide⟩, rfl, rfl, rfl, rfl, rfl, rfl, rfl⟩

theorem floatTarget_fp16 : FloatTarget fp16 2 0x7E00 0x7C00 0x7BFF 0x8000 65520 10 24 :=
  ⟨rfl, ⟨by decide, by decide⟩, rfl, rfl, rfl, rfl, rfl, rfl, rfl⟩

section
variable {F : Fp} {t nan inf top sign limit frac unit : Nat} (hT : FloatTarget F t nan inf top sign limit frac unit)
include hT

theorem FloatTarget.convert_nan (o : Nat) : convert .nan t o = some nan := by
  simp only [convert, hT.format, hT.nan_eq]

theorem FloatTarget.convert_inf (neg : Bool) (o : Nat) :
    convert (.inf neg) t o = some (if neg then sign + inf else inf) := by
  simp only [convert, hT.format, Fp.signed, hT.sign_eq, hT.inf_eq]

theorem FloatTarget.overflow_eq {o : Nat} (ho : o < 4) (neg : Bool) : overflow neg t o =
    if o = 0 then some (if neg then sign + top else top) else if o = 1 then some (if neg then sign + inf else inf)
      else if o = 2 then some nan else none := by
  have hmax : F.max = top := hT.top_eq
  simp only [overflow, hT.format, Fp.signed, hmax, hT.sign_eq, hT.inf_eq, hT.nan_eq]
  interval_cases o <;> rfl

theorem FloatTarget.convert_of_encode {neg : Bool} {m c : Nat} {e : Int} (h : F.encode m 1 e = some c) (o : Nat) :
    convert (.fin neg m e) t o = some (if neg then sign + c else c) := by
  simp only [convert, hT.format, h, Fp.signed, hT.sign_eq]

theorem FloatTarget.convert_of_encode_none {neg : Bool} {m : Nat} {e : Int} (h : F.encode m 1 e = none) (o : Nat) :
    convert (.fin neg m e) t o = overflow neg t o := by
  simp only [convert, hT.format, h]

theorem FloatTarget.in_units (m : Nat) (e : Int) :
    ((m : ℚ) / (1 : Nat) * 2 ^ e * 2 ^ (-F.low) : ℚ) = m * 2 ^ (e + unit) := by
  rw [Nat.cast_one, div_one, mul_assoc, ← zpow_add₀ two_ne_zero, hT.low_eq, neg_neg]

/-- The middle between the largest code and infinity, as the statement's limit. -/
theorem FloatTarget.limit_le (m : Nat) (e : Int) : limit * 2 ^ (-e).toNat ≤ m * 2 ^ e.toNat ↔
    (codeSize frac top + codeSize frac inf : ℚ) ≤ 2 * (m * 2 ^ (e + unit)) := by
  have hmiddle : (codeSize frac top + codeSize frac inf : ℚ) = 2 * (limit * 2 ^ unit) := by exact_mod_cast hT.middle
  have hpos : (0 : ℚ) < 2 * 2 ^ unit := by positivity
  have hle := pow2_le_pow2 limit m e
  rw [pow2_eq, pow2_eq] at hle
  rw [hle, hmiddle, ← mul_le_mul_iff_left₀ hpos, zpow_add₀ two_ne_zero, zpow_natCast]
  ring_nf

theorem FloatTarget.convert_beyond {neg : Bool} {m : Nat} {e : Int} (h : limit * 2 ^ (-e).toNat ≤ m * 2 ^ e.toNat)
    (o : Nat) : convert (.fin neg m e) t o = overflow neg t o := by
  have hcases := (hT.regular.encode_cases m Nat.one_pos e).1
  rw [hT.in_units, hT.frac_eq, hT.top_eq, hT.inf_eq] at hcases
  exact hT.convert_of_encode_none (hcases ((hT.limit_le m e).1 h)) o

theorem FloatTarget.convert_within (neg : Bool) {m : Nat} {e : Int} (h : m * 2 ^ e.toNat < limit * 2 ^ (-e).toNat)
    (o : Nat) : ∃ c ≤ top, convert (.fin neg m e) t o = some (if neg then sign + c else c) ∧
      NearCode (codeSize frac) c (m * 2 ^ (e + unit)) := by
  have hcases := (hT.regular.encode_cases m Nat.one_pos e).2
  rw [hT.in_units, hT.frac_eq, hT.top_eq, hT.inf_eq] at hcases
  obtain ⟨c, hlt, hnear, hcode⟩ := hcases (not_le.1 (mt (hT.limit_le m e).2 (not_le.2 h)))
  refine ⟨c, ?_, hT.convert_of_encode hcode o, hnear⟩
  rw [← hT.top_eq, hT.inf_eq]
  exact Nat.le_sub_one_of_lt hlt
end

/-! ### The LG6 target (R114, R123) -/

theorem lg6Units_strictMono : StrictMono lg6Units := by
  refine strictMono_nat_of_lt_succ fun m => ?_
  obtain ⟨a, b, hb, rfl⟩ : ∃ a b, b < 4 ∧ m = 4 * a + b := ⟨m / 4, m % 4, by omega, by omega⟩
  have hpow : 0 < 2 ^ a := by positivity
  have hdiv : (4 * a + b) / 4 = a := by omega
  have hmod : (4 * a + b) % 4 = b := by omega
  rcases Nat.lt_or_ge b 3 with hlt | hge
  · have hdiv' : (4 * a + b + 1) / 4 = a := by omega
    have hmod' : (4 * a + b + 1) % 4 = b + 1 := by omega
    rw [lg6Units, lg6Units, if_neg (Nat.succ_ne_zero _), hdiv, hmod, hdiv', hmod', Nat.shiftLeft_eq, Nat.shiftLeft_eq]
    have hstep : qtab b < qtab (b + 1) := by interval_cases b <;> decide
    split
    · exact Nat.mul_pos (Nat.zero_lt_of_lt hstep) hpow
    · exact Nat.mul_lt_mul_of_pos_right hstep hpow
  · obtain rfl : b = 3 := by omega
    have hdiv' : (4 * a + 3 + 1) / 4 = a + 1 := by omega
    have hmod' : (4 * a + 3 + 1) % 4 = 0 := by omega
    rw [lg6Units, lg6Units, if_neg (Nat.succ_ne_zero _), if_neg (by omega), hdiv, hmod, hdiv', hmod', Nat.shiftLeft_eq,
      Nat.shiftLeft_eq, pow_succ', ← mul_assoc]
    exact Nat.mul_lt_mul_of_pos_right (by decide) hpow

/-- The numbers below n that meet a test which holds downwards are those below their count. -/
theorem length_filter_range_initial {p : Nat → Bool} (hp : ∀ k, p (k + 1) = true → p k = true) (n : Nat) :
    ((List.range n).filter p).length ≤ n ∧ ∀ k < n, p k = true ↔ k < ((List.range n).filter p).length := by
  induction n with
  | zero => exact ⟨le_rfl, nofun⟩
  | succ n ih =>
    obtain ⟨hle, hiff⟩ := ih
    rw [List.range_succ, List.filter_append, List.length_append]
    cases hn : p n with
    | true =>
      have hall : ∀ k ≤ n, p k = true := fun k hk => Nat.decreasingInduction (fun k _ => hp k) hn hk
      rw [List.filter_eq_self.2 fun k hk => hall k (List.mem_range.1 hk).le, List.length_range]
      simp only [List.filter_cons_of_pos hn, List.filter_nil, List.length_singleton]
      exact ⟨le_rfl, fun k hk => iff_of_true (hall k (Nat.le_of_lt_succ hk)) hk⟩
    | false =>
      rw [List.filter_cons_of_neg (Bool.not_eq_true _ ▸ hn), List.filter_nil, List.length_nil, Nat.add_zero]
      refine ⟨Nat.le_succ_of_le hle, fun k hk => ?_⟩
      rcases (Nat.le_of_lt_succ hk).lt_or_eq with hlt | rfl
      · exact hiff k hlt
      · exact iff_of_false (Bool.eq_false_iff.1 hn) hle.not_gt

/-- A number passes the middle above the code k, or stands on it where the code beyond is even. -/
def PassesMiddle (u : Nat → Nat) (v : ℚ) (k : Nat) : Prop :=
  (u k + u (k + 1) : ℚ) < 2 * v ∨ (u k + u (k + 1) : ℚ) = 2 * v ∧ (k + 1) % 2 = 0

theorem PassesMiddle.pred {u : Nat → Nat} (hu : StrictMono u) {v : ℚ} {k : Nat} (h : PassesMiddle u v (k + 1)) :
    PassesMiddle u v k := by
  have hlt := cast_lt_of_code_lt hu (Nat.lt_succ_self k)
  have hlt' := cast_lt_of_code_lt hu (Nat.lt_succ_self (k + 1))
  refine .inl ?_
  rcases h with h | ⟨h, -⟩ <;> linarith

/-- The code that counts the middles passed is the nearest. -/
theorem nearCode_of_count {u : Nat → Nat} (hu : StrictMono u) {v : ℚ} {c n : Nat} (hc : c ≤ n) (hv : v ≤ u n)
    (hcount : ∀ k < n, PassesMiddle u v k ↔ k < c) : NearCode u c v := by
  refine ⟨?_, fun hpos => ?_⟩
  · rcases hc.lt_or_eq with hlt | rfl
    · obtain ⟨hle, hodd⟩ := not_or.1 (mt (hcount c hlt).1 (lt_irrefl c))
      refine ⟨not_lt.1 hle, fun h => ?_⟩
      have := not_and.1 hodd h.symm
      omega
    · have := cast_lt_of_code_lt hu (Nat.lt_succ_self c)
      exact ⟨by linarith, fun h => absurd h (by linarith)⟩
  · have hpass := (hcount (c - 1) (by omega)).2 (by omega)
    rw [PassesMiddle, Nat.sub_add_cancel hpos] at hpass
    rcases hpass with hlt | ⟨heq, heven⟩
    · exact ⟨hlt.le, fun h => absurd h hlt.ne⟩
    · exact ⟨heq.le, fun _ => heven⟩

/-- The model's test of the middle above the code k (R123). -/
def lg6Test (m : Nat) (e : Int) (k : Nat) : Bool :=
  let mid := lg6Units k + lg6Units (k + 1)
  let a := pow2 m (e + 20)
  let b := pow2 mid (-20 - e)
  decide (b < a) || (a == b && (k + 1) % 2 == 0)

theorem lg6Test_iff (m : Nat) (e : Int) (k : Nat) :
    lg6Test m e k = true ↔ PassesMiddle lg6Units (m * 2 ^ (e + 19)) k := by
  have hdouble : (m * 2 ^ (e + 20) : ℚ) = 2 * (m * 2 ^ (e + 19)) := by
    rw [show e + 20 = e + 19 + 1 by ring, zpow_add_one₀ two_ne_zero]
    ring
  have hlt := pow2_lt_pow2 (lg6Units k + lg6Units (k + 1)) m (e + 20)
  have heq := eq_comm.trans (pow2_eq_pow2 (lg6Units k + lg6Units (k + 1)) m (e + 20))
  rw [hdouble, Nat.cast_add] at hlt heq
  rw [lg6Test, PassesMiddle, show (-20 - e : Int) = -(e + 20) by ring]
  simp only [Bool.or_eq_true, decide_eq_true_eq, Bool.and_eq_true, beq_iff_eq, hlt, heq]

theorem lg6Nearest_near {m : Nat} {e : Int} (h : (m * 2 ^ (e + 19) : ℚ) ≤ lg6Units 31) :
    lg6Nearest m e ≤ 31 ∧ NearCode lg6Units (lg6Nearest m e) (m * 2 ^ (e + 19)) := by
  have hcount : lg6Nearest m e = ((List.range 31).filter (lg6Test m e)).length := rfl
  have hdown (k : Nat) (hk : lg6Test m e (k + 1) = true) : lg6Test m e k = true :=
    (lg6Test_iff m e k).2 (((lg6Test_iff m e (k + 1)).1 hk).pred lg6Units_strictMono)
  obtain ⟨hle, hiff⟩ := length_filter_range_initial hdown 31
  rw [hcount]
  exact ⟨hle, nearCode_of_count lg6Units_strictMono hle h fun k hk => (lg6Test_iff m e k).symm.trans (hiff k hk)⟩

/-- A magnitude code of LG6 with its sign, of which a zero has none. -/
def lg6Signed (neg : Bool) (c : Nat) : Nat := if neg = true ∧ c ≠ 0 then 32 + c else c

theorem convert_lg6_beyond {neg : Bool} {m : Nat} {e : Int} (h : (lg6Units 31 : ℚ) < m * 2 ^ (e + 19)) (o : Nat) :
    convert (.fin neg m e) 7 o = overflow neg 7 o := by
  rw [← pow2_lt_pow2, show -(e + 19) = -19 - e by ring] at h
  simp only [convert, fpOf, if_pos h, if_true]

theorem convert_lg6_within (neg : Bool) {m : Nat} {e : Int} (h : (m * 2 ^ (e + 19) : ℚ) ≤ lg6Units 31) (o : Nat) :
    convert (.fin neg m e) 7 o = some (lg6Signed neg (lg6Nearest m e)) := by
  rw [← not_lt, ← pow2_lt_pow2, show -(e + 19) = -19 - e by ring] at h
  simp only [convert, fpOf, if_neg h, if_true]
  rfl

theorem overflow_lg6 {o : Nat} (ho : o < 4) (neg : Bool) : overflow neg 7 o =
    if o = 0 then some (if neg then 63 else 31) else if o = 3 then none else some 32 := by
  interval_cases o <;> rfl

/-! ### Integer, Q14 and LN16 targets (R113, R118, R119, R123) -/

theorem signedMag_natAbs_self (k : Int) : signedMag (decide (k < 0)) k.natAbs = k := by
  rw [signedMag]
  split
  next h => have := of_decide_eq_true h; omega
  next h => have := mt decide_eq_true h; omega

/-- An integer or fixed-point target: its width, its scale as a power of two, and its range. -/
structure IntTarget (t w sc : Nat) (lo hi : Int) : Prop where
  format : fpOf t = none
  not_lg6 : t ≠ 7
  bits : fmtBits t = w
  scale : fmtScale t = sc
  range : fmtRange t = (lo, hi)

section
variable {t w sc : Nat} {lo hi : Int} (hT : IntTarget t w sc lo hi)
include hT

theorem IntTarget.overflow_eq {o : Nat} (ho : o = 0 ∨ o = 3) (neg : Bool) : overflow neg t o =
    if o = 3 then none else some ((if neg then lo else hi) % 2 ^ w).toNat := by
  rcases ho with rfl | rfl
  · simp only [overflow, hT.format, if_neg hT.not_lg6, hT.bits, hT.range]
  · rfl

theorem IntTarget.convert_fin (neg : Bool) (m : Nat) (e : Int) (o : Nat) : convert (.fin neg m e) t o =
    if rneInt (signedMag neg m) (e + sc) < lo ∨ hi < rneInt (signedMag neg m) (e + sc) then overflow neg t o
      else some (rneInt (signedMag neg m) (e + sc) % 2 ^ w).toNat := by
  simp only [convert, hT.format, if_neg hT.not_lg6, hT.bits, hT.range, hT.scale]

/-- An integer in range, in the target's own units, keeps its bits. -/
theorem IntTarget.convert_valInt {k : Int} (hlo : lo ≤ k) (hhi : k ≤ hi) (o : Nat) :
    convert (valInt k (-sc)) t o = some (k % 2 ^ w).toNat := by
  have hround : rneInt (signedMag (decide (k < 0)) k.natAbs) (-sc + sc) = k := by
    rw [signedMag_natAbs_self, neg_add_cancel, rneInt, if_pos le_rfl, Int.toNat_zero, pow_zero, mul_one]
  rw [valInt, hT.convert_fin, hround, if_neg (by omega)]
end

theorem IntTarget.convert_nan {t w sc : Nat} {lo hi : Int} (hT : IntTarget t w sc lo hi) (ht : t ≠ 12) (o : Nat) :
    convert .nan t o = if o = 3 then none else some 0 := by
  simp only [convert, hT.format, if_neg hT.not_lg6, if_neg ht]

theorem IntTarget.convert_inf {t w sc : Nat} {lo hi : Int} (hT : IntTarget t w sc lo hi) {neg : Bool}
    (h : ¬ (t = 12 ∧ neg = true)) (o : Nat) : convert (.inf neg) t o = overflow neg t o := by
  simp only [convert, hT.format, if_neg h]

/-- A number of w bits read as a signed one keeps its bits. -/
theorem signedBits_emod {w b : Nat} (hb : b < 2 ^ w) : (signedBits w b % 2 ^ w).toNat = b := by
  have hmod : signedBits w b % 2 ^ w = (b : Int) % 2 ^ w := by
    rw [signedBits]
    split
    · exact Int.sub_emod_right _ _
    · rfl
  rw [hmod]
  exact_mod_cast congrArg Int.toNat (Int.natCast_inj.2 (Nat.mod_eq_of_lt hb))

theorem signedBits_bounds {w b : Nat} (hw : 0 < w) (hb : b < 2 ^ w) :
    -2 ^ (w - 1) ≤ signedBits w b ∧ signedBits w b ≤ 2 ^ (w - 1) - 1 := by
  obtain ⟨k, rfl⟩ := Nat.exists_eq_succ_of_ne_zero hw.ne'
  rw [Nat.succ_sub_one, signedBits, Nat.succ_sub_one]
  have hpow : (2 : Int) ^ (k + 1) = 2 * 2 ^ k := pow_succ' 2 k
  have hb' : (b : Int) < 2 * 2 ^ k := by rw [← hpow]; exact_mod_cast hb
  split
  next h =>
    have : (2 : Int) ^ k ≤ b := by exact_mod_cast h
    rw [Nat.succ_eq_add_one, hpow]
    omega
  next h =>
    have : (b : Int) < 2 ^ k := by exact_mod_cast not_le.1 h
    omega

/-! ### An element in its own format -/

theorem FloatTarget.convert_decode {F : Fp} {t nan inf top sign limit frac unit : Nat}
    (hT : FloatTarget F t nan inf top sign limit frac unit) {b : Nat} (hb : b < 2 * F.signBit)
    (hnan : F.decode b ≠ .nan) (o : Nat) : convert (F.decode b) t o = some b := by
  have hsign := Fp.signed_mod hb
  rw [Fp.signed, hT.sign_eq] at hsign
  have hcodes : 0 < F.codes := Nat.succ_pos _
  rcases lt_trichotomy (b % F.signBit) F.inf with hlt | heq | hgt
  · obtain ⟨m, i, hdecode, hsize, -⟩ := Fp.decode_fin hlt
    have hexact : F.encode m 1 (F.low + i) = some (b % F.signBit) := by
      refine hT.regular.encode_exact hlt ?_
      rw [mul_assoc, ← zpow_add₀ two_ne_zero, show F.low + i + -F.low = i by ring, zpow_natCast]
      exact_mod_cast hsize
    rw [hdecode, hT.convert_of_encode hexact, hT.sign_eq, hsign]
  · rw [Fp.decode_inf heq, hT.convert_inf, ← hT.inf_eq, ← heq, hT.sign_eq, hsign]
  · exact absurd (Fp.decode_nan hcodes hgt) hnan

/-! ### The instruction (R212, R124) -/

theorem overflow_ne_none {o : Nat} (ho : o ≠ 3) (neg : Bool) (t : Nat) : overflow neg t o ≠ none := by
  rw [overflow, if_neg ho]
  split
  · exact Option.some_ne_none _
  · split <;> exact Option.some_ne_none _

/-- Only TRAP leaves an element without a code. -/
theorem convert_ne_none {o : Nat} (ho : o ≠ 3) (v : Val) (t : Nat) : convert v t o ≠ none := by
  have hover := overflow_ne_none ho
  unfold convert
  cases fpOf t with
  | some F =>
    cases v with
    | nan | inf neg => exact Option.some_ne_none _
    | fin neg m e =>
      dsimp only
      split
      · exact Option.some_ne_none _
      · exact hover neg t
  | none =>
    cases v with
    | nan =>
      dsimp only
      rw [if_neg ho]
      split
      · exact Option.some_ne_none _
      · split <;> exact Option.some_ne_none _
    | inf neg =>
      dsimp only
      split
      · exact Option.some_ne_none _
      · exact hover neg t
    | fin neg m e =>
      dsimp only
      split
      · split
        · exact hover neg t
        · exact Option.some_ne_none _
      · split
        · exact hover neg t
        · exact Option.some_ne_none _

/-- The position of the first element without a code. -/
theorem findIdx_isNone {α β : Type} (y : α → Option β) {before after : List α} {x : α}
    (hbefore : ∀ z ∈ before, y z ≠ none) (hx : y x = none) :
    ((before ++ x :: after).map y).findIdx? (·.isNone) = some before.length := by
  have hnone : (before.map y).findIdx? (·.isNone) = none := by
    rw [List.findIdx?_eq_none_iff]
    simpa [Option.isNone_eq_false_iff, Option.isSome_iff_ne_none] using hbefore
  rw [List.map_append, List.findIdx?_append, hnone, List.map_cons, List.findIdx?_cons, hx]
  simp

section
variable {s : State} {g : Guard} (he : s.enabled g []) (d : BitVec 5) {a : BitVec 5} {f t : BitVec 4} {o : BitVec 2}
include he

theorem exec_vcvt_all (h : ∀ x ∈ s.vreg a, convert (fmtVal f.toNat x.toNat) t.toNat o.toNat ≠ none) :
    exec (.vcvt g d a f t o) s = .next (s.toVec 4 d ((s.vreg a).map fun x =>
      BitVec.ofNat 32 ((convert (fmtVal f.toNat x.toNat) t.toNat o.toNat).getD 0)) pOnes) := by
  have hnone :
      ((s.vreg a).map fun x => convert (fmtVal f.toNat x.toNat) t.toNat o.toNat).findIdx? (·.isNone) = none := by
    rw [List.findIdx?_eq_none_iff]
    simpa [Option.isNone_eq_false_iff, Option.isSome_iff_ne_none] using h
  show execVcvt g d a f t o s = _
  refine (guarded_on s g [] _ he).trans ?_
  simp only [sourced_nil, hnone, List.map_map]
  rfl

theorem exec_vcvt_trap {before after : List W32} {x : W32} (hsplit : s.vreg a = before ++ x :: after)
    (hbefore : ∀ z ∈ before, convert (fmtVal f.toNat z.toNat) t.toNat o.toNat ≠ none)
    (hx : convert (fmtVal f.toNat x.toNat) t.toNat o.toNat = none) : exec (.vcvt g d a f t o) s =
      .next (s.raise ⟨cFmtovf, BitVec.ofNat 64 before.length, none, none, false⟩) := by
  have hfind := findIdx_isNone (fun x : W32 => convert (fmtVal f.toNat x.toNat) t.toNat o.toNat) (after := after)
    hbefore hx
  rw [← hsplit] at hfind
  show execVcvt g d a f t o s = _
  refine (guarded_on s g [] _ he).trans ?_
  simp only [sourced_nil, hfind]
  rfl
end

/-! ### The statement, clause by clause -/

theorem convert_floatTarget {F : Fp} {t nan inf top sign limit frac unit : Nat}
    (hT : FloatTarget F t nan inf top sign limit frac unit) {o : Nat} (ho : o < 4) :
    let signed := fun (neg : Bool) (c : Nat) => if neg then sign + c else c
    convert .nan t o = some nan ∧ (∀ neg, convert (.inf neg) t o = some (signed neg inf)) ∧
    ∀ (neg : Bool) (m : Nat) (e : Int),
      (limit * 2 ^ (-e).toNat ≤ m * 2 ^ e.toNat → convert (.fin neg m e) t o =
        if o = 0 then some (signed neg top) else if o = 1 then some (signed neg inf) else if o = 2 then some nan
          else none) ∧
      let size := codeSize frac
      let x : Int := m * 2 ^ (e + unit).toNat
      let one : Int := 2 ^ (-(e + unit)).toNat
      (m * 2 ^ e.toNat < limit * 2 ^ (-e).toNat → ∃ c ≤ top, convert (.fin neg m e) t o = some (signed neg c) ∧
        ∀ d ≤ top, (x - size c * one).natAbs ≤ (x - size d * one).natAbs ∧
          (d ≠ c → (x - size c * one).natAbs = (x - size d * one).natAbs → c % 2 = 0)) := by
  refine ⟨hT.convert_nan o, fun neg => hT.convert_inf neg o, fun neg m e => ⟨fun h => ?_, fun h => ?_⟩⟩
  · rw [hT.convert_beyond h, hT.overflow_eq ho]
  · obtain ⟨c, hc, hconvert, hnear⟩ := hT.convert_within neg h o
    exact ⟨c, hc, hconvert, fun d _ => hnear.natAbs_nearest (codeSize_strictMono _) d⟩

theorem convert_lg6 {size : Nat → Int} (hsize : ∀ c, size c = lg6Units c) {o : Nat} (ho : o < 4) :
    let beyond := fun (neg : Bool) =>
      if o = 0 then some (if neg then 63 else 31) else if o = 3 then none else some (32 : Nat)
    convert .nan 7 o = some 32 ∧ (∀ neg, convert (.inf neg) 7 o = beyond neg) ∧
    ∀ (neg : Bool) (m : Nat) (e : Int),
      let x : Int := m * 2 ^ (e + 19).toNat
      let one : Int := 2 ^ (-(e + 19)).toNat
      (size 31 * one < x → convert (.fin neg m e) 7 o = beyond neg) ∧
      (x ≤ size 31 * one → ∃ c ≤ 31, convert (.fin neg m e) 7 o = some (if neg = true ∧ c ≠ 0 then 32 + c else c) ∧
        ∀ d ≤ 31, (x - size c * one).natAbs ≤ (x - size d * one).natAbs ∧
          (d ≠ c → (x - size c * one).natAbs = (x - size d * one).natAbs → c % 2 = 0)) := by
  simp only [hsize]
  refine ⟨rfl, fun neg => (overflow_lg6 ho neg :), fun neg m e => ⟨fun h => ?_, fun h => ?_⟩⟩
  · have hlt := (pow2_lt_pow2 (lg6Units 31) m (e + 19)).1 (by rw [pow2_eq, pow2_eq]; exact_mod_cast h)
    rw [convert_lg6_beyond hlt, overflow_lg6 ho]
  · have hle := not_lt.1 (mt (pow2_lt_pow2 (lg6Units 31) m (e + 19)).2
      (by rw [pow2_eq, pow2_eq]; exact_mod_cast not_lt.2 h))
    obtain ⟨hc, hnear⟩ := lg6Nearest_near hle
    exact ⟨_, hc, convert_lg6_within neg hle o, fun d _ => hnear.natAbs_nearest lg6Units_strictMono d⟩

theorem convert_intTarget {t w sc : Nat} {lo hi : Int} (hT : IntTarget t w sc lo hi) {o : Nat} (ho : o = 0 ∨ o = 3) :
    let code := fun (k : Int) => (k % 2 ^ w).toNat
    let beyond := fun (neg : Bool) => if o = 3 then none else some (code (if neg then lo else hi))
    (t ≠ 12 → convert .nan t o = (if o = 3 then none else some 0) ∧ ∀ neg, convert (.inf neg) t o = beyond neg) ∧
    (t = 12 → convert .nan t o = some 0x8000 ∧ convert (.inf true) t o = some 0x8000 ∧
      convert (.inf false) t o = beyond false) ∧
    ∀ (neg : Bool) (m : Nat) (e : Int),
      let x : Int := (if neg then -(m : Int) else m) * 2 ^ (e + sc).toNat
      let one : Nat := 2 ^ (-(e + sc)).toNat
      ∃ k : Int, 2 * (x - k * one).natAbs ≤ one ∧ (2 * (x - k * one).natAbs = one → k % 2 = 0) ∧
        convert (.fin neg m e) t o = if k < lo ∨ hi < k then beyond neg else some (code k) := by
  refine ⟨fun ht => ⟨hT.convert_nan ht o, fun neg => ?_⟩, fun ht => ?_, fun neg m e => ?_⟩
  · rw [hT.convert_inf (fun h => ht h.1), hT.overflow_eq ho]
  · subst ht
    refine ⟨rfl, rfl, ?_⟩
    rw [hT.convert_inf (fun h => Bool.false_ne_true h.2), hT.overflow_eq ho]
  · obtain ⟨hle, htie⟩ := rneInt_nearest (signedMag neg m) (e + sc)
    refine ⟨_, hle, htie, ?_⟩
    rw [hT.convert_fin, hT.overflow_eq ho]

/-- The targets of the statement that hold integers. -/
theorem intTargets : ∀ x ∈ ([(3, 32, 0, -2147483648, 2147483647), (4, 16, 0, -32768, 32767), (5, 8, 0, -128, 127),
      (6, 8, 0, 0, 255), (9, 16, 0, 0, 65535), (10, 32, 0, 0, 4294967295), (11, 16, 14, -32768, 32767),
      (12, 16, 8, -32767, 32767)] : List (Nat × Nat × Nat × Int × Int)),
    IntTarget x.1 x.2.1 x.2.2.1 x.2.2.2.1 x.2.2.2.2 := by
  simp only [List.forall_mem_cons, List.not_mem_nil, false_implies, implies_true, and_true]
  refine ⟨?_, ?_, ?_, ?_, ?_, ?_, ?_, ?_⟩ <;> exact ⟨rfl, by decide, rfl, rfl, rfl⟩

theorem decode_nan_gt {F : Fp} {b : Nat} (h : F.decode b = .nan) : F.inf < b % F.signBit := by
  rcases lt_trichotomy (b % F.signBit) F.inf with hlt | heq | hgt
  · obtain ⟨m, i, hdecode, -, -⟩ := Fp.decode_fin hlt
    exact absurd (hdecode.symm.trans h) nofun
  · exact absurd ((Fp.decode_inf heq).symm.trans h) nofun
  · exact hgt

section
variable {t w sc : Nat} {x : Nat} (o : Nat)

/-- An element of a signed format keeps its bits. -/
theorem signed_element_kept (hw : 0 < w) (hT : IntTarget t w sc (-2 ^ (w - 1)) (2 ^ (w - 1) - 1))
    (hval : fmtVal t x = valInt (signedBits w (x % 2 ^ w)) (-sc)) :
    fmtVal t x ≠ .nan ∧ convert (fmtVal t x) t o = some (x % 2 ^ w) := by
  have hlt : x % 2 ^ w < 2 ^ w := Nat.mod_lt _ (by positivity)
  obtain ⟨hlo, hhi⟩ := signedBits_bounds hw hlt
  rw [hval, hT.convert_valInt hlo hhi, signedBits_emod hlt]
  exact ⟨nofun, rfl⟩

/-- An element of an unsigned format keeps its bits. -/
theorem unsigned_element_kept (hT : IntTarget t w 0 0 (2 ^ w - 1)) (hval : fmtVal t x = valInt (x % 2 ^ w : Nat) 0) :
    fmtVal t x ≠ .nan ∧ convert (fmtVal t x) t o = some (x % 2 ^ w) := by
  have hlt : x % 2 ^ w < 2 ^ w := Nat.mod_lt _ (by positivity)
  have hlt' : ((x % 2 ^ w : Nat) : Int) < 2 ^ w := by exact_mod_cast hlt
  have hkept := hT.convert_valInt (k := (x % 2 ^ w : Nat)) (by omega) (by omega) o
  rw [Int.emod_eq_of_lt (by omega) hlt', Int.toNat_natCast] at hkept
  rw [hval]
  exact ⟨nofun, hkept⟩
end

theorem lg6_element_kept {x : Nat} (o : Nat) (h : fmtVal 7 x ≠ .nan) : convert (fmtVal 7 x) 7 o = some (x % 2 ^ 6) := by
  have hval : fmtVal 7 x = lg6Val (x % 2 ^ 6) := rfl
  have hlt : x % 2 ^ 6 < 64 := Nat.mod_lt _ (by decide)
  rw [hval, lg6Val] at h ⊢
  generalize x % 2 ^ 6 = b at h hlt ⊢
  have hexact {m : Nat} {e : Int} (hv : (m * 2 ^ (e + 19) : ℚ) = lg6Units (b % 32)) (neg : Bool) :
      convert (.fin neg m e) 7 o = some (lg6Signed neg (b % 32)) := by
    have hle : (m * 2 ^ (e + 19) : ℚ) ≤ lg6Units 31 := by
      rw [hv]
      exact cast_le_of_code_le lg6Units_strictMono (Nat.le_of_lt_succ (Nat.mod_lt _ (by decide)))
    rw [convert_lg6_within neg hle, (lg6Nearest_near hle).2.eq_of_exact lg6Units_strictMono hv]
  split at h
  next h0 =>
    have hneg : decide (b / 32 % 2 = 1) = false := Bool.not_eq_true _ ▸ fun hneg => h (if_pos hneg)
    have := of_decide_eq_false hneg
    rw [if_pos h0, hneg, if_neg Bool.false_ne_true, hexact (by rw [h0]; simp [lg6Units])]
    simp only [lg6Signed, h0, ne_eq, not_true, and_false, if_false, Option.some_inj]
    omega
  next h0 =>
    rw [if_neg h0, hexact (by norm_num), lg6Signed]
    simp only [decide_eq_true_eq, ne_eq, h0, not_false_eq_true, and_true, Option.some_inj]
    split <;> omega

theorem ln16_element_kept {x : Nat} (o : Nat) :
    fmtVal 12 x ≠ .nan ∧ convert (fmtVal 12 x) 12 o = some (x % 2 ^ 16) := by
  have hT : IntTarget 12 16 8 (-32767) 32767 := ⟨rfl, by decide, rfl, rfl, rfl⟩
  have hval : fmtVal 12 x = if x % 2 ^ 16 = 0x8000 then .inf true else valInt (signedBits 16 (x % 2 ^ 16)) (-8) := rfl
  have hlt : x % 2 ^ 16 < 2 ^ 16 := Nat.mod_lt _ (by decide)
  rw [hval]
  generalize x % 2 ^ 16 = b at hlt ⊢
  split
  next h => exact ⟨nofun, h ▸ rfl⟩
  next h =>
    have hkept := hT.convert_valInt (k := signedBits 16 b) (by rw [signedBits]; split <;> omega)
      (by rw [signedBits]; split <;> omega) o
    rw [signedBits_emod hlt] at hkept
    exact ⟨nofun, hkept⟩

/-- A code with zeros below its fraction stands for the same number of wider spacings. -/
theorem codeSize_shift (K j c : Nat) : codeSize (K + j) (c * 2 ^ j) = codeSize K c * 2 ^ j := by
  have hpow : 0 < 2 ^ j := by positivity
  rw [codeSize, codeSize, pow_add, Nat.mul_div_mul_right _ _ hpow, Nat.mul_mod_mul_right, ← Nat.add_mul]
  split
  · rfl
  · ring

theorem bf16_to_fp32 {x : Nat} (o : Nat) (h : fmtVal 1 x ≠ .nan) :
    convert (fmtVal 1 x) 0 o = some (x % 2 ^ 16 * 2 ^ 16) := by
  have hT := floatTarget_fp32
  have hS : bf16.signBit = 2 ^ 15 := by decide
  have hinf : bf16.inf = 0x7F80 := by decide
  have hval : fmtVal 1 x = bf16.decode (x % 2 ^ 16) := rfl
  have hlt : x % 2 ^ 16 < 2 * 2 ^ 15 := Nat.mod_lt _ (by decide)
  rw [hval] at h ⊢
  generalize x % 2 ^ 16 = b at h hlt ⊢
  rcases lt_trichotomy (b % bf16.signBit) bf16.inf with hfin | heq | hgt
  · obtain ⟨m, i, hdecode, hsize, -⟩ := Fp.decode_fin hfin
    have hexact : fp32.encode m 1 (bf16.low + i) = some (b % bf16.signBit * 2 ^ 16) := by
      refine hT.regular.encode_exact ?_ ?_
      · rw [hinf] at hfin
        rw [hT.inf_eq]
        omega
      · have hlow : bf16.low + i + -fp32.low = (i + 16 : Nat) := by
          rw [show bf16.low = -133 from rfl, show fp32.low = -149 from rfl]
          push_cast
          ring
        have hshift : codeSize (fp32.prec - 1) (b % bf16.signBit * 2 ^ 16) = m * 2 ^ (i + 16) := by
          rw [show fp32.prec - 1 = 7 + 16 from rfl, codeSize_shift, pow_add, ← mul_assoc, hsize]
          rfl
        rw [mul_assoc, ← zpow_add₀ two_ne_zero, hlow, zpow_natCast, hshift]
        push_cast
        rfl
    rw [hdecode, hT.convert_of_encode hexact, hS, Option.some_inj]
    simp only [decide_eq_true_eq]
    split <;> omega
  · rw [Fp.decode_inf heq, hT.convert_inf, Option.some_inj]
    rw [hinf, hS] at heq
    rw [hS]
    simp only [decide_eq_true_eq]
    split <;> omega
  · exact absurd (Fp.decode_nan (by decide) hgt) h

theorem lg6Val_nan {b : Nat} (h : lg6Val (b % 2 ^ 6) = .nan) : b % 64 = 32 := by
  rw [lg6Val] at h
  split at h
  next h0 =>
    split at h
    next hneg =>
      have := of_decide_eq_true hneg
      omega
    next => exact absurd h nofun
  next => exact absurd h nofun

theorem lg6Units_cast (c : Nat) :
    (if c = 0 then 0 else [0x8000, 0x9838, 0xB505, 0xD745].getD (c % 4) 0 * 2 ^ (c / 4) : Int) = lg6Units c := by
  rw [lg6Units, Nat.shiftLeft_eq]
  have hmod := Nat.mod_lt c (y := 4) (by decide)
  generalize c % 4 = k at hmod
  split
  · rfl
  · push_cast
    congr 1
    interval_cases k <;> rfl

/-- An element in its own format: its bits, or one of the format's NaNs (R111, R114). -/
theorem element_kept {f w x o : Nat} (hf : (f, w) ∈ [(0, 32), (1, 16), (2, 16), (3, 32), (4, 16), (5, 8), (6, 8),
      (7, 6), (9, 16), (10, 32), (11, 16), (12, 16)]) :
    (fmtVal f x ≠ .nan → convert (fmtVal f x) f o = some (x % 2 ^ w)) ∧
    (fmtVal f x = .nan → f = 0 ∧ 0x7F800000 < x % 2 ^ 31 ∨ f = 1 ∧ 0x7F80 < x % 2 ^ 15 ∨ f = 2 ∧ 0x7C00 < x % 2 ^ 15 ∨
      f = 7 ∧ x % 64 = 32) := by
  have float {F : Fp} {t nan inf top sign limit frac unit n : Nat}
      (hT : FloatTarget F t nan inf top sign limit frac unit) (hn : 2 ^ n = 2 * F.signBit) (b : Nat) :
      (F.decode (b % 2 ^ n) ≠ .nan → convert (F.decode (b % 2 ^ n)) t o = some (b % 2 ^ n)) ∧
        (F.decode (b % 2 ^ n) = .nan → inf < b % sign) := by
    refine ⟨fun h => hT.convert_decode (hn ▸ Nat.mod_lt _ (by positivity)) h o, fun h => ?_⟩
    have hgt := decode_nan_gt h
    rwa [hn, Nat.mod_mul_left_mod, hT.sign_eq, hT.inf_eq] at hgt
  have integer {f : Nat} {k : Nat} {P : Prop} (h : fmtVal f x ≠ .nan ∧ convert (fmtVal f x) f o = some k) :
      (fmtVal f x ≠ .nan → convert (fmtVal f x) f o = some k) ∧ (fmtVal f x = .nan → P) :=
    ⟨fun _ => h.2, fun hnan => absurd hnan h.1⟩
  simp only [List.mem_cons, Prod.mk.injEq, List.not_mem_nil, or_false] at hf
  rcases hf with ⟨rfl, rfl⟩ | ⟨rfl, rfl⟩ | ⟨rfl, rfl⟩ | ⟨rfl, rfl⟩ | ⟨rfl, rfl⟩ | ⟨rfl, rfl⟩ | ⟨rfl, rfl⟩ | ⟨rfl, rfl⟩ |
    ⟨rfl, rfl⟩ | ⟨rfl, rfl⟩ | ⟨rfl, rfl⟩ | ⟨rfl, rfl⟩
  · exact (float floatTarget_fp32 (n := 32) rfl x).imp_right fun h hnan => .inl ⟨rfl, h hnan⟩
  · exact (float floatTarget_bf16 (n := 16) rfl x).imp_right fun h hnan => .inr (.inl ⟨rfl, h hnan⟩)
  · exact (float floatTarget_fp16 (n := 16) rfl x).imp_right fun h hnan => .inr (.inr (.inl ⟨rfl, h hnan⟩))
  · exact integer (signed_element_kept (sc := 0) o (by decide) ⟨rfl, by decide, rfl, rfl, rfl⟩ rfl)
  · exact integer (signed_element_kept (sc := 0) o (by decide) ⟨rfl, by decide, rfl, rfl, rfl⟩ rfl)
  · exact integer (signed_element_kept (sc := 0) o (by decide) ⟨rfl, by decide, rfl, rfl, rfl⟩ rfl)
  · exact integer (unsigned_element_kept o ⟨rfl, by decide, rfl, rfl, rfl⟩ rfl)
  · exact ⟨lg6_element_kept o, fun hnan => .inr (.inr (.inr ⟨rfl, lg6Val_nan hnan⟩))⟩
  · exact integer (unsigned_element_kept o ⟨rfl, by decide, rfl, rfl, rfl⟩ rfl)
  · exact integer (unsigned_element_kept o ⟨rfl, by decide, rfl, rfl, rfl⟩ rfl)
  · exact integer (signed_element_kept (sc := 14) o (by decide) ⟨rfl, by decide, rfl, rfl, rfl⟩ rfl)
  · exact integer (ln16_element_kept o)

/-- The byte of INT8 in INT32, and of UINT8 in INT16. -/
theorem bytes_widened (x o : Nat) :
    convert (fmtVal 5 x) 3 o = some (if x % 256 < 128 then x % 256 else 2 ^ 32 - 256 + x % 256) ∧
    convert (fmtVal 6 x) 4 o = some (x % 256) := by
  have hword : IntTarget 3 32 0 (-2147483648) 2147483647 := ⟨rfl, by decide, rfl, rfl, rfl⟩
  have hhalf : IntTarget 4 16 0 (-32768) 32767 := ⟨rfl, by decide, rfl, rfl, rfl⟩
  have hlt := Nat.mod_lt x (y := 256) (by decide)
  have hsigned : signedBits 8 (x % 256) = if x % 256 < 128 then ((x % 256 : Nat) : Int) else (x % 256 : Nat) - 256 := by
    rw [signedBits]
    split_ifs <;> omega
  have hbyte := hword.convert_valInt (k := signedBits 8 (x % 256)) (by rw [hsigned]; split <;> omega)
    (by rw [hsigned]; split <;> omega) o
  have hubyte := hhalf.convert_valInt (k := (x % 256 : Nat)) (by omega) (by omega) o
  refine ⟨Eq.trans hbyte ?_, Eq.trans hubyte ?_⟩ <;> rw [Option.some_inj]
  · rw [hsigned]
    split <;> omega
  · omega

/-- Settles O25: VCVT by the first element without a code; the conversion of an element by the kind of its target, each
taking the nearest code; an element in its own format and the exact widenings by the number their code stands for. -/
theorem conversion : Obligations.Conversion := by
  unfold Obligations.Conversion
  refine ⟨fun s g d a f t o he => ?instruction, fun t nan inf top sign limit frac unit o ho hmem => ?float,
    fun o ho => ?lg6, fun t w sc o lo hi ho hmem => convert_intTarget (intTargets _ hmem) ho,
    fun f w o x hf _ => element_kept hf, fun x o _ => ⟨bf16_to_fp32 o, bytes_widened x o⟩⟩
  case instruction =>
    have hsome (ho : o ≠ 3) (x : W32) : convert (fmtVal f.toNat x.toNat) t.toNat o.toNat ≠ none :=
      convert_ne_none (fun h => ho (BitVec.eq_of_toNat_eq h)) _ _
    exact ⟨fun hall => exec_vcvt_all he d fun x hx => (em (o = 3)).elim (hall x hx) fun ho => hsome ho x, hsome,
      fun before x after => exec_vcvt_trap he d⟩
  case float =>
    simp only [List.mem_cons, Prod.mk.injEq, List.not_mem_nil, or_false] at hmem
    rcases hmem with ⟨rfl, rfl, rfl, rfl, rfl, rfl, rfl, rfl⟩ | ⟨rfl, rfl, rfl, rfl, rfl, rfl, rfl, rfl⟩ |
      ⟨rfl, rfl, rfl, rfl, rfl, rfl, rfl, rfl⟩
    · exact convert_floatTarget floatTarget_fp32 ho
    · exact convert_floatTarget floatTarget_bf16 ho
    · exact convert_floatTarget floatTarget_fp16 ho
  case lg6 => exact convert_lg6 lg6Units_cast ho

end Sys2Proof.Machine
end

section
/-! PROOFS. The special functions (O28, R219-R225). -/

namespace Sys2Proof.Machine

/-! ### Special operands -/

theorem special_on {s : State} {g : Guard} (he : s.enabled g []) (d a : BitVec 5) (h : BitVec 2) (m : BitVec 3)
    (f : W32 → W32) : s.special g d a h m f = .next ((s.keepF h a).toVec 8 d ((s.holdF h a).map f) (s.vpred m)) :=
  guarded_on s g [] _ he

/-- Each special function of a NaN is the canonical NaN (R220). -/
theorem special_nan {x : W32} (hx : isNan32 x = true) :
    ∀ f ∈ [fexp2, flog2, frcp, frsq, fsqrt, ftanh, fsigm, ferf, fsin, fcos], f x = 0x7FC00000 := by
  have hval := (isNan32_iff x).1 hx
  simp only [List.forall_mem_cons, List.not_mem_nil, false_implies, implies_true, fexp2, flog2, frcp, frsq, fsqrt,
    ftanh, fsigm, ferf, fsin, fcos, hval, nan32, and_self]

theorem special_infinities_and_zeros :
    fexp2 0x7F800000 = 0x7F800000 ∧ fexp2 0xFF800000 = 0 ∧ frcp 0 = 0x7F800000 ∧ frcp 0x80000000 = 0xFF800000 ∧
    flog2 0 = 0xFF800000 ∧ flog2 0x80000000 = 0xFF800000 ∧ frsq 0 = 0x7F800000 ∧ fsqrt 0x80000000 = 0x80000000 ∧
    ftanh 0x7F800000 = 0x3F800000 ∧ fsigm 0xFF800000 = 0 ∧ ferf 0xFF800000 = 0xBF800000 ∧ fsin 0x7F800000 = 0x7FC00000 ∧
    fcos 0xFF800000 = 0x7FC00000 ∧ frcp 0x7F800000 = 0 ∧ frcp 0xFF800000 = 0x80000000 ∧ frsq 0x80000000 = 0xFF800000 ∧
    frsq 0x7F800000 = 0 ∧ fsqrt 0 = 0 ∧ fsqrt 0x7F800000 = 0x7F800000 ∧ flog2 0x7F800000 = 0x7F800000 ∧
    flog2 0x3F800000 = 0 := by decide

/-! ### An FP32 operand in units of 2^-149 -/

theorem regular_fp32 : fp32.Regular := ⟨by decide, by decide⟩

theorem val32_fin {x : W32} (h : x.toNat % 2 ^ 31 < 0x7F800000) : ∃ m i : Nat, val32 x = .fin x.msb m (i - 149) ∧
    m * 2 ^ i = codeSize 23 (x.toNat % 2 ^ 31) ∧ m < 2 ^ 24 := by
  have hS : fp32.signBit = 2 ^ 31 := by decide
  have hinf : fp32.inf = 0x7F800000 := by decide
  obtain ⟨m, i, hdecode, hsize, hm⟩ := Fp.decode_fin (f := fp32) (b := x.toNat) (by rw [hS, hinf]; exact h)
  have hlow : fp32.low + i = i - 149 := by rw [show fp32.low = -149 from rfl]; ring
  rw [hlow, hS] at hdecode
  rw [hS] at hsize
  refine ⟨m, i, ?_, hsize, hm⟩
  rw [val32, hdecode, BitVec.msb_eq_decide]

section
variable {m i c : Nat} (hX : m * 2 ^ i = codeSize 23 c)
include hX

/-- A comparison with n × 2^k is one of codes. -/
theorem magGe_iff {n c₀ : Nat} {k : Int} (j : Nat) (hk : k = j - 149) (hc₀ : codeSize 23 c₀ = n * 2 ^ j) :
    magGe m (i - 149) n k = true ↔ c₀ ≤ c := by
  have hle := pow2_le_pow2 n m (i - 149 - k)
  rw [neg_sub] at hle
  rw [← (codeSize_strictMono 23).le_iff_le, hc₀, ← hX, magGe, decide_eq_true_eq, hle, ← Nat.cast_le (α := ℚ),
    ← mul_le_mul_iff_left₀ (by positivity : (0 : ℚ) < 2 ^ j), mul_assoc, ← zpow_natCast, ← zpow_add₀ two_ne_zero,
    show (i - 149 - k + j : Int) = i by omega]
  push_cast
  rfl

theorem magEq_iff {n c₀ : Nat} (hc₀ : codeSize 23 c₀ = n * 2 ^ 149) :
    (pow2 m (i - 149) == pow2 n (-(i - 149))) = true ↔ c₀ = c := by
  have heq := pow2_eq_pow2 n m (i - 149)
  rw [beq_iff_eq, eq_comm, heq, ← (codeSize_strictMono 23).injective.eq_iff, hc₀, ← hX, ← Nat.cast_inj (R := ℚ),
    ← mul_left_inj' (by positivity : (2 : ℚ) ^ 149 ≠ 0), mul_assoc, ← zpow_natCast, ← zpow_add₀ two_ne_zero,
    show (i - 149 + (149 : Nat) : Int) = i by omega]
  push_cast
  rfl

theorem signedMag_mul (neg : Bool) :
    signedMag neg m * 2 ^ i = if neg then -(codeSize 23 c : Int) else codeSize 23 c := by
  rw [← hX, signedMag]
  split
  · push_cast
    ring
  · push_cast
    rfl

theorem codeSize_pos_iff : 0 < c ↔ 0 < m := by
  have hlt := (codeSize_strictMono 23).lt_iff_lt (a := 0) (b := c)
  rw [codeSize_zero, ← hX] at hlt
  rw [← hlt]
  exact Nat.mul_pos_iff_of_pos_right (by positivity)
end

/-! ### The rounding to FP32 -/

/-- The code r is the one nearest to n / d, infinity standing for all beyond the middle below it. -/
def Near32 (r n d : Nat) : Prop := r ≤ 0x7F800000 ∧
  (r ≠ 0x7F800000 → 2 * n ≤ (codeSize 23 r + codeSize 23 (r + 1)) * d ∧
    (2 * n = (codeSize 23 r + codeSize 23 (r + 1)) * d → r % 2 = 0)) ∧
  (0 < r → (codeSize 23 (r - 1) + codeSize 23 r) * d ≤ 2 * n ∧
    ((codeSize 23 (r - 1) + codeSize 23 r) * d = 2 * n → r % 2 = 0))

section
variable {n d : Nat} (hd : 0 < d) (s : Nat)
include hd

theorem div_le_units : 2 * (n / d : ℚ) ≤ s ↔ 2 * n ≤ s * d := by
  rw [← mul_div_assoc, div_le_iff₀ (Nat.cast_pos.2 hd)]
  exact_mod_cast Iff.rfl

theorem units_le_div : (s : ℚ) ≤ 2 * (n / d) ↔ s * d ≤ 2 * n := by
  rw [← mul_div_assoc, le_div_iff₀ (Nat.cast_pos.2 hd)]
  exact_mod_cast Iff.rfl

theorem units_eq_div : (s : ℚ) = 2 * (n / d) ↔ s * d = 2 * n := by
  rw [le_antisymm_iff, le_antisymm_iff, units_le_div hd, div_le_units hd]

theorem near32_of_nearCode {c : Nat} (h : NearCode (codeSize 23) c (n / d)) : Near32 (min c 0x7F800000) n d := by
  have hu := codeSize_strictMono 23
  rcases lt_or_ge c 0x7F800000 with hlt | hge
  · obtain ⟨habove, hbelow⟩ := h
    simp only [← Nat.cast_add, eq_comm (a := 2 * (n / d : ℚ)), div_le_units hd, units_le_div hd, units_eq_div hd]
      at habove hbelow
    rw [min_eq_left hlt.le]
    exact ⟨hlt.le, fun _ => ⟨habove.1, fun heq => habove.2 heq.symm⟩, hbelow⟩
  · have hle := (h.le_iff hu (by decide) (by decide)).1 hge
    rw [← Nat.cast_add, units_le_div hd] at hle
    rw [min_eq_right hge]
    exact ⟨le_rfl, fun hne => absurd rfl hne, fun _ => ⟨hle, fun _ => rfl⟩⟩
end

/-- A number rounded to FP32 is its sign and the code nearest to its magnitude. -/
theorem round32_fields (neg : Bool) (n : Nat) {d : Nat} (hd : 0 < d) (e : Int) :
    ∃ c, NearCode (codeSize 23) c (n / d * 2 ^ (e + 149)) ∧
      (round32 neg n d e).toNat = (if neg then 2 ^ 31 else 0) + min c 0x7F800000 := by
  have hinf : fp32.inf = 0x7F800000 := by decide
  have hS : fp32.signBit = 2 ^ 31 := by decide
  obtain ⟨c, hnear, hcode⟩ := Fp.encode_near regular_fp32.prec regular_fp32.inf_pos n hd e
  rw [mul_assoc, ← zpow_add₀ two_ne_zero] at hnear
  refine ⟨c, hnear, ?_⟩
  have hround : (fp32.encode n d e).getD fp32.inf = min c 0x7F800000 := by
    rw [hcode, hinf]
    split
    next h => exact (min_eq_right h).symm
    next h => exact (min_eq_left (not_le.1 h).le).symm
  rw [round32, Fp.round, hround, Fp.signed, hS, BitVec.toNat_ofNat]
  have hle := min_le_right c 0x7F800000
  generalize min c 0x7F800000 = r at hle ⊢
  split <;> omega

/-- The same for a number given in units of 2^-149. -/
theorem round32_near (neg : Bool) (n : Nat) {d : Nat} (hd : 0 < d) (e : Int) {n' d' : Nat} (hd' : 0 < d')
    (hv : (n / d * 2 ^ (e + 149) : ℚ) = n' / d') : (round32 neg n d e).msb = neg ∧
      Near32 ((round32 neg n d e).toNat % 2 ^ 31) n' d' := by
  obtain ⟨c, hnear, hcode⟩ := round32_fields neg n hd e
  rw [hv] at hnear
  have hmin := near32_of_nearCode hd' hnear
  have hle := min_le_right c 0x7F800000
  generalize min c 0x7F800000 = r at hle hmin hcode
  rw [BitVec.msb_eq_decide, hcode]
  cases neg with
  | false =>
    rw [if_neg Bool.false_ne_true, Nat.zero_add, Nat.mod_eq_of_lt (by omega)]
    exact ⟨decide_eq_false (by omega), hmin⟩
  | true =>
    rw [if_pos rfl, Nat.add_mod_left, Nat.mod_eq_of_lt (by omega)]
    exact ⟨decide_eq_true (by omega), hmin⟩

/-! ### FRCP (R225) -/

theorem frcp_near {x : W32} (hpos : 0 < x.toNat % 2 ^ 31) (hfin : x.toNat % 2 ^ 31 < 0x7F800000) :
    (frcp x).msb = x.msb ∧ Near32 ((frcp x).toNat % 2 ^ 31) (2 ^ 298) (codeSize 23 (x.toNat % 2 ^ 31)) := by
  obtain ⟨m, i, hval, hX, -⟩ := val32_fin hfin
  have hm := (codeSize_pos_iff hX).1 hpos
  have hfrcp : frcp x = round32 x.msb 1 m (-(i - 149)) := by
    rw [frcp, hval]
    exact if_neg hm.ne'
  rw [hfrcp, ← hX]
  refine round32_near x.msb 1 hm _ (by positivity) ?_
  have hpow : (2 : ℚ) ^ (-(i - 149) + 149 : Int) = 2 ^ 298 / 2 ^ i := by
    rw [eq_div_iff (by positivity), ← zpow_natCast, ← zpow_add₀ two_ne_zero, ← zpow_natCast]
    congr 1
    push_cast
    ring
  rw [hpow, div_mul_div_comm, Nat.cast_one, one_mul, Nat.cast_mul, Nat.cast_pow, Nat.cast_pow, Nat.cast_ofNat]

/-! ### FRSQ and FSQRT (R225) -/

theorem codeSize_succ_le_double (K c : Nat) : codeSize K (c + 1) ≤ 2 * codeSize K c + 1 := by
  have hP : 0 < 2 ^ K := by positivity
  rw [codeSize_succ, codeSize]
  split
  next h => rw [h]; omega
  next h =>
    have hle : 2 ^ (c / 2 ^ K - 1) ≤ (2 ^ K + c % 2 ^ K) * 2 ^ (c / 2 ^ K - 1) := Nat.le_mul_of_pos_left _ (by omega)
    omega

/-- A large code stands for a multiple of the spacing at its size. -/
theorem dvd_codeSize {K c j : Nat} (h : 2 ^ (K + 1 + j) ≤ codeSize K c) : 2 ^ (j + 1) ∣ codeSize K c := by
  have hmod := Nat.mod_lt c (y := 2 ^ K) (by positivity)
  have hge : 2 ^ (K + 1) ≤ 2 ^ (K + 1 + j) := Nat.pow_le_pow_right (by decide) (by omega)
  rw [codeSize] at h ⊢
  split at h
  next h0 =>
    have hsplit := Nat.div_add_mod' c (2 ^ K)
    rw [h0] at hsplit
    rw [pow_succ] at hge
    omega
  next h0 =>
    rw [if_neg h0]
    refine Dvd.dvd.mul_left (Nat.pow_dvd_pow 2 ?_) _
    have hlt : 2 ^ (K + 1 + j) < 2 ^ (K + 1 + (c / 2 ^ K - 1)) := by
      refine h.trans_lt ?_
      rw [pow_add, pow_succ]
      exact Nat.mul_lt_mul_of_pos_right (by omega) (by positivity)
    have := (Nat.pow_lt_pow_iff_right (by decide)).1 hlt
    omega

/-- The code r is the one nearest to the root of n / d. -/
def NearRoot (r n d : Nat) : Prop := r < 0x7F800000 ∧
  4 * n ≤ (codeSize 23 r + codeSize 23 (r + 1)) ^ 2 * d ∧
    (4 * n = (codeSize 23 r + codeSize 23 (r + 1)) ^ 2 * d → r % 2 = 0) ∧
  (0 < r → (codeSize 23 (r - 1) + codeSize 23 r) ^ 2 * d ≤ 4 * n ∧
    ((codeSize 23 (r - 1) + codeSize 23 r) ^ 2 * d = 4 * n → r % 2 = 0))

section
variable {n B Y u N D : Nat} (h : StickyRoot n B Y) (hn : 0 < n) (hD : 0 < D) (hratio : N * n = B * 4 ^ u * D)
include h hn hD hratio

/-- Against an even number of its own units the sticky root compares as the root does. -/
theorem StickyRoot.compare {M : Nat} (hM : 2 ^ (u + 2) ∣ M) :
    (2 * (Y * 2 ^ u) ≤ M ↔ 4 * N ≤ M ^ 2 * D) ∧ (M ≤ 2 * (Y * 2 ^ u) ↔ M ^ 2 * D ≤ 4 * N) := by
  obtain ⟨C, rfl⟩ := hM
  have hpow : 0 < 2 * 2 ^ u := by positivity
  have hside : 0 < D * 4 ^ (u + 1) := by positivity
  have hleft : 2 * (Y * 2 ^ u) = Y * (2 * 2 ^ u) := by ring
  have hM : 2 ^ (u + 2) * C = 2 * C * (2 * 2 ^ u) := by rw [pow_add]; ring
  have hN : 4 * N * n = B * (D * 4 ^ (u + 1)) := by rw [mul_assoc, hratio, pow_succ]; ring
  have hS : (2 * C * (2 * 2 ^ u)) ^ 2 * D * n = (2 * C) ^ 2 * n * (D * 4 ^ (u + 1)) := by
    rw [mul_pow, mul_pow 2 (2 ^ u), ← pow_mul, mul_comm u 2, pow_mul, pow_succ]
    ring
  have heven : 2 * C % 2 = 0 := Nat.mul_mod_right 2 C
  rw [hleft, hM, Nat.mul_le_mul_right_iff hpow, Nat.mul_le_mul_right_iff hpow, h.le_iff hn heven, h.ge_iff hn heven]
  constructor
  · rw [← Nat.mul_le_mul_right_iff hside, ← hN, ← hS, Nat.mul_le_mul_right_iff hn]
  · rw [← Nat.mul_le_mul_right_iff hside, ← hN, ← hS, Nat.mul_le_mul_right_iff hn]

/-- A sticky root with bits enough rounds as the root does. -/
theorem StickyRoot.nearRoot (hY : 2 ^ 30 ≤ Y) {c : Nat} (hc : c < 0x7F800000)
    (hnear : NearCode (codeSize 23) c (Y * 2 ^ u : Nat)) : NearRoot c N D := by
  obtain ⟨⟨hle, htie⟩, hbelow⟩ := hnear
  have hle' : 2 * (Y * 2 ^ u) ≤ codeSize 23 c + codeSize 23 (c + 1) := by exact_mod_cast hle
  have hlarge : 2 ^ 30 * 2 ^ u ≤ Y * 2 ^ u := Nat.mul_le_mul_right _ hY
  have hsucc := codeSize_succ_le_double 23 c
  have hmono := codeSize_strictMono 23 (Nat.lt_add_one c)
  have hup : 0 < 2 ^ u := by positivity
  have hdvd {c : Nat} (hc : 2 ^ 26 * 2 ^ u ≤ codeSize 23 c) : 2 ^ (u + 2) ∣ codeSize 23 c :=
    dvd_codeSize (j := u + 1) (by rw [show 23 + 1 + (u + 1) = 25 + u by ring, pow_add]; omega)
  have hsize : 2 ^ 28 * 2 ^ u ≤ codeSize 23 c := by omega
  have hself := hdvd (c := c) (by omega)
  have hnext := hdvd (c := c + 1) (by omega)
  obtain ⟨habove, habove'⟩ := h.compare hn hD hratio (dvd_add hself hnext)
  refine ⟨hc, habove.1 hle', fun heq => htie ?_, fun hpos => ?_⟩
  · exact_mod_cast le_antisymm hle' (habove'.2 heq.ge)
  · obtain ⟨hge, htie⟩ := hbelow hpos
    have hge' : codeSize 23 (c - 1) + codeSize 23 c ≤ 2 * (Y * 2 ^ u) := by exact_mod_cast hge
    have hpred := codeSize_succ_le_double 23 (c - 1)
    rw [Nat.sub_add_cancel hpos] at hpred
    obtain ⟨hbelow, hbelow'⟩ := h.compare hn hD hratio (dvd_add (hdvd (c := c - 1) (by omega)) hself)
    refine ⟨hbelow'.1 hge', fun heq => htie ?_⟩
    exact_mod_cast le_antisymm hge' (hbelow.2 heq.ge)

/-- A sticky root with bits enough rounded to FP32, small enough not to overflow. -/
theorem StickyRoot.round32_nearRoot (hY : 2 ^ 30 ≤ Y) (hY' : Y ≤ 2 ^ 50) (hu : u ≤ 200) {t : Int} (ht : t + 149 = u) :
    NearRoot (round32 false Y 1 t).toNat N D := by
  obtain ⟨c, hnear, hcode⟩ := round32_fields false Y Nat.one_pos t
  have hv : ((Y : ℚ) / (1 : Nat) * 2 ^ (t + 149) : ℚ) = (Y * 2 ^ u : Nat) := by
    rw [ht, zpow_natCast, Nat.cast_one, div_one]
    push_cast
    rfl
  rw [hv] at hnear
  have hup : Y * 2 ^ u ≤ 2 ^ 250 :=
    calc Y * 2 ^ u ≤ 2 ^ 50 * 2 ^ 200 := Nat.mul_le_mul hY' (Nat.pow_le_pow_right (by decide) hu)
      _ = 2 ^ 250 := by rw [← pow_add]
  have hlt : c < 0x7F800000 := by
    refine not_le.1 fun hge => ?_
    have hle := (hnear.le_iff (codeSize_strictMono 23) (by decide) (by decide)).1 hge
    have hle' : codeSize 23 (0x7F800000 - 1) + codeSize 23 0x7F800000 ≤ 2 * (Y * 2 ^ u) := by exact_mod_cast hle
    have hinf : 2 * 2 ^ 250 < codeSize 23 (0x7F800000 - 1) + codeSize 23 0x7F800000 := by decide
    omega
  rw [hcode, if_neg Bool.false_ne_true, Nat.zero_add, min_eq_left hlt.le]
  exact h.nearRoot hn hD hratio hY hlt hnear
end

theorem sqrtSticky_root (n : Nat) (e : Int) (extra : Nat) :
    StickyRoot 1 (4 * (n * 4 ^ extra)) (sqrtSticky n e extra).1 := by
  have hbig : n <<< (2 * extra) = n * 4 ^ extra := by rw [Nat.shiftLeft_eq, pow_mul]; rfl
  obtain ⟨hlow, hhigh⟩ := iroot_spec (p := 2) (by decide) (n * 4 ^ extra)
  rw [sqrtSticky, StickyRoot, hbig]
  dsimp only
  generalize iroot 2 (n * 4 ^ extra) = y at hlow hhigh ⊢
  split
  next h =>
    rw [if_pos (by omega), ← h]
    ring
  next h =>
    have hlt : y ^ 2 < n * 4 ^ extra := lt_of_le_of_ne hlow (by rwa [sq])
    rw [if_neg (by omega), Nat.add_sub_cancel]
    constructor <;> nlinarith

/-- The model doubles the significand where the exponent is odd. -/
theorem even_exponent {m : Nat} (hm : m < 2 ^ 24) (e : Int) : ∃ b : Nat, b ≤ 1 ∧ (e - b) % 2 = 0 ∧ m * 2 ^ b ≤ 2 ^ 25 ∧
    (if e % 2 = 0 then (m, e) else (2 * m, e - 1)) = (m * 2 ^ b, e - b) := by
  split
  next h => exact ⟨0, by omega, by omega, by omega, by simp⟩
  next h => exact ⟨1, by omega, by omega, by omega, by simp [mul_comm]⟩

section
variable {x : W32} (hpos : 0 < x.toNat % 2 ^ 31) (hfin : x.toNat % 2 ^ 31 < 0x7F800000)
include hpos hfin

/-- A positive operand's significand and exponent, within their ranges. -/
theorem val32_pos : ∃ m i : Nat, val32 x = .fin x.msb m (i - 149) ∧ m * 2 ^ i = codeSize 23 (x.toNat % 2 ^ 31) ∧
    0 < m ∧ m < 2 ^ 24 ∧ i < 277 := by
  obtain ⟨m, i, hval, hX, hm⟩ := val32_fin hfin
  have hm0 := (codeSize_pos_iff hX).1 hpos
  refine ⟨m, i, hval, hX, hm0, hm, (Nat.pow_lt_pow_iff_right (a := 2) (by decide)).1 ?_⟩
  have hinf : codeSize 23 0x7F800000 = 2 ^ 23 * 2 ^ 254 := by decide
  calc 2 ^ i ≤ m * 2 ^ i := Nat.le_mul_of_pos_left _ hm0
    _ < codeSize 23 0x7F800000 := hX ▸ codeSize_strictMono 23 hfin
    _ = 2 ^ 277 := by rw [hinf, ← pow_add]

theorem special_negative (hneg : x.msb = true) : frsq x = 0x7FC00000 ∧ fsqrt x = 0x7FC00000 ∧ flog2 x = 0x7FC00000 := by
  obtain ⟨m, i, hval, -, hm, -⟩ := val32_pos hpos hfin
  rw [hneg] at hval
  simp only [frsq, fsqrt, flog2, hval, if_neg hm.ne', if_true, nan32, and_self]

theorem frsq_near (hmsb : x.msb = false) : NearRoot (frsq x).toNat (2 ^ 447) (codeSize 23 (x.toNat % 2 ^ 31)) := by
  obtain ⟨m, i, hval, hX, hm0, hm, hi⟩ := val32_pos hpos hfin
  obtain ⟨b, hb, heven, hn', hsplit⟩ := even_exponent hm (i - 149)
  have hfrsq : frsq x = round32 false (rsqrtSticky (m * 2 ^ b) (i - 149 - b) 48).1 1
      (-((i - 149 - b) / 2) - (48 : Nat) - 1) := by
    rw [frsq, hval, hmsb]
    simp only [if_neg hm0.ne', Bool.false_eq_true, if_false, hsplit]
    rfl
  have hn : 0 < m * 2 ^ b := by positivity
  have hroot := rsqrtSticky_root hn (i - 149 - b) 48
  obtain ⟨u, hu⟩ : ∃ u : Nat, (u : Int) = 100 - (i - 149 - b) / 2 := ⟨_, Int.toNat_of_nonneg (by omega)⟩
  rw [hfrsq, ← hX]
  refine hroot.round32_nearRoot (u := u) hn (by positivity) ?_ ?_ ?_ (by omega) (by omega)
  · have hexp : 447 + b = 98 + 2 * u + i := by omega
    calc 2 ^ 447 * (m * 2 ^ b) = m * 2 ^ (447 + b) := by rw [pow_add, mul_left_comm]
      _ = 4 * 4 ^ 48 * 4 ^ u * (m * 2 ^ i) := by rw [hexp, pow_add, pow_add, pow_mul]; ring
  · exact (hroot.le_iff hn (by decide)).2 (by omega)
  · exact (hroot.ge_iff hn (by decide)).2 (by omega)

theorem fsqrt_near (hmsb : x.msb = false) :
    NearRoot (fsqrt x).toNat (codeSize 23 (x.toNat % 2 ^ 31) * 2 ^ 149) 1 := by
  obtain ⟨m, i, hval, hX, hm0, hm, hi⟩ := val32_pos hpos hfin
  obtain ⟨b, hb, heven, hn', hsplit⟩ := even_exponent hm (i - 149)
  have hfsqrt : fsqrt x = round32 false (sqrtSticky (m * 2 ^ b) (i - 149 - b) 30).1 1
      ((i - 149 - b) / 2 - (30 : Nat) - 1) := by
    rw [fsqrt, hval, hmsb]
    simp only [if_neg hm0.ne', Bool.false_eq_true, if_false, hsplit]
    rfl
  have hn : 0 < m * 2 ^ b := by positivity
  have hroot := sqrtSticky_root (m * 2 ^ b) (i - 149 - b) 30
  obtain ⟨u, hu⟩ : ∃ u : Nat, (u : Int) = (i - 149 - b) / 2 + 118 := ⟨_, Int.toNat_of_nonneg (by omega)⟩
  rw [hfsqrt, ← hX]
  refine hroot.round32_nearRoot (u := u) Nat.one_pos Nat.one_pos ?_ ?_ ?_ (by omega) (by omega)
  · have hexp : i + 149 = 62 + b + 2 * u := by omega
    calc m * 2 ^ i * 2 ^ 149 * 1 = m * 2 ^ (i + 149) := by rw [pow_add]; ring
      _ = 4 * (m * 2 ^ b * 4 ^ 30) * 4 ^ u * 1 := by rw [hexp, pow_add, pow_add, pow_mul]; ring
  · exact (hroot.le_iff Nat.one_pos (by decide)).2 (by omega)
  · exact (hroot.ge_iff Nat.one_pos (by decide)).2 (by omega)
end

/-! ### The exponential core (R221) -/

/-- The polynomial of the core, each product cut to 30 fraction bits. -/
def expPoly (h : Int) : Int :=
  1073741824 + (744261118 + (257941248 + (59597083 + 10327387 * h / 2 ^ 30) * h / 2 ^ 30) * h / 2 ^ 30) * h / 2 ^ 30

/-- The exact rational m × 2^k that the core makes of X. -/
def ExpCore (X : Int) (m : Nat) (k : Int) : Prop := ∃ T : Nat,
  let f := X % 2 ^ 30
  let j := (f / 2 ^ 25).toNat
  let h := f % 2 ^ 25
  (2 * T - 1) ^ 32 ≤ 2 ^ (j + 992) ∧ 2 ^ (j + 992) ≤ (2 * T + 1) ^ 32 ∧ k = X / 2 ^ 30 - 30 ∧
    (m : Int) = T * expPoly h / 2 ^ 30

theorem sar30_eq (v : Int) : sar30 v = v / 2 ^ 30 := Int.fdiv_eq_ediv_of_nonneg v (by decide)

theorem horner_expP (h : Int) : horner h expP = expPoly h := by
  simp only [horner, expP, sar30_eq, expPoly]

/-- One step of the scheme keeps the order. -/
theorem horner_step_le {c a a' h h' : Int} (hc : 0 ≤ c) (ha : 0 ≤ a) (haa : a ≤ a') (hh : 0 ≤ h) (hhh : h ≤ h') :
    0 ≤ c + a * h / 2 ^ 30 ∧ c + a * h / 2 ^ 30 ≤ c + a' * h' / 2 ^ 30 := by
  have hnonneg : 0 ≤ a * h / 2 ^ 30 := Int.ediv_nonneg (mul_nonneg ha hh) (by decide)
  have hle := Int.ediv_le_ediv (c := 2 ^ 30) (by decide) (mul_le_mul haa hhh hh (ha.trans haa))
  omega

theorem expPoly_mono {h h' : Int} (hh : 0 ≤ h) (hhh : h ≤ h') : 0 ≤ expPoly h ∧ expPoly h ≤ expPoly h' := by
  obtain ⟨h3, h3'⟩ := horner_step_le (c := 59597083) (a := 10327387) (by decide) (by decide) le_rfl hh hhh
  obtain ⟨h2, h2'⟩ := horner_step_le (c := 257941248) (by decide) h3 h3' hh hhh
  obtain ⟨h1, h1'⟩ := horner_step_le (c := 744261118) (by decide) h2 h2' hh hhh
  exact horner_step_le (c := 1073741824) (by decide) h1 h1' hh hhh

/-- The table holds the integers nearest to 2^30 × 2^(j/32). -/
theorem expT_nearest : ∀ j < 32, 0 ≤ expT.getD j 0 ∧ (2 * (expT.getD j 0).toNat - 1) ^ 32 ≤ 2 ^ j * (2 ^ 32) ^ 31 ∧
    2 ^ j * (2 ^ 32) ^ 31 ≤ (2 * (expT.getD j 0).toNat + 1) ^ 32 := by decide

/-- The table's two greatest entries are its last two. -/
theorem expT_le : ∀ j < 32, expT.getD j 0 ≤ 2101467502 ∧ (j < 31 → expT.getD j 0 ≤ 2056437387) := by decide

/-- The model's core, its quotients and remainders those of R221. -/
theorem e2_eq (X : Int) : e2 X =
    ((expT.getD (X % 2 ^ 30 / 2 ^ 25).toNat 0 * expPoly (X % 2 ^ 30 % 2 ^ 25) / 2 ^ 30).toNat, X / 2 ^ 30 - 30) := by
  have hi : Int.fdiv X 1073741824 = X / 2 ^ 30 := Int.fdiv_eq_ediv_of_nonneg X (by decide)
  have hf : X - X / 2 ^ 30 * 1073741824 = X % 2 ^ 30 := by omega
  have hh : X % 2 ^ 30 - X % 2 ^ 30 / 33554432 * 33554432 = X % 2 ^ 30 % 2 ^ 25 := by omega
  simp only [e2, hi, hf, hh, horner_expP, sar30_eq]
  rfl

theorem core_index (X : Int) :
    (X % 2 ^ 30 / 2 ^ 25).toNat < 32 ∧ 0 ≤ X % 2 ^ 30 % 2 ^ 25 ∧ X % 2 ^ 30 % 2 ^ 25 < 2 ^ 25 := by
  omega

theorem e2_core (X : Int) : ExpCore X (e2 X).1 (e2 X).2 := by
  obtain ⟨hj, hh, -⟩ := core_index X
  obtain ⟨hT, hlow, hhigh⟩ := expT_nearest _ hj
  have hpow (j : Nat) : 2 ^ (j + 992) = 2 ^ j * (2 ^ 32) ^ 31 := by rw [← pow_mul, ← pow_add]
  rw [e2_eq]
  refine ⟨(expT.getD (X % 2 ^ 30 / 2 ^ 25).toNat 0).toNat, ?_, ?_, rfl, ?_⟩
  · rw [hpow]
    exact hlow
  · rw [hpow]
    exact hhigh
  · rw [Int.toNat_of_nonneg hT, Int.toNat_of_nonneg]
    exact Int.ediv_nonneg (mul_nonneg hT (expPoly_mono hh le_rfl).1) (by decide)

theorem product_lt {T P T' P' : Int} {e : Nat} (hT : 0 ≤ T) (hTT : T ≤ T') (hP : 0 ≤ P) (hPP : P ≤ P')
    (h : T' * P' < 2 ^ e * 2 ^ 30) : (T * P / 2 ^ 30).toNat < 2 ^ e := by
  have hle := mul_le_mul hTT hPP hP (hT.trans hTT)
  have hlt : T * P / 2 ^ 30 < 2 ^ e := Int.ediv_lt_of_lt_mul (by decide) (hle.trans_lt h)
  have hnonneg : 0 ≤ T * P / 2 ^ 30 := Int.ediv_nonneg (mul_nonneg hT hP) (by decide)
  exact Nat.cast_lt.1 (by rw [Int.toNat_of_nonneg hnonneg]; exact_mod_cast hlt)

/-- Far enough below 0 the core stays below 1 (R221). -/
theorem e2_lt_one {X : Int} (hX : X ≤ -756387) : (e2 X).1 * 2 ^ (e2 X).2.toNat < 2 ^ (-(e2 X).2).toNat := by
  obtain ⟨hj, hh, hh'⟩ := core_index X
  obtain ⟨hT, -, -⟩ := expT_nearest _ hj
  obtain ⟨hmax, hmax'⟩ := expT_le _ hj
  have hfull : expPoly (2 ^ 25) = 1097253708 := by decide
  have hlast : expPoly 32798045 = 1096718071 := by decide
  obtain ⟨hP, hPle⟩ := expPoly_mono hh hh'.le
  rw [hfull] at hPle
  rw [e2_eq]
  dsimp only
  rw [Int.toNat_of_nonpos (by omega : X / 2 ^ 30 - 30 ≤ 0), pow_zero, mul_one]
  rcases (by omega : X / 2 ^ 30 = -1 ∨ X / 2 ^ 30 ≤ -2) with htop | hbelow
  · rw [htop]
    rcases Nat.lt_or_ge (X % 2 ^ 30 / 2 ^ 25).toNat 31 with hj' | hj'
    · exact product_lt hT (hmax' hj') hP hPle (by decide)
    · have hPle' := (expPoly_mono hh (by omega : X % 2 ^ 30 % 2 ^ 25 ≤ 32798045)).2
      rw [hlast] at hPle'
      exact product_lt hT hmax hP hPle' (by decide)
  · exact (product_lt (e := 32) hT hmax hP hPle (by decide)).trans_le (Nat.pow_le_pow_right (by decide) (by omega))

/-! ### FEXP2, FSIGM and FTANH (R221) -/

/-- The nearest integer to a multiple of 2^i in units of 2^j. -/
theorem rneInt_units (v : Int) {e : Int} {i j : Nat} (he : e = i - j) : Nearest (rneInt v e) (v * 2 ^ i) (2 ^ j) := by
  refine (rneInt_nearest v e).scale (by positivity) (by positivity) ?_
  push_cast
  rw [mul_assoc, mul_assoc, ← pow_add, ← pow_add]
  congr 2
  omega

/-- (1 − u) / (1 + u) with a sign, for u = q × 2^k. -/
def tanhQuotient (neg : Bool) (q : Nat) (k : Int) : W32 :=
  round32 neg (pow2 1 (-k) - pow2 q k) (pow2 1 (-k) + pow2 q k) 0

section
variable {x : W32} {neg : Bool} {m : Nat} {e : Int} (hval : val32 x = .fin neg m e)
include hval

theorem fexp2_of_fin : fexp2 x = if !neg && magGe m e 128 0 then 0x7F800000
    else if neg && magGe m e 152 0 && !(pow2 m e == pow2 152 (-e)) then 0
    else to32 (.fin false (e2 (rneInt (signedMag neg m) (e + 30))).1 (e2 (rneInt (signedMag neg m) (e + 30))).2) := by
  rw [fexp2, hval]
  rfl

theorem fsigm_of_fin : fsigm x = if !neg && magGe m e 64 0 then 0x3F800000
    else if neg && magGe m e 106 0 then 0
    else
      let core := e2 (rneInt (-(signedMag neg m) * log2e) e)
      recipOnePlus core.1 core.2 := by
  rw [fsigm, hval]

theorem ftanh_of_fin : ftanh x = if magGe m e 10 0 then (if neg then 0xBF800000 else 0x3F800000)
    else if !magGe m e 1 (-12) then x
    else
      let core := e2 (rneInt (-(2 * (m : Int)) * log2e) e)
      tanhQuotient neg core.1 core.2 := by
  rw [ftanh, hval]
  rfl

theorem ferf_of_large (h : magGe m e 4 0 = true) : ferf x = if neg then 0xBF800000 else 0x3F800000 := by
  rw [ferf, hval]
  exact if_pos h

theorem fsin_of_small (h : magGe m e 1 (-12) = false) : fsin x = x := by
  rw [fsin, hval]
  simp only [h, Bool.not_false, if_true]
end

/-- A quotient rounded to FP32, in units of 2^-149. -/
theorem round32_quotient (neg : Bool) (n : Nat) {d : Nat} (hd : 0 < d) : (round32 neg n d 0).msb = neg ∧
    Near32 ((round32 neg n d 0).toNat % 2 ^ 31) (n * 2 ^ 149) d := by
  refine round32_near neg n hd 0 hd ?_
  rw [zero_add, Nat.cast_mul, Nat.cast_pow, Nat.cast_ofNat, div_mul_eq_mul_div]
  rfl

theorem pow2_one (k : Int) : pow2 1 k = 2 ^ k.toNat := (pow2_eq 1 k).trans (Nat.one_mul _)

theorem recipOnePlus_near (q : Nat) (k : Int) :
    Near32 (recipOnePlus q k).toNat (2 ^ (-k).toNat * 2 ^ 149) (2 ^ (-k).toNat + q * 2 ^ k.toNat) := by
  obtain ⟨hmsb, hnear⟩ := round32_quotient false (2 ^ (-k).toNat) (d := 2 ^ (-k).toNat + q * 2 ^ k.toNat)
    (by positivity)
  rw [recipOnePlus, pow2_one, pow2_eq]
  rwa [Nat.mod_eq_of_lt (BitVec.toNat_lt_of_msb_false hmsb)] at hnear

theorem tanhQuotient_near (neg : Bool) (q : Nat) (k : Int) : (tanhQuotient neg q k).msb = neg ∧
    Near32 ((tanhQuotient neg q k).toNat % 2 ^ 31) ((2 ^ (-k).toNat - q * 2 ^ k.toNat) * 2 ^ 149)
      (2 ^ (-k).toNat + q * 2 ^ k.toNat) := by
  rw [tanhQuotient, pow2_one, pow2_eq]
  exact round32_quotient neg _ (by positivity)

/-- An operand read as a signed number of units of 2^-149. -/
def signedUnits (x : W32) : Int :=
  if x.msb then -(codeSize 23 (x.toNat % 2 ^ 31) : Int) else codeSize 23 (x.toNat % 2 ^ 31)

section
variable {x : W32} (hfin : x.toNat % 2 ^ 31 < 0x7F800000)
include hfin

/-- FEXP2 by the range of its operand (R221). -/
theorem fexp2_cases : let c := x.toNat % 2 ^ 31
    (x.msb = false → 0x43000000 ≤ c → fexp2 x = 0x7F800000) ∧ (x.msb = true → 0x43180000 < c → fexp2 x = 0) ∧
    ((x.msb = false ∧ c < 0x43000000) ∨ (x.msb = true ∧ c ≤ 0x43180000) → ∃ n m k,
      Nearest n (signedUnits x) (2 ^ 119) ∧ ExpCore n m k ∧ fexp2 x = to32 (.fin false m k)) := by
  obtain ⟨m, i, hval, hX, -⟩ := val32_fin hfin
  have h128 := magGe_iff hX (n := 128) (c₀ := 0x43000000) (k := 0) 149 rfl (by decide)
  have h152 := magGe_iff hX (n := 152) (c₀ := 0x43180000) (k := 0) 149 rfl (by decide)
  have heq := magEq_iff hX (n := 152) (c₀ := 0x43180000) (by decide)
  have hexp := fexp2_of_fin hval
  refine ⟨fun hmsb hc => ?_, fun hmsb hc => ?_, fun h => ?_⟩
  · rw [hexp, hmsb, h128.2 hc]
    rfl
  · have hne := Bool.eq_false_iff.2 fun h => hc.ne (heq.1 h)
    rw [hexp, hmsb, h152.2 hc.le, hne]
    rfl
  · have hnear := rneInt_units (signedMag x.msb m) (e := i - 149 + 30) (i := i) (j := 119) (by push_cast; ring)
    rw [signedMag_mul hX] at hnear
    refine ⟨_, _, _, hnear, e2_core _, hexp.trans ?_⟩
    rcases h with ⟨hmsb, hc⟩ | ⟨hmsb, hc⟩
    · have hlt := Bool.eq_false_iff.2 (mt h128.1 (not_le.2 hc))
      rw [hmsb, hlt]
      rfl
    · rw [hmsb]
      rcases hc.lt_or_eq with hc | hc
      · rw [Bool.eq_false_iff.2 (mt h152.1 (not_le.2 hc))]
        rfl
      · rw [heq.2 hc.symm, Bool.not_true, Bool.and_false]
        rfl

/-- FSIGM by the range of its operand (R221). -/
theorem fsigm_cases : let c := x.toNat % 2 ^ 31
    (x.msb = false → 0x42800000 ≤ c → fsigm x = 0x3F800000) ∧ (x.msb = true → 0x42D40000 ≤ c → fsigm x = 0) ∧
    ((x.msb = false ∧ c < 0x42800000) ∨ (x.msb = true ∧ c < 0x42D40000) → ∃ n m k,
      Nearest n (-(signedUnits x) * 1549082005) (2 ^ 149) ∧ ExpCore n m k ∧
        Near32 (fsigm x).toNat (2 ^ (-k).toNat * 2 ^ 149) (2 ^ (-k).toNat + m * 2 ^ k.toNat)) := by
  obtain ⟨m, i, hval, hX, -⟩ := val32_fin hfin
  have h64 := magGe_iff hX (n := 64) (c₀ := 0x42800000) (k := 0) 149 rfl (by decide)
  have h106 := magGe_iff hX (n := 106) (c₀ := 0x42D40000) (k := 0) 149 rfl (by decide)
  have hsigm := fsigm_of_fin hval
  refine ⟨fun hmsb hc => ?_, fun hmsb hc => ?_, fun h => ?_⟩
  · rw [hsigm, hmsb, h64.2 hc]
    rfl
  · rw [hsigm, hmsb, h106.2 hc]
    rfl
  · have hnear := rneInt_units (-(signedMag x.msb m) * log2e) (e := i - 149) (i := i) (j := 149) rfl
    have hunits : -(signedMag x.msb m) * log2e * 2 ^ i = -(signedUnits x) * 1549082005 := by
      rw [signedUnits, ← signedMag_mul hX, log2e]
      ring
    rw [hunits] at hnear
    have hbetween : fsigm x = recipOnePlus (e2 (rneInt (-(signedMag x.msb m) * log2e) (i - 149))).1
        (e2 (rneInt (-(signedMag x.msb m) * log2e) (i - 149))).2 := by
      rw [hsigm]
      rcases h with ⟨hmsb, hc⟩ | ⟨hmsb, hc⟩
      · rw [hmsb, Bool.eq_false_iff.2 (mt h64.1 (not_le.2 hc))]
        rfl
      · rw [hmsb, Bool.eq_false_iff.2 (mt h106.1 (not_le.2 hc))]
        rfl
    refine ⟨_, _, _, hnear, e2_core _, ?_⟩
    rw [hbetween]
    exact recipOnePlus_near _ _

/-- FTANH by the range of its operand (R221). -/
theorem ftanh_cases : let c := x.toNat % 2 ^ 31
    (0x41200000 ≤ c → ftanh x = if x.msb then 0xBF800000 else 0x3F800000) ∧ (c < 0x39800000 → ftanh x = x) ∧
    (0x39800000 ≤ c → c < 0x41200000 → ∃ n m k,
      Nearest n (-(2 * (codeSize 23 c : Int)) * 1549082005) (2 ^ 149) ∧ ExpCore n m k ∧
        m * 2 ^ k.toNat < 2 ^ (-k).toNat ∧ (ftanh x).msb = x.msb ∧ Near32 ((ftanh x).toNat % 2 ^ 31)
          ((2 ^ (-k).toNat - m * 2 ^ k.toNat) * 2 ^ 149) (2 ^ (-k).toNat + m * 2 ^ k.toNat)) := by
  obtain ⟨m, i, hval, hX, -⟩ := val32_fin hfin
  have h10 := magGe_iff hX (n := 10) (c₀ := 0x41200000) (k := 0) 149 rfl (by decide)
  have hsmall := magGe_iff hX (n := 1) (c₀ := 0x39800000) (k := -12) 137 rfl (by decide)
  have htanh := ftanh_of_fin hval
  refine ⟨fun hc => ?_, fun hc => ?_, fun hc hc' => ?_⟩
  · rw [htanh, h10.2 hc]
    rfl
  · rw [htanh, Bool.eq_false_iff.2 (mt h10.1 (not_le.2 (hc.trans (by decide)))),
      Bool.eq_false_iff.2 (mt hsmall.1 (not_le.2 hc))]
    rfl
  · have hnear := rneInt_units (-(2 * (m : Int)) * log2e) (e := i - 149) (i := i) (j := 149) rfl
    have hunits : -(2 * (m : Int)) * log2e * 2 ^ i = -(2 * (codeSize 23 (x.toNat % 2 ^ 31) : Int)) * 1549082005 := by
      rw [← hX, log2e]
      push_cast
      ring
    rw [hunits] at hnear
    rw [Bool.eq_false_iff.2 (mt h10.1 (not_le.2 hc')), hsmall.2 hc] at htanh
    generalize rneInt (-(2 * (m : Int)) * log2e) (i - 149) = n at hnear htanh
    have hlarge : 2 ^ 137 ≤ codeSize 23 (x.toNat % 2 ^ 31) := (codeSize_strictMono 23).monotone hc
    have hn : n ≤ -756387 := by
      obtain ⟨hle, -⟩ := hnear
      omega
    have hquot : ftanh x = tanhQuotient x.msb (e2 n).1 (e2 n).2 := htanh
    obtain ⟨hmsb, hfields⟩ := tanhQuotient_near x.msb (e2 n).1 (e2 n).2
    rw [← hquot] at hmsb hfields
    exact ⟨n, _, _, hnear, e2_core n, e2_lt_one hn, hmsb, hfields⟩

theorem ferf_beyond (hc : 0x40800000 ≤ x.toNat % 2 ^ 31) : ferf x = if x.msb then 0xBF800000 else 0x3F800000 := by
  obtain ⟨m, i, hval, hX, -⟩ := val32_fin hfin
  exact ferf_of_large hval ((magGe_iff hX (c₀ := 0x40800000) 149 rfl (by decide)).2 hc)

theorem fsin_near_zero (hc : x.toNat % 2 ^ 31 < 0x39800000) : fsin x = x := by
  obtain ⟨m, i, hval, hX, -⟩ := val32_fin hfin
  have hsmall := magGe_iff hX (n := 1) (c₀ := 0x39800000) (k := -12) 137 rfl (by decide)
  exact fsin_of_small hval (Bool.eq_false_iff.2 (mt hsmall.1 (not_le.2 hc)))
end

/-- Settles O28: the instructions share one form; the special operands by evaluation; the roots and the reciprocal by
the nearest code, the exponential functions by their core and the range of the operand. -/
theorem specialFunctions : Obligations.SpecialFunctions := by
  unfold Obligations.SpecialFunctions
  refine ⟨fun s g d a h m he => ?_, fun x => special_nan, special_infinities_and_zeros, fun x => ⟨fun hpos hfin => ?_,
    fun hfin => ?_⟩⟩
  · have on := special_on he d a h m
    exact ⟨on _, on _, on _, on _, on _, on _, on _, on _, on _, on _⟩
  · exact ⟨frcp_near hpos hfin, special_negative hpos hfin,
      fun hmsb => ⟨frsq_near hpos hfin hmsb, fsqrt_near hpos hfin hmsb⟩⟩
  · obtain ⟨hexp, hexp', hexp''⟩ := fexp2_cases hfin
    obtain ⟨hsigm, hsigm', hsigm''⟩ := fsigm_cases hfin
    obtain ⟨htanh, htanh', htanh''⟩ := ftanh_cases hfin
    exact ⟨hexp, hexp', hexp'', hsigm, hsigm', hsigm'', htanh, htanh', htanh'', ferf_beyond hfin, fsin_near_zero hfin⟩

end Sys2Proof.Machine
end
